-- ==== Sys2Proof/Word.lean ====
section
/-! DEFINITION. The word types of the machine (04_encoding.md, R57) and their plainest arithmetic. -/

namespace Sys2Proof

abbrev Byte := BitVec 8
/-- A g register, an address, a control register (R57). -/
abbrev Word := BitVec 64
/-- A vector register (R154). -/
abbrev VReg := BitVec 2048
/-- A mask register (R57). -/
abbrev KReg := BitVec 256

/-- bits(x, hi, lo) of R71 on a natural number. -/
def bits (x hi lo : Nat) : Nat := x / 2 ^ lo % 2 ^ (hi + 1 - lo)

end Sys2Proof
end

