-- ==== Sys2Proof/Config.lean ====
section
/-! DEFINITION. The free values: what the manual leaves open and no proof can see. Each is applied to the draw counter of
the state (log 3), so that two steps need not give the same value, and to the operands it may depend on. -/

namespace Sys2Proof.Config

/-- Picoseconds that pass in one step (log 3; R257 fixes the unit of TIME only). -/
opaque stepPs : Nat → Nat
/-- What the counter of a die shows when TIME is 0: the starting instants of the dies' clocks differ (R259). -/
opaque cycleLead : Nat → Nat
/-- Where the search for an unused launch id starts (R30: which allowed value is assigned is not specified). -/
opaque launchId : Nat → Nat
/-- Which line leaves a full L1 (R271 names no victim rule). -/
opaque victim : Nat → Nat → Nat
/-- What an overlapping destination byte of a copy takes: true for the value before the copy (R222). -/
opaque overlapOld : Nat → Nat → Bool
/-- Whether a byte of the faulting piece of a copy has its new value (R224). -/
opaque pieceNew : Nat → Nat → Bool
/-- How many 64-byte flits an aborted copy had moved (R230). -/
opaque abortFlits : Nat → Nat
/-- A byte of a granule that was not resident when the Dredge moved its range (R97: unpredictable). -/
opaque movedByte : Nat → Nat → Byte
/-- The bytes of an SPDM or TDISP response (R376: only the message set and the algorithms are given). -/
opaque responseByte : Nat → Nat → Byte
/-- The bytes of the public and of the secret key of the ML-DSA-65 key pair generated from a seed (R375). -/
opaque mlDsaPublic : List Byte → List Byte
opaque mlDsaSecret : List Byte → List Byte
/-- The number of an algorithm in the extended-algorithm fields of NEGOTIATE_ALGORITHMS: 0 ML-DSA-65, 1 SHAKE256 (R376). -/
opaque extAlgorithm : Nat → BitVec 32
/-- Byte i of the SHAKE256 output over a sequence of bytes, or of a sequence that stands for them (R375). -/
opaque shake256 : List Nat → Nat → Byte
/-- Whether the signature of an image in flash verifies, and its security version (R374: the image format is not given). -/
opaque imageVerifies : List (Nat × Byte) → Bool
opaque imageVersion : List (Nat × Byte) → Nat
/-- Units that fail the self-test of a boot: cores and die-cache slices of a die (R384). -/
opaque failedCores : Nat → Nat → BitVec 64
opaque failedSlices : Nat → Nat → BitVec 16
/-- Repaired lanes of the links of a die, or (from 256 on) of a memory site (R47: built at boot). -/
opaque laneRepair : Nat → BitVec 32
/-- How many of the 96 virtual functions Carr gives to PF0; only its remainder by 97 is used (R349). -/
opaque vfSplit : Nat
/-- An entry of a RESYNC section, as a number: R358 gives its size and what it holds, but not the places of the bits. -/
opaque resyncEntry : Nat → List Int → Nat
/-- Whether the slot allocators of the other packages grant a reduction slot (R315). -/
opaque remoteGrant : Nat → Bool
/-- Whether such a refusal is by the same-cycle rule of its allocator (R315, R316). -/
opaque remoteTie : Nat → Bool
/-- The package of an instance of which a request reaches this allocator in the same cycle, if one does (R315). -/
opaque foreignRequest : Nat → Option Nat
/-- Whether two requests for the last free shared slot reach the allocator in the same cycle (R315). -/
opaque sameCycle : Nat → Bool
/-- Bytes per ns that a safe tier takes: 0 host memory, else the package that holds it, + 1 (R335: that tier's rate). -/
opaque tierRate : Nat → Nat
/-- Firmware version reported by RESYNC (R358: built). -/
opaque firmwareVersion : BitVec 32

end Sys2Proof.Config
end

