-- ==== Sys2Proof/Syntax.lean ====
section
/-! DEFINITION. The abstract syntax of Ebbiune (04_encoding.md) and of the steps of the part's other agents:
one constructor per row of spec/opcode_table.json. Register fields keep their width; a row without a word
(a step of the host, the Wader, a home, an engine) takes the operands that name where it takes place. -/

namespace Sys2Proof

/-- The SPDM requests R376 lists; any other is answered with ERROR, UnsupportedRequest. -/
inductive SpdmReq where
  | getVersion | getCapabilities | negotiateAlgorithms | getDigests | getCertificate
  | challenge | getMeasurements | keyExchange | finish | other
deriving DecidableEq, Repr

/-- The TDISP requests of R377. -/
inductive TdispReq where
  | lock | start | stop | other
deriving DecidableEq, Repr

/-- A UALink transaction (R262): a read, a write, or one of the atomics of R292. -/
inductive PeerOp where
  | read | write
  | add | and | or | xor | min | max | minu | maxu | swap
  | cas (expect : BitVec 64)
deriving DecidableEq, Repr

/-- The kind of a pre-emption posting (R324). -/
inductive PreemptKind where
  | timeShare | eviction
deriving DecidableEq, Repr

/-- One constructor per row of spec/opcode_table.json. -/
inductive Instr where
  /-- ADD (R109). Writes the sum of two g registers, modulo 2^64, to gd. -/
  | add (d a b : BitVec 5)
  /-- SUB (R109). Writes the difference of two g registers to gd. -/
  | sub (d a b : BitVec 5)
  /-- AND (R109). Writes the bitwise AND of two g registers to gd. -/
  | and (d a b : BitVec 5)
  /-- OR (R109). Writes the bitwise OR of two g registers to gd. -/
  | or (d a b : BitVec 5)
  /-- XOR (R109). Writes the bitwise XOR of two g registers to gd. -/
  | xor (d a b : BitVec 5)
  /-- ANDN (R109). Writes x AND NOT y to gd. -/
  | andn (d a b : BitVec 5)
  /-- ORN (R109). Writes x OR NOT y to gd. -/
  | orn (d a b : BitVec 5)
  /-- SLL (R109). Shifts ga left by y[5:0] and writes the result to gd. -/
  | sll (d a b : BitVec 5)
  /-- SRL (R109). Shifts ga right logically by y[5:0]. -/
  | srl (d a b : BitVec 5)
  /-- SRA (R109). Shifts ga right arithmetically by y[5:0]. -/
  | sra (d a b : BitVec 5)
  /-- ROL (R109). Rotates ga left by y[5:0]. -/
  | rol (d a b : BitVec 5)
  /-- ROR (R109). Rotates ga right by y[5:0]. -/
  | ror (d a b : BitVec 5)
  /-- SLT (R109). Writes 1 to gd if ga is less than gb, signed, else 0. -/
  | slt (d a b : BitVec 5)
  /-- SLTU (R109). Writes 1 to gd if ga is less than gb, unsigned, else 0. -/
  | sltu (d a b : BitVec 5)
  /-- MIN (R109). Writes the signed minimum of ga and gb. -/
  | min (d a b : BitVec 5)
  /-- MAX (R109). Writes the signed maximum of ga and gb. -/
  | max (d a b : BitVec 5)
  /-- MINU (R109). Writes the unsigned minimum of ga and gb. -/
  | minu (d a b : BitVec 5)
  /-- MAXU (R109). Writes the unsigned maximum of ga and gb. -/
  | maxu (d a b : BitVec 5)
  /-- ADDW (R109). Writes the 32-bit sum, sign-extended, to gd. -/
  | addw (d a b : BitVec 5)
  /-- SUBW (R109). Writes the 32-bit difference, sign-extended, to gd. -/
  | subw (d a b : BitVec 5)
  /-- CLZ (R109). Writes the leading zero count of ga, 64 for zero. -/
  | clz (d a : BitVec 5)
  /-- CTZ (R109). Writes the trailing zero count of ga, 64 for zero. -/
  | ctz (d a : BitVec 5)
  /-- POPC (R109). Writes the number of 1 bits in ga. -/
  | popc (d a : BitVec 5)
  /-- BREV (R109). Writes ga with its bit order reversed. -/
  | brev (d a : BitVec 5)
  /-- BSWAP (R109). Writes ga with its byte order reversed. -/
  | bswap (d a : BitVec 5)
  /-- SEXT (R109). Sign-extends ga from 8, 16 or 32 bits, as aux selects. -/
  | sext (d a x : BitVec 5)
  /-- ZEXT (R109). Zero-extends ga from 8, 16 or 32 bits, as aux selects. -/
  | zext (d a x : BitVec 5)
  /-- BFXV (R112). Extracts a signed bit field of ga whose position and width come from gb. -/
  | bfxv (d a b : BitVec 5)
  /-- BFXZV (R112). Extracts an unsigned bit field of ga whose position and width come from gb. -/
  | bfxzv (d a b : BitVec 5)
  /-- BFIV (R112). Inserts ga into a field of gd whose position and width come from gb. -/
  | bfiv (d a b : BitVec 5)
  /-- SELNZ (R109). Writes ga to gd when gb is nonzero, and otherwise leaves gd unchanged. -/
  | selnz (d a b : BitVec 5)
  /-- SELZ (R109). Writes ga to gd when gb is zero, and otherwise leaves gd unchanged. -/
  | selz (d a b : BitVec 5)
  /-- MUL (R110). Writes the low 64 bits of the product. -/
  | mul (d a b : BitVec 5)
  /-- MULH (R110). Writes the high 64 bits of the signed product. -/
  | mulh (d a b : BitVec 5)
  /-- MULHU (R110). Writes the high 64 bits of the unsigned product. -/
  | mulhu (d a b : BitVec 5)
  /-- MULHSU (R110). Writes the high 64 bits of the signed-by-unsigned product. -/
  | mulhsu (d a b : BitVec 5)
  /-- MULW (R110). Writes the 32-bit product, sign-extended. -/
  | mulw (d a b : BitVec 5)
  /-- DIV (R110). Writes the signed quotient, truncated, with the special cases of R110. -/
  | div (d a b : BitVec 5)
  /-- DIVU (R110). Writes the unsigned quotient. -/
  | divu (d a b : BitVec 5)
  /-- REM (R110). Writes the signed remainder. -/
  | rem (d a b : BitVec 5)
  /-- REMU (R110). Writes the unsigned remainder. -/
  | remu (d a b : BitVec 5)
  /-- DIVW (R110). Writes the 32-bit signed quotient, sign-extended. -/
  | divw (d a b : BitVec 5)
  /-- BFX (R111). Extracts a signed immediate bit field of ga. -/
  | bfx (d a : BitVec 5) (pos wm1 : BitVec 6)
  /-- BFXZ (R111). Extracts an unsigned immediate bit field of ga. -/
  | bfxz (d a : BitVec 5) (pos wm1 : BitVec 6)
  /-- BFI (R111). Inserts ga into an immediate bit field of gd. -/
  | bfi (d a : BitVec 5) (pos wm1 : BitVec 6)
  /-- ADDI (R113). Adds a sign-extended immediate to ga. -/
  | addi (d a : BitVec 5) (imm : BitVec 16)
  /-- ANDI (R113). ANDs ga with a sign-extended immediate. -/
  | andi (d a : BitVec 5) (imm : BitVec 16)
  /-- ORI (R113). ORs ga with a sign-extended immediate. -/
  | ori (d a : BitVec 5) (imm : BitVec 16)
  /-- XORI (R113). XORs ga with a sign-extended immediate. -/
  | xori (d a : BitVec 5) (imm : BitVec 16)
  /-- SLTI (R113). Sets gd to the signed compare of ga with an immediate. -/
  | slti (d a : BitVec 5) (imm : BitVec 16)
  /-- SLTIU (R113). Sets gd to the unsigned compare of ga with an immediate. -/
  | sltiu (d a : BitVec 5) (imm : BitVec 16)
  /-- SLLI (R114). Shifts ga left by an immediate amount. -/
  | slli (d a : BitVec 5) (amt : BitVec 6)
  /-- SRLI (R114). Shifts ga right logically by an immediate amount. -/
  | srli (d a : BitVec 5) (amt : BitVec 6)
  /-- SRAI (R114). Shifts ga right arithmetically by an immediate amount. -/
  | srai (d a : BitVec 5) (amt : BitVec 6)
  /-- RORI (R114). Rotates ga right by an immediate amount. -/
  | rori (d a : BitVec 5) (amt : BitVec 6)
  /-- MOVZ (R115). Sets gd to a 16-bit value shifted by 16 times hw. -/
  | movz (d : BitVec 5) (hw : BitVec 2) (v : BitVec 16)
  /-- MOVK (R115). Replaces one halfword of gd with a 16-bit value. -/
  | movk (d : BitVec 5) (hw : BitVec 2) (v : BitVec 16)
  /-- LAPC (R116). Sets gd to PC plus a word offset. -/
  | lapc (d : BitVec 5) (imm : BitVec 21)
  /-- BFS (R120). Branches when the selected engine, FSTAT, graph or join flag is 1. -/
  | bfs (sel : BitVec 10) (off : BitVec 16)
  /-- BFC (R120). Branches when the selected flag is 0. -/
  | bfc (sel : BitVec 10) (off : BitVec 16)
  /-- BEQ (R117). Branches when ga equals gb. -/
  | beq (a b : BitVec 5) (off : BitVec 16)
  /-- BNE (R117). Branches when ga differs from gb. -/
  | bne (a b : BitVec 5) (off : BitVec 16)
  /-- BLT (R117). Branches when ga is less than gb, signed. -/
  | blt (a b : BitVec 5) (off : BitVec 16)
  /-- BGE (R117). Branches when ga is at least gb, signed. -/
  | bge (a b : BitVec 5) (off : BitVec 16)
  /-- BLTU (R117). Branches when ga is less than gb, unsigned. -/
  | bltu (a b : BitVec 5) (off : BitVec 16)
  /-- BGEU (R117). Branches when ga is at least gb, unsigned. -/
  | bgeu (a b : BitVec 5) (off : BitVec 16)
  /-- J (R118). Jumps to PC plus a 26-bit word offset. -/
  | j (off : BitVec 26)
  /-- JAL (R118). Jumps and writes PC + 4 to g30. -/
  | jal (off : BitVec 26)
  /-- JR (R119). Jumps to the address in ga, trapping 0x08 on a misaligned target. -/
  | jr (a : BitVec 5)
  /-- JALR (R119). Jumps to ga and writes the link to gd. -/
  | jalr (d a : BitVec 5)
  /-- LB (R122). Loads a byte, sign-extended. -/
  | lb (t base : BitVec 5) (off : BitVec 16)
  /-- LBZ (R122). Loads a byte, zero-extended. -/
  | lbz (t base : BitVec 5) (off : BitVec 16)
  /-- LH (R122). Loads a halfword, sign-extended. -/
  | lh (t base : BitVec 5) (off : BitVec 16)
  /-- LHZ (R122). Loads a halfword, zero-extended. -/
  | lhz (t base : BitVec 5) (off : BitVec 16)
  /-- LW (R122). Loads a word, sign-extended. -/
  | lw (t base : BitVec 5) (off : BitVec 16)
  /-- LWZ (R122). Loads a word, zero-extended. -/
  | lwz (t base : BitVec 5) (off : BitVec 16)
  /-- LD (R122). Loads a doubleword. -/
  | ld (t base : BitVec 5) (off : BitVec 16)
  /-- SB (R124). Stores a byte, as a read-modify-write of its word in cacheable ranges. -/
  | sb (t base : BitVec 5) (off : BitVec 16)
  /-- SH (R124). Stores a halfword, as a read-modify-write of its word in cacheable ranges. -/
  | sh (t base : BitVec 5) (off : BitVec 16)
  /-- SW (R122). Stores a word. -/
  | sw (t base : BitVec 5) (off : BitVec 16)
  /-- SD (R122). Stores a doubleword. -/
  | sd (t base : BitVec 5) (off : BitVec 16)
  /-- AMOADD (R293). Adds gb to the word at the home and returns the old value. -/
  | amoadd (d a b : BitVec 5) (scope order : BitVec 2) (width : Bool)
  /-- AMOAND (R293). ANDs gb into the word at the home and returns the old value. -/
  | amoand (d a b : BitVec 5) (scope order : BitVec 2) (width : Bool)
  /-- AMOOR (R293). ORs gb into the word at the home and returns the old value. -/
  | amoor (d a b : BitVec 5) (scope order : BitVec 2) (width : Bool)
  /-- AMOXOR (R293). XORs gb into the word at the home and returns the old value. -/
  | amoxor (d a b : BitVec 5) (scope order : BitVec 2) (width : Bool)
  /-- AMOMIN (R293). Stores the signed minimum of the word and gb. -/
  | amomin (d a b : BitVec 5) (scope order : BitVec 2) (width : Bool)
  /-- AMOMAX (R293). Stores the signed maximum of the word and gb. -/
  | amomax (d a b : BitVec 5) (scope order : BitVec 2) (width : Bool)
  /-- AMOMINU (R293). Stores the unsigned minimum of the word and gb. -/
  | amominu (d a b : BitVec 5) (scope order : BitVec 2) (width : Bool)
  /-- AMOMAXU (R293). Stores the unsigned maximum of the word and gb. -/
  | amomaxu (d a b : BitVec 5) (scope order : BitVec 2) (width : Bool)
  /-- AMOSWAP (R293). Swaps gb into the word and returns the old value. -/
  | amoswap (d a b : BitVec 5) (scope order : BitVec 2) (width : Bool)
  /-- AMOCAS (R293). Stores gb when the word equals gd, and returns the old value. -/
  | amocas (d a b : BitVec 5) (scope order : BitVec 2) (width : Bool)
  /-- AMOLD (R293). Reads the word atomically at its home. -/
  | amold (d a : BitVec 5) (scope order : BitVec 2) (width : Bool)
  /-- AMOST (R293). Writes gb atomically at the home, returning nothing. -/
  | amost (a b : BitVec 5) (scope order : BitVec 2) (width : Bool)
  /-- AMOWAIT (R294). Compares the word with gb at its home and queues the wisp while they are equal. -/
  | amowait (d a b : BitVec 5) (scope order : BitVec 2) (width : Bool)
  /-- ACQ (R283). Acquires a region at the scope, invalidating its lines in the scope's tiers. -/
  | acq (a : BitVec 5) (scope : BitVec 2)
  /-- REL (R283). Releases a region at the scope, registering its dirty words in the scope's tier. -/
  | rel (a : BitVec 5) (scope : BitVec 2)
  /-- FENCE (R284). Waits for earlier loads, uncached and remote writes and RTINV acknowledgements. -/
  | fence (scope : BitVec 2)
  /-- OWN (R285). Registers a strided set of words as owned by the core, or returns a status. -/
  | own (d a b : BitVec 5)
  /-- DISOWN (R286). Gives up an owned range slot and waits for its acknowledgements. -/
  | disown (d a : BitVec 5)
  /-- IFENCE (R287). Releases a region and invalidates it in the cluster instruction cache. -/
  | ifence (a : BitVec 5) (scope : BitVec 2)
  /-- ARRIVE (R290). Releases and arrives at a barrier, completing its phase at the last arrival. -/
  | arrive (d a : BitVec 5) (scope : BitVec 2)
  /-- WAITB (R291). Waits for a barrier phase to complete, suspending an unpinned wisp, then acquires. -/
  | waitb (d a b : BitVec 5) (scope : BitVec 2)
  /-- VOTE (R290). Arrives at a barrier with a predicate folded into its AND and OR. -/
  | vote (d a b : BitVec 5) (scope : BitVec 2)
  /-- JINIT (R297). Builds a quorum join from an image and returns its id or a status. -/
  | jinit (d a : BitVec 5)
  /-- JARRIVE (R305). Records the wisp's contribution and arrival at its join. -/
  | jarrive (d a : BitVec 5)
  /-- JWAIT (R306). Waits for a join to settle and returns its state word. -/
  | jwait (d a : BitVec 5)
  /-- JKPT (R306). Kill point with no other effect. -/
  | jkpt
  /-- JSTAT (R304). Reads a join's masks or state word, and with selector 15 frees the record. -/
  | jstat (d a b : BitVec 5)
  /-- JLEAVE (R305). Records the wisp as leaving its join without a contribution. -/
  | jleave (d : BitVec 5)
  /-- SUSPEND (R129). Parks the wisp until a wake time, an IPOST or a Carr resume. -/
  | suspend (a : BitVec 5)
  /-- RETIRE (R130). Waits for the engines, releases at die scope and ends the wisp as retired. -/
  | retire
  /-- LAUNCH (R131). Hands a launch record to the Wader and returns the id, a rejection or a refusal. -/
  | launch (d a : BitVec 5)
  /-- QRY (R132). Returns an enumeration value for a selector. -/
  | qry (d a : BitVec 5)
  /-- LOCQ (R132). Returns the band, hop count and bound to a partition die. -/
  | locq (d a : BitVec 5)
  /-- RDTIME (R133). Requests TIME from the lead I/O die and waits for the corrected reply. -/
  | rdtime (d : BitVec 5)
  /-- RDCYC (R133). Reads the die's CYCLE counter at issue. -/
  | rdcyc (d : BitVec 5)
  /-- TRAP (R134). Traps 0x0C with TVAL from ga. -/
  | trap (a : BitVec 5)
  /-- BREAK (R134). Traps 0x0B or halts issue for the debugger, as BRKHALT selects. -/
  | brk
  /-- NOP (R134). Has no effect. -/
  | nop
  /-- ENGWAIT (R135). Waits for the selected engines to go idle, acquires and reports a pending fault. -/
  | engwait (a : BitVec 5)
  /-- ENGSTAT (R136). Captures ESTAT and GSTAT into gd in one instant. -/
  | engstat (d : BitVec 5)
  /-- GANG (R188). Waits for every member of the gang and enters gang mode. -/
  | gang (d : BitVec 5)
  /-- DISBAND (R188). Waits for every member and leaves gang mode. -/
  | disband
  /-- CRD (R125). Reads a control register into gd. -/
  | crd (d : BitVec 5) (creg : BitVec 12)
  /-- CWR (R125). Writes the RW fields of a control register and returns the old value. -/
  | cwr (d a : BitVec 5) (creg : BitVec 12)
  /-- CSET (R125). Sets bits in a control register's RW fields. -/
  | cset (d a : BitVec 5) (creg : BitVec 12)
  /-- CCLR (R125). Clears bits in a control register's RW fields. -/
  | cclr (d a : BitVec 5) (creg : BitVec 12)
  /-- SETVL (R159). Sets VTYPE and VL = min(ga, VLMAX), with an optional yield check. -/
  | setvl (d a : BitVec 5) (vtype : BitVec 8) (y : Bool)
  /-- SETVL_MAX (R159). Sets VTYPE and VL = VLMAX, with an optional yield check. -/
  | setvlMax (d : BitVec 5) (vtype : BitVec 8) (y : Bool)
  /-- SETVL_TYPE (R159). Sets VTYPE and clamps VL, with an optional yield check. -/
  | setvlType (d : BitVec 5) (vtype : BitVec 8) (y : Bool)
  /-- SETD (R161). Sets the count and stride of one dimension. -/
  | setd (a b : BitVec 5) (dim : BitVec 2)
  /-- VADD_VV (R163). Adds vector elements. -/
  | vaddVv (d a b : BitVec 5) (msk : BitVec 4) (ca cb : Bool)
  /-- VADD_VS (R163). Adds a scalar to vector elements. -/
  | vaddVs (d a b : BitVec 5) (msk : BitVec 4) (ca : Bool)
  /-- VSUB_VV (R163). Subtracts vector elements. -/
  | vsubVv (d a b : BitVec 5) (msk : BitVec 4) (ca cb : Bool)
  /-- VSUB_VS (R163). Subtracts a scalar from vector elements. -/
  | vsubVs (d a b : BitVec 5) (msk : BitVec 4) (ca : Bool)
  /-- VRSUB_VV (R163). Reverse-subtracts vector elements. -/
  | vrsubVv (d a b : BitVec 5) (msk : BitVec 4) (ca cb : Bool)
  /-- VRSUB_VS (R163). Subtracts vector elements from a scalar. -/
  | vrsubVs (d a b : BitVec 5) (msk : BitVec 4) (ca : Bool)
  /-- VMUL_VV (R163). Multiplies vector elements, low bits. -/
  | vmulVv (d a b : BitVec 5) (msk : BitVec 4) (ca cb : Bool)
  /-- VMUL_VS (R163). Multiplies vector elements by a scalar, low bits. -/
  | vmulVs (d a b : BitVec 5) (msk : BitVec 4) (ca : Bool)
  /-- VMULH_VV (R163). Signed high product of vector elements. -/
  | vmulhVv (d a b : BitVec 5) (msk : BitVec 4) (ca cb : Bool)
  /-- VMULH_VS (R163). Signed high product with a scalar. -/
  | vmulhVs (d a b : BitVec 5) (msk : BitVec 4) (ca : Bool)
  /-- VMULHU_VV (R163). Unsigned high product of vector elements. -/
  | vmulhuVv (d a b : BitVec 5) (msk : BitVec 4) (ca cb : Bool)
  /-- VMULHU_VS (R163). Unsigned high product with a scalar. -/
  | vmulhuVs (d a b : BitVec 5) (msk : BitVec 4) (ca : Bool)
  /-- VMIN_VV (R163). Signed minimum of vector elements. -/
  | vminVv (d a b : BitVec 5) (msk : BitVec 4) (ca cb : Bool)
  /-- VMIN_VS (R163). Signed minimum with a scalar. -/
  | vminVs (d a b : BitVec 5) (msk : BitVec 4) (ca : Bool)
  /-- VMAX_VV (R163). Signed maximum of vector elements. -/
  | vmaxVv (d a b : BitVec 5) (msk : BitVec 4) (ca cb : Bool)
  /-- VMAX_VS (R163). Signed maximum with a scalar. -/
  | vmaxVs (d a b : BitVec 5) (msk : BitVec 4) (ca : Bool)
  /-- VMINU_VV (R163). Unsigned minimum of vector elements. -/
  | vminuVv (d a b : BitVec 5) (msk : BitVec 4) (ca cb : Bool)
  /-- VMINU_VS (R163). Unsigned minimum with a scalar. -/
  | vminuVs (d a b : BitVec 5) (msk : BitVec 4) (ca : Bool)
  /-- VMAXU_VV (R163). Unsigned maximum of vector elements. -/
  | vmaxuVv (d a b : BitVec 5) (msk : BitVec 4) (ca cb : Bool)
  /-- VMAXU_VS (R163). Unsigned maximum with a scalar. -/
  | vmaxuVs (d a b : BitVec 5) (msk : BitVec 4) (ca : Bool)
  /-- VAND_VV (R163). Bitwise AND of vector elements. -/
  | vandVv (d a b : BitVec 5) (msk : BitVec 4) (ca cb : Bool)
  /-- VAND_VS (R163). Bitwise AND with a scalar. -/
  | vandVs (d a b : BitVec 5) (msk : BitVec 4) (ca : Bool)
  /-- VOR_VV (R163). Bitwise OR of vector elements. -/
  | vorVv (d a b : BitVec 5) (msk : BitVec 4) (ca cb : Bool)
  /-- VOR_VS (R163). Bitwise OR with a scalar. -/
  | vorVs (d a b : BitVec 5) (msk : BitVec 4) (ca : Bool)
  /-- VXOR_VV (R163). Bitwise XOR of vector elements. -/
  | vxorVv (d a b : BitVec 5) (msk : BitVec 4) (ca cb : Bool)
  /-- VXOR_VS (R163). Bitwise XOR with a scalar. -/
  | vxorVs (d a b : BitVec 5) (msk : BitVec 4) (ca : Bool)
  /-- VSLL_VV (R163). Shifts vector elements left. -/
  | vsllVv (d a b : BitVec 5) (msk : BitVec 4) (ca cb : Bool)
  /-- VSLL_VS (R163). Shifts vector elements left by a scalar. -/
  | vsllVs (d a b : BitVec 5) (msk : BitVec 4) (ca : Bool)
  /-- VSRL_VV (R163). Shifts vector elements right logically. -/
  | vsrlVv (d a b : BitVec 5) (msk : BitVec 4) (ca cb : Bool)
  /-- VSRL_VS (R163). Shifts vector elements right logically by a scalar. -/
  | vsrlVs (d a b : BitVec 5) (msk : BitVec 4) (ca : Bool)
  /-- VSRA_VV (R163). Shifts vector elements right arithmetically. -/
  | vsraVv (d a b : BitVec 5) (msk : BitVec 4) (ca cb : Bool)
  /-- VSRA_VS (R163). Shifts vector elements right arithmetically by a scalar. -/
  | vsraVs (d a b : BitVec 5) (msk : BitVec 4) (ca : Bool)
  /-- VADDSAT_VV (R163). Signed saturating add of vector elements. -/
  | vaddsatVv (d a b : BitVec 5) (msk : BitVec 4) (ca cb : Bool)
  /-- VADDSAT_VS (R163). Signed saturating add of a scalar. -/
  | vaddsatVs (d a b : BitVec 5) (msk : BitVec 4) (ca : Bool)
  /-- VSUBSAT_VV (R163). Signed saturating subtract of vector elements. -/
  | vsubsatVv (d a b : BitVec 5) (msk : BitVec 4) (ca cb : Bool)
  /-- VSUBSAT_VS (R163). Signed saturating subtract of a scalar. -/
  | vsubsatVs (d a b : BitVec 5) (msk : BitVec 4) (ca : Bool)
  /-- VADDSATU_VV (R163). Unsigned saturating add of vector elements. -/
  | vaddsatuVv (d a b : BitVec 5) (msk : BitVec 4) (ca cb : Bool)
  /-- VADDSATU_VS (R163). Unsigned saturating add of a scalar. -/
  | vaddsatuVs (d a b : BitVec 5) (msk : BitVec 4) (ca : Bool)
  /-- VSUBSATU_VV (R163). Unsigned saturating subtract of vector elements. -/
  | vsubsatuVv (d a b : BitVec 5) (msk : BitVec 4) (ca cb : Bool)
  /-- VSUBSATU_VS (R163). Unsigned saturating subtract of a scalar. -/
  | vsubsatuVs (d a b : BitVec 5) (msk : BitVec 4) (ca : Bool)
  /-- VABSD_VV (R163). Absolute difference of vector elements. -/
  | vabsdVv (d a b : BitVec 5) (msk : BitVec 4) (ca cb : Bool)
  /-- VABSD_VS (R163). Absolute difference with a scalar. -/
  | vabsdVs (d a b : BitVec 5) (msk : BitVec 4) (ca : Bool)
  /-- VMACC_VV (R163). Multiply-accumulates vector elements into vd. -/
  | vmaccVv (d a b : BitVec 5) (msk : BitVec 4) (ca cb : Bool)
  /-- VMACC_VS (R163). Multiply-accumulates with a scalar into vd. -/
  | vmaccVs (d a b : BitVec 5) (msk : BitVec 4) (ca : Bool)
  /-- VDIV_VV (R163). Signed division of vector elements. -/
  | vdivVv (d a b : BitVec 5) (msk : BitVec 4) (ca cb : Bool)
  /-- VDIV_VS (R163). Signed division by a scalar. -/
  | vdivVs (d a b : BitVec 5) (msk : BitVec 4) (ca : Bool)
  /-- VREM_VV (R163). Signed remainder of vector elements. -/
  | vremVv (d a b : BitVec 5) (msk : BitVec 4) (ca cb : Bool)
  /-- VREM_VS (R163). Signed remainder by a scalar. -/
  | vremVs (d a b : BitVec 5) (msk : BitVec 4) (ca : Bool)
  /-- VFADD_VV (R165). Floating-point add, rounded once. -/
  | vfaddVv (d a b : BitVec 5) (msk : BitVec 4) (ca cb : Bool)
  /-- VFADD_VS (R165). Floating-point add of a scalar. -/
  | vfaddVs (d a b : BitVec 5) (msk : BitVec 4) (ca : Bool)
  /-- VFSUB_VV (R165). Floating-point subtract. -/
  | vfsubVv (d a b : BitVec 5) (msk : BitVec 4) (ca cb : Bool)
  /-- VFSUB_VS (R165). Floating-point subtract of a scalar. -/
  | vfsubVs (d a b : BitVec 5) (msk : BitVec 4) (ca : Bool)
  /-- VFMUL_VV (R165). Floating-point multiply. -/
  | vfmulVv (d a b : BitVec 5) (msk : BitVec 4) (ca cb : Bool)
  /-- VFMUL_VS (R165). Floating-point multiply by a scalar. -/
  | vfmulVs (d a b : BitVec 5) (msk : BitVec 4) (ca : Bool)
  /-- VFDIV_VV (R165). Floating-point divide. -/
  | vfdivVv (d a b : BitVec 5) (msk : BitVec 4) (ca cb : Bool)
  /-- VFDIV_VS (R165). Floating-point divide by a scalar. -/
  | vfdivVs (d a b : BitVec 5) (msk : BitVec 4) (ca : Bool)
  /-- VFMA_VV (R165). Fused multiply-add into vd. -/
  | vfmaVv (d a b : BitVec 5) (msk : BitVec 4) (ca cb : Bool)
  /-- VFMA_VS (R165). Fused multiply-add with a scalar into vd. -/
  | vfmaVs (d a b : BitVec 5) (msk : BitVec 4) (ca : Bool)
  /-- VFMS_VV (R165). Fused multiply-subtract into vd. -/
  | vfmsVv (d a b : BitVec 5) (msk : BitVec 4) (ca cb : Bool)
  /-- VFMS_VS (R165). Fused multiply-subtract with a scalar. -/
  | vfmsVs (d a b : BitVec 5) (msk : BitVec 4) (ca : Bool)
  /-- VFNMA_VV (R165). Negated fused multiply-add into vd. -/
  | vfnmaVv (d a b : BitVec 5) (msk : BitVec 4) (ca cb : Bool)
  /-- VFNMA_VS (R165). Negated fused multiply-add with a scalar. -/
  | vfnmaVs (d a b : BitVec 5) (msk : BitVec 4) (ca : Bool)
  /-- VFMIN_VV (R165). IEEE minimumNumber of vector elements. -/
  | vfminVv (d a b : BitVec 5) (msk : BitVec 4) (ca cb : Bool)
  /-- VFMIN_VS (R165). IEEE minimumNumber with a scalar. -/
  | vfminVs (d a b : BitVec 5) (msk : BitVec 4) (ca : Bool)
  /-- VFMAX_VV (R165). IEEE maximumNumber of vector elements. -/
  | vfmaxVv (d a b : BitVec 5) (msk : BitVec 4) (ca cb : Bool)
  /-- VFMAX_VS (R165). IEEE maximumNumber with a scalar. -/
  | vfmaxVs (d a b : BitVec 5) (msk : BitVec 4) (ca : Bool)
  /-- VFSQRT_VV (R166). Correctly rounded square root. -/
  | vfsqrtVv (d a : BitVec 5) (msk : BitVec 4) (ca : Bool)
  /-- VFSQRT_VS (R166). Square root on the vector-scalar major, same effect. -/
  | vfsqrtVs (d a : BitVec 5) (msk : BitVec 4) (ca : Bool)
  /-- VFRCP_VV (R166). Correctly rounded reciprocal. -/
  | vfrcpVv (d a : BitVec 5) (msk : BitVec 4) (ca : Bool)
  /-- VFRCP_VS (R166). Reciprocal on the vector-scalar major. -/
  | vfrcpVs (d a : BitVec 5) (msk : BitVec 4) (ca : Bool)
  /-- VFRSQ_VV (R166). Correctly rounded reciprocal square root. -/
  | vfrsqVv (d a : BitVec 5) (msk : BitVec 4) (ca : Bool)
  /-- VFRSQ_VS (R166). Reciprocal square root on the vector-scalar major. -/
  | vfrsqVs (d a : BitVec 5) (msk : BitVec 4) (ca : Bool)
  /-- VFEXP2_VV (R166). Correctly rounded 2^a. -/
  | vfexp2Vv (d a : BitVec 5) (msk : BitVec 4) (ca : Bool)
  /-- VFEXP2_VS (R166). 2^a on the vector-scalar major. -/
  | vfexp2Vs (d a : BitVec 5) (msk : BitVec 4) (ca : Bool)
  /-- VFLOG2_VV (R166). Correctly rounded log2 a. -/
  | vflog2Vv (d a : BitVec 5) (msk : BitVec 4) (ca : Bool)
  /-- VFLOG2_VS (R166). log2 a on the vector-scalar major. -/
  | vflog2Vs (d a : BitVec 5) (msk : BitVec 4) (ca : Bool)
  /-- VFTANH_VV (R166). Correctly rounded tanh a. -/
  | vftanhVv (d a : BitVec 5) (msk : BitVec 4) (ca : Bool)
  /-- VFTANH_VS (R166). tanh a on the vector-scalar major. -/
  | vftanhVs (d a : BitVec 5) (msk : BitVec 4) (ca : Bool)
  /-- VFABS_VV (R165). Clears the sign bit. -/
  | vfabsVv (d a : BitVec 5) (msk : BitVec 4) (ca : Bool)
  /-- VFABS_VS (R165). Clears the sign bit, on the vector-scalar major. -/
  | vfabsVs (d a : BitVec 5) (msk : BitVec 4) (ca : Bool)
  /-- VFNEG_VV (R165). Inverts the sign bit. -/
  | vfnegVv (d a : BitVec 5) (msk : BitVec 4) (ca : Bool)
  /-- VFNEG_VS (R165). Inverts the sign bit, on the vector-scalar major. -/
  | vfnegVs (d a : BitVec 5) (msk : BitVec 4) (ca : Bool)
  /-- VFSGNJ_VV (R165). Copies the sign of b onto a. -/
  | vfsgnjVv (d a b : BitVec 5) (msk : BitVec 4) (ca cb : Bool)
  /-- VFSGNJ_VS (R165). Copies a scalar's sign onto a. -/
  | vfsgnjVs (d a b : BitVec 5) (msk : BitVec 4) (ca : Bool)
  /-- VFCLASS_VV (R165). Writes the one-hot class of each element. -/
  | vfclassVv (d a : BitVec 5) (msk : BitVec 4) (ca : Bool)
  /-- VFCLASS_VS (R165). Classifies elements, on the vector-scalar major. -/
  | vfclassVs (d a : BitVec 5) (msk : BitVec 4) (ca : Bool)
  /-- VCMPEQ_VV (R167). Sets mask bits where elements are equal. -/
  | vcmpeqVv (d : BitVec 4) (a b : BitVec 5) (msk : BitVec 4) (ca cb : Bool)
  /-- VCMPEQ_VS (R167). Sets mask bits where elements equal a scalar. -/
  | vcmpeqVs (d : BitVec 4) (a b : BitVec 5) (msk : BitVec 4) (ca : Bool)
  /-- VCMPNE_VV (R167). Sets mask bits where elements differ. -/
  | vcmpneVv (d : BitVec 4) (a b : BitVec 5) (msk : BitVec 4) (ca cb : Bool)
  /-- VCMPNE_VS (R167). Sets mask bits where elements differ from a scalar. -/
  | vcmpneVs (d : BitVec 4) (a b : BitVec 5) (msk : BitVec 4) (ca : Bool)
  /-- VCMPLT_VV (R167). Signed less-than compare. -/
  | vcmpltVv (d : BitVec 4) (a b : BitVec 5) (msk : BitVec 4) (ca cb : Bool)
  /-- VCMPLT_VS (R167). Signed less-than compare with a scalar. -/
  | vcmpltVs (d : BitVec 4) (a b : BitVec 5) (msk : BitVec 4) (ca : Bool)
  /-- VCMPGE_VV (R167). Signed greater-or-equal compare. -/
  | vcmpgeVv (d : BitVec 4) (a b : BitVec 5) (msk : BitVec 4) (ca cb : Bool)
  /-- VCMPGE_VS (R167). Signed greater-or-equal compare with a scalar. -/
  | vcmpgeVs (d : BitVec 4) (a b : BitVec 5) (msk : BitVec 4) (ca : Bool)
  /-- VCMPLTU_VV (R167). Unsigned less-than compare. -/
  | vcmpltuVv (d : BitVec 4) (a b : BitVec 5) (msk : BitVec 4) (ca cb : Bool)
  /-- VCMPLTU_VS (R167). Unsigned less-than compare with a scalar. -/
  | vcmpltuVs (d : BitVec 4) (a b : BitVec 5) (msk : BitVec 4) (ca : Bool)
  /-- VCMPGEU_VV (R167). Unsigned greater-or-equal compare. -/
  | vcmpgeuVv (d : BitVec 4) (a b : BitVec 5) (msk : BitVec 4) (ca cb : Bool)
  /-- VCMPGEU_VS (R167). Unsigned greater-or-equal compare with a scalar. -/
  | vcmpgeuVs (d : BitVec 4) (a b : BitVec 5) (msk : BitVec 4) (ca : Bool)
  /-- VCMPFEQ_VV (R167). Floating or m8 equality compare. -/
  | vcmpfeqVv (d : BitVec 4) (a b : BitVec 5) (msk : BitVec 4) (ca cb : Bool)
  /-- VCMPFEQ_VS (R167). Floating or m8 equality compare with a scalar. -/
  | vcmpfeqVs (d : BitVec 4) (a b : BitVec 5) (msk : BitVec 4) (ca : Bool)
  /-- VCMPFLT_VV (R167). Floating less-than compare. -/
  | vcmpfltVv (d : BitVec 4) (a b : BitVec 5) (msk : BitVec 4) (ca cb : Bool)
  /-- VCMPFLT_VS (R167). Floating less-than compare with a scalar. -/
  | vcmpfltVs (d : BitVec 4) (a b : BitVec 5) (msk : BitVec 4) (ca : Bool)
  /-- VCMPFLE_VV (R167). Floating less-or-equal compare. -/
  | vcmpfleVv (d : BitVec 4) (a b : BitVec 5) (msk : BitVec 4) (ca cb : Bool)
  /-- VCMPFLE_VS (R167). Floating less-or-equal compare with a scalar. -/
  | vcmpfleVs (d : BitVec 4) (a b : BitVec 5) (msk : BitVec 4) (ca : Bool)
  /-- VCMPFUNO_VV (R167). Sets mask bits where a pair is unordered. -/
  | vcmpfunoVv (d : BitVec 4) (a b : BitVec 5) (msk : BitVec 4) (ca cb : Bool)
  /-- VCMPFUNO_VS (R167). Unordered test against a scalar. -/
  | vcmpfunoVs (d : BitVec 4) (a b : BitVec 5) (msk : BitVec 4) (ca : Bool)
  /-- KAND (R169). ANDs two masks. -/
  | kand (d a b : BitVec 5) (ca cb : Bool)
  /-- KOR (R169). ORs two masks. -/
  | kor (d a b : BitVec 5) (ca cb : Bool)
  /-- KXOR (R169). XORs two masks. -/
  | kxor (d a b : BitVec 5) (ca cb : Bool)
  /-- KANDN (R169). ANDs a mask with the complement of another. -/
  | kandn (d a b : BitVec 5) (ca cb : Bool)
  /-- KNOT (R169). Complements a mask. -/
  | knot (d a : BitVec 5) (ca : Bool)
  /-- KMOV (R169). Copies a mask. -/
  | kmov (d a : BitVec 5) (ca : Bool)
  /-- KPOP (R169). Counts all 256 bits of a mask into a g register. -/
  | kpop (d a : BitVec 5) (ca : Bool)
  /-- KPOPVL (R169). Counts mask bits below VL. -/
  | kpopvl (d a : BitVec 5) (ca : Bool)
  /-- KFIRST (R169). Finds the lowest set mask bit below VL. -/
  | kfirst (d a : BitVec 5) (ca : Bool)
  /-- KFROMG (R169). Writes a g register into one 64-bit quarter of a mask. -/
  | kfromg (d a b : BitVec 5)
  /-- KTOG (R169). Reads one 64-bit quarter of a mask into a g register. -/
  | ktog (d a b : BitVec 5) (ca : Bool)
  /-- KPREFIX (R169). Writes the inclusive prefix OR of a mask. -/
  | kprefix (d a : BitVec 5) (ca : Bool)
  /-- KSBF (R169). Sets bits before the first set bit of a mask. -/
  | ksbf (d a : BitVec 5) (ca : Bool)
  /-- VMERGE (R185). Selects between two vectors by a mask. -/
  | vmerge (d a b : BitVec 5) (msk : BitVec 4) (ca cb : Bool)
  /-- VSLIDEUP (R185). Slides elements up by a scalar amount. -/
  | vslideup (d a b : BitVec 5) (msk : BitVec 4) (ca : Bool)
  /-- VSLIDEDN (R185). Slides elements down by a scalar amount. -/
  | vslidedn (d a b : BitVec 5) (msk : BitVec 4) (ca : Bool)
  /-- VPERMX (R185). Gathers elements by an index vector. -/
  | vpermx (d a b : BitVec 5) (msk : BitVec 4) (ca cb : Bool)
  /-- VCOMPRESS (R185). Packs the mask-selected elements to the front. -/
  | vcompress (d a : BitVec 5) (msk : BitVec 4) (ca : Bool)
  /-- VEXPAND (R185). Spreads consecutive elements to mask-selected positions. -/
  | vexpand (d a : BitVec 5) (msk : BitVec 4) (ca : Bool)
  /-- VBCAST (R185). Broadcasts one element. -/
  | vbcast (d a b : BitVec 5) (msk : BitVec 4) (ca : Bool)
  /-- VINS (R185). Inserts a g register into one element. -/
  | vins (d a b : BitVec 5)
  /-- VEXT (R185). Extracts one element into a g register. -/
  | vext (d a b : BitVec 5) (ca : Bool)
  /-- VMOV (R185). Copies vector elements. -/
  | vmov (d a : BitVec 5) (msk : BitVec 4) (ca : Bool)
  /-- VZIP (R185). Interleaves two vectors. -/
  | vzip (d a b : BitVec 5) (msk : BitVec 4) (ca cb : Bool)
  /-- VUNZIP (R185). De-interleaves two vectors. -/
  | vunzip (d a b : BitVec 5) (msk : BitVec 4) (ca cb : Bool)
  /-- VCVT (R171). Converts elements to the destination format named by func, same-width, widening or narrowing. -/
  | vcvt (d a p : BitVec 5) (msk : BitVec 4) (ca : Bool) (fmt : BitVec 5)
  /-- VREDSUM (R187). Sums the active elements over the fixed tree into element 0. -/
  | vredsum (d a b : BitVec 5) (msk : BitVec 4) (ca cb : Bool)
  /-- VREDMAX (R187). Maximum reduction into element 0. -/
  | vredmax (d a b : BitVec 5) (msk : BitVec 4) (ca cb : Bool)
  /-- VREDMIN (R187). Minimum reduction into element 0. -/
  | vredmin (d a b : BitVec 5) (msk : BitVec 4) (ca cb : Bool)
  /-- VREDAND (R187). AND reduction into element 0. -/
  | vredand (d a b : BitVec 5) (msk : BitVec 4) (ca cb : Bool)
  /-- VREDOR (R187). OR reduction into element 0. -/
  | vredor (d a b : BitVec 5) (msk : BitVec 4) (ca cb : Bool)
  /-- VREDXOR (R187). XOR reduction into element 0. -/
  | vredxor (d a b : BitVec 5) (msk : BitVec 4) (ca cb : Bool)
  /-- VSCAN (R187). Inclusive prefix sum, rounded at each step. -/
  | vscan (d a b : BitVec 5) (msk : BitVec 4) (ca cb : Bool)
  /-- VSCANMAX (R187). Inclusive prefix maximum. -/
  | vscanmax (d a b : BitVec 5) (msk : BitVec 4) (ca cb : Bool)
  /-- VSEGRED (R187). Sums each segment and writes it at the segment start. -/
  | vsegred (d a b : BitVec 5) (msk : BitVec 4) (ca : Bool)
  /-- VSEGSCAN (R187). Segmented prefix sum. -/
  | vsegscan (d a b : BitVec 5) (msk : BitVec 4) (ca : Bool)
  /-- VSEGMAX (R187). Segmented maximum at each segment start. -/
  | vsegmax (d a b : BitVec 5) (msk : BitVec 4) (ca : Bool)
  /-- VIOTA (R170). Writes start + i × step into each active element. -/
  | viota (d : BitVec 5) (msk : BitVec 4) (start : BitVec 9) (incr : BitVec 8)
  /-- VLD (R178). Loads consecutive elements, with optional fault-first truncation. -/
  | vld (t base : BitVec 5) (msk : BitVec 4) (ff : Bool)
  /-- VLDS (R178). Loads elements at a scalar stride. -/
  | vlds (t base x : BitVec 5) (msk : BitVec 4) (ff : Bool)
  /-- VLDX (R178). Loads elements by an index vector. -/
  | vldx (t base x : BitVec 5) (msk : BitVec 4) (ff c : Bool)
  /-- VLDN (R178). Loads elements over up to three dimensions. -/
  | vldn (t base : BitVec 5) (msk : BitVec 4) (ff : Bool)
  /-- VLDK (R179). Loads mask bits from bytes in memory. -/
  | vldk (t base : BitVec 5)
  /-- VLDB (R180). Loads one element and broadcasts it. -/
  | vldb (t base : BitVec 5) (msk : BitVec 4)
  /-- VLDT (R182). Loads elements from the core's own typed buffer. -/
  | vldt (t base x : BitVec 5) (msk : BitVec 4)
  /-- VST (R178). Stores consecutive elements. -/
  | vst (t base : BitVec 5) (msk : BitVec 4) (c : Bool)
  /-- VSTS (R178). Stores elements at a scalar stride. -/
  | vsts (t base x : BitVec 5) (msk : BitVec 4) (c : Bool)
  /-- VSTX (R181). Stores elements by an index vector. -/
  | vstx (t base x : BitVec 5) (msk : BitVec 4) (c : Bool)
  /-- VSTN (R178). Stores elements over up to three dimensions. -/
  | vstn (t base : BitVec 5) (msk : BitVec 4) (c : Bool)
  /-- VSTK (R179). Stores mask bits as whole bytes. -/
  | vstk (t base : BitVec 5)
  /-- VSTT (R182). Stores elements into a typed buffer of a core of the cluster. -/
  | vstt (t base x : BitVec 5) (msk : BitVec 4) (c : Bool)
  /-- MCTX (R213). Sets the core's matrix format context. -/
  | mctx (a : BitVec 5)
  /-- MGEO (R213). Sets the core's matrix geometry. -/
  | mgeo (a : BitVec 5)
  /-- MLOADB (R214). Queues a load of a B tile from the W front into the shadow bank. -/
  | mloadb (a b tag : BitVec 5)
  /-- MSWAP (R215). Queues an exchange of the active and shadow banks. -/
  | mswap (tag : BitVec 5)
  /-- MRUN (R216). Queues a matrix run of M rows against the active bank. -/
  | mrun (tag : BitVec 5)
  /-- MCLR (R217). Queues a clear of M rows of C. -/
  | mclr (tag : BitVec 5)
  /-- CPCFG (R227). Captures the source or destination copy geometry. -/
  | cpcfg (a : BitVec 5)
  /-- CPY (R228). Queues a one-row copy at a scope. -/
  | cpy (d a b tag : BitVec 5)
  /-- CPYN (R228). Queues a two-dimensional copy under the captured geometry. -/
  | cpyn (d a b tag : BitVec 5)
  /-- PUBL (R229). Queues a publication that inverts the front bits of named windows. -/
  | publ (a tag : BitVec 5)
  /-- CPABORT (R230). Discards queued copies and stops the executing one at a flit boundary. -/
  | cpabort
  /-- SBIND (R241). Binds a vector register to a stream record. -/
  | sbind (d a : BitVec 5)
  /-- SUNBIND (R242). Synchronises and frees a binding. -/
  | sunbind (d : BitVec 5)
  /-- SSYNC (R242). Waits until a binding's pushes are performed and released. -/
  | ssync (d : BitVec 5)
  /-- SSTAT (R243). Captures a binding's state into gd. -/
  | sstat (d a : BitVec 5)
  /-- GDEF (R248). Defines a graph node's count and successor mask. -/
  | gdef (a b tag : BitVec 5)
  /-- GWAIT (R248). Waits for a node, or all tagged commands, to complete. -/
  | gwait (tag : BitVec 5)
  /-- GQRY (R248). Reads a graph node's state. -/
  | gqry (d tag : BitVec 5)
  /-- ERET (R341). Returns from the handler to TEPC at the saved privilege. -/
  | eret
  /-- RTWR (R101). Writes a range-table slot from a 64-byte image. -/
  | rtwr (a b : BitVec 5)
  /-- RTRD (R101). Writes a range-table slot or the fault record to memory. -/
  | rtrd (a b : BitVec 5)
  /-- RTINV (R102). Sends range invalidations over a span to the cores of a scope. -/
  | rtinv (a b : BitVec 5)
  /-- RSPLIT (R103). Splits a directory entry at a DVA. -/
  | rsplit (d a : BitVec 5)
  /-- RMERGE (R103). Merges a directory entry with the next. -/
  | rmerge (d a : BitVec 5)
  /-- GENBUMP (R92). Advances an ASN's generation and waits for every core to acknowledge. -/
  | genbump (d a : BitVec 5)
  /-- RCOMPACT (R105). Hands a range to the Dredge for a move to a new base. -/
  | rcompact (d a b : BitVec 5)
  /-- CTXSV (R342). Saves the selected context parts to a buffer. -/
  | ctxsv (d a b : BitVec 5)
  /-- CTXLD (R343). Restores the selected context parts from a buffer. -/
  | ctxld (d a b : BitVec 5)
  /-- IPOST (R344). Posts a resume to a wisp parked at SUSPEND or AMOWAIT. -/
  | ipost (d a : BitVec 5)
  /-- WFI (R345). Waits on the core for a time, pre-emption, kill or refill event. -/
  | wfi (d a : BitVec 5)
  /-- HALTC (R346). Vacates the core, writing the record with REASON 6 or 7. -/
  | haltc (d a : BitVec 5)
  /-- QTAIL_WRITE (R32). The tail doorbell write advances QTAIL or sets OVF or BACK. -/
  | qtailWrite (fn q : Nat) (v : BitVec 64)
  /-- QUEUE_CONFIG_WRITE (R31). A write to QBASE, QLOG or QEN, applied according to QEN before the write. -/
  | queueConfigWrite (fn q off : Nat) (v : BitVec 64)
  /-- REGISTER_WRITE (R7). A write to a register with no row of its own, applied by field type including W1C. -/
  | registerWrite (fn bar off : Nat) (v : BitVec 64)
  /-- DEBUG_HALT_RELEASE (R339). Writing 1 to HALTED ends a debugger halt. -/
  | debugHaltRelease (core : Nat)
  /-- QUERY_ENUM (R356). Copies the enumeration table and bind records to host memory. -/
  | queryEnum (fn : Nat)
  /-- CREATE_VDEV (R357). Creates a virtual device with its overflow queue, ASN block, tables and safe tier. -/
  | createVdev (fn : Nat)
  /-- DESTROY_VDEV (R356). Tears down a virtual device, bumping its ASNs and freeing its resources. -/
  | destroyVdev (fn : Nat)
  /-- BIND (R356). Writes a bind record in the slot table. -/
  | bind (fn : Nat)
  /-- SET_WEIGHT (R356). Sets a device's SHARE in all its records. -/
  | setWeight (fn : Nat)
  /-- POST_DEADLINE (R331). Posts an eviction deadline and decides each launch RUN, CHECKPOINT or DISCARD. -/
  | postDeadline (fn : Nat)
  /-- PARTITION_MODE (R348). Replaces the partition layout after vacating affected partitions. -/
  | partitionMode (fn : Nat)
  /-- RESET (R352). Performs a reset at a rung of the ladder. -/
  | reset (fn : Nat)
  /-- CHECKPOINT (R356). Checkpoints a device's launches to the safe tier by a deadline. -/
  | checkpoint (fn : Nat)
  /-- RESTORE (R335). Places checkpointed launches again. -/
  | restore (fn : Nat)
  /-- ATTEST (R376). Carries an SPDM request and returns the response. -/
  | attest (fn : Nat) (req : SpdmReq)
  /-- TDISP_OP (R377). Carries a TDISP request and returns the response. -/
  | tdispOp (fn : Nat) (req : TdispReq)
  /-- RESYNC (R358). Writes a one-instant summary of device state. -/
  | resync (fn : Nat)
  /-- LOG_READ (R356). Copies log entries from a sequence number. -/
  | logRead (fn : Nat)
  /-- GET_VERSION (R376). SPDM request answered with the supported versions. -/
  | getVersion (fn : Nat)
  /-- GET_CAPABILITIES (R376). SPDM request answered with the capabilities. -/
  | getCapabilities (fn : Nat)
  /-- NEGOTIATE_ALGORITHMS (R376). SPDM request selecting ML-DSA-65 and SHAKE256. -/
  | negotiateAlgorithms (fn : Nat)
  /-- GET_DIGESTS (R376). SPDM request for certificate digests. -/
  | getDigests (fn : Nat)
  /-- GET_CERTIFICATE (R376). SPDM request for the identity certificate. -/
  | getCertificate (fn : Nat)
  /-- CHALLENGE (R376). SPDM challenge signed with the identity key. -/
  | challenge (fn : Nat)
  /-- GET_MEASUREMENTS (R375). SPDM request for the boot measurements. -/
  | getMeasurements (fn : Nat)
  /-- KEY_EXCHANGE (R376). SPDM session key exchange. -/
  | keyExchange (fn : Nat)
  /-- FINISH (R376). SPDM session finish. -/
  | finish (fn : Nat)
  /-- IDE_KM (R378). Sets IDE stream keys within an SPDM session. -/
  | ideKm (fn port stream : Nat) (key : BitVec 256)
  /-- LOCK_INTERFACE_REQUEST (R377). Moves a VF's TDISP interface to CONFIG_LOCKED if its device is alone in its partition. -/
  | lockInterfaceRequest (fn : Nat)
  /-- START_INTERFACE_REQUEST (R377). Moves a locked TDISP interface to RUN. -/
  | startInterfaceRequest (fn : Nat)
  /-- STOP_INTERFACE_REQUEST (R377). Resets the device at rung 2, zeroes its partition memory and unlocks the interface. -/
  | stopInterfaceRequest (fn : Nat)
  /-- IDE_INTEGRITY_FAILURE (R378). A failed IDE integrity check drops the stream, is logged and moves the TDISP interface to ERROR. -/
  | ideIntegrityFailure (fn port stream : Nat)
  /-- FIRMWARE_IMAGE_WRITE (R374). A write through PF0's BAR 4 window into the flash slot not loaded. -/
  | firmwareImageWrite (off : Nat) (v : BitVec 64)
  /-- HOST_WRITE (R280). A host PCIe or CXL.mem write is registered at its home as a foreign write. -/
  | hostWrite (port pa : Nat) (bytes : List (BitVec 8))
  /-- HOST_READ (R280). A host read of device memory is served at the home. -/
  | hostRead (port pa n : Nat)
  /-- PEER_TRANSACTION (R262). A UALink read, write or atomic from another package is performed at the home. -/
  | peerTransaction (src : Nat) (op : PeerOp) (pa n : Nat) (v : BitVec 64)
  /-- POD_RELAY_FORWARD (R263). The pod relay reissues a transaction in the target pod. -/
  | podRelayForward (src : Nat) (op : PeerOp) (pa n : Nat) (v : BitVec 64)
  /-- UALINK_REPLY_TIMEOUT (R263). A remote transaction without reply in time ends with a poisoned reply and machine check. -/
  | ualinkReplyTimeout (core : Nat) (dva : BitVec 64)
  /-- LAUNCH_SELECTION (R40). The Wader selects a queue by DRR and priority, reads and checks its head record and advances QHEAD. -/
  | launchSelection (part : Nat)
  /-- WISP_PLACEMENT (R43). The Wader chooses a die for the next wisp and writes its record. -/
  | wispPlacement (launch : Nat)
  /-- EXPANSION_RESUME (R36). A paused launch expansion resumes once a pool entry or overflow slot is available. -/
  | expansionResume (launch : Nat)
  /-- WISP_RECORD_ARRIVAL (R36). A placed record takes a pool entry or goes to the overflow queue. -/
  | wispRecordArrival (launch index die : Nat)
  /-- FREE_RESOURCE_REPORT (R42). Every 1 µs a die sends idle cores, pool free count and occupancy to the Wader. -/
  | freeResourceReport (die : Nat)
  /-- REPORT_ARRIVAL (R42). A report reaches the Wader and resets the die's estimate. -/
  | reportArrival (die idle free : Nat) (occ : List (Nat × Nat))
  /-- OVERFLOW_DRAIN (R36). The Wader drains a returning or new record from the overflow queue to a die. -/
  | overflowDrain (vdev : Nat)
  /-- HELD_WISP_DEPART (R36). A wisp held on its core writes its record once a pool entry or overflow slot frees. -/
  | heldWispDepart (core : Nat)
  /-- WISP_PICKUP (R21). An idle core takes the oldest ready record and starts a new wisp. -/
  | wispPickup (core : Nat)
  /-- WISP_RESUME (R387). An idle core resumes a suspended wisp, restoring the spill and acquiring. -/
  | wispResume (core : Nat)
  /-- PRIORITY_AGING (R38). Each 10 ms of waiting raises a ready wisp's effective priority by one. -/
  | priorityAging (launch index : Nat)
  /-- CLUSTER_RESERVATION (R45). The oldest ready CLUSTER group reserves an eligible cluster. -/
  | clusterReservation (die : Nat)
  /-- GROUP_START (R45). When the reserved cluster has enough idle cores, the group's wisps start together. -/
  | groupStart (cluster : Nat)
  /-- SUSPEND_WAKE (R129). TIME reaches a suspended wisp's wake time and it becomes ready. -/
  | suspendWake (launch index : Nat)
  /-- GANG_COLLECTIVE_PAIRING (R191). A gang collective completes once every member has issued it, or faults on mismatch. -/
  | gangCollectivePairing (core : Nat)
  /-- FILL (R270). A core's line request reaches the home. -/
  | fill (core line : Nat)
  /-- OWNREQ (R270). A core's ownership request reaches the home, which registers or revokes words. -/
  | ownreq (core line : Nat) (words : BitVec 16) (data : BitVec 512) (dirty : BitVec 16)
  /-- GRANT (R272). The home's line with owned-word mask reaches the core. -/
  | grant (core line : Nat) (data : BitVec 512) (mask : BitVec 16)
  /-- DATA (R272). The home's unowned line reaches the core. -/
  | data (core line : Nat) (data : BitVec 512)
  /-- FWD (R272). A forwarded foreign write reaches the owner, which yields the line. -/
  | fwd (core line : Nat) (words : BitVec 16)
  /-- REVOKE (R272). A revocation of owned words reaches the owner. -/
  | revoke (core line : Nat) (words : BitVec 16)
  /-- YIELD (R273). The owner's dirty words reach the home and end its ownership of the line. -/
  | yield (core line : Nat) (data : BitVec 512) (dirty : BitVec 16)
  /-- EVICT (R273). An owner's eviction of an owned line reaches the home. -/
  | evict (core line : Nat) (data : BitVec 512) (dirty : BitVec 16)
  /-- DISOWNREQ (R273). An owner's disown request with dirty words reaches the home. -/
  | disownreq (core line : Nat) (data : BitVec 512) (dirty : BitVec 16)
  /-- ACK (R272). The home's acknowledgement reaches the owner's line. -/
  | ack (core line : Nat)
  /-- RANGE_WALK (R89). The die's walker searches the directory for a missed DVA and fills a slot. -/
  | rangeWalk (core : Nat) (dva : BitVec 64)
  /-- GENERATION_NOTICE (R92). A GENBUMP notice reaches a core, which drains old accesses and reloads ASGEN. -/
  | generationNotice (core asn : Nat)
  /-- RANGE_INVALIDATION (R96). An RTINV invalidation reaches a core, which clears overlapping slots and acknowledges. -/
  | rangeInvalidation (core asn base limit issuer : Nat)
  /-- DREDGE_COPY_PHASE (R97). The Dredge copies resident granules while mirroring writes. -/
  | dredgeCopyPhase
  /-- DREDGE_SWITCH_PHASE (R97). The Dredge sets old lines to forwarding and writes the new OFFSET. -/
  | dredgeSwitchPhase
  /-- DREDGE_BUMP_PHASE (R97). The Dredge bumps the entry's ASN generation. -/
  | dredgeBumpPhase
  /-- DREDGE_RELEASE_PHASE (R97). The Dredge ends forwarding and clears MV. -/
  | dredgeReleasePhase
  /-- PIECE_ADMISSION (R254). A waiting transfer piece is admitted when its die holds credits on every link. -/
  | pieceAdmission (die : Nat)
  /-- CREDIT_RETURN (R254). Credits return when a piece's last flit is delivered. -/
  | creditReturn (die flits : Nat)
  /-- FOREIGN_FLIT_DROP (R251). A flit reaching a die or home of another partition is dropped and logged. -/
  | foreignFlitDrop (part unit : Nat)
  /-- LINK_OUT_OF_SERVICE (R256). A link that misses its bound after retry is taken out of service and its flits poisoned. -/
  | linkOutOfService (x y dir : Nat)
  /-- TIME_REQUEST (R258). The lead I/O die answers a TIME request with the current TIME. -/
  | timeRequest (core : Nat)
  /-- TIME_REPLY (R258). The TIME reply reaches the core, which corrects and writes RDTIME's result. -/
  | timeReply (core time : Nat)
  /-- COPY_COMMAND_START (R218). A copy command starts after its graph hold and earlier commands, acquiring at its scope. -/
  | copyCommandStart (core : Nat)
  /-- COPY_COMPLETION (R223). A copy completes, releases at its scope and sets CDONE and graph completion. -/
  | copyCompletion (core : Nat)
  /-- PUBLICATION_SWAP (R225). After its waits, PUBL inverts the named windows' front bits in one step. -/
  | publicationSwap (core : Nat)
  /-- MATRIX_ROW_STEP (R205). A granted MRUN row is fetched, aligned, bit-stepped and accumulated into C. -/
  | matrixRowStep (cluster : Nat)
  /-- MLOADB_EXECUTION (R214). MLOADB fills the shadow bank from the W front and marks it valid. -/
  | mloadbExecution (core : Nat)
  /-- MSWAP_EXECUTION (R206). After bound rows finish stage 3, the active and shadow banks are exchanged. -/
  | mswapExecution (core : Nat)
  /-- MCLR_EXECUTION (R217). MCLR writes zeros to the C rows. -/
  | mclrExecution (core : Nat)
  /-- MATRIX_COMMAND_COMPLETION (R203). A matrix command completes, updating MDONE, MFLT and graph nodes. -/
  | matrixCommandCompletion (core : Nat)
  /-- STREAM_PREFETCH (R235). The Sluice prefetches LOAD elements ahead of CONSUMED. -/
  | streamPrefetch (core bix : Nat)
  /-- STREAM_STORE_PERFORM (R235). Pushed STORE elements are performed as relaxed stores. -/
  | streamStorePerform (core bix : Nat)
  /-- SEND_CHUNK (R236). A full or flushed chunk is written into the RECV ring once it fits. -/
  | sendChunk (core bix : Nat)
  /-- RING_PRODUCED_UPDATE (R236). After the ring write is released, PRODUCED advances at its home. -/
  | ringProducedUpdate (pa count : Nat)
  /-- STREAM_WAIT_END (R237). A pop or push waiting for data, ring space or a collective proceeds. -/
  | streamWaitEnd (core : Nat)
  /-- STREAM_WATCHDOG (R237). A stream wait lasting WDOG traps 0x0A. -/
  | streamWatchdog (core bix : Nat)
  /-- COLLECTIVE_COMBINE (R313). A tree node combines ranks' elements and results are written and released to result areas. -/
  | collectiveCombine (anchor : Nat)
  /-- SLOT_REQUEST (R315). The slot allocator grants or refuses reduction slots for a SLOT instance. -/
  | slotRequest (anchor : Nat)
  /-- SLOT_RETURN (R315). Slots return to the allocator when an instance ends. -/
  | slotReturn (anchor : Nat)
  /-- QUORUM_STREAM_ARRIVAL (R317). A participant's E-th element reaching the join's home records its arrival. -/
  | quorumStreamArrival (core bix : Nat)
  /-- JOIN_DEADLINE (R299). TIME reaching a join's DEADLINE releases or fails it by QMIN. -/
  | joinDeadline (site slot : Nat)
  /-- KILL_SIGNAL (R300). A kill signal reaches a contributor's die or the Wader; off-core wisps die at once. -/
  | killSignal (launch index : Nat)
  /-- KGRACE_EXPIRY (R300). A running wisp that reached no kill point within KGRACE is force-pre-empted and killed. -/
  | kgraceExpiry (core : Nat)
  /-- PREEMPT_POSTING (R324). A pre-emption posting sets PEND and DEADLINE on a core. -/
  | preemptPosting (core : Nat) (kind : PreemptKind) (deadline : Nat)
  /-- FORCE_SET (R325). TIME reaching DEADLINE − 40,000 sets FORCE. -/
  | forceSet (core : Nat)
  /-- FORCED_PREEMPTION_TRAP (R325). With FORCE set and INH clear, the core takes trap 0x0D at the next boundary or abandons a wait. -/
  | forcedPreemptionTrap (core : Nat)
  /-- QUANTUM_END (R351). A device's deficit reaches zero; the turn passes and time-share pre-emptions are posted. -/
  | quantumEnd (part : Nat)
  /-- CHECKPOINT_VACATE_TIMEOUT (R333). At t0 + Q a wisp still on its core is discarded with its whole launch. -/
  | checkpointVacateTimeout (launch : Nat)
  /-- DEADLINE_RECHECK (R334). At T − M every RUN launch is decided again with H = 0. -/
  | deadlineRecheck (isPart : Bool) (target : Nat)
  /-- CHECKPOINT_ENGINE_COPY (R335). Once a launch is off its cores, the engine harvests dirty maps and copies state to the safe tier. -/
  | checkpointEngineCopy (launch : Nat)
  /-- WISP_END_COUNT (R363). The Wader counts a wisp's end after its completion record is released. -/
  | wispEndCount (launch index : Nat)
  /-- LAUNCH_COMPLETION (R362). When all wisps and children have ended, the completion record is written and QDONE advances. -/
  | launchCompletion (launch : Nat)
  /-- ECC_ERROR (R336). An uncorrectable error poisons words and is logged; correctable ones are corrected. -/
  | eccError (pa : Nat) (correctable : Bool)
  /-- SCRUB (R336). Scrubbers visit every die and home cache line at least every 10 minutes. -/
  | scrub
  /-- BACKING_REWRITE (R337). Carr rewrites a poisoned shared line from its backing copy and sends refill notices. -/
  | backingRewrite (pa : Nat)
  /-- COLD_BOOT (R374). Power good starts the ROM boot, self-test, image load and memory zeroing. -/
  | coldBoot
  /-- POWER_DOWN (R381). The host powers the module down and all device state is lost. -/
  | powerDown
  /-- FUNCTION_LEVEL_RESET (R352). A VF FLR performs rung 1 and a PF FLR rung 3 on its partitions. -/
  | functionLevelReset (fn : Nat)
  /-- RESET_ESCALATION (R352). A rung that misses its timeout escalates to the next rung. -/
  | resetEscalation (rung target queue : Nat)
  /-- THERMAL_THROTTLE (R380). At 105 °C or over its power share a die lowers its clock by 3 % steps. -/
  | thermalThrottle (die : Nat)
  /-- CLOCK_RESTORE (R380). After 1 ms clear, a die restores its clock by one step. -/
  | clockRestore (die : Nat)
  /-- OVERTEMP_SHUTDOWN (R380). At 115 °C Carr logs and the device takes reset rung 4. -/
  | overtempShutdown (die : Nat)
  /-- WFI_TIME_REACHED (R345). TIME reaches the nonzero value named in WFI's g[ga], ending the wait with bit 0 set in g[gd]. -/
  | wfiTimeReached (core : Nat)
  /-- RESUME_FROM_CARR (R129). Carr posts a resume that makes a wisp suspended at SUSPEND ready, or is kept for it after an abandoned wait. -/
  | resumeFromCarr (launch index : Nat)
deriving DecidableEq, Repr

end Sys2Proof
end

