-- ==== Sys2Proof/WellFormed.lean ====
section
/-! DEFINITION. The limits on operand fields that R66 and each instruction's own description set (step 4 of R65),
and, for the rows without a word, the ranges of the numbers that name a unit (00_scope.md R1, 17_tenants.md R349). -/

namespace Sys2Proof

/-- A field that names a k register holds 0 to 11 (R66). -/
def isK (r : BitVec 5) : Bool := decide (r.toNat < 12)
/-- msk is 0 (unmasked) or 1 to 12, naming k0 to k11 (R61). -/
def mskOk (m : BitVec 4) : Bool := decide (m.toNat ≤ 12)
/-- A mask that must be named (R184). -/
def mskNamed (m : BitVec 4) : Bool := decide (1 ≤ m.toNat) && decide (m.toNat ≤ 12)
/-- The selectors of R120. -/
def selectorOk (n : Nat) : Bool :=
  decide (n ≤ 2) || decide (4 ≤ n ∧ n ≤ 10) || n == 12 || decide (0x20 ≤ n ∧ n ≤ 0x26) ||
  decide (0x41 ≤ n ∧ n ≤ 0x5F) || n == 0x80 || n == 0x81

/-- The instruction keeps the operand limits that the decoder checks at step 4 of R65. -/
def Instr.wf : Instr → Bool
  | .add _ _ _ => true
  | .sub _ _ _ => true
  | .and _ _ _ => true
  | .or _ _ _ => true
  | .xor _ _ _ => true
  | .andn _ _ _ => true
  | .orn _ _ _ => true
  | .sll _ _ _ => true
  | .srl _ _ _ => true
  | .sra _ _ _ => true
  | .rol _ _ _ => true
  | .ror _ _ _ => true
  | .slt _ _ _ => true
  | .sltu _ _ _ => true
  | .min _ _ _ => true
  | .max _ _ _ => true
  | .minu _ _ _ => true
  | .maxu _ _ _ => true
  | .addw _ _ _ => true
  | .subw _ _ _ => true
  | .clz _ _ => true
  | .ctz _ _ => true
  | .popc _ _ => true
  | .brev _ _ => true
  | .bswap _ _ => true
  | .sext _ _ x => decide (x.toNat < 3)
  | .zext _ _ x => decide (x.toNat < 3)
  | .bfxv _ _ _ => true
  | .bfxzv _ _ _ => true
  | .bfiv _ _ _ => true
  | .selnz _ _ _ => true
  | .selz _ _ _ => true
  | .mul _ _ _ => true
  | .mulh _ _ _ => true
  | .mulhu _ _ _ => true
  | .mulhsu _ _ _ => true
  | .mulw _ _ _ => true
  | .div _ _ _ => true
  | .divu _ _ _ => true
  | .rem _ _ _ => true
  | .remu _ _ _ => true
  | .divw _ _ _ => true
  | .bfx _ _ _ _ => true
  | .bfxz _ _ _ _ => true
  | .bfi _ _ _ _ => true
  | .addi _ _ _ => true
  | .andi _ _ _ => true
  | .ori _ _ _ => true
  | .xori _ _ _ => true
  | .slti _ _ _ => true
  | .sltiu _ _ _ => true
  | .slli _ _ _ => true
  | .srli _ _ _ => true
  | .srai _ _ _ => true
  | .rori _ _ _ => true
  | .movz _ _ _ => true
  | .movk _ _ _ => true
  | .lapc _ _ => true
  | .bfs sel _ => selectorOk sel.toNat
  | .bfc sel _ => selectorOk sel.toNat
  | .beq _ _ _ => true
  | .bne _ _ _ => true
  | .blt _ _ _ => true
  | .bge _ _ _ => true
  | .bltu _ _ _ => true
  | .bgeu _ _ _ => true
  | .j _ => true
  | .jal _ => true
  | .jr _ => true
  | .jalr _ _ => true
  | .lb _ _ _ => true
  | .lbz _ _ _ => true
  | .lh _ _ _ => true
  | .lhz _ _ _ => true
  | .lw _ _ _ => true
  | .lwz _ _ _ => true
  | .ld _ _ _ => true
  | .sb _ _ _ => true
  | .sh _ _ _ => true
  | .sw _ _ _ => true
  | .sd _ _ _ => true
  | .amoadd _ _ _ _ _ _ => true
  | .amoand _ _ _ _ _ _ => true
  | .amoor _ _ _ _ _ _ => true
  | .amoxor _ _ _ _ _ _ => true
  | .amomin _ _ _ _ _ _ => true
  | .amomax _ _ _ _ _ _ => true
  | .amominu _ _ _ _ _ _ => true
  | .amomaxu _ _ _ _ _ _ => true
  | .amoswap _ _ _ _ _ _ => true
  | .amocas _ _ _ _ _ _ => true
  | .amold _ _ _ _ _ => true
  | .amost _ _ _ _ _ => true
  | .amowait _ _ _ _ _ _ => true
  | .acq _ _ => true
  | .rel _ _ => true
  | .fence _ => true
  | .own _ _ _ => true
  | .disown _ _ => true
  | .ifence _ scope => scope != 0
  | .arrive _ _ _ => true
  | .waitb _ _ _ _ => true
  | .vote _ _ _ _ => true
  | .jinit _ _ => true
  | .jarrive _ _ => true
  | .jwait _ _ => true
  | .jkpt => true
  | .jstat _ _ _ => true
  | .jleave _ => true
  | .suspend _ => true
  | .retire => true
  | .launch _ _ => true
  | .qry _ _ => true
  | .locq _ _ => true
  | .rdtime _ => true
  | .rdcyc _ => true
  | .trap _ => true
  | .brk => true
  | .nop => true
  | .engwait _ => true
  | .engstat _ => true
  | .gang _ => true
  | .disband => true
  | .crd _ _ => true
  | .cwr _ _ _ => true
  | .cset _ _ _ => true
  | .cclr _ _ _ => true
  | .setvl _ _ _ _ => true
  | .setvlMax _ _ _ => true
  | .setvlType _ _ _ => true
  | .setd _ _ dim => decide (dim.toNat < 3)
  | .vaddVv _ _ _ msk _ _ => mskOk msk
  | .vaddVs _ _ _ msk _ => mskOk msk
  | .vsubVv _ _ _ msk _ _ => mskOk msk
  | .vsubVs _ _ _ msk _ => mskOk msk
  | .vrsubVv _ _ _ msk _ _ => mskOk msk
  | .vrsubVs _ _ _ msk _ => mskOk msk
  | .vmulVv _ _ _ msk _ _ => mskOk msk
  | .vmulVs _ _ _ msk _ => mskOk msk
  | .vmulhVv _ _ _ msk _ _ => mskOk msk
  | .vmulhVs _ _ _ msk _ => mskOk msk
  | .vmulhuVv _ _ _ msk _ _ => mskOk msk
  | .vmulhuVs _ _ _ msk _ => mskOk msk
  | .vminVv _ _ _ msk _ _ => mskOk msk
  | .vminVs _ _ _ msk _ => mskOk msk
  | .vmaxVv _ _ _ msk _ _ => mskOk msk
  | .vmaxVs _ _ _ msk _ => mskOk msk
  | .vminuVv _ _ _ msk _ _ => mskOk msk
  | .vminuVs _ _ _ msk _ => mskOk msk
  | .vmaxuVv _ _ _ msk _ _ => mskOk msk
  | .vmaxuVs _ _ _ msk _ => mskOk msk
  | .vandVv _ _ _ msk _ _ => mskOk msk
  | .vandVs _ _ _ msk _ => mskOk msk
  | .vorVv _ _ _ msk _ _ => mskOk msk
  | .vorVs _ _ _ msk _ => mskOk msk
  | .vxorVv _ _ _ msk _ _ => mskOk msk
  | .vxorVs _ _ _ msk _ => mskOk msk
  | .vsllVv _ _ _ msk _ _ => mskOk msk
  | .vsllVs _ _ _ msk _ => mskOk msk
  | .vsrlVv _ _ _ msk _ _ => mskOk msk
  | .vsrlVs _ _ _ msk _ => mskOk msk
  | .vsraVv _ _ _ msk _ _ => mskOk msk
  | .vsraVs _ _ _ msk _ => mskOk msk
  | .vaddsatVv _ _ _ msk _ _ => mskOk msk
  | .vaddsatVs _ _ _ msk _ => mskOk msk
  | .vsubsatVv _ _ _ msk _ _ => mskOk msk
  | .vsubsatVs _ _ _ msk _ => mskOk msk
  | .vaddsatuVv _ _ _ msk _ _ => mskOk msk
  | .vaddsatuVs _ _ _ msk _ => mskOk msk
  | .vsubsatuVv _ _ _ msk _ _ => mskOk msk
  | .vsubsatuVs _ _ _ msk _ => mskOk msk
  | .vabsdVv _ _ _ msk _ _ => mskOk msk
  | .vabsdVs _ _ _ msk _ => mskOk msk
  | .vmaccVv _ _ _ msk _ _ => mskOk msk
  | .vmaccVs _ _ _ msk _ => mskOk msk
  | .vdivVv _ _ _ msk _ _ => mskOk msk
  | .vdivVs _ _ _ msk _ => mskOk msk
  | .vremVv _ _ _ msk _ _ => mskOk msk
  | .vremVs _ _ _ msk _ => mskOk msk
  | .vfaddVv _ _ _ msk _ _ => mskOk msk
  | .vfaddVs _ _ _ msk _ => mskOk msk
  | .vfsubVv _ _ _ msk _ _ => mskOk msk
  | .vfsubVs _ _ _ msk _ => mskOk msk
  | .vfmulVv _ _ _ msk _ _ => mskOk msk
  | .vfmulVs _ _ _ msk _ => mskOk msk
  | .vfdivVv _ _ _ msk _ _ => mskOk msk
  | .vfdivVs _ _ _ msk _ => mskOk msk
  | .vfmaVv _ _ _ msk _ _ => mskOk msk
  | .vfmaVs _ _ _ msk _ => mskOk msk
  | .vfmsVv _ _ _ msk _ _ => mskOk msk
  | .vfmsVs _ _ _ msk _ => mskOk msk
  | .vfnmaVv _ _ _ msk _ _ => mskOk msk
  | .vfnmaVs _ _ _ msk _ => mskOk msk
  | .vfminVv _ _ _ msk _ _ => mskOk msk
  | .vfminVs _ _ _ msk _ => mskOk msk
  | .vfmaxVv _ _ _ msk _ _ => mskOk msk
  | .vfmaxVs _ _ _ msk _ => mskOk msk
  | .vfsqrtVv _ _ msk _ => mskOk msk
  | .vfsqrtVs _ _ msk _ => mskOk msk
  | .vfrcpVv _ _ msk _ => mskOk msk
  | .vfrcpVs _ _ msk _ => mskOk msk
  | .vfrsqVv _ _ msk _ => mskOk msk
  | .vfrsqVs _ _ msk _ => mskOk msk
  | .vfexp2Vv _ _ msk _ => mskOk msk
  | .vfexp2Vs _ _ msk _ => mskOk msk
  | .vflog2Vv _ _ msk _ => mskOk msk
  | .vflog2Vs _ _ msk _ => mskOk msk
  | .vftanhVv _ _ msk _ => mskOk msk
  | .vftanhVs _ _ msk _ => mskOk msk
  | .vfabsVv _ _ msk _ => mskOk msk
  | .vfabsVs _ _ msk _ => mskOk msk
  | .vfnegVv _ _ msk _ => mskOk msk
  | .vfnegVs _ _ msk _ => mskOk msk
  | .vfsgnjVv _ _ _ msk _ _ => mskOk msk
  | .vfsgnjVs _ _ _ msk _ => mskOk msk
  | .vfclassVv _ _ msk _ => mskOk msk
  | .vfclassVs _ _ msk _ => mskOk msk
  | .vcmpeqVv d _ _ msk _ _ => mskOk msk && decide (d.toNat < 12)
  | .vcmpeqVs d _ _ msk _ => mskOk msk && decide (d.toNat < 12)
  | .vcmpneVv d _ _ msk _ _ => mskOk msk && decide (d.toNat < 12)
  | .vcmpneVs d _ _ msk _ => mskOk msk && decide (d.toNat < 12)
  | .vcmpltVv d _ _ msk _ _ => mskOk msk && decide (d.toNat < 12)
  | .vcmpltVs d _ _ msk _ => mskOk msk && decide (d.toNat < 12)
  | .vcmpgeVv d _ _ msk _ _ => mskOk msk && decide (d.toNat < 12)
  | .vcmpgeVs d _ _ msk _ => mskOk msk && decide (d.toNat < 12)
  | .vcmpltuVv d _ _ msk _ _ => mskOk msk && decide (d.toNat < 12)
  | .vcmpltuVs d _ _ msk _ => mskOk msk && decide (d.toNat < 12)
  | .vcmpgeuVv d _ _ msk _ _ => mskOk msk && decide (d.toNat < 12)
  | .vcmpgeuVs d _ _ msk _ => mskOk msk && decide (d.toNat < 12)
  | .vcmpfeqVv d _ _ msk _ _ => mskOk msk && decide (d.toNat < 12)
  | .vcmpfeqVs d _ _ msk _ => mskOk msk && decide (d.toNat < 12)
  | .vcmpfltVv d _ _ msk _ _ => mskOk msk && decide (d.toNat < 12)
  | .vcmpfltVs d _ _ msk _ => mskOk msk && decide (d.toNat < 12)
  | .vcmpfleVv d _ _ msk _ _ => mskOk msk && decide (d.toNat < 12)
  | .vcmpfleVs d _ _ msk _ => mskOk msk && decide (d.toNat < 12)
  | .vcmpfunoVv d _ _ msk _ _ => mskOk msk && decide (d.toNat < 12)
  | .vcmpfunoVs d _ _ msk _ => mskOk msk && decide (d.toNat < 12)
  | .kand d a b _ _ => isK d && isK a && isK b
  | .kor d a b _ _ => isK d && isK a && isK b
  | .kxor d a b _ _ => isK d && isK a && isK b
  | .kandn d a b _ _ => isK d && isK a && isK b
  | .knot d a _ => isK d && isK a
  | .kmov d a _ => isK d && isK a
  | .kpop _ a _ => isK a
  | .kpopvl _ a _ => isK a
  | .kfirst _ a _ => isK a
  | .kfromg d _ _ => isK d
  | .ktog _ a _ _ => isK a
  | .kprefix d a _ => isK d && isK a
  | .ksbf d a _ => isK d && isK a
  | .vmerge _ _ _ msk _ _ => mskNamed msk
  | .vslideup _ _ _ msk _ => mskOk msk
  | .vslidedn _ _ _ msk _ => mskOk msk
  | .vpermx _ _ _ msk _ _ => mskOk msk
  | .vcompress _ _ msk _ => mskNamed msk
  | .vexpand _ _ msk _ => mskNamed msk
  | .vbcast _ _ _ msk _ => mskOk msk
  | .vins _ _ _ => true
  | .vext _ _ _ _ => true
  | .vmov _ _ msk _ => mskOk msk
  | .vzip _ _ _ msk _ _ => mskOk msk
  | .vunzip _ _ _ msk _ _ => mskOk msk
  | .vcvt _ _ _ msk _ fmt => mskOk msk && decide (fmt.toNat < 13)
  | .vredsum _ _ _ msk _ _ => mskOk msk
  | .vredmax _ _ _ msk _ _ => mskOk msk
  | .vredmin _ _ _ msk _ _ => mskOk msk
  | .vredand _ _ _ msk _ _ => mskOk msk
  | .vredor _ _ _ msk _ _ => mskOk msk
  | .vredxor _ _ _ msk _ _ => mskOk msk
  | .vscan _ _ _ msk _ _ => mskOk msk
  | .vscanmax _ _ _ msk _ _ => mskOk msk
  | .vsegred _ _ b msk _ => mskOk msk && isK b
  | .vsegscan _ _ b msk _ => mskOk msk && isK b
  | .vsegmax _ _ b msk _ => mskOk msk && isK b
  | .viota _ msk _ _ => mskOk msk
  | .vld _ _ msk _ => mskOk msk
  | .vlds _ _ _ msk _ => mskOk msk
  | .vldx _ _ _ msk _ _ => mskOk msk
  | .vldn _ _ msk _ => mskOk msk
  | .vldk t _ => isK t
  | .vldb _ _ msk => mskOk msk
  | .vldt _ _ x msk => mskOk msk && decide (x.toNat < 3)
  | .vst _ _ msk _ => mskOk msk
  | .vsts _ _ _ msk _ => mskOk msk
  | .vstx _ _ _ msk _ => mskOk msk
  | .vstn _ _ msk _ => mskOk msk
  | .vstk t _ => isK t
  | .vstt _ _ x msk _ => mskOk msk && decide (x.toNat < 3)
  | .mctx _ => true
  | .mgeo _ => true
  | .mloadb _ _ _ => true
  | .mswap _ => true
  | .mrun _ => true
  | .mclr _ => true
  | .cpcfg _ => true
  | .cpy _ _ _ _ => true
  | .cpyn _ _ _ _ => true
  | .publ _ _ => true
  | .cpabort => true
  | .sbind _ _ => true
  | .sunbind _ => true
  | .ssync _ => true
  | .sstat _ _ => true
  | .gdef _ _ tag => tag != 0
  | .gwait _ => true
  | .gqry _ tag => tag != 0
  | .eret => true
  | .rtwr _ _ => true
  | .rtrd _ _ => true
  | .rtinv _ _ => true
  | .rsplit _ _ => true
  | .rmerge _ _ => true
  | .genbump _ _ => true
  | .rcompact _ _ _ => true
  | .ctxsv _ _ _ => true
  | .ctxld _ _ _ => true
  | .ipost _ _ => true
  | .wfi _ _ => true
  | .haltc _ _ => true
  | .qtailWrite fn q _ => decide (fn < 98) && decide (q < 16)
  | .queueConfigWrite fn q _ _ => decide (fn < 98) && decide (q < 16)
  | .registerWrite fn _ _ _ => decide (fn < 98)
  | .debugHaltRelease core => decide (core < 10240)
  | .queryEnum fn => decide (fn < 98)
  | .createVdev fn => decide (fn < 98)
  | .destroyVdev fn => decide (fn < 98)
  | .bind fn => decide (fn < 98)
  | .setWeight fn => decide (fn < 98)
  | .postDeadline fn => decide (fn < 98)
  | .partitionMode fn => decide (fn < 98)
  | .reset fn => decide (fn < 98)
  | .checkpoint fn => decide (fn < 98)
  | .restore fn => decide (fn < 98)
  | .attest fn _ => decide (fn < 98)
  | .tdispOp fn _ => decide (fn < 98)
  | .resync fn => decide (fn < 98)
  | .logRead fn => decide (fn < 98)
  | .getVersion fn => decide (fn < 98)
  | .getCapabilities fn => decide (fn < 98)
  | .negotiateAlgorithms fn => decide (fn < 98)
  | .getDigests fn => decide (fn < 98)
  | .getCertificate fn => decide (fn < 98)
  | .challenge fn => decide (fn < 98)
  | .getMeasurements fn => decide (fn < 98)
  | .keyExchange fn => decide (fn < 98)
  | .finish fn => decide (fn < 98)
  | .ideKm fn port _ _ => decide (fn < 98) && decide (port < 2)
  | .lockInterfaceRequest fn => decide (fn < 98)
  | .startInterfaceRequest fn => decide (fn < 98)
  | .stopInterfaceRequest fn => decide (fn < 98)
  | .ideIntegrityFailure fn port _ => decide (fn < 98) && decide (port < 2)
  | .firmwareImageWrite _ _ => true
  | .hostWrite port _ _ => decide (port < 2)
  | .hostRead port _ _ => decide (port < 2)
  | .peerTransaction _ _ _ _ _ => true
  | .podRelayForward _ _ _ _ _ => true
  | .ualinkReplyTimeout core _ => decide (core < 10240)
  | .launchSelection part => decide (part < 40)
  | .wispPlacement _ => true
  | .expansionResume _ => true
  | .wispRecordArrival _ _ die => decide (die < 160)
  | .freeResourceReport die => decide (die < 160)
  | .reportArrival die _ _ _ => decide (die < 160)
  | .overflowDrain vdev => decide (vdev < 98)
  | .heldWispDepart core => decide (core < 10240)
  | .wispPickup core => decide (core < 10240)
  | .wispResume core => decide (core < 10240)
  | .priorityAging _ _ => true
  | .clusterReservation die => decide (die < 160)
  | .groupStart cluster => decide (cluster < 2560)
  | .suspendWake _ _ => true
  | .gangCollectivePairing core => decide (core < 10240)
  | .fill core _ => decide (core < 10240)
  | .ownreq core _ _ _ _ => decide (core < 10240)
  | .grant core _ _ _ => decide (core < 10240)
  | .data core _ _ => decide (core < 10240)
  | .fwd core _ _ => decide (core < 10240)
  | .revoke core _ _ => decide (core < 10240)
  | .yield core _ _ _ => decide (core < 10240)
  | .evict core _ _ _ => decide (core < 10240)
  | .disownreq core _ _ _ => decide (core < 10240)
  | .ack core _ => decide (core < 10240)
  | .rangeWalk core _ => decide (core < 10240)
  | .generationNotice core asn => decide (core < 10240) && decide (asn < 65536)
  | .rangeInvalidation core asn _ _ _ => decide (core < 10240) && decide (asn < 65536)
  | .dredgeCopyPhase => true
  | .dredgeSwitchPhase => true
  | .dredgeBumpPhase => true
  | .dredgeReleasePhase => true
  | .pieceAdmission die => decide (die < 160)
  | .creditReturn die _ => decide (die < 160)
  | .foreignFlitDrop part _ => decide (part < 40)
  | .linkOutOfService _ _ _ => true
  | .timeRequest core => decide (core < 10240)
  | .timeReply core _ => decide (core < 10240)
  | .copyCommandStart core => decide (core < 10240)
  | .copyCompletion core => decide (core < 10240)
  | .publicationSwap core => decide (core < 10240)
  | .matrixRowStep cluster => decide (cluster < 2560)
  | .mloadbExecution core => decide (core < 10240)
  | .mswapExecution core => decide (core < 10240)
  | .mclrExecution core => decide (core < 10240)
  | .matrixCommandCompletion core => decide (core < 10240)
  | .streamPrefetch core bix => decide (core < 10240) && decide (bix < 4)
  | .streamStorePerform core bix => decide (core < 10240) && decide (bix < 4)
  | .sendChunk core bix => decide (core < 10240) && decide (bix < 4)
  | .ringProducedUpdate _ _ => true
  | .streamWaitEnd core => decide (core < 10240)
  | .streamWatchdog core bix => decide (core < 10240) && decide (bix < 4)
  | .collectiveCombine _ => true
  | .slotRequest _ => true
  | .slotReturn _ => true
  | .quorumStreamArrival core bix => decide (core < 10240) && decide (bix < 4)
  | .joinDeadline site slot => decide (site < 160) && decide (slot < 1024)
  | .killSignal _ _ => true
  | .kgraceExpiry core => decide (core < 10240)
  | .preemptPosting core _ _ => decide (core < 10240)
  | .forceSet core => decide (core < 10240)
  | .forcedPreemptionTrap core => decide (core < 10240)
  | .quantumEnd part => decide (part < 40)
  | .checkpointVacateTimeout _ => true
  | .deadlineRecheck _ _ => true
  | .checkpointEngineCopy _ => true
  | .wispEndCount _ _ => true
  | .launchCompletion _ => true
  | .eccError _ _ => true
  | .scrub => true
  | .backingRewrite _ => true
  | .coldBoot => true
  | .powerDown => true
  | .functionLevelReset fn => decide (fn < 98)
  | .resetEscalation _ _ _ => true
  | .thermalThrottle die => decide (die < 160)
  | .clockRestore die => decide (die < 160)
  | .overtempShutdown die => decide (die < 160)
  | .wfiTimeReached core => decide (core < 10240)
  | .resumeFromCarr _ _ => true

end Sys2Proof
end

