-- ==== Sys2Proof/Decode.lean ====
section
/-! DEFINITION. Reading an instruction word (04_encoding.md, R60 to R66), total on any bytes, and after it the encoder.
A word the tables of R64 do not assign, or whose reserved field is nonzero, is rejected by name; so is an operand
outside the limits of R66. The order of the checks against privilege (step 2 of R65) stands in Machine/Step.lean's
helpers, since it depends on the core's mode. -/

namespace Sys2Proof

/-- Why a word is no instruction (R65). -/
inductive DecodeError where
  | reservedMajor   -- step 1
  | unassigned      -- steps 3 and 4: no function of R64 has this word, or a reserved field of R63 is nonzero
  | operandLimit    -- step 4: a field breaks R66 or the instruction's own limits
  | truncated       -- fewer than four bytes
deriving DecidableEq, Repr

/-- Step 1 of R65. -/
def reservedMajor (m : Nat) : Bool :=
  m == 0x00 || m == 0x36 || m == 0x37 || m == 0x3C || m == 0x3D || m == 0x3F

/-- Major 0x01 (R64): the function is bits [5:0]. -/
noncomputable def decodeInt (w : Nat) : Option Instr :=
  match bits w 5 0 with
  | 0 => if bits w 10 6 = 0 then some (.add (.ofNat 5 (bits w 25 21)) (.ofNat 5 (bits w 20 16)) (.ofNat 5 (bits w 15 11))) else none
  | 1 => if bits w 10 6 = 0 then some (.sub (.ofNat 5 (bits w 25 21)) (.ofNat 5 (bits w 20 16)) (.ofNat 5 (bits w 15 11))) else none
  | 2 => if bits w 10 6 = 0 then some (.and (.ofNat 5 (bits w 25 21)) (.ofNat 5 (bits w 20 16)) (.ofNat 5 (bits w 15 11))) else none
  | 3 => if bits w 10 6 = 0 then some (.or (.ofNat 5 (bits w 25 21)) (.ofNat 5 (bits w 20 16)) (.ofNat 5 (bits w 15 11))) else none
  | 4 => if bits w 10 6 = 0 then some (.xor (.ofNat 5 (bits w 25 21)) (.ofNat 5 (bits w 20 16)) (.ofNat 5 (bits w 15 11))) else none
  | 5 => if bits w 10 6 = 0 then some (.andn (.ofNat 5 (bits w 25 21)) (.ofNat 5 (bits w 20 16)) (.ofNat 5 (bits w 15 11))) else none
  | 6 => if bits w 10 6 = 0 then some (.orn (.ofNat 5 (bits w 25 21)) (.ofNat 5 (bits w 20 16)) (.ofNat 5 (bits w 15 11))) else none
  | 7 => if bits w 10 6 = 0 then some (.sll (.ofNat 5 (bits w 25 21)) (.ofNat 5 (bits w 20 16)) (.ofNat 5 (bits w 15 11))) else none
  | 8 => if bits w 10 6 = 0 then some (.srl (.ofNat 5 (bits w 25 21)) (.ofNat 5 (bits w 20 16)) (.ofNat 5 (bits w 15 11))) else none
  | 9 => if bits w 10 6 = 0 then some (.sra (.ofNat 5 (bits w 25 21)) (.ofNat 5 (bits w 20 16)) (.ofNat 5 (bits w 15 11))) else none
  | 10 => if bits w 10 6 = 0 then some (.rol (.ofNat 5 (bits w 25 21)) (.ofNat 5 (bits w 20 16)) (.ofNat 5 (bits w 15 11))) else none
  | 11 => if bits w 10 6 = 0 then some (.ror (.ofNat 5 (bits w 25 21)) (.ofNat 5 (bits w 20 16)) (.ofNat 5 (bits w 15 11))) else none
  | 12 => if bits w 10 6 = 0 then some (.slt (.ofNat 5 (bits w 25 21)) (.ofNat 5 (bits w 20 16)) (.ofNat 5 (bits w 15 11))) else none
  | 13 => if bits w 10 6 = 0 then some (.sltu (.ofNat 5 (bits w 25 21)) (.ofNat 5 (bits w 20 16)) (.ofNat 5 (bits w 15 11))) else none
  | 14 => if bits w 10 6 = 0 then some (.min (.ofNat 5 (bits w 25 21)) (.ofNat 5 (bits w 20 16)) (.ofNat 5 (bits w 15 11))) else none
  | 15 => if bits w 10 6 = 0 then some (.max (.ofNat 5 (bits w 25 21)) (.ofNat 5 (bits w 20 16)) (.ofNat 5 (bits w 15 11))) else none
  | 16 => if bits w 10 6 = 0 then some (.minu (.ofNat 5 (bits w 25 21)) (.ofNat 5 (bits w 20 16)) (.ofNat 5 (bits w 15 11))) else none
  | 17 => if bits w 10 6 = 0 then some (.maxu (.ofNat 5 (bits w 25 21)) (.ofNat 5 (bits w 20 16)) (.ofNat 5 (bits w 15 11))) else none
  | 18 => if bits w 10 6 = 0 then some (.addw (.ofNat 5 (bits w 25 21)) (.ofNat 5 (bits w 20 16)) (.ofNat 5 (bits w 15 11))) else none
  | 19 => if bits w 10 6 = 0 then some (.subw (.ofNat 5 (bits w 25 21)) (.ofNat 5 (bits w 20 16)) (.ofNat 5 (bits w 15 11))) else none
  | 20 => if bits w 15 6 = 0 then some (.clz (.ofNat 5 (bits w 25 21)) (.ofNat 5 (bits w 20 16))) else none
  | 21 => if bits w 15 6 = 0 then some (.ctz (.ofNat 5 (bits w 25 21)) (.ofNat 5 (bits w 20 16))) else none
  | 22 => if bits w 15 6 = 0 then some (.popc (.ofNat 5 (bits w 25 21)) (.ofNat 5 (bits w 20 16))) else none
  | 23 => if bits w 15 6 = 0 then some (.brev (.ofNat 5 (bits w 25 21)) (.ofNat 5 (bits w 20 16))) else none
  | 24 => if bits w 15 6 = 0 then some (.bswap (.ofNat 5 (bits w 25 21)) (.ofNat 5 (bits w 20 16))) else none
  | 25 => if bits w 15 11 = 0 then some (.sext (.ofNat 5 (bits w 25 21)) (.ofNat 5 (bits w 20 16)) (.ofNat 5 (bits w 10 6))) else none
  | 26 => if bits w 15 11 = 0 then some (.zext (.ofNat 5 (bits w 25 21)) (.ofNat 5 (bits w 20 16)) (.ofNat 5 (bits w 10 6))) else none
  | 27 => if bits w 10 6 = 0 then some (.bfxv (.ofNat 5 (bits w 25 21)) (.ofNat 5 (bits w 20 16)) (.ofNat 5 (bits w 15 11))) else none
  | 28 => if bits w 10 6 = 0 then some (.bfxzv (.ofNat 5 (bits w 25 21)) (.ofNat 5 (bits w 20 16)) (.ofNat 5 (bits w 15 11))) else none
  | 29 => if bits w 10 6 = 0 then some (.bfiv (.ofNat 5 (bits w 25 21)) (.ofNat 5 (bits w 20 16)) (.ofNat 5 (bits w 15 11))) else none
  | 30 => if bits w 10 6 = 0 then some (.selnz (.ofNat 5 (bits w 25 21)) (.ofNat 5 (bits w 20 16)) (.ofNat 5 (bits w 15 11))) else none
  | 31 => if bits w 10 6 = 0 then some (.selz (.ofNat 5 (bits w 25 21)) (.ofNat 5 (bits w 20 16)) (.ofNat 5 (bits w 15 11))) else none
  | _ => none

/-- Major 0x02 (R64): the function is bits [5:0]. -/
noncomputable def decodeMulDiv (w : Nat) : Option Instr :=
  match bits w 5 0 with
  | 0 => if bits w 10 6 = 0 then some (.mul (.ofNat 5 (bits w 25 21)) (.ofNat 5 (bits w 20 16)) (.ofNat 5 (bits w 15 11))) else none
  | 1 => if bits w 10 6 = 0 then some (.mulh (.ofNat 5 (bits w 25 21)) (.ofNat 5 (bits w 20 16)) (.ofNat 5 (bits w 15 11))) else none
  | 2 => if bits w 10 6 = 0 then some (.mulhu (.ofNat 5 (bits w 25 21)) (.ofNat 5 (bits w 20 16)) (.ofNat 5 (bits w 15 11))) else none
  | 3 => if bits w 10 6 = 0 then some (.mulhsu (.ofNat 5 (bits w 25 21)) (.ofNat 5 (bits w 20 16)) (.ofNat 5 (bits w 15 11))) else none
  | 4 => if bits w 10 6 = 0 then some (.mulw (.ofNat 5 (bits w 25 21)) (.ofNat 5 (bits w 20 16)) (.ofNat 5 (bits w 15 11))) else none
  | 5 => if bits w 10 6 = 0 then some (.div (.ofNat 5 (bits w 25 21)) (.ofNat 5 (bits w 20 16)) (.ofNat 5 (bits w 15 11))) else none
  | 6 => if bits w 10 6 = 0 then some (.divu (.ofNat 5 (bits w 25 21)) (.ofNat 5 (bits w 20 16)) (.ofNat 5 (bits w 15 11))) else none
  | 7 => if bits w 10 6 = 0 then some (.rem (.ofNat 5 (bits w 25 21)) (.ofNat 5 (bits w 20 16)) (.ofNat 5 (bits w 15 11))) else none
  | 8 => if bits w 10 6 = 0 then some (.remu (.ofNat 5 (bits w 25 21)) (.ofNat 5 (bits w 20 16)) (.ofNat 5 (bits w 15 11))) else none
  | 9 => if bits w 10 6 = 0 then some (.divw (.ofNat 5 (bits w 25 21)) (.ofNat 5 (bits w 20 16)) (.ofNat 5 (bits w 15 11))) else none
  | _ => none

/-- Major 0x03 (R64): the function is bits [3:0]. -/
noncomputable def decodeBitField (w : Nat) : Option Instr :=
  match bits w 3 0 with
  | 0 => some (.bfx (.ofNat 5 (bits w 25 21)) (.ofNat 5 (bits w 20 16)) (.ofNat 6 (bits w 15 10)) (.ofNat 6 (bits w 9 4)))
  | 1 => some (.bfxz (.ofNat 5 (bits w 25 21)) (.ofNat 5 (bits w 20 16)) (.ofNat 6 (bits w 15 10)) (.ofNat 6 (bits w 9 4)))
  | 2 => some (.bfi (.ofNat 5 (bits w 25 21)) (.ofNat 5 (bits w 20 16)) (.ofNat 6 (bits w 15 10)) (.ofNat 6 (bits w 9 4)))
  | _ => none

/-- Major 0x0A (R64): the function is bits [15:14]. -/
noncomputable def decodeShi (w : Nat) : Option Instr :=
  match bits w 15 14 with
  | 0 => if bits w 13 6 = 0 then some (.slli (.ofNat 5 (bits w 25 21)) (.ofNat 5 (bits w 20 16)) (.ofNat 6 (bits w 5 0))) else none
  | 1 => if bits w 13 6 = 0 then some (.srli (.ofNat 5 (bits w 25 21)) (.ofNat 5 (bits w 20 16)) (.ofNat 6 (bits w 5 0))) else none
  | 2 => if bits w 13 6 = 0 then some (.srai (.ofNat 5 (bits w 25 21)) (.ofNat 5 (bits w 20 16)) (.ofNat 6 (bits w 5 0))) else none
  | 3 => if bits w 13 6 = 0 then some (.rori (.ofNat 5 (bits w 25 21)) (.ofNat 5 (bits w 20 16)) (.ofNat 6 (bits w 5 0))) else none
  | _ => none

/-- Major 0x18 (R64): the function is bits [5:0]. -/
noncomputable def decodeJump (w : Nat) : Option Instr :=
  match bits w 5 0 with
  | 0 => if bits w 25 21 = 0 ∧ bits w 15 6 = 0 then some (.jr (.ofNat 5 (bits w 20 16))) else none
  | 1 => if bits w 15 6 = 0 then some (.jalr (.ofNat 5 (bits w 25 21)) (.ofNat 5 (bits w 20 16))) else none
  | _ => none

/-- Major 0x24 (R64): the function is bits [5:0]. -/
noncomputable def decodeAtom (w : Nat) : Option Instr :=
  match bits w 5 0 with
  | 0 => some (.amoadd (.ofNat 5 (bits w 25 21)) (.ofNat 5 (bits w 20 16)) (.ofNat 5 (bits w 15 11)) (.ofNat 2 (bits w 10 9)) (.ofNat 2 (bits w 8 7)) (bits w 6 6 == 1))
  | 1 => some (.amoand (.ofNat 5 (bits w 25 21)) (.ofNat 5 (bits w 20 16)) (.ofNat 5 (bits w 15 11)) (.ofNat 2 (bits w 10 9)) (.ofNat 2 (bits w 8 7)) (bits w 6 6 == 1))
  | 2 => some (.amoor (.ofNat 5 (bits w 25 21)) (.ofNat 5 (bits w 20 16)) (.ofNat 5 (bits w 15 11)) (.ofNat 2 (bits w 10 9)) (.ofNat 2 (bits w 8 7)) (bits w 6 6 == 1))
  | 3 => some (.amoxor (.ofNat 5 (bits w 25 21)) (.ofNat 5 (bits w 20 16)) (.ofNat 5 (bits w 15 11)) (.ofNat 2 (bits w 10 9)) (.ofNat 2 (bits w 8 7)) (bits w 6 6 == 1))
  | 4 => some (.amomin (.ofNat 5 (bits w 25 21)) (.ofNat 5 (bits w 20 16)) (.ofNat 5 (bits w 15 11)) (.ofNat 2 (bits w 10 9)) (.ofNat 2 (bits w 8 7)) (bits w 6 6 == 1))
  | 5 => some (.amomax (.ofNat 5 (bits w 25 21)) (.ofNat 5 (bits w 20 16)) (.ofNat 5 (bits w 15 11)) (.ofNat 2 (bits w 10 9)) (.ofNat 2 (bits w 8 7)) (bits w 6 6 == 1))
  | 6 => some (.amominu (.ofNat 5 (bits w 25 21)) (.ofNat 5 (bits w 20 16)) (.ofNat 5 (bits w 15 11)) (.ofNat 2 (bits w 10 9)) (.ofNat 2 (bits w 8 7)) (bits w 6 6 == 1))
  | 7 => some (.amomaxu (.ofNat 5 (bits w 25 21)) (.ofNat 5 (bits w 20 16)) (.ofNat 5 (bits w 15 11)) (.ofNat 2 (bits w 10 9)) (.ofNat 2 (bits w 8 7)) (bits w 6 6 == 1))
  | 8 => some (.amoswap (.ofNat 5 (bits w 25 21)) (.ofNat 5 (bits w 20 16)) (.ofNat 5 (bits w 15 11)) (.ofNat 2 (bits w 10 9)) (.ofNat 2 (bits w 8 7)) (bits w 6 6 == 1))
  | 9 => some (.amocas (.ofNat 5 (bits w 25 21)) (.ofNat 5 (bits w 20 16)) (.ofNat 5 (bits w 15 11)) (.ofNat 2 (bits w 10 9)) (.ofNat 2 (bits w 8 7)) (bits w 6 6 == 1))
  | 10 => if bits w 15 11 = 0 then some (.amold (.ofNat 5 (bits w 25 21)) (.ofNat 5 (bits w 20 16)) (.ofNat 2 (bits w 10 9)) (.ofNat 2 (bits w 8 7)) (bits w 6 6 == 1)) else none
  | 11 => if bits w 25 21 = 0 then some (.amost (.ofNat 5 (bits w 20 16)) (.ofNat 5 (bits w 15 11)) (.ofNat 2 (bits w 10 9)) (.ofNat 2 (bits w 8 7)) (bits w 6 6 == 1)) else none
  | 12 => some (.amowait (.ofNat 5 (bits w 25 21)) (.ofNat 5 (bits w 20 16)) (.ofNat 5 (bits w 15 11)) (.ofNat 2 (bits w 10 9)) (.ofNat 2 (bits w 8 7)) (bits w 6 6 == 1))
  | _ => none

/-- Major 0x25 (R64): the function is bits [5:0]. -/
noncomputable def decodeSync (w : Nat) : Option Instr :=
  match bits w 5 0 with
  | 0 => if bits w 25 21 = 0 ∧ bits w 15 11 = 0 ∧ bits w 8 6 = 0 then some (.acq (.ofNat 5 (bits w 20 16)) (.ofNat 2 (bits w 10 9))) else none
  | 1 => if bits w 25 21 = 0 ∧ bits w 15 11 = 0 ∧ bits w 8 6 = 0 then some (.rel (.ofNat 5 (bits w 20 16)) (.ofNat 2 (bits w 10 9))) else none
  | 2 => if bits w 25 11 = 0 ∧ bits w 8 6 = 0 then some (.fence (.ofNat 2 (bits w 10 9))) else none
  | 3 => if bits w 10 6 = 16 then some (.own (.ofNat 5 (bits w 25 21)) (.ofNat 5 (bits w 20 16)) (.ofNat 5 (bits w 15 11))) else none
  | 4 => if bits w 15 6 = 16 then some (.disown (.ofNat 5 (bits w 25 21)) (.ofNat 5 (bits w 20 16))) else none
  | 5 => if bits w 25 21 = 0 ∧ bits w 15 11 = 0 ∧ bits w 8 6 = 0 then some (.ifence (.ofNat 5 (bits w 20 16)) (.ofNat 2 (bits w 10 9))) else none
  | 6 => if bits w 15 11 = 0 ∧ bits w 8 6 = 0 then some (.arrive (.ofNat 5 (bits w 25 21)) (.ofNat 5 (bits w 20 16)) (.ofNat 2 (bits w 10 9))) else none
  | 7 => if bits w 8 6 = 0 then some (.waitb (.ofNat 5 (bits w 25 21)) (.ofNat 5 (bits w 20 16)) (.ofNat 5 (bits w 15 11)) (.ofNat 2 (bits w 10 9))) else none
  | 8 => if bits w 8 6 = 0 then some (.vote (.ofNat 5 (bits w 25 21)) (.ofNat 5 (bits w 20 16)) (.ofNat 5 (bits w 15 11)) (.ofNat 2 (bits w 10 9))) else none
  | 9 => if bits w 15 6 = 16 then some (.jinit (.ofNat 5 (bits w 25 21)) (.ofNat 5 (bits w 20 16))) else none
  | 10 => if bits w 15 6 = 16 then some (.jarrive (.ofNat 5 (bits w 25 21)) (.ofNat 5 (bits w 20 16))) else none
  | 11 => if bits w 15 6 = 16 then some (.jwait (.ofNat 5 (bits w 25 21)) (.ofNat 5 (bits w 20 16))) else none
  | 12 => if bits w 25 6 = 16 then some (.jkpt) else none
  | 13 => if bits w 10 6 = 16 then some (.jstat (.ofNat 5 (bits w 25 21)) (.ofNat 5 (bits w 20 16)) (.ofNat 5 (bits w 15 11))) else none
  | 14 => if bits w 20 6 = 16 then some (.jleave (.ofNat 5 (bits w 25 21))) else none
  | _ => none

/-- Major 0x26 (R64): the function is bits [5:0]. -/
noncomputable def decodeWisp (w : Nat) : Option Instr :=
  match bits w 5 0 with
  | 0 => if bits w 25 21 = 0 ∧ bits w 15 6 = 0 then some (.suspend (.ofNat 5 (bits w 20 16))) else none
  | 1 => if bits w 25 6 = 0 then some (.retire) else none
  | 2 => if bits w 15 6 = 0 then some (.launch (.ofNat 5 (bits w 25 21)) (.ofNat 5 (bits w 20 16))) else none
  | 3 => if bits w 15 6 = 0 then some (.qry (.ofNat 5 (bits w 25 21)) (.ofNat 5 (bits w 20 16))) else none
  | 4 => if bits w 15 6 = 0 then some (.locq (.ofNat 5 (bits w 25 21)) (.ofNat 5 (bits w 20 16))) else none
  | 5 => if bits w 20 6 = 0 then some (.rdtime (.ofNat 5 (bits w 25 21))) else none
  | 6 => if bits w 20 6 = 0 then some (.rdcyc (.ofNat 5 (bits w 25 21))) else none
  | 7 => if bits w 25 21 = 0 ∧ bits w 15 6 = 0 then some (.trap (.ofNat 5 (bits w 20 16))) else none
  | 8 => if bits w 25 6 = 0 then some (.brk) else none
  | 9 => if bits w 25 6 = 0 then some (.nop) else none
  | 10 => if bits w 25 21 = 0 ∧ bits w 15 6 = 0 then some (.engwait (.ofNat 5 (bits w 20 16))) else none
  | 11 => if bits w 20 6 = 0 then some (.engstat (.ofNat 5 (bits w 25 21))) else none
  | 12 => if bits w 20 6 = 0 then some (.gang (.ofNat 5 (bits w 25 21))) else none
  | 13 => if bits w 25 6 = 0 then some (.disband) else none
  | _ => none

/-- Major 0x27 (R64): the function is bits [3:0]. -/
noncomputable def decodeCreg (w : Nat) : Option Instr :=
  match bits w 3 0 with
  | 0 => if bits w 20 16 = 0 then some (.crd (.ofNat 5 (bits w 25 21)) (.ofNat 12 (bits w 15 4))) else none
  | 1 => some (.cwr (.ofNat 5 (bits w 25 21)) (.ofNat 5 (bits w 20 16)) (.ofNat 12 (bits w 15 4)))
  | 2 => some (.cset (.ofNat 5 (bits w 25 21)) (.ofNat 5 (bits w 20 16)) (.ofNat 12 (bits w 15 4)))
  | 3 => some (.cclr (.ofNat 5 (bits w 25 21)) (.ofNat 5 (bits w 20 16)) (.ofNat 12 (bits w 15 4)))
  | _ => none

/-- Major 0x28 (R64): the function is bits [6:4]. -/
noncomputable def decodeSetVl (w : Nat) : Option Instr :=
  match bits w 6 4 with
  | 0 => if bits w 3 0 = 0 then some (.setvl (.ofNat 5 (bits w 25 21)) (.ofNat 5 (bits w 20 16)) (.ofNat 8 (bits w 15 8)) (bits w 7 7 == 1)) else none
  | 1 => if bits w 20 16 = 0 ∧ bits w 3 0 = 0 then some (.setvlMax (.ofNat 5 (bits w 25 21)) (.ofNat 8 (bits w 15 8)) (bits w 7 7 == 1)) else none
  | 2 => if bits w 20 16 = 0 ∧ bits w 3 0 = 0 then some (.setvlType (.ofNat 5 (bits w 25 21)) (.ofNat 8 (bits w 15 8)) (bits w 7 7 == 1)) else none
  | _ => none

/-- Major 0x29 (R64): the function is bits [5:0]. -/
noncomputable def decodeSetD (w : Nat) : Option Instr :=
  match bits w 5 0 with
  | 0 => if bits w 25 21 = 0 ∧ bits w 10 8 = 0 then some (.setd (.ofNat 5 (bits w 20 16)) (.ofNat 5 (bits w 15 11)) (.ofNat 2 (bits w 7 6))) else none
  | _ => none

/-- Major 0x2A (R64): the function is bits [4:0]. -/
noncomputable def decodeVintVv (w : Nat) : Option Instr :=
  match bits w 4 0 with
  | 0 => some (.vaddVv (.ofNat 5 (bits w 25 21)) (.ofNat 5 (bits w 20 16)) (.ofNat 5 (bits w 15 11)) (.ofNat 4 (bits w 10 7)) (bits w 6 6 == 1) (bits w 5 5 == 1))
  | 1 => some (.vsubVv (.ofNat 5 (bits w 25 21)) (.ofNat 5 (bits w 20 16)) (.ofNat 5 (bits w 15 11)) (.ofNat 4 (bits w 10 7)) (bits w 6 6 == 1) (bits w 5 5 == 1))
  | 2 => some (.vrsubVv (.ofNat 5 (bits w 25 21)) (.ofNat 5 (bits w 20 16)) (.ofNat 5 (bits w 15 11)) (.ofNat 4 (bits w 10 7)) (bits w 6 6 == 1) (bits w 5 5 == 1))
  | 3 => some (.vmulVv (.ofNat 5 (bits w 25 21)) (.ofNat 5 (bits w 20 16)) (.ofNat 5 (bits w 15 11)) (.ofNat 4 (bits w 10 7)) (bits w 6 6 == 1) (bits w 5 5 == 1))
  | 4 => some (.vmulhVv (.ofNat 5 (bits w 25 21)) (.ofNat 5 (bits w 20 16)) (.ofNat 5 (bits w 15 11)) (.ofNat 4 (bits w 10 7)) (bits w 6 6 == 1) (bits w 5 5 == 1))
  | 5 => some (.vmulhuVv (.ofNat 5 (bits w 25 21)) (.ofNat 5 (bits w 20 16)) (.ofNat 5 (bits w 15 11)) (.ofNat 4 (bits w 10 7)) (bits w 6 6 == 1) (bits w 5 5 == 1))
  | 6 => some (.vminVv (.ofNat 5 (bits w 25 21)) (.ofNat 5 (bits w 20 16)) (.ofNat 5 (bits w 15 11)) (.ofNat 4 (bits w 10 7)) (bits w 6 6 == 1) (bits w 5 5 == 1))
  | 7 => some (.vmaxVv (.ofNat 5 (bits w 25 21)) (.ofNat 5 (bits w 20 16)) (.ofNat 5 (bits w 15 11)) (.ofNat 4 (bits w 10 7)) (bits w 6 6 == 1) (bits w 5 5 == 1))
  | 8 => some (.vminuVv (.ofNat 5 (bits w 25 21)) (.ofNat 5 (bits w 20 16)) (.ofNat 5 (bits w 15 11)) (.ofNat 4 (bits w 10 7)) (bits w 6 6 == 1) (bits w 5 5 == 1))
  | 9 => some (.vmaxuVv (.ofNat 5 (bits w 25 21)) (.ofNat 5 (bits w 20 16)) (.ofNat 5 (bits w 15 11)) (.ofNat 4 (bits w 10 7)) (bits w 6 6 == 1) (bits w 5 5 == 1))
  | 10 => some (.vandVv (.ofNat 5 (bits w 25 21)) (.ofNat 5 (bits w 20 16)) (.ofNat 5 (bits w 15 11)) (.ofNat 4 (bits w 10 7)) (bits w 6 6 == 1) (bits w 5 5 == 1))
  | 11 => some (.vorVv (.ofNat 5 (bits w 25 21)) (.ofNat 5 (bits w 20 16)) (.ofNat 5 (bits w 15 11)) (.ofNat 4 (bits w 10 7)) (bits w 6 6 == 1) (bits w 5 5 == 1))
  | 12 => some (.vxorVv (.ofNat 5 (bits w 25 21)) (.ofNat 5 (bits w 20 16)) (.ofNat 5 (bits w 15 11)) (.ofNat 4 (bits w 10 7)) (bits w 6 6 == 1) (bits w 5 5 == 1))
  | 13 => some (.vsllVv (.ofNat 5 (bits w 25 21)) (.ofNat 5 (bits w 20 16)) (.ofNat 5 (bits w 15 11)) (.ofNat 4 (bits w 10 7)) (bits w 6 6 == 1) (bits w 5 5 == 1))
  | 14 => some (.vsrlVv (.ofNat 5 (bits w 25 21)) (.ofNat 5 (bits w 20 16)) (.ofNat 5 (bits w 15 11)) (.ofNat 4 (bits w 10 7)) (bits w 6 6 == 1) (bits w 5 5 == 1))
  | 15 => some (.vsraVv (.ofNat 5 (bits w 25 21)) (.ofNat 5 (bits w 20 16)) (.ofNat 5 (bits w 15 11)) (.ofNat 4 (bits w 10 7)) (bits w 6 6 == 1) (bits w 5 5 == 1))
  | 16 => some (.vaddsatVv (.ofNat 5 (bits w 25 21)) (.ofNat 5 (bits w 20 16)) (.ofNat 5 (bits w 15 11)) (.ofNat 4 (bits w 10 7)) (bits w 6 6 == 1) (bits w 5 5 == 1))
  | 17 => some (.vsubsatVv (.ofNat 5 (bits w 25 21)) (.ofNat 5 (bits w 20 16)) (.ofNat 5 (bits w 15 11)) (.ofNat 4 (bits w 10 7)) (bits w 6 6 == 1) (bits w 5 5 == 1))
  | 18 => some (.vaddsatuVv (.ofNat 5 (bits w 25 21)) (.ofNat 5 (bits w 20 16)) (.ofNat 5 (bits w 15 11)) (.ofNat 4 (bits w 10 7)) (bits w 6 6 == 1) (bits w 5 5 == 1))
  | 19 => some (.vsubsatuVv (.ofNat 5 (bits w 25 21)) (.ofNat 5 (bits w 20 16)) (.ofNat 5 (bits w 15 11)) (.ofNat 4 (bits w 10 7)) (bits w 6 6 == 1) (bits w 5 5 == 1))
  | 20 => some (.vabsdVv (.ofNat 5 (bits w 25 21)) (.ofNat 5 (bits w 20 16)) (.ofNat 5 (bits w 15 11)) (.ofNat 4 (bits w 10 7)) (bits w 6 6 == 1) (bits w 5 5 == 1))
  | 21 => some (.vmaccVv (.ofNat 5 (bits w 25 21)) (.ofNat 5 (bits w 20 16)) (.ofNat 5 (bits w 15 11)) (.ofNat 4 (bits w 10 7)) (bits w 6 6 == 1) (bits w 5 5 == 1))
  | 22 => some (.vdivVv (.ofNat 5 (bits w 25 21)) (.ofNat 5 (bits w 20 16)) (.ofNat 5 (bits w 15 11)) (.ofNat 4 (bits w 10 7)) (bits w 6 6 == 1) (bits w 5 5 == 1))
  | 23 => some (.vremVv (.ofNat 5 (bits w 25 21)) (.ofNat 5 (bits w 20 16)) (.ofNat 5 (bits w 15 11)) (.ofNat 4 (bits w 10 7)) (bits w 6 6 == 1) (bits w 5 5 == 1))
  | _ => none

/-- Major 0x2B (R64): the function is bits [4:0]. -/
noncomputable def decodeVintVs (w : Nat) : Option Instr :=
  match bits w 4 0 with
  | 0 => if bits w 5 5 = 0 then some (.vaddVs (.ofNat 5 (bits w 25 21)) (.ofNat 5 (bits w 20 16)) (.ofNat 5 (bits w 15 11)) (.ofNat 4 (bits w 10 7)) (bits w 6 6 == 1)) else none
  | 1 => if bits w 5 5 = 0 then some (.vsubVs (.ofNat 5 (bits w 25 21)) (.ofNat 5 (bits w 20 16)) (.ofNat 5 (bits w 15 11)) (.ofNat 4 (bits w 10 7)) (bits w 6 6 == 1)) else none
  | 2 => if bits w 5 5 = 0 then some (.vrsubVs (.ofNat 5 (bits w 25 21)) (.ofNat 5 (bits w 20 16)) (.ofNat 5 (bits w 15 11)) (.ofNat 4 (bits w 10 7)) (bits w 6 6 == 1)) else none
  | 3 => if bits w 5 5 = 0 then some (.vmulVs (.ofNat 5 (bits w 25 21)) (.ofNat 5 (bits w 20 16)) (.ofNat 5 (bits w 15 11)) (.ofNat 4 (bits w 10 7)) (bits w 6 6 == 1)) else none
  | 4 => if bits w 5 5 = 0 then some (.vmulhVs (.ofNat 5 (bits w 25 21)) (.ofNat 5 (bits w 20 16)) (.ofNat 5 (bits w 15 11)) (.ofNat 4 (bits w 10 7)) (bits w 6 6 == 1)) else none
  | 5 => if bits w 5 5 = 0 then some (.vmulhuVs (.ofNat 5 (bits w 25 21)) (.ofNat 5 (bits w 20 16)) (.ofNat 5 (bits w 15 11)) (.ofNat 4 (bits w 10 7)) (bits w 6 6 == 1)) else none
  | 6 => if bits w 5 5 = 0 then some (.vminVs (.ofNat 5 (bits w 25 21)) (.ofNat 5 (bits w 20 16)) (.ofNat 5 (bits w 15 11)) (.ofNat 4 (bits w 10 7)) (bits w 6 6 == 1)) else none
  | 7 => if bits w 5 5 = 0 then some (.vmaxVs (.ofNat 5 (bits w 25 21)) (.ofNat 5 (bits w 20 16)) (.ofNat 5 (bits w 15 11)) (.ofNat 4 (bits w 10 7)) (bits w 6 6 == 1)) else none
  | 8 => if bits w 5 5 = 0 then some (.vminuVs (.ofNat 5 (bits w 25 21)) (.ofNat 5 (bits w 20 16)) (.ofNat 5 (bits w 15 11)) (.ofNat 4 (bits w 10 7)) (bits w 6 6 == 1)) else none
  | 9 => if bits w 5 5 = 0 then some (.vmaxuVs (.ofNat 5 (bits w 25 21)) (.ofNat 5 (bits w 20 16)) (.ofNat 5 (bits w 15 11)) (.ofNat 4 (bits w 10 7)) (bits w 6 6 == 1)) else none
  | 10 => if bits w 5 5 = 0 then some (.vandVs (.ofNat 5 (bits w 25 21)) (.ofNat 5 (bits w 20 16)) (.ofNat 5 (bits w 15 11)) (.ofNat 4 (bits w 10 7)) (bits w 6 6 == 1)) else none
  | 11 => if bits w 5 5 = 0 then some (.vorVs (.ofNat 5 (bits w 25 21)) (.ofNat 5 (bits w 20 16)) (.ofNat 5 (bits w 15 11)) (.ofNat 4 (bits w 10 7)) (bits w 6 6 == 1)) else none
  | 12 => if bits w 5 5 = 0 then some (.vxorVs (.ofNat 5 (bits w 25 21)) (.ofNat 5 (bits w 20 16)) (.ofNat 5 (bits w 15 11)) (.ofNat 4 (bits w 10 7)) (bits w 6 6 == 1)) else none
  | 13 => if bits w 5 5 = 0 then some (.vsllVs (.ofNat 5 (bits w 25 21)) (.ofNat 5 (bits w 20 16)) (.ofNat 5 (bits w 15 11)) (.ofNat 4 (bits w 10 7)) (bits w 6 6 == 1)) else none
  | 14 => if bits w 5 5 = 0 then some (.vsrlVs (.ofNat 5 (bits w 25 21)) (.ofNat 5 (bits w 20 16)) (.ofNat 5 (bits w 15 11)) (.ofNat 4 (bits w 10 7)) (bits w 6 6 == 1)) else none
  | 15 => if bits w 5 5 = 0 then some (.vsraVs (.ofNat 5 (bits w 25 21)) (.ofNat 5 (bits w 20 16)) (.ofNat 5 (bits w 15 11)) (.ofNat 4 (bits w 10 7)) (bits w 6 6 == 1)) else none
  | 16 => if bits w 5 5 = 0 then some (.vaddsatVs (.ofNat 5 (bits w 25 21)) (.ofNat 5 (bits w 20 16)) (.ofNat 5 (bits w 15 11)) (.ofNat 4 (bits w 10 7)) (bits w 6 6 == 1)) else none
  | 17 => if bits w 5 5 = 0 then some (.vsubsatVs (.ofNat 5 (bits w 25 21)) (.ofNat 5 (bits w 20 16)) (.ofNat 5 (bits w 15 11)) (.ofNat 4 (bits w 10 7)) (bits w 6 6 == 1)) else none
  | 18 => if bits w 5 5 = 0 then some (.vaddsatuVs (.ofNat 5 (bits w 25 21)) (.ofNat 5 (bits w 20 16)) (.ofNat 5 (bits w 15 11)) (.ofNat 4 (bits w 10 7)) (bits w 6 6 == 1)) else none
  | 19 => if bits w 5 5 = 0 then some (.vsubsatuVs (.ofNat 5 (bits w 25 21)) (.ofNat 5 (bits w 20 16)) (.ofNat 5 (bits w 15 11)) (.ofNat 4 (bits w 10 7)) (bits w 6 6 == 1)) else none
  | 20 => if bits w 5 5 = 0 then some (.vabsdVs (.ofNat 5 (bits w 25 21)) (.ofNat 5 (bits w 20 16)) (.ofNat 5 (bits w 15 11)) (.ofNat 4 (bits w 10 7)) (bits w 6 6 == 1)) else none
  | 21 => if bits w 5 5 = 0 then some (.vmaccVs (.ofNat 5 (bits w 25 21)) (.ofNat 5 (bits w 20 16)) (.ofNat 5 (bits w 15 11)) (.ofNat 4 (bits w 10 7)) (bits w 6 6 == 1)) else none
  | 22 => if bits w 5 5 = 0 then some (.vdivVs (.ofNat 5 (bits w 25 21)) (.ofNat 5 (bits w 20 16)) (.ofNat 5 (bits w 15 11)) (.ofNat 4 (bits w 10 7)) (bits w 6 6 == 1)) else none
  | 23 => if bits w 5 5 = 0 then some (.vremVs (.ofNat 5 (bits w 25 21)) (.ofNat 5 (bits w 20 16)) (.ofNat 5 (bits w 15 11)) (.ofNat 4 (bits w 10 7)) (bits w 6 6 == 1)) else none
  | _ => none

/-- Major 0x2C (R64): the function is bits [4:0]. -/
noncomputable def decodeVfltVv (w : Nat) : Option Instr :=
  match bits w 4 0 with
  | 0 => some (.vfaddVv (.ofNat 5 (bits w 25 21)) (.ofNat 5 (bits w 20 16)) (.ofNat 5 (bits w 15 11)) (.ofNat 4 (bits w 10 7)) (bits w 6 6 == 1) (bits w 5 5 == 1))
  | 1 => some (.vfsubVv (.ofNat 5 (bits w 25 21)) (.ofNat 5 (bits w 20 16)) (.ofNat 5 (bits w 15 11)) (.ofNat 4 (bits w 10 7)) (bits w 6 6 == 1) (bits w 5 5 == 1))
  | 2 => some (.vfmulVv (.ofNat 5 (bits w 25 21)) (.ofNat 5 (bits w 20 16)) (.ofNat 5 (bits w 15 11)) (.ofNat 4 (bits w 10 7)) (bits w 6 6 == 1) (bits w 5 5 == 1))
  | 3 => some (.vfdivVv (.ofNat 5 (bits w 25 21)) (.ofNat 5 (bits w 20 16)) (.ofNat 5 (bits w 15 11)) (.ofNat 4 (bits w 10 7)) (bits w 6 6 == 1) (bits w 5 5 == 1))
  | 4 => some (.vfmaVv (.ofNat 5 (bits w 25 21)) (.ofNat 5 (bits w 20 16)) (.ofNat 5 (bits w 15 11)) (.ofNat 4 (bits w 10 7)) (bits w 6 6 == 1) (bits w 5 5 == 1))
  | 5 => some (.vfmsVv (.ofNat 5 (bits w 25 21)) (.ofNat 5 (bits w 20 16)) (.ofNat 5 (bits w 15 11)) (.ofNat 4 (bits w 10 7)) (bits w 6 6 == 1) (bits w 5 5 == 1))
  | 6 => some (.vfnmaVv (.ofNat 5 (bits w 25 21)) (.ofNat 5 (bits w 20 16)) (.ofNat 5 (bits w 15 11)) (.ofNat 4 (bits w 10 7)) (bits w 6 6 == 1) (bits w 5 5 == 1))
  | 7 => some (.vfminVv (.ofNat 5 (bits w 25 21)) (.ofNat 5 (bits w 20 16)) (.ofNat 5 (bits w 15 11)) (.ofNat 4 (bits w 10 7)) (bits w 6 6 == 1) (bits w 5 5 == 1))
  | 8 => some (.vfmaxVv (.ofNat 5 (bits w 25 21)) (.ofNat 5 (bits w 20 16)) (.ofNat 5 (bits w 15 11)) (.ofNat 4 (bits w 10 7)) (bits w 6 6 == 1) (bits w 5 5 == 1))
  | 9 => if bits w 15 11 = 0 ∧ bits w 5 5 = 0 then some (.vfsqrtVv (.ofNat 5 (bits w 25 21)) (.ofNat 5 (bits w 20 16)) (.ofNat 4 (bits w 10 7)) (bits w 6 6 == 1)) else none
  | 10 => if bits w 15 11 = 0 ∧ bits w 5 5 = 0 then some (.vfrcpVv (.ofNat 5 (bits w 25 21)) (.ofNat 5 (bits w 20 16)) (.ofNat 4 (bits w 10 7)) (bits w 6 6 == 1)) else none
  | 11 => if bits w 15 11 = 0 ∧ bits w 5 5 = 0 then some (.vfrsqVv (.ofNat 5 (bits w 25 21)) (.ofNat 5 (bits w 20 16)) (.ofNat 4 (bits w 10 7)) (bits w 6 6 == 1)) else none
  | 12 => if bits w 15 11 = 0 ∧ bits w 5 5 = 0 then some (.vfexp2Vv (.ofNat 5 (bits w 25 21)) (.ofNat 5 (bits w 20 16)) (.ofNat 4 (bits w 10 7)) (bits w 6 6 == 1)) else none
  | 13 => if bits w 15 11 = 0 ∧ bits w 5 5 = 0 then some (.vflog2Vv (.ofNat 5 (bits w 25 21)) (.ofNat 5 (bits w 20 16)) (.ofNat 4 (bits w 10 7)) (bits w 6 6 == 1)) else none
  | 14 => if bits w 15 11 = 0 ∧ bits w 5 5 = 0 then some (.vftanhVv (.ofNat 5 (bits w 25 21)) (.ofNat 5 (bits w 20 16)) (.ofNat 4 (bits w 10 7)) (bits w 6 6 == 1)) else none
  | 15 => if bits w 15 11 = 0 ∧ bits w 5 5 = 0 then some (.vfabsVv (.ofNat 5 (bits w 25 21)) (.ofNat 5 (bits w 20 16)) (.ofNat 4 (bits w 10 7)) (bits w 6 6 == 1)) else none
  | 16 => if bits w 15 11 = 0 ∧ bits w 5 5 = 0 then some (.vfnegVv (.ofNat 5 (bits w 25 21)) (.ofNat 5 (bits w 20 16)) (.ofNat 4 (bits w 10 7)) (bits w 6 6 == 1)) else none
  | 17 => some (.vfsgnjVv (.ofNat 5 (bits w 25 21)) (.ofNat 5 (bits w 20 16)) (.ofNat 5 (bits w 15 11)) (.ofNat 4 (bits w 10 7)) (bits w 6 6 == 1) (bits w 5 5 == 1))
  | 18 => if bits w 15 11 = 0 ∧ bits w 5 5 = 0 then some (.vfclassVv (.ofNat 5 (bits w 25 21)) (.ofNat 5 (bits w 20 16)) (.ofNat 4 (bits w 10 7)) (bits w 6 6 == 1)) else none
  | _ => none

/-- Major 0x2D (R64): the function is bits [4:0]. -/
noncomputable def decodeVfltVs (w : Nat) : Option Instr :=
  match bits w 4 0 with
  | 0 => if bits w 5 5 = 0 then some (.vfaddVs (.ofNat 5 (bits w 25 21)) (.ofNat 5 (bits w 20 16)) (.ofNat 5 (bits w 15 11)) (.ofNat 4 (bits w 10 7)) (bits w 6 6 == 1)) else none
  | 1 => if bits w 5 5 = 0 then some (.vfsubVs (.ofNat 5 (bits w 25 21)) (.ofNat 5 (bits w 20 16)) (.ofNat 5 (bits w 15 11)) (.ofNat 4 (bits w 10 7)) (bits w 6 6 == 1)) else none
  | 2 => if bits w 5 5 = 0 then some (.vfmulVs (.ofNat 5 (bits w 25 21)) (.ofNat 5 (bits w 20 16)) (.ofNat 5 (bits w 15 11)) (.ofNat 4 (bits w 10 7)) (bits w 6 6 == 1)) else none
  | 3 => if bits w 5 5 = 0 then some (.vfdivVs (.ofNat 5 (bits w 25 21)) (.ofNat 5 (bits w 20 16)) (.ofNat 5 (bits w 15 11)) (.ofNat 4 (bits w 10 7)) (bits w 6 6 == 1)) else none
  | 4 => if bits w 5 5 = 0 then some (.vfmaVs (.ofNat 5 (bits w 25 21)) (.ofNat 5 (bits w 20 16)) (.ofNat 5 (bits w 15 11)) (.ofNat 4 (bits w 10 7)) (bits w 6 6 == 1)) else none
  | 5 => if bits w 5 5 = 0 then some (.vfmsVs (.ofNat 5 (bits w 25 21)) (.ofNat 5 (bits w 20 16)) (.ofNat 5 (bits w 15 11)) (.ofNat 4 (bits w 10 7)) (bits w 6 6 == 1)) else none
  | 6 => if bits w 5 5 = 0 then some (.vfnmaVs (.ofNat 5 (bits w 25 21)) (.ofNat 5 (bits w 20 16)) (.ofNat 5 (bits w 15 11)) (.ofNat 4 (bits w 10 7)) (bits w 6 6 == 1)) else none
  | 7 => if bits w 5 5 = 0 then some (.vfminVs (.ofNat 5 (bits w 25 21)) (.ofNat 5 (bits w 20 16)) (.ofNat 5 (bits w 15 11)) (.ofNat 4 (bits w 10 7)) (bits w 6 6 == 1)) else none
  | 8 => if bits w 5 5 = 0 then some (.vfmaxVs (.ofNat 5 (bits w 25 21)) (.ofNat 5 (bits w 20 16)) (.ofNat 5 (bits w 15 11)) (.ofNat 4 (bits w 10 7)) (bits w 6 6 == 1)) else none
  | 9 => if bits w 15 11 = 0 ∧ bits w 5 5 = 0 then some (.vfsqrtVs (.ofNat 5 (bits w 25 21)) (.ofNat 5 (bits w 20 16)) (.ofNat 4 (bits w 10 7)) (bits w 6 6 == 1)) else none
  | 10 => if bits w 15 11 = 0 ∧ bits w 5 5 = 0 then some (.vfrcpVs (.ofNat 5 (bits w 25 21)) (.ofNat 5 (bits w 20 16)) (.ofNat 4 (bits w 10 7)) (bits w 6 6 == 1)) else none
  | 11 => if bits w 15 11 = 0 ∧ bits w 5 5 = 0 then some (.vfrsqVs (.ofNat 5 (bits w 25 21)) (.ofNat 5 (bits w 20 16)) (.ofNat 4 (bits w 10 7)) (bits w 6 6 == 1)) else none
  | 12 => if bits w 15 11 = 0 ∧ bits w 5 5 = 0 then some (.vfexp2Vs (.ofNat 5 (bits w 25 21)) (.ofNat 5 (bits w 20 16)) (.ofNat 4 (bits w 10 7)) (bits w 6 6 == 1)) else none
  | 13 => if bits w 15 11 = 0 ∧ bits w 5 5 = 0 then some (.vflog2Vs (.ofNat 5 (bits w 25 21)) (.ofNat 5 (bits w 20 16)) (.ofNat 4 (bits w 10 7)) (bits w 6 6 == 1)) else none
  | 14 => if bits w 15 11 = 0 ∧ bits w 5 5 = 0 then some (.vftanhVs (.ofNat 5 (bits w 25 21)) (.ofNat 5 (bits w 20 16)) (.ofNat 4 (bits w 10 7)) (bits w 6 6 == 1)) else none
  | 15 => if bits w 15 11 = 0 ∧ bits w 5 5 = 0 then some (.vfabsVs (.ofNat 5 (bits w 25 21)) (.ofNat 5 (bits w 20 16)) (.ofNat 4 (bits w 10 7)) (bits w 6 6 == 1)) else none
  | 16 => if bits w 15 11 = 0 ∧ bits w 5 5 = 0 then some (.vfnegVs (.ofNat 5 (bits w 25 21)) (.ofNat 5 (bits w 20 16)) (.ofNat 4 (bits w 10 7)) (bits w 6 6 == 1)) else none
  | 17 => if bits w 5 5 = 0 then some (.vfsgnjVs (.ofNat 5 (bits w 25 21)) (.ofNat 5 (bits w 20 16)) (.ofNat 5 (bits w 15 11)) (.ofNat 4 (bits w 10 7)) (bits w 6 6 == 1)) else none
  | 18 => if bits w 15 11 = 0 ∧ bits w 5 5 = 0 then some (.vfclassVs (.ofNat 5 (bits w 25 21)) (.ofNat 5 (bits w 20 16)) (.ofNat 4 (bits w 10 7)) (bits w 6 6 == 1)) else none
  | _ => none

/-- Major 0x2E (R64): the function is bits [4:0]. -/
noncomputable def decodeVcmp (w : Nat) : Option Instr :=
  match bits w 4 0 with
  | 0 => if bits w 25 25 = 0 then some (.vcmpeqVv (.ofNat 4 (bits w 24 21)) (.ofNat 5 (bits w 20 16)) (.ofNat 5 (bits w 15 11)) (.ofNat 4 (bits w 10 7)) (bits w 6 6 == 1) (bits w 5 5 == 1)) else none
  | 16 => if bits w 25 25 = 0 ∧ bits w 5 5 = 0 then some (.vcmpeqVs (.ofNat 4 (bits w 24 21)) (.ofNat 5 (bits w 20 16)) (.ofNat 5 (bits w 15 11)) (.ofNat 4 (bits w 10 7)) (bits w 6 6 == 1)) else none
  | 1 => if bits w 25 25 = 0 then some (.vcmpneVv (.ofNat 4 (bits w 24 21)) (.ofNat 5 (bits w 20 16)) (.ofNat 5 (bits w 15 11)) (.ofNat 4 (bits w 10 7)) (bits w 6 6 == 1) (bits w 5 5 == 1)) else none
  | 17 => if bits w 25 25 = 0 ∧ bits w 5 5 = 0 then some (.vcmpneVs (.ofNat 4 (bits w 24 21)) (.ofNat 5 (bits w 20 16)) (.ofNat 5 (bits w 15 11)) (.ofNat 4 (bits w 10 7)) (bits w 6 6 == 1)) else none
  | 2 => if bits w 25 25 = 0 then some (.vcmpltVv (.ofNat 4 (bits w 24 21)) (.ofNat 5 (bits w 20 16)) (.ofNat 5 (bits w 15 11)) (.ofNat 4 (bits w 10 7)) (bits w 6 6 == 1) (bits w 5 5 == 1)) else none
  | 18 => if bits w 25 25 = 0 ∧ bits w 5 5 = 0 then some (.vcmpltVs (.ofNat 4 (bits w 24 21)) (.ofNat 5 (bits w 20 16)) (.ofNat 5 (bits w 15 11)) (.ofNat 4 (bits w 10 7)) (bits w 6 6 == 1)) else none
  | 3 => if bits w 25 25 = 0 then some (.vcmpgeVv (.ofNat 4 (bits w 24 21)) (.ofNat 5 (bits w 20 16)) (.ofNat 5 (bits w 15 11)) (.ofNat 4 (bits w 10 7)) (bits w 6 6 == 1) (bits w 5 5 == 1)) else none
  | 19 => if bits w 25 25 = 0 ∧ bits w 5 5 = 0 then some (.vcmpgeVs (.ofNat 4 (bits w 24 21)) (.ofNat 5 (bits w 20 16)) (.ofNat 5 (bits w 15 11)) (.ofNat 4 (bits w 10 7)) (bits w 6 6 == 1)) else none
  | 4 => if bits w 25 25 = 0 then some (.vcmpltuVv (.ofNat 4 (bits w 24 21)) (.ofNat 5 (bits w 20 16)) (.ofNat 5 (bits w 15 11)) (.ofNat 4 (bits w 10 7)) (bits w 6 6 == 1) (bits w 5 5 == 1)) else none
  | 20 => if bits w 25 25 = 0 ∧ bits w 5 5 = 0 then some (.vcmpltuVs (.ofNat 4 (bits w 24 21)) (.ofNat 5 (bits w 20 16)) (.ofNat 5 (bits w 15 11)) (.ofNat 4 (bits w 10 7)) (bits w 6 6 == 1)) else none
  | 5 => if bits w 25 25 = 0 then some (.vcmpgeuVv (.ofNat 4 (bits w 24 21)) (.ofNat 5 (bits w 20 16)) (.ofNat 5 (bits w 15 11)) (.ofNat 4 (bits w 10 7)) (bits w 6 6 == 1) (bits w 5 5 == 1)) else none
  | 21 => if bits w 25 25 = 0 ∧ bits w 5 5 = 0 then some (.vcmpgeuVs (.ofNat 4 (bits w 24 21)) (.ofNat 5 (bits w 20 16)) (.ofNat 5 (bits w 15 11)) (.ofNat 4 (bits w 10 7)) (bits w 6 6 == 1)) else none
  | 6 => if bits w 25 25 = 0 then some (.vcmpfeqVv (.ofNat 4 (bits w 24 21)) (.ofNat 5 (bits w 20 16)) (.ofNat 5 (bits w 15 11)) (.ofNat 4 (bits w 10 7)) (bits w 6 6 == 1) (bits w 5 5 == 1)) else none
  | 22 => if bits w 25 25 = 0 ∧ bits w 5 5 = 0 then some (.vcmpfeqVs (.ofNat 4 (bits w 24 21)) (.ofNat 5 (bits w 20 16)) (.ofNat 5 (bits w 15 11)) (.ofNat 4 (bits w 10 7)) (bits w 6 6 == 1)) else none
  | 7 => if bits w 25 25 = 0 then some (.vcmpfltVv (.ofNat 4 (bits w 24 21)) (.ofNat 5 (bits w 20 16)) (.ofNat 5 (bits w 15 11)) (.ofNat 4 (bits w 10 7)) (bits w 6 6 == 1) (bits w 5 5 == 1)) else none
  | 23 => if bits w 25 25 = 0 ∧ bits w 5 5 = 0 then some (.vcmpfltVs (.ofNat 4 (bits w 24 21)) (.ofNat 5 (bits w 20 16)) (.ofNat 5 (bits w 15 11)) (.ofNat 4 (bits w 10 7)) (bits w 6 6 == 1)) else none
  | 8 => if bits w 25 25 = 0 then some (.vcmpfleVv (.ofNat 4 (bits w 24 21)) (.ofNat 5 (bits w 20 16)) (.ofNat 5 (bits w 15 11)) (.ofNat 4 (bits w 10 7)) (bits w 6 6 == 1) (bits w 5 5 == 1)) else none
  | 24 => if bits w 25 25 = 0 ∧ bits w 5 5 = 0 then some (.vcmpfleVs (.ofNat 4 (bits w 24 21)) (.ofNat 5 (bits w 20 16)) (.ofNat 5 (bits w 15 11)) (.ofNat 4 (bits w 10 7)) (bits w 6 6 == 1)) else none
  | 9 => if bits w 25 25 = 0 then some (.vcmpfunoVv (.ofNat 4 (bits w 24 21)) (.ofNat 5 (bits w 20 16)) (.ofNat 5 (bits w 15 11)) (.ofNat 4 (bits w 10 7)) (bits w 6 6 == 1) (bits w 5 5 == 1)) else none
  | 25 => if bits w 25 25 = 0 ∧ bits w 5 5 = 0 then some (.vcmpfunoVs (.ofNat 4 (bits w 24 21)) (.ofNat 5 (bits w 20 16)) (.ofNat 5 (bits w 15 11)) (.ofNat 4 (bits w 10 7)) (bits w 6 6 == 1)) else none
  | _ => none

/-- Major 0x2F (R64): the function is bits [4:0]. -/
noncomputable def decodeVmask (w : Nat) : Option Instr :=
  match bits w 4 0 with
  | 0 => if bits w 10 7 = 0 then some (.kand (.ofNat 5 (bits w 25 21)) (.ofNat 5 (bits w 20 16)) (.ofNat 5 (bits w 15 11)) (bits w 6 6 == 1) (bits w 5 5 == 1)) else none
  | 1 => if bits w 10 7 = 0 then some (.kor (.ofNat 5 (bits w 25 21)) (.ofNat 5 (bits w 20 16)) (.ofNat 5 (bits w 15 11)) (bits w 6 6 == 1) (bits w 5 5 == 1)) else none
  | 2 => if bits w 10 7 = 0 then some (.kxor (.ofNat 5 (bits w 25 21)) (.ofNat 5 (bits w 20 16)) (.ofNat 5 (bits w 15 11)) (bits w 6 6 == 1) (bits w 5 5 == 1)) else none
  | 3 => if bits w 10 7 = 0 then some (.kandn (.ofNat 5 (bits w 25 21)) (.ofNat 5 (bits w 20 16)) (.ofNat 5 (bits w 15 11)) (bits w 6 6 == 1) (bits w 5 5 == 1)) else none
  | 4 => if bits w 15 7 = 0 ∧ bits w 5 5 = 0 then some (.knot (.ofNat 5 (bits w 25 21)) (.ofNat 5 (bits w 20 16)) (bits w 6 6 == 1)) else none
  | 5 => if bits w 15 7 = 0 ∧ bits w 5 5 = 0 then some (.kmov (.ofNat 5 (bits w 25 21)) (.ofNat 5 (bits w 20 16)) (bits w 6 6 == 1)) else none
  | 6 => if bits w 15 7 = 0 ∧ bits w 5 5 = 0 then some (.kpop (.ofNat 5 (bits w 25 21)) (.ofNat 5 (bits w 20 16)) (bits w 6 6 == 1)) else none
  | 7 => if bits w 15 7 = 0 ∧ bits w 5 5 = 0 then some (.kpopvl (.ofNat 5 (bits w 25 21)) (.ofNat 5 (bits w 20 16)) (bits w 6 6 == 1)) else none
  | 8 => if bits w 15 7 = 0 ∧ bits w 5 5 = 0 then some (.kfirst (.ofNat 5 (bits w 25 21)) (.ofNat 5 (bits w 20 16)) (bits w 6 6 == 1)) else none
  | 9 => if bits w 10 5 = 0 then some (.kfromg (.ofNat 5 (bits w 25 21)) (.ofNat 5 (bits w 20 16)) (.ofNat 5 (bits w 15 11))) else none
  | 10 => if bits w 10 7 = 0 ∧ bits w 5 5 = 0 then some (.ktog (.ofNat 5 (bits w 25 21)) (.ofNat 5 (bits w 20 16)) (.ofNat 5 (bits w 15 11)) (bits w 6 6 == 1)) else none
  | 11 => if bits w 15 7 = 0 ∧ bits w 5 5 = 0 then some (.kprefix (.ofNat 5 (bits w 25 21)) (.ofNat 5 (bits w 20 16)) (bits w 6 6 == 1)) else none
  | 12 => if bits w 15 7 = 0 ∧ bits w 5 5 = 0 then some (.ksbf (.ofNat 5 (bits w 25 21)) (.ofNat 5 (bits w 20 16)) (bits w 6 6 == 1)) else none
  | _ => none

/-- Major 0x30 (R64): the function is bits [4:0]. -/
noncomputable def decodeVperm (w : Nat) : Option Instr :=
  match bits w 4 0 with
  | 0 => some (.vmerge (.ofNat 5 (bits w 25 21)) (.ofNat 5 (bits w 20 16)) (.ofNat 5 (bits w 15 11)) (.ofNat 4 (bits w 10 7)) (bits w 6 6 == 1) (bits w 5 5 == 1))
  | 1 => if bits w 5 5 = 0 then some (.vslideup (.ofNat 5 (bits w 25 21)) (.ofNat 5 (bits w 20 16)) (.ofNat 5 (bits w 15 11)) (.ofNat 4 (bits w 10 7)) (bits w 6 6 == 1)) else none
  | 2 => if bits w 5 5 = 0 then some (.vslidedn (.ofNat 5 (bits w 25 21)) (.ofNat 5 (bits w 20 16)) (.ofNat 5 (bits w 15 11)) (.ofNat 4 (bits w 10 7)) (bits w 6 6 == 1)) else none
  | 3 => some (.vpermx (.ofNat 5 (bits w 25 21)) (.ofNat 5 (bits w 20 16)) (.ofNat 5 (bits w 15 11)) (.ofNat 4 (bits w 10 7)) (bits w 6 6 == 1) (bits w 5 5 == 1))
  | 4 => if bits w 15 11 = 0 ∧ bits w 5 5 = 0 then some (.vcompress (.ofNat 5 (bits w 25 21)) (.ofNat 5 (bits w 20 16)) (.ofNat 4 (bits w 10 7)) (bits w 6 6 == 1)) else none
  | 5 => if bits w 15 11 = 0 ∧ bits w 5 5 = 0 then some (.vexpand (.ofNat 5 (bits w 25 21)) (.ofNat 5 (bits w 20 16)) (.ofNat 4 (bits w 10 7)) (bits w 6 6 == 1)) else none
  | 6 => if bits w 5 5 = 0 then some (.vbcast (.ofNat 5 (bits w 25 21)) (.ofNat 5 (bits w 20 16)) (.ofNat 5 (bits w 15 11)) (.ofNat 4 (bits w 10 7)) (bits w 6 6 == 1)) else none
  | 7 => if bits w 10 5 = 0 then some (.vins (.ofNat 5 (bits w 25 21)) (.ofNat 5 (bits w 20 16)) (.ofNat 5 (bits w 15 11))) else none
  | 8 => if bits w 10 7 = 0 ∧ bits w 5 5 = 0 then some (.vext (.ofNat 5 (bits w 25 21)) (.ofNat 5 (bits w 20 16)) (.ofNat 5 (bits w 15 11)) (bits w 6 6 == 1)) else none
  | 9 => if bits w 15 11 = 0 ∧ bits w 5 5 = 0 then some (.vmov (.ofNat 5 (bits w 25 21)) (.ofNat 5 (bits w 20 16)) (.ofNat 4 (bits w 10 7)) (bits w 6 6 == 1)) else none
  | 10 => some (.vzip (.ofNat 5 (bits w 25 21)) (.ofNat 5 (bits w 20 16)) (.ofNat 5 (bits w 15 11)) (.ofNat 4 (bits w 10 7)) (bits w 6 6 == 1) (bits w 5 5 == 1))
  | 11 => some (.vunzip (.ofNat 5 (bits w 25 21)) (.ofNat 5 (bits w 20 16)) (.ofNat 5 (bits w 15 11)) (.ofNat 4 (bits w 10 7)) (bits w 6 6 == 1) (bits w 5 5 == 1))
  | _ => none

/-- Major 0x32 (R64): the function is bits [4:0]. -/
noncomputable def decodeVred (w : Nat) : Option Instr :=
  match bits w 4 0 with
  | 0 => some (.vredsum (.ofNat 5 (bits w 25 21)) (.ofNat 5 (bits w 20 16)) (.ofNat 5 (bits w 15 11)) (.ofNat 4 (bits w 10 7)) (bits w 6 6 == 1) (bits w 5 5 == 1))
  | 1 => some (.vredmax (.ofNat 5 (bits w 25 21)) (.ofNat 5 (bits w 20 16)) (.ofNat 5 (bits w 15 11)) (.ofNat 4 (bits w 10 7)) (bits w 6 6 == 1) (bits w 5 5 == 1))
  | 2 => some (.vredmin (.ofNat 5 (bits w 25 21)) (.ofNat 5 (bits w 20 16)) (.ofNat 5 (bits w 15 11)) (.ofNat 4 (bits w 10 7)) (bits w 6 6 == 1) (bits w 5 5 == 1))
  | 3 => some (.vredand (.ofNat 5 (bits w 25 21)) (.ofNat 5 (bits w 20 16)) (.ofNat 5 (bits w 15 11)) (.ofNat 4 (bits w 10 7)) (bits w 6 6 == 1) (bits w 5 5 == 1))
  | 4 => some (.vredor (.ofNat 5 (bits w 25 21)) (.ofNat 5 (bits w 20 16)) (.ofNat 5 (bits w 15 11)) (.ofNat 4 (bits w 10 7)) (bits w 6 6 == 1) (bits w 5 5 == 1))
  | 5 => some (.vredxor (.ofNat 5 (bits w 25 21)) (.ofNat 5 (bits w 20 16)) (.ofNat 5 (bits w 15 11)) (.ofNat 4 (bits w 10 7)) (bits w 6 6 == 1) (bits w 5 5 == 1))
  | 6 => some (.vscan (.ofNat 5 (bits w 25 21)) (.ofNat 5 (bits w 20 16)) (.ofNat 5 (bits w 15 11)) (.ofNat 4 (bits w 10 7)) (bits w 6 6 == 1) (bits w 5 5 == 1))
  | 7 => some (.vscanmax (.ofNat 5 (bits w 25 21)) (.ofNat 5 (bits w 20 16)) (.ofNat 5 (bits w 15 11)) (.ofNat 4 (bits w 10 7)) (bits w 6 6 == 1) (bits w 5 5 == 1))
  | 8 => if bits w 5 5 = 0 then some (.vsegred (.ofNat 5 (bits w 25 21)) (.ofNat 5 (bits w 20 16)) (.ofNat 5 (bits w 15 11)) (.ofNat 4 (bits w 10 7)) (bits w 6 6 == 1)) else none
  | 9 => if bits w 5 5 = 0 then some (.vsegscan (.ofNat 5 (bits w 25 21)) (.ofNat 5 (bits w 20 16)) (.ofNat 5 (bits w 15 11)) (.ofNat 4 (bits w 10 7)) (bits w 6 6 == 1)) else none
  | 10 => if bits w 5 5 = 0 then some (.vsegmax (.ofNat 5 (bits w 25 21)) (.ofNat 5 (bits w 20 16)) (.ofNat 5 (bits w 15 11)) (.ofNat 4 (bits w 10 7)) (bits w 6 6 == 1)) else none
  | _ => none

/-- Major 0x34 (R64): the function is bits [4:0]. -/
noncomputable def decodeVload (w : Nat) : Option Instr :=
  match bits w 4 0 with
  | 0 => if bits w 15 11 = 0 ∧ bits w 5 5 = 0 then some (.vld (.ofNat 5 (bits w 25 21)) (.ofNat 5 (bits w 20 16)) (.ofNat 4 (bits w 10 7)) (bits w 6 6 == 1)) else none
  | 1 => if bits w 5 5 = 0 then some (.vlds (.ofNat 5 (bits w 25 21)) (.ofNat 5 (bits w 20 16)) (.ofNat 5 (bits w 15 11)) (.ofNat 4 (bits w 10 7)) (bits w 6 6 == 1)) else none
  | 2 => some (.vldx (.ofNat 5 (bits w 25 21)) (.ofNat 5 (bits w 20 16)) (.ofNat 5 (bits w 15 11)) (.ofNat 4 (bits w 10 7)) (bits w 6 6 == 1) (bits w 5 5 == 1))
  | 3 => if bits w 15 11 = 0 ∧ bits w 5 5 = 0 then some (.vldn (.ofNat 5 (bits w 25 21)) (.ofNat 5 (bits w 20 16)) (.ofNat 4 (bits w 10 7)) (bits w 6 6 == 1)) else none
  | 4 => if bits w 15 5 = 0 then some (.vldk (.ofNat 5 (bits w 25 21)) (.ofNat 5 (bits w 20 16))) else none
  | 5 => if bits w 15 11 = 0 ∧ bits w 6 5 = 0 then some (.vldb (.ofNat 5 (bits w 25 21)) (.ofNat 5 (bits w 20 16)) (.ofNat 4 (bits w 10 7))) else none
  | 6 => if bits w 6 5 = 0 then some (.vldt (.ofNat 5 (bits w 25 21)) (.ofNat 5 (bits w 20 16)) (.ofNat 5 (bits w 15 11)) (.ofNat 4 (bits w 10 7))) else none
  | _ => none

/-- Major 0x35 (R64): the function is bits [4:0]. -/
noncomputable def decodeVstore (w : Nat) : Option Instr :=
  match bits w 4 0 with
  | 0 => if bits w 15 11 = 0 ∧ bits w 6 6 = 0 then some (.vst (.ofNat 5 (bits w 25 21)) (.ofNat 5 (bits w 20 16)) (.ofNat 4 (bits w 10 7)) (bits w 5 5 == 1)) else none
  | 1 => if bits w 6 6 = 0 then some (.vsts (.ofNat 5 (bits w 25 21)) (.ofNat 5 (bits w 20 16)) (.ofNat 5 (bits w 15 11)) (.ofNat 4 (bits w 10 7)) (bits w 5 5 == 1)) else none
  | 2 => if bits w 6 6 = 0 then some (.vstx (.ofNat 5 (bits w 25 21)) (.ofNat 5 (bits w 20 16)) (.ofNat 5 (bits w 15 11)) (.ofNat 4 (bits w 10 7)) (bits w 5 5 == 1)) else none
  | 3 => if bits w 15 11 = 0 ∧ bits w 6 6 = 0 then some (.vstn (.ofNat 5 (bits w 25 21)) (.ofNat 5 (bits w 20 16)) (.ofNat 4 (bits w 10 7)) (bits w 5 5 == 1)) else none
  | 4 => if bits w 15 5 = 0 then some (.vstk (.ofNat 5 (bits w 25 21)) (.ofNat 5 (bits w 20 16))) else none
  | 5 => if bits w 6 6 = 0 then some (.vstt (.ofNat 5 (bits w 25 21)) (.ofNat 5 (bits w 20 16)) (.ofNat 5 (bits w 15 11)) (.ofNat 4 (bits w 10 7)) (bits w 5 5 == 1)) else none
  | _ => none

/-- Major 0x38 (R64): the function is bits [5:0]. -/
noncomputable def decodeMtx (w : Nat) : Option Instr :=
  match bits w 5 0 with
  | 0 => if bits w 25 21 = 0 ∧ bits w 15 6 = 0 then some (.mctx (.ofNat 5 (bits w 20 16))) else none
  | 1 => if bits w 25 21 = 0 ∧ bits w 15 6 = 0 then some (.mgeo (.ofNat 5 (bits w 20 16))) else none
  | 2 => if bits w 25 21 = 0 then some (.mloadb (.ofNat 5 (bits w 20 16)) (.ofNat 5 (bits w 15 11)) (.ofNat 5 (bits w 10 6))) else none
  | 3 => if bits w 25 11 = 0 then some (.mswap (.ofNat 5 (bits w 10 6))) else none
  | 4 => if bits w 25 11 = 0 then some (.mrun (.ofNat 5 (bits w 10 6))) else none
  | 5 => if bits w 25 11 = 0 then some (.mclr (.ofNat 5 (bits w 10 6))) else none
  | _ => none

/-- Major 0x39 (R64): the function is bits [5:0]. -/
noncomputable def decodeCpye (w : Nat) : Option Instr :=
  match bits w 5 0 with
  | 0 => if bits w 25 21 = 0 ∧ bits w 15 6 = 0 then some (.cpcfg (.ofNat 5 (bits w 20 16))) else none
  | 1 => some (.cpy (.ofNat 5 (bits w 25 21)) (.ofNat 5 (bits w 20 16)) (.ofNat 5 (bits w 15 11)) (.ofNat 5 (bits w 10 6)))
  | 2 => some (.cpyn (.ofNat 5 (bits w 25 21)) (.ofNat 5 (bits w 20 16)) (.ofNat 5 (bits w 15 11)) (.ofNat 5 (bits w 10 6)))
  | 3 => if bits w 25 21 = 0 ∧ bits w 15 11 = 0 then some (.publ (.ofNat 5 (bits w 20 16)) (.ofNat 5 (bits w 10 6))) else none
  | 4 => if bits w 25 6 = 0 then some (.cpabort) else none
  | _ => none

/-- Major 0x3A (R64): the function is bits [5:0]. -/
noncomputable def decodeStrm (w : Nat) : Option Instr :=
  match bits w 5 0 with
  | 0 => if bits w 15 6 = 0 then some (.sbind (.ofNat 5 (bits w 25 21)) (.ofNat 5 (bits w 20 16))) else none
  | 1 => if bits w 20 6 = 0 then some (.sunbind (.ofNat 5 (bits w 25 21))) else none
  | 2 => if bits w 20 6 = 0 then some (.ssync (.ofNat 5 (bits w 25 21))) else none
  | 3 => if bits w 15 6 = 0 then some (.sstat (.ofNat 5 (bits w 25 21)) (.ofNat 5 (bits w 20 16))) else none
  | _ => none

/-- Major 0x3B (R64): the function is bits [5:0]. -/
noncomputable def decodeGraph (w : Nat) : Option Instr :=
  match bits w 5 0 with
  | 0 => if bits w 25 21 = 0 then some (.gdef (.ofNat 5 (bits w 20 16)) (.ofNat 5 (bits w 15 11)) (.ofNat 5 (bits w 10 6))) else none
  | 1 => if bits w 25 11 = 0 then some (.gwait (.ofNat 5 (bits w 10 6))) else none
  | 2 => if bits w 20 11 = 0 then some (.gqry (.ofNat 5 (bits w 25 21)) (.ofNat 5 (bits w 10 6))) else none
  | _ => none

/-- Major 0x3E (R64): the function is bits [5:0]. -/
noncomputable def decodeSys (w : Nat) : Option Instr :=
  match bits w 5 0 with
  | 0 => if bits w 25 6 = 0 then some (.eret) else none
  | 1 => if bits w 25 21 = 0 ∧ bits w 10 6 = 0 then some (.rtwr (.ofNat 5 (bits w 20 16)) (.ofNat 5 (bits w 15 11))) else none
  | 2 => if bits w 25 21 = 0 ∧ bits w 10 6 = 0 then some (.rtrd (.ofNat 5 (bits w 20 16)) (.ofNat 5 (bits w 15 11))) else none
  | 3 => if bits w 25 21 = 0 ∧ bits w 10 6 = 0 then some (.rtinv (.ofNat 5 (bits w 20 16)) (.ofNat 5 (bits w 15 11))) else none
  | 4 => if bits w 15 6 = 0 then some (.rsplit (.ofNat 5 (bits w 25 21)) (.ofNat 5 (bits w 20 16))) else none
  | 5 => if bits w 15 6 = 0 then some (.rmerge (.ofNat 5 (bits w 25 21)) (.ofNat 5 (bits w 20 16))) else none
  | 6 => if bits w 15 6 = 0 then some (.genbump (.ofNat 5 (bits w 25 21)) (.ofNat 5 (bits w 20 16))) else none
  | 7 => if bits w 10 6 = 0 then some (.rcompact (.ofNat 5 (bits w 25 21)) (.ofNat 5 (bits w 20 16)) (.ofNat 5 (bits w 15 11))) else none
  | 8 => if bits w 10 6 = 0 then some (.ctxsv (.ofNat 5 (bits w 25 21)) (.ofNat 5 (bits w 20 16)) (.ofNat 5 (bits w 15 11))) else none
  | 9 => if bits w 10 6 = 0 then some (.ctxld (.ofNat 5 (bits w 25 21)) (.ofNat 5 (bits w 20 16)) (.ofNat 5 (bits w 15 11))) else none
  | 10 => if bits w 15 6 = 0 then some (.ipost (.ofNat 5 (bits w 25 21)) (.ofNat 5 (bits w 20 16))) else none
  | 11 => if bits w 15 6 = 0 then some (.wfi (.ofNat 5 (bits w 25 21)) (.ofNat 5 (bits w 20 16))) else none
  | 12 => if bits w 15 6 = 0 then some (.haltc (.ofNat 5 (bits w 25 21)) (.ofNat 5 (bits w 20 16))) else none
  | _ => none

/-- The opcode map of R64, by major. VCVT's destination format is bits [4:0] of major 0x31. -/
noncomputable def decodeRaw (w : Nat) : Option Instr :=
  match bits w 31 26 with
  | 0x01 => decodeInt w
  | 0x02 => decodeMulDiv w
  | 0x03 => decodeBitField w
  | 0x04 => some (.addi (.ofNat 5 (bits w 25 21)) (.ofNat 5 (bits w 20 16)) (.ofNat 16 (bits w 15 0)))
  | 0x05 => some (.andi (.ofNat 5 (bits w 25 21)) (.ofNat 5 (bits w 20 16)) (.ofNat 16 (bits w 15 0)))
  | 0x06 => some (.ori (.ofNat 5 (bits w 25 21)) (.ofNat 5 (bits w 20 16)) (.ofNat 16 (bits w 15 0)))
  | 0x07 => some (.xori (.ofNat 5 (bits w 25 21)) (.ofNat 5 (bits w 20 16)) (.ofNat 16 (bits w 15 0)))
  | 0x08 => some (.slti (.ofNat 5 (bits w 25 21)) (.ofNat 5 (bits w 20 16)) (.ofNat 16 (bits w 15 0)))
  | 0x09 => some (.sltiu (.ofNat 5 (bits w 25 21)) (.ofNat 5 (bits w 20 16)) (.ofNat 16 (bits w 15 0)))
  | 0x0A => decodeShi w
  | 0x0B => if bits w 20 18 = 0 then some (.movz (.ofNat 5 (bits w 25 21)) (.ofNat 2 (bits w 17 16)) (.ofNat 16 (bits w 15 0))) else none
  | 0x0C => if bits w 20 18 = 0 then some (.movk (.ofNat 5 (bits w 25 21)) (.ofNat 2 (bits w 17 16)) (.ofNat 16 (bits w 15 0))) else none
  | 0x0D => some (.lapc (.ofNat 5 (bits w 25 21)) (.ofNat 21 (bits w 20 0)))
  | 0x0E => some (.bfs (.ofNat 10 (bits w 25 16)) (.ofNat 16 (bits w 15 0)))
  | 0x0F => some (.bfc (.ofNat 10 (bits w 25 16)) (.ofNat 16 (bits w 15 0)))
  | 0x10 => some (.beq (.ofNat 5 (bits w 25 21)) (.ofNat 5 (bits w 20 16)) (.ofNat 16 (bits w 15 0)))
  | 0x11 => some (.bne (.ofNat 5 (bits w 25 21)) (.ofNat 5 (bits w 20 16)) (.ofNat 16 (bits w 15 0)))
  | 0x12 => some (.blt (.ofNat 5 (bits w 25 21)) (.ofNat 5 (bits w 20 16)) (.ofNat 16 (bits w 15 0)))
  | 0x13 => some (.bge (.ofNat 5 (bits w 25 21)) (.ofNat 5 (bits w 20 16)) (.ofNat 16 (bits w 15 0)))
  | 0x14 => some (.bltu (.ofNat 5 (bits w 25 21)) (.ofNat 5 (bits w 20 16)) (.ofNat 16 (bits w 15 0)))
  | 0x15 => some (.bgeu (.ofNat 5 (bits w 25 21)) (.ofNat 5 (bits w 20 16)) (.ofNat 16 (bits w 15 0)))
  | 0x16 => some (.j (.ofNat 26 (bits w 25 0)))
  | 0x17 => some (.jal (.ofNat 26 (bits w 25 0)))
  | 0x18 => decodeJump w
  | 0x19 => some (.lb (.ofNat 5 (bits w 25 21)) (.ofNat 5 (bits w 20 16)) (.ofNat 16 (bits w 15 0)))
  | 0x1A => some (.lbz (.ofNat 5 (bits w 25 21)) (.ofNat 5 (bits w 20 16)) (.ofNat 16 (bits w 15 0)))
  | 0x1B => some (.lh (.ofNat 5 (bits w 25 21)) (.ofNat 5 (bits w 20 16)) (.ofNat 16 (bits w 15 0)))
  | 0x1C => some (.lhz (.ofNat 5 (bits w 25 21)) (.ofNat 5 (bits w 20 16)) (.ofNat 16 (bits w 15 0)))
  | 0x1D => some (.lw (.ofNat 5 (bits w 25 21)) (.ofNat 5 (bits w 20 16)) (.ofNat 16 (bits w 15 0)))
  | 0x1E => some (.lwz (.ofNat 5 (bits w 25 21)) (.ofNat 5 (bits w 20 16)) (.ofNat 16 (bits w 15 0)))
  | 0x1F => some (.ld (.ofNat 5 (bits w 25 21)) (.ofNat 5 (bits w 20 16)) (.ofNat 16 (bits w 15 0)))
  | 0x20 => some (.sb (.ofNat 5 (bits w 25 21)) (.ofNat 5 (bits w 20 16)) (.ofNat 16 (bits w 15 0)))
  | 0x21 => some (.sh (.ofNat 5 (bits w 25 21)) (.ofNat 5 (bits w 20 16)) (.ofNat 16 (bits w 15 0)))
  | 0x22 => some (.sw (.ofNat 5 (bits w 25 21)) (.ofNat 5 (bits w 20 16)) (.ofNat 16 (bits w 15 0)))
  | 0x23 => some (.sd (.ofNat 5 (bits w 25 21)) (.ofNat 5 (bits w 20 16)) (.ofNat 16 (bits w 15 0)))
  | 0x24 => decodeAtom w
  | 0x25 => decodeSync w
  | 0x26 => decodeWisp w
  | 0x27 => decodeCreg w
  | 0x28 => decodeSetVl w
  | 0x29 => decodeSetD w
  | 0x2A => decodeVintVv w
  | 0x2B => decodeVintVs w
  | 0x2C => decodeVfltVv w
  | 0x2D => decodeVfltVs w
  | 0x2E => decodeVcmp w
  | 0x2F => decodeVmask w
  | 0x30 => decodeVperm w
  | 0x31 => if bits w 5 5 = 0 then some (.vcvt (.ofNat 5 (bits w 25 21)) (.ofNat 5 (bits w 20 16)) (.ofNat 5 (bits w 15 11)) (.ofNat 4 (bits w 10 7)) (bits w 6 6 == 1) (.ofNat 5 (bits w 4 0))) else none
  | 0x32 => decodeVred w
  | 0x33 => some (.viota (.ofNat 5 (bits w 25 21)) (.ofNat 4 (bits w 20 17)) (.ofNat 9 (bits w 16 8)) (.ofNat 8 (bits w 7 0)))
  | 0x34 => decodeVload w
  | 0x35 => decodeVstore w
  | 0x38 => decodeMtx w
  | 0x39 => decodeCpye w
  | 0x3A => decodeStrm w
  | 0x3B => decodeGraph w
  | 0x3E => decodeSys w
  | _ => none

/-- Reads one 32-bit word (R60, R65). -/
noncomputable def decode (w : BitVec 32) : Except DecodeError Instr :=
  if reservedMajor (bits w.toNat 31 26) then .error .reservedMajor
  else match decodeRaw w.toNat with
    | none => .error .unassigned
    | some i => if i.wf then .ok i else .error .operandLimit

/-- The little-endian value of a list of bytes (R3). -/
def leBytes : List Byte → Nat
  | [] => 0
  | b :: bs => b.toNat + 256 * leBytes bs

/-- n bytes of a value, the lowest address first (R3). -/
def toBytes : Nat → Nat → List Byte
  | 0, _ => []
  | n + 1, v => BitVec.ofNat 8 v :: toBytes n (v / 256)

/-- Reads the instruction at the head of a list of bytes, with the rest of the list. -/
noncomputable def decodeBytes (bs : List Byte) : Except DecodeError (Instr × List Byte) :=
  match bs with
  | b0 :: b1 :: b2 :: b3 :: rest =>
    match decode (BitVec.ofNat 32 (leBytes [b0, b1, b2, b3])) with
    | .ok i => .ok (i, rest)
    | .error e => .error e
  | _ => .error .truncated

/-- The host's question: the instruction the decoder reads from a word given as the opcode table numbers its bits. -/
noncomputable def decodeTableWord (_nbits w : Nat) : Option Instr :=
  match decodeBytes (toBytes 4 w) with
  | .ok (i, _) => some i
  | .error _ => none

/-- The word of an instruction, as a natural number (R60, R64). A step of another agent has no word: 0, which no
instruction has (R65). -/
def encodeNat : Instr → Nat
  | .add d a b => 0x4000000 + d.toNat * 2097152 + a.toNat * 65536 + b.toNat * 2048
  | .sub d a b => 0x4000001 + d.toNat * 2097152 + a.toNat * 65536 + b.toNat * 2048
  | .and d a b => 0x4000002 + d.toNat * 2097152 + a.toNat * 65536 + b.toNat * 2048
  | .or d a b => 0x4000003 + d.toNat * 2097152 + a.toNat * 65536 + b.toNat * 2048
  | .xor d a b => 0x4000004 + d.toNat * 2097152 + a.toNat * 65536 + b.toNat * 2048
  | .andn d a b => 0x4000005 + d.toNat * 2097152 + a.toNat * 65536 + b.toNat * 2048
  | .orn d a b => 0x4000006 + d.toNat * 2097152 + a.toNat * 65536 + b.toNat * 2048
  | .sll d a b => 0x4000007 + d.toNat * 2097152 + a.toNat * 65536 + b.toNat * 2048
  | .srl d a b => 0x4000008 + d.toNat * 2097152 + a.toNat * 65536 + b.toNat * 2048
  | .sra d a b => 0x4000009 + d.toNat * 2097152 + a.toNat * 65536 + b.toNat * 2048
  | .rol d a b => 0x400000A + d.toNat * 2097152 + a.toNat * 65536 + b.toNat * 2048
  | .ror d a b => 0x400000B + d.toNat * 2097152 + a.toNat * 65536 + b.toNat * 2048
  | .slt d a b => 0x400000C + d.toNat * 2097152 + a.toNat * 65536 + b.toNat * 2048
  | .sltu d a b => 0x400000D + d.toNat * 2097152 + a.toNat * 65536 + b.toNat * 2048
  | .min d a b => 0x400000E + d.toNat * 2097152 + a.toNat * 65536 + b.toNat * 2048
  | .max d a b => 0x400000F + d.toNat * 2097152 + a.toNat * 65536 + b.toNat * 2048
  | .minu d a b => 0x4000010 + d.toNat * 2097152 + a.toNat * 65536 + b.toNat * 2048
  | .maxu d a b => 0x4000011 + d.toNat * 2097152 + a.toNat * 65536 + b.toNat * 2048
  | .addw d a b => 0x4000012 + d.toNat * 2097152 + a.toNat * 65536 + b.toNat * 2048
  | .subw d a b => 0x4000013 + d.toNat * 2097152 + a.toNat * 65536 + b.toNat * 2048
  | .clz d a => 0x4000014 + d.toNat * 2097152 + a.toNat * 65536
  | .ctz d a => 0x4000015 + d.toNat * 2097152 + a.toNat * 65536
  | .popc d a => 0x4000016 + d.toNat * 2097152 + a.toNat * 65536
  | .brev d a => 0x4000017 + d.toNat * 2097152 + a.toNat * 65536
  | .bswap d a => 0x4000018 + d.toNat * 2097152 + a.toNat * 65536
  | .sext d a x => 0x4000019 + d.toNat * 2097152 + a.toNat * 65536 + x.toNat * 64
  | .zext d a x => 0x400001A + d.toNat * 2097152 + a.toNat * 65536 + x.toNat * 64
  | .bfxv d a b => 0x400001B + d.toNat * 2097152 + a.toNat * 65536 + b.toNat * 2048
  | .bfxzv d a b => 0x400001C + d.toNat * 2097152 + a.toNat * 65536 + b.toNat * 2048
  | .bfiv d a b => 0x400001D + d.toNat * 2097152 + a.toNat * 65536 + b.toNat * 2048
  | .selnz d a b => 0x400001E + d.toNat * 2097152 + a.toNat * 65536 + b.toNat * 2048
  | .selz d a b => 0x400001F + d.toNat * 2097152 + a.toNat * 65536 + b.toNat * 2048
  | .mul d a b => 0x8000000 + d.toNat * 2097152 + a.toNat * 65536 + b.toNat * 2048
  | .mulh d a b => 0x8000001 + d.toNat * 2097152 + a.toNat * 65536 + b.toNat * 2048
  | .mulhu d a b => 0x8000002 + d.toNat * 2097152 + a.toNat * 65536 + b.toNat * 2048
  | .mulhsu d a b => 0x8000003 + d.toNat * 2097152 + a.toNat * 65536 + b.toNat * 2048
  | .mulw d a b => 0x8000004 + d.toNat * 2097152 + a.toNat * 65536 + b.toNat * 2048
  | .div d a b => 0x8000005 + d.toNat * 2097152 + a.toNat * 65536 + b.toNat * 2048
  | .divu d a b => 0x8000006 + d.toNat * 2097152 + a.toNat * 65536 + b.toNat * 2048
  | .rem d a b => 0x8000007 + d.toNat * 2097152 + a.toNat * 65536 + b.toNat * 2048
  | .remu d a b => 0x8000008 + d.toNat * 2097152 + a.toNat * 65536 + b.toNat * 2048
  | .divw d a b => 0x8000009 + d.toNat * 2097152 + a.toNat * 65536 + b.toNat * 2048
  | .bfx d a pos wm1 => 0xC000000 + d.toNat * 2097152 + a.toNat * 65536 + pos.toNat * 1024 + wm1.toNat * 16
  | .bfxz d a pos wm1 => 0xC000001 + d.toNat * 2097152 + a.toNat * 65536 + pos.toNat * 1024 + wm1.toNat * 16
  | .bfi d a pos wm1 => 0xC000002 + d.toNat * 2097152 + a.toNat * 65536 + pos.toNat * 1024 + wm1.toNat * 16
  | .addi d a imm => 0x10000000 + d.toNat * 2097152 + a.toNat * 65536 + imm.toNat
  | .andi d a imm => 0x14000000 + d.toNat * 2097152 + a.toNat * 65536 + imm.toNat
  | .ori d a imm => 0x18000000 + d.toNat * 2097152 + a.toNat * 65536 + imm.toNat
  | .xori d a imm => 0x1C000000 + d.toNat * 2097152 + a.toNat * 65536 + imm.toNat
  | .slti d a imm => 0x20000000 + d.toNat * 2097152 + a.toNat * 65536 + imm.toNat
  | .sltiu d a imm => 0x24000000 + d.toNat * 2097152 + a.toNat * 65536 + imm.toNat
  | .slli d a amt => 0x28000000 + d.toNat * 2097152 + a.toNat * 65536 + amt.toNat
  | .srli d a amt => 0x28004000 + d.toNat * 2097152 + a.toNat * 65536 + amt.toNat
  | .srai d a amt => 0x28008000 + d.toNat * 2097152 + a.toNat * 65536 + amt.toNat
  | .rori d a amt => 0x2800C000 + d.toNat * 2097152 + a.toNat * 65536 + amt.toNat
  | .movz d hw v => 0x2C000000 + d.toNat * 2097152 + hw.toNat * 65536 + v.toNat
  | .movk d hw v => 0x30000000 + d.toNat * 2097152 + hw.toNat * 65536 + v.toNat
  | .lapc d imm => 0x34000000 + d.toNat * 2097152 + imm.toNat
  | .bfs sel off => 0x38000000 + sel.toNat * 65536 + off.toNat
  | .bfc sel off => 0x3C000000 + sel.toNat * 65536 + off.toNat
  | .beq a b off => 0x40000000 + a.toNat * 2097152 + b.toNat * 65536 + off.toNat
  | .bne a b off => 0x44000000 + a.toNat * 2097152 + b.toNat * 65536 + off.toNat
  | .blt a b off => 0x48000000 + a.toNat * 2097152 + b.toNat * 65536 + off.toNat
  | .bge a b off => 0x4C000000 + a.toNat * 2097152 + b.toNat * 65536 + off.toNat
  | .bltu a b off => 0x50000000 + a.toNat * 2097152 + b.toNat * 65536 + off.toNat
  | .bgeu a b off => 0x54000000 + a.toNat * 2097152 + b.toNat * 65536 + off.toNat
  | .j off => 0x58000000 + off.toNat
  | .jal off => 0x5C000000 + off.toNat
  | .jr a => 0x60000000 + a.toNat * 65536
  | .jalr d a => 0x60000001 + d.toNat * 2097152 + a.toNat * 65536
  | .lb t base off => 0x64000000 + t.toNat * 2097152 + base.toNat * 65536 + off.toNat
  | .lbz t base off => 0x68000000 + t.toNat * 2097152 + base.toNat * 65536 + off.toNat
  | .lh t base off => 0x6C000000 + t.toNat * 2097152 + base.toNat * 65536 + off.toNat
  | .lhz t base off => 0x70000000 + t.toNat * 2097152 + base.toNat * 65536 + off.toNat
  | .lw t base off => 0x74000000 + t.toNat * 2097152 + base.toNat * 65536 + off.toNat
  | .lwz t base off => 0x78000000 + t.toNat * 2097152 + base.toNat * 65536 + off.toNat
  | .ld t base off => 0x7C000000 + t.toNat * 2097152 + base.toNat * 65536 + off.toNat
  | .sb t base off => 0x80000000 + t.toNat * 2097152 + base.toNat * 65536 + off.toNat
  | .sh t base off => 0x84000000 + t.toNat * 2097152 + base.toNat * 65536 + off.toNat
  | .sw t base off => 0x88000000 + t.toNat * 2097152 + base.toNat * 65536 + off.toNat
  | .sd t base off => 0x8C000000 + t.toNat * 2097152 + base.toNat * 65536 + off.toNat
  | .amoadd d a b scope order width => 0x90000000 + d.toNat * 2097152 + a.toNat * 65536 + b.toNat * 2048 + scope.toNat * 512 + order.toNat * 128 + width.toNat * 64
  | .amoand d a b scope order width => 0x90000001 + d.toNat * 2097152 + a.toNat * 65536 + b.toNat * 2048 + scope.toNat * 512 + order.toNat * 128 + width.toNat * 64
  | .amoor d a b scope order width => 0x90000002 + d.toNat * 2097152 + a.toNat * 65536 + b.toNat * 2048 + scope.toNat * 512 + order.toNat * 128 + width.toNat * 64
  | .amoxor d a b scope order width => 0x90000003 + d.toNat * 2097152 + a.toNat * 65536 + b.toNat * 2048 + scope.toNat * 512 + order.toNat * 128 + width.toNat * 64
  | .amomin d a b scope order width => 0x90000004 + d.toNat * 2097152 + a.toNat * 65536 + b.toNat * 2048 + scope.toNat * 512 + order.toNat * 128 + width.toNat * 64
  | .amomax d a b scope order width => 0x90000005 + d.toNat * 2097152 + a.toNat * 65536 + b.toNat * 2048 + scope.toNat * 512 + order.toNat * 128 + width.toNat * 64
  | .amominu d a b scope order width => 0x90000006 + d.toNat * 2097152 + a.toNat * 65536 + b.toNat * 2048 + scope.toNat * 512 + order.toNat * 128 + width.toNat * 64
  | .amomaxu d a b scope order width => 0x90000007 + d.toNat * 2097152 + a.toNat * 65536 + b.toNat * 2048 + scope.toNat * 512 + order.toNat * 128 + width.toNat * 64
  | .amoswap d a b scope order width => 0x90000008 + d.toNat * 2097152 + a.toNat * 65536 + b.toNat * 2048 + scope.toNat * 512 + order.toNat * 128 + width.toNat * 64
  | .amocas d a b scope order width => 0x90000009 + d.toNat * 2097152 + a.toNat * 65536 + b.toNat * 2048 + scope.toNat * 512 + order.toNat * 128 + width.toNat * 64
  | .amold d a scope order width => 0x9000000A + d.toNat * 2097152 + a.toNat * 65536 + scope.toNat * 512 + order.toNat * 128 + width.toNat * 64
  | .amost a b scope order width => 0x9000000B + a.toNat * 65536 + b.toNat * 2048 + scope.toNat * 512 + order.toNat * 128 + width.toNat * 64
  | .amowait d a b scope order width => 0x9000000C + d.toNat * 2097152 + a.toNat * 65536 + b.toNat * 2048 + scope.toNat * 512 + order.toNat * 128 + width.toNat * 64
  | .acq a scope => 0x94000000 + a.toNat * 65536 + scope.toNat * 512
  | .rel a scope => 0x94000001 + a.toNat * 65536 + scope.toNat * 512
  | .fence scope => 0x94000002 + scope.toNat * 512
  | .own d a b => 0x94000403 + d.toNat * 2097152 + a.toNat * 65536 + b.toNat * 2048
  | .disown d a => 0x94000404 + d.toNat * 2097152 + a.toNat * 65536
  | .ifence a scope => 0x94000005 + a.toNat * 65536 + scope.toNat * 512
  | .arrive d a scope => 0x94000006 + d.toNat * 2097152 + a.toNat * 65536 + scope.toNat * 512
  | .waitb d a b scope => 0x94000007 + d.toNat * 2097152 + a.toNat * 65536 + b.toNat * 2048 + scope.toNat * 512
  | .vote d a b scope => 0x94000008 + d.toNat * 2097152 + a.toNat * 65536 + b.toNat * 2048 + scope.toNat * 512
  | .jinit d a => 0x94000409 + d.toNat * 2097152 + a.toNat * 65536
  | .jarrive d a => 0x9400040A + d.toNat * 2097152 + a.toNat * 65536
  | .jwait d a => 0x9400040B + d.toNat * 2097152 + a.toNat * 65536
  | .jkpt => 0x9400040C
  | .jstat d a b => 0x9400040D + d.toNat * 2097152 + a.toNat * 65536 + b.toNat * 2048
  | .jleave d => 0x9400040E + d.toNat * 2097152
  | .suspend a => 0x98000000 + a.toNat * 65536
  | .retire => 0x98000001
  | .launch d a => 0x98000002 + d.toNat * 2097152 + a.toNat * 65536
  | .qry d a => 0x98000003 + d.toNat * 2097152 + a.toNat * 65536
  | .locq d a => 0x98000004 + d.toNat * 2097152 + a.toNat * 65536
  | .rdtime d => 0x98000005 + d.toNat * 2097152
  | .rdcyc d => 0x98000006 + d.toNat * 2097152
  | .trap a => 0x98000007 + a.toNat * 65536
  | .brk => 0x98000008
  | .nop => 0x98000009
  | .engwait a => 0x9800000A + a.toNat * 65536
  | .engstat d => 0x9800000B + d.toNat * 2097152
  | .gang d => 0x9800000C + d.toNat * 2097152
  | .disband => 0x9800000D
  | .crd d creg => 0x9C000000 + d.toNat * 2097152 + creg.toNat * 16
  | .cwr d a creg => 0x9C000001 + d.toNat * 2097152 + a.toNat * 65536 + creg.toNat * 16
  | .cset d a creg => 0x9C000002 + d.toNat * 2097152 + a.toNat * 65536 + creg.toNat * 16
  | .cclr d a creg => 0x9C000003 + d.toNat * 2097152 + a.toNat * 65536 + creg.toNat * 16
  | .setvl d a vtype y => 0xA0000000 + d.toNat * 2097152 + a.toNat * 65536 + vtype.toNat * 256 + y.toNat * 128
  | .setvlMax d vtype y => 0xA0000010 + d.toNat * 2097152 + vtype.toNat * 256 + y.toNat * 128
  | .setvlType d vtype y => 0xA0000020 + d.toNat * 2097152 + vtype.toNat * 256 + y.toNat * 128
  | .setd a b dim => 0xA4000000 + a.toNat * 65536 + b.toNat * 2048 + dim.toNat * 64
  | .vaddVv d a b msk ca cb => 0xA8000000 + d.toNat * 2097152 + a.toNat * 65536 + b.toNat * 2048 + msk.toNat * 128 + ca.toNat * 64 + cb.toNat * 32
  | .vaddVs d a b msk ca => 0xAC000000 + d.toNat * 2097152 + a.toNat * 65536 + b.toNat * 2048 + msk.toNat * 128 + ca.toNat * 64
  | .vsubVv d a b msk ca cb => 0xA8000001 + d.toNat * 2097152 + a.toNat * 65536 + b.toNat * 2048 + msk.toNat * 128 + ca.toNat * 64 + cb.toNat * 32
  | .vsubVs d a b msk ca => 0xAC000001 + d.toNat * 2097152 + a.toNat * 65536 + b.toNat * 2048 + msk.toNat * 128 + ca.toNat * 64
  | .vrsubVv d a b msk ca cb => 0xA8000002 + d.toNat * 2097152 + a.toNat * 65536 + b.toNat * 2048 + msk.toNat * 128 + ca.toNat * 64 + cb.toNat * 32
  | .vrsubVs d a b msk ca => 0xAC000002 + d.toNat * 2097152 + a.toNat * 65536 + b.toNat * 2048 + msk.toNat * 128 + ca.toNat * 64
  | .vmulVv d a b msk ca cb => 0xA8000003 + d.toNat * 2097152 + a.toNat * 65536 + b.toNat * 2048 + msk.toNat * 128 + ca.toNat * 64 + cb.toNat * 32
  | .vmulVs d a b msk ca => 0xAC000003 + d.toNat * 2097152 + a.toNat * 65536 + b.toNat * 2048 + msk.toNat * 128 + ca.toNat * 64
  | .vmulhVv d a b msk ca cb => 0xA8000004 + d.toNat * 2097152 + a.toNat * 65536 + b.toNat * 2048 + msk.toNat * 128 + ca.toNat * 64 + cb.toNat * 32
  | .vmulhVs d a b msk ca => 0xAC000004 + d.toNat * 2097152 + a.toNat * 65536 + b.toNat * 2048 + msk.toNat * 128 + ca.toNat * 64
  | .vmulhuVv d a b msk ca cb => 0xA8000005 + d.toNat * 2097152 + a.toNat * 65536 + b.toNat * 2048 + msk.toNat * 128 + ca.toNat * 64 + cb.toNat * 32
  | .vmulhuVs d a b msk ca => 0xAC000005 + d.toNat * 2097152 + a.toNat * 65536 + b.toNat * 2048 + msk.toNat * 128 + ca.toNat * 64
  | .vminVv d a b msk ca cb => 0xA8000006 + d.toNat * 2097152 + a.toNat * 65536 + b.toNat * 2048 + msk.toNat * 128 + ca.toNat * 64 + cb.toNat * 32
  | .vminVs d a b msk ca => 0xAC000006 + d.toNat * 2097152 + a.toNat * 65536 + b.toNat * 2048 + msk.toNat * 128 + ca.toNat * 64
  | .vmaxVv d a b msk ca cb => 0xA8000007 + d.toNat * 2097152 + a.toNat * 65536 + b.toNat * 2048 + msk.toNat * 128 + ca.toNat * 64 + cb.toNat * 32
  | .vmaxVs d a b msk ca => 0xAC000007 + d.toNat * 2097152 + a.toNat * 65536 + b.toNat * 2048 + msk.toNat * 128 + ca.toNat * 64
  | .vminuVv d a b msk ca cb => 0xA8000008 + d.toNat * 2097152 + a.toNat * 65536 + b.toNat * 2048 + msk.toNat * 128 + ca.toNat * 64 + cb.toNat * 32
  | .vminuVs d a b msk ca => 0xAC000008 + d.toNat * 2097152 + a.toNat * 65536 + b.toNat * 2048 + msk.toNat * 128 + ca.toNat * 64
  | .vmaxuVv d a b msk ca cb => 0xA8000009 + d.toNat * 2097152 + a.toNat * 65536 + b.toNat * 2048 + msk.toNat * 128 + ca.toNat * 64 + cb.toNat * 32
  | .vmaxuVs d a b msk ca => 0xAC000009 + d.toNat * 2097152 + a.toNat * 65536 + b.toNat * 2048 + msk.toNat * 128 + ca.toNat * 64
  | .vandVv d a b msk ca cb => 0xA800000A + d.toNat * 2097152 + a.toNat * 65536 + b.toNat * 2048 + msk.toNat * 128 + ca.toNat * 64 + cb.toNat * 32
  | .vandVs d a b msk ca => 0xAC00000A + d.toNat * 2097152 + a.toNat * 65536 + b.toNat * 2048 + msk.toNat * 128 + ca.toNat * 64
  | .vorVv d a b msk ca cb => 0xA800000B + d.toNat * 2097152 + a.toNat * 65536 + b.toNat * 2048 + msk.toNat * 128 + ca.toNat * 64 + cb.toNat * 32
  | .vorVs d a b msk ca => 0xAC00000B + d.toNat * 2097152 + a.toNat * 65536 + b.toNat * 2048 + msk.toNat * 128 + ca.toNat * 64
  | .vxorVv d a b msk ca cb => 0xA800000C + d.toNat * 2097152 + a.toNat * 65536 + b.toNat * 2048 + msk.toNat * 128 + ca.toNat * 64 + cb.toNat * 32
  | .vxorVs d a b msk ca => 0xAC00000C + d.toNat * 2097152 + a.toNat * 65536 + b.toNat * 2048 + msk.toNat * 128 + ca.toNat * 64
  | .vsllVv d a b msk ca cb => 0xA800000D + d.toNat * 2097152 + a.toNat * 65536 + b.toNat * 2048 + msk.toNat * 128 + ca.toNat * 64 + cb.toNat * 32
  | .vsllVs d a b msk ca => 0xAC00000D + d.toNat * 2097152 + a.toNat * 65536 + b.toNat * 2048 + msk.toNat * 128 + ca.toNat * 64
  | .vsrlVv d a b msk ca cb => 0xA800000E + d.toNat * 2097152 + a.toNat * 65536 + b.toNat * 2048 + msk.toNat * 128 + ca.toNat * 64 + cb.toNat * 32
  | .vsrlVs d a b msk ca => 0xAC00000E + d.toNat * 2097152 + a.toNat * 65536 + b.toNat * 2048 + msk.toNat * 128 + ca.toNat * 64
  | .vsraVv d a b msk ca cb => 0xA800000F + d.toNat * 2097152 + a.toNat * 65536 + b.toNat * 2048 + msk.toNat * 128 + ca.toNat * 64 + cb.toNat * 32
  | .vsraVs d a b msk ca => 0xAC00000F + d.toNat * 2097152 + a.toNat * 65536 + b.toNat * 2048 + msk.toNat * 128 + ca.toNat * 64
  | .vaddsatVv d a b msk ca cb => 0xA8000010 + d.toNat * 2097152 + a.toNat * 65536 + b.toNat * 2048 + msk.toNat * 128 + ca.toNat * 64 + cb.toNat * 32
  | .vaddsatVs d a b msk ca => 0xAC000010 + d.toNat * 2097152 + a.toNat * 65536 + b.toNat * 2048 + msk.toNat * 128 + ca.toNat * 64
  | .vsubsatVv d a b msk ca cb => 0xA8000011 + d.toNat * 2097152 + a.toNat * 65536 + b.toNat * 2048 + msk.toNat * 128 + ca.toNat * 64 + cb.toNat * 32
  | .vsubsatVs d a b msk ca => 0xAC000011 + d.toNat * 2097152 + a.toNat * 65536 + b.toNat * 2048 + msk.toNat * 128 + ca.toNat * 64
  | .vaddsatuVv d a b msk ca cb => 0xA8000012 + d.toNat * 2097152 + a.toNat * 65536 + b.toNat * 2048 + msk.toNat * 128 + ca.toNat * 64 + cb.toNat * 32
  | .vaddsatuVs d a b msk ca => 0xAC000012 + d.toNat * 2097152 + a.toNat * 65536 + b.toNat * 2048 + msk.toNat * 128 + ca.toNat * 64
  | .vsubsatuVv d a b msk ca cb => 0xA8000013 + d.toNat * 2097152 + a.toNat * 65536 + b.toNat * 2048 + msk.toNat * 128 + ca.toNat * 64 + cb.toNat * 32
  | .vsubsatuVs d a b msk ca => 0xAC000013 + d.toNat * 2097152 + a.toNat * 65536 + b.toNat * 2048 + msk.toNat * 128 + ca.toNat * 64
  | .vabsdVv d a b msk ca cb => 0xA8000014 + d.toNat * 2097152 + a.toNat * 65536 + b.toNat * 2048 + msk.toNat * 128 + ca.toNat * 64 + cb.toNat * 32
  | .vabsdVs d a b msk ca => 0xAC000014 + d.toNat * 2097152 + a.toNat * 65536 + b.toNat * 2048 + msk.toNat * 128 + ca.toNat * 64
  | .vmaccVv d a b msk ca cb => 0xA8000015 + d.toNat * 2097152 + a.toNat * 65536 + b.toNat * 2048 + msk.toNat * 128 + ca.toNat * 64 + cb.toNat * 32
  | .vmaccVs d a b msk ca => 0xAC000015 + d.toNat * 2097152 + a.toNat * 65536 + b.toNat * 2048 + msk.toNat * 128 + ca.toNat * 64
  | .vdivVv d a b msk ca cb => 0xA8000016 + d.toNat * 2097152 + a.toNat * 65536 + b.toNat * 2048 + msk.toNat * 128 + ca.toNat * 64 + cb.toNat * 32
  | .vdivVs d a b msk ca => 0xAC000016 + d.toNat * 2097152 + a.toNat * 65536 + b.toNat * 2048 + msk.toNat * 128 + ca.toNat * 64
  | .vremVv d a b msk ca cb => 0xA8000017 + d.toNat * 2097152 + a.toNat * 65536 + b.toNat * 2048 + msk.toNat * 128 + ca.toNat * 64 + cb.toNat * 32
  | .vremVs d a b msk ca => 0xAC000017 + d.toNat * 2097152 + a.toNat * 65536 + b.toNat * 2048 + msk.toNat * 128 + ca.toNat * 64
  | .vfaddVv d a b msk ca cb => 0xB0000000 + d.toNat * 2097152 + a.toNat * 65536 + b.toNat * 2048 + msk.toNat * 128 + ca.toNat * 64 + cb.toNat * 32
  | .vfaddVs d a b msk ca => 0xB4000000 + d.toNat * 2097152 + a.toNat * 65536 + b.toNat * 2048 + msk.toNat * 128 + ca.toNat * 64
  | .vfsubVv d a b msk ca cb => 0xB0000001 + d.toNat * 2097152 + a.toNat * 65536 + b.toNat * 2048 + msk.toNat * 128 + ca.toNat * 64 + cb.toNat * 32
  | .vfsubVs d a b msk ca => 0xB4000001 + d.toNat * 2097152 + a.toNat * 65536 + b.toNat * 2048 + msk.toNat * 128 + ca.toNat * 64
  | .vfmulVv d a b msk ca cb => 0xB0000002 + d.toNat * 2097152 + a.toNat * 65536 + b.toNat * 2048 + msk.toNat * 128 + ca.toNat * 64 + cb.toNat * 32
  | .vfmulVs d a b msk ca => 0xB4000002 + d.toNat * 2097152 + a.toNat * 65536 + b.toNat * 2048 + msk.toNat * 128 + ca.toNat * 64
  | .vfdivVv d a b msk ca cb => 0xB0000003 + d.toNat * 2097152 + a.toNat * 65536 + b.toNat * 2048 + msk.toNat * 128 + ca.toNat * 64 + cb.toNat * 32
  | .vfdivVs d a b msk ca => 0xB4000003 + d.toNat * 2097152 + a.toNat * 65536 + b.toNat * 2048 + msk.toNat * 128 + ca.toNat * 64
  | .vfmaVv d a b msk ca cb => 0xB0000004 + d.toNat * 2097152 + a.toNat * 65536 + b.toNat * 2048 + msk.toNat * 128 + ca.toNat * 64 + cb.toNat * 32
  | .vfmaVs d a b msk ca => 0xB4000004 + d.toNat * 2097152 + a.toNat * 65536 + b.toNat * 2048 + msk.toNat * 128 + ca.toNat * 64
  | .vfmsVv d a b msk ca cb => 0xB0000005 + d.toNat * 2097152 + a.toNat * 65536 + b.toNat * 2048 + msk.toNat * 128 + ca.toNat * 64 + cb.toNat * 32
  | .vfmsVs d a b msk ca => 0xB4000005 + d.toNat * 2097152 + a.toNat * 65536 + b.toNat * 2048 + msk.toNat * 128 + ca.toNat * 64
  | .vfnmaVv d a b msk ca cb => 0xB0000006 + d.toNat * 2097152 + a.toNat * 65536 + b.toNat * 2048 + msk.toNat * 128 + ca.toNat * 64 + cb.toNat * 32
  | .vfnmaVs d a b msk ca => 0xB4000006 + d.toNat * 2097152 + a.toNat * 65536 + b.toNat * 2048 + msk.toNat * 128 + ca.toNat * 64
  | .vfminVv d a b msk ca cb => 0xB0000007 + d.toNat * 2097152 + a.toNat * 65536 + b.toNat * 2048 + msk.toNat * 128 + ca.toNat * 64 + cb.toNat * 32
  | .vfminVs d a b msk ca => 0xB4000007 + d.toNat * 2097152 + a.toNat * 65536 + b.toNat * 2048 + msk.toNat * 128 + ca.toNat * 64
  | .vfmaxVv d a b msk ca cb => 0xB0000008 + d.toNat * 2097152 + a.toNat * 65536 + b.toNat * 2048 + msk.toNat * 128 + ca.toNat * 64 + cb.toNat * 32
  | .vfmaxVs d a b msk ca => 0xB4000008 + d.toNat * 2097152 + a.toNat * 65536 + b.toNat * 2048 + msk.toNat * 128 + ca.toNat * 64
  | .vfsqrtVv d a msk ca => 0xB0000009 + d.toNat * 2097152 + a.toNat * 65536 + msk.toNat * 128 + ca.toNat * 64
  | .vfsqrtVs d a msk ca => 0xB4000009 + d.toNat * 2097152 + a.toNat * 65536 + msk.toNat * 128 + ca.toNat * 64
  | .vfrcpVv d a msk ca => 0xB000000A + d.toNat * 2097152 + a.toNat * 65536 + msk.toNat * 128 + ca.toNat * 64
  | .vfrcpVs d a msk ca => 0xB400000A + d.toNat * 2097152 + a.toNat * 65536 + msk.toNat * 128 + ca.toNat * 64
  | .vfrsqVv d a msk ca => 0xB000000B + d.toNat * 2097152 + a.toNat * 65536 + msk.toNat * 128 + ca.toNat * 64
  | .vfrsqVs d a msk ca => 0xB400000B + d.toNat * 2097152 + a.toNat * 65536 + msk.toNat * 128 + ca.toNat * 64
  | .vfexp2Vv d a msk ca => 0xB000000C + d.toNat * 2097152 + a.toNat * 65536 + msk.toNat * 128 + ca.toNat * 64
  | .vfexp2Vs d a msk ca => 0xB400000C + d.toNat * 2097152 + a.toNat * 65536 + msk.toNat * 128 + ca.toNat * 64
  | .vflog2Vv d a msk ca => 0xB000000D + d.toNat * 2097152 + a.toNat * 65536 + msk.toNat * 128 + ca.toNat * 64
  | .vflog2Vs d a msk ca => 0xB400000D + d.toNat * 2097152 + a.toNat * 65536 + msk.toNat * 128 + ca.toNat * 64
  | .vftanhVv d a msk ca => 0xB000000E + d.toNat * 2097152 + a.toNat * 65536 + msk.toNat * 128 + ca.toNat * 64
  | .vftanhVs d a msk ca => 0xB400000E + d.toNat * 2097152 + a.toNat * 65536 + msk.toNat * 128 + ca.toNat * 64
  | .vfabsVv d a msk ca => 0xB000000F + d.toNat * 2097152 + a.toNat * 65536 + msk.toNat * 128 + ca.toNat * 64
  | .vfabsVs d a msk ca => 0xB400000F + d.toNat * 2097152 + a.toNat * 65536 + msk.toNat * 128 + ca.toNat * 64
  | .vfnegVv d a msk ca => 0xB0000010 + d.toNat * 2097152 + a.toNat * 65536 + msk.toNat * 128 + ca.toNat * 64
  | .vfnegVs d a msk ca => 0xB4000010 + d.toNat * 2097152 + a.toNat * 65536 + msk.toNat * 128 + ca.toNat * 64
  | .vfsgnjVv d a b msk ca cb => 0xB0000011 + d.toNat * 2097152 + a.toNat * 65536 + b.toNat * 2048 + msk.toNat * 128 + ca.toNat * 64 + cb.toNat * 32
  | .vfsgnjVs d a b msk ca => 0xB4000011 + d.toNat * 2097152 + a.toNat * 65536 + b.toNat * 2048 + msk.toNat * 128 + ca.toNat * 64
  | .vfclassVv d a msk ca => 0xB0000012 + d.toNat * 2097152 + a.toNat * 65536 + msk.toNat * 128 + ca.toNat * 64
  | .vfclassVs d a msk ca => 0xB4000012 + d.toNat * 2097152 + a.toNat * 65536 + msk.toNat * 128 + ca.toNat * 64
  | .vcmpeqVv d a b msk ca cb => 0xB8000000 + d.toNat * 2097152 + a.toNat * 65536 + b.toNat * 2048 + msk.toNat * 128 + ca.toNat * 64 + cb.toNat * 32
  | .vcmpeqVs d a b msk ca => 0xB8000010 + d.toNat * 2097152 + a.toNat * 65536 + b.toNat * 2048 + msk.toNat * 128 + ca.toNat * 64
  | .vcmpneVv d a b msk ca cb => 0xB8000001 + d.toNat * 2097152 + a.toNat * 65536 + b.toNat * 2048 + msk.toNat * 128 + ca.toNat * 64 + cb.toNat * 32
  | .vcmpneVs d a b msk ca => 0xB8000011 + d.toNat * 2097152 + a.toNat * 65536 + b.toNat * 2048 + msk.toNat * 128 + ca.toNat * 64
  | .vcmpltVv d a b msk ca cb => 0xB8000002 + d.toNat * 2097152 + a.toNat * 65536 + b.toNat * 2048 + msk.toNat * 128 + ca.toNat * 64 + cb.toNat * 32
  | .vcmpltVs d a b msk ca => 0xB8000012 + d.toNat * 2097152 + a.toNat * 65536 + b.toNat * 2048 + msk.toNat * 128 + ca.toNat * 64
  | .vcmpgeVv d a b msk ca cb => 0xB8000003 + d.toNat * 2097152 + a.toNat * 65536 + b.toNat * 2048 + msk.toNat * 128 + ca.toNat * 64 + cb.toNat * 32
  | .vcmpgeVs d a b msk ca => 0xB8000013 + d.toNat * 2097152 + a.toNat * 65536 + b.toNat * 2048 + msk.toNat * 128 + ca.toNat * 64
  | .vcmpltuVv d a b msk ca cb => 0xB8000004 + d.toNat * 2097152 + a.toNat * 65536 + b.toNat * 2048 + msk.toNat * 128 + ca.toNat * 64 + cb.toNat * 32
  | .vcmpltuVs d a b msk ca => 0xB8000014 + d.toNat * 2097152 + a.toNat * 65536 + b.toNat * 2048 + msk.toNat * 128 + ca.toNat * 64
  | .vcmpgeuVv d a b msk ca cb => 0xB8000005 + d.toNat * 2097152 + a.toNat * 65536 + b.toNat * 2048 + msk.toNat * 128 + ca.toNat * 64 + cb.toNat * 32
  | .vcmpgeuVs d a b msk ca => 0xB8000015 + d.toNat * 2097152 + a.toNat * 65536 + b.toNat * 2048 + msk.toNat * 128 + ca.toNat * 64
  | .vcmpfeqVv d a b msk ca cb => 0xB8000006 + d.toNat * 2097152 + a.toNat * 65536 + b.toNat * 2048 + msk.toNat * 128 + ca.toNat * 64 + cb.toNat * 32
  | .vcmpfeqVs d a b msk ca => 0xB8000016 + d.toNat * 2097152 + a.toNat * 65536 + b.toNat * 2048 + msk.toNat * 128 + ca.toNat * 64
  | .vcmpfltVv d a b msk ca cb => 0xB8000007 + d.toNat * 2097152 + a.toNat * 65536 + b.toNat * 2048 + msk.toNat * 128 + ca.toNat * 64 + cb.toNat * 32
  | .vcmpfltVs d a b msk ca => 0xB8000017 + d.toNat * 2097152 + a.toNat * 65536 + b.toNat * 2048 + msk.toNat * 128 + ca.toNat * 64
  | .vcmpfleVv d a b msk ca cb => 0xB8000008 + d.toNat * 2097152 + a.toNat * 65536 + b.toNat * 2048 + msk.toNat * 128 + ca.toNat * 64 + cb.toNat * 32
  | .vcmpfleVs d a b msk ca => 0xB8000018 + d.toNat * 2097152 + a.toNat * 65536 + b.toNat * 2048 + msk.toNat * 128 + ca.toNat * 64
  | .vcmpfunoVv d a b msk ca cb => 0xB8000009 + d.toNat * 2097152 + a.toNat * 65536 + b.toNat * 2048 + msk.toNat * 128 + ca.toNat * 64 + cb.toNat * 32
  | .vcmpfunoVs d a b msk ca => 0xB8000019 + d.toNat * 2097152 + a.toNat * 65536 + b.toNat * 2048 + msk.toNat * 128 + ca.toNat * 64
  | .kand d a b ca cb => 0xBC000000 + d.toNat * 2097152 + a.toNat * 65536 + b.toNat * 2048 + ca.toNat * 64 + cb.toNat * 32
  | .kor d a b ca cb => 0xBC000001 + d.toNat * 2097152 + a.toNat * 65536 + b.toNat * 2048 + ca.toNat * 64 + cb.toNat * 32
  | .kxor d a b ca cb => 0xBC000002 + d.toNat * 2097152 + a.toNat * 65536 + b.toNat * 2048 + ca.toNat * 64 + cb.toNat * 32
  | .kandn d a b ca cb => 0xBC000003 + d.toNat * 2097152 + a.toNat * 65536 + b.toNat * 2048 + ca.toNat * 64 + cb.toNat * 32
  | .knot d a ca => 0xBC000004 + d.toNat * 2097152 + a.toNat * 65536 + ca.toNat * 64
  | .kmov d a ca => 0xBC000005 + d.toNat * 2097152 + a.toNat * 65536 + ca.toNat * 64
  | .kpop d a ca => 0xBC000006 + d.toNat * 2097152 + a.toNat * 65536 + ca.toNat * 64
  | .kpopvl d a ca => 0xBC000007 + d.toNat * 2097152 + a.toNat * 65536 + ca.toNat * 64
  | .kfirst d a ca => 0xBC000008 + d.toNat * 2097152 + a.toNat * 65536 + ca.toNat * 64
  | .kfromg d a b => 0xBC000009 + d.toNat * 2097152 + a.toNat * 65536 + b.toNat * 2048
  | .ktog d a b ca => 0xBC00000A + d.toNat * 2097152 + a.toNat * 65536 + b.toNat * 2048 + ca.toNat * 64
  | .kprefix d a ca => 0xBC00000B + d.toNat * 2097152 + a.toNat * 65536 + ca.toNat * 64
  | .ksbf d a ca => 0xBC00000C + d.toNat * 2097152 + a.toNat * 65536 + ca.toNat * 64
  | .vmerge d a b msk ca cb => 0xC0000000 + d.toNat * 2097152 + a.toNat * 65536 + b.toNat * 2048 + msk.toNat * 128 + ca.toNat * 64 + cb.toNat * 32
  | .vslideup d a b msk ca => 0xC0000001 + d.toNat * 2097152 + a.toNat * 65536 + b.toNat * 2048 + msk.toNat * 128 + ca.toNat * 64
  | .vslidedn d a b msk ca => 0xC0000002 + d.toNat * 2097152 + a.toNat * 65536 + b.toNat * 2048 + msk.toNat * 128 + ca.toNat * 64
  | .vpermx d a b msk ca cb => 0xC0000003 + d.toNat * 2097152 + a.toNat * 65536 + b.toNat * 2048 + msk.toNat * 128 + ca.toNat * 64 + cb.toNat * 32
  | .vcompress d a msk ca => 0xC0000004 + d.toNat * 2097152 + a.toNat * 65536 + msk.toNat * 128 + ca.toNat * 64
  | .vexpand d a msk ca => 0xC0000005 + d.toNat * 2097152 + a.toNat * 65536 + msk.toNat * 128 + ca.toNat * 64
  | .vbcast d a b msk ca => 0xC0000006 + d.toNat * 2097152 + a.toNat * 65536 + b.toNat * 2048 + msk.toNat * 128 + ca.toNat * 64
  | .vins d a b => 0xC0000007 + d.toNat * 2097152 + a.toNat * 65536 + b.toNat * 2048
  | .vext d a b ca => 0xC0000008 + d.toNat * 2097152 + a.toNat * 65536 + b.toNat * 2048 + ca.toNat * 64
  | .vmov d a msk ca => 0xC0000009 + d.toNat * 2097152 + a.toNat * 65536 + msk.toNat * 128 + ca.toNat * 64
  | .vzip d a b msk ca cb => 0xC000000A + d.toNat * 2097152 + a.toNat * 65536 + b.toNat * 2048 + msk.toNat * 128 + ca.toNat * 64 + cb.toNat * 32
  | .vunzip d a b msk ca cb => 0xC000000B + d.toNat * 2097152 + a.toNat * 65536 + b.toNat * 2048 + msk.toNat * 128 + ca.toNat * 64 + cb.toNat * 32
  | .vcvt d a p msk ca fmt => 0xC4000000 + d.toNat * 2097152 + a.toNat * 65536 + p.toNat * 2048 + msk.toNat * 128 + ca.toNat * 64 + fmt.toNat
  | .vredsum d a b msk ca cb => 0xC8000000 + d.toNat * 2097152 + a.toNat * 65536 + b.toNat * 2048 + msk.toNat * 128 + ca.toNat * 64 + cb.toNat * 32
  | .vredmax d a b msk ca cb => 0xC8000001 + d.toNat * 2097152 + a.toNat * 65536 + b.toNat * 2048 + msk.toNat * 128 + ca.toNat * 64 + cb.toNat * 32
  | .vredmin d a b msk ca cb => 0xC8000002 + d.toNat * 2097152 + a.toNat * 65536 + b.toNat * 2048 + msk.toNat * 128 + ca.toNat * 64 + cb.toNat * 32
  | .vredand d a b msk ca cb => 0xC8000003 + d.toNat * 2097152 + a.toNat * 65536 + b.toNat * 2048 + msk.toNat * 128 + ca.toNat * 64 + cb.toNat * 32
  | .vredor d a b msk ca cb => 0xC8000004 + d.toNat * 2097152 + a.toNat * 65536 + b.toNat * 2048 + msk.toNat * 128 + ca.toNat * 64 + cb.toNat * 32
  | .vredxor d a b msk ca cb => 0xC8000005 + d.toNat * 2097152 + a.toNat * 65536 + b.toNat * 2048 + msk.toNat * 128 + ca.toNat * 64 + cb.toNat * 32
  | .vscan d a b msk ca cb => 0xC8000006 + d.toNat * 2097152 + a.toNat * 65536 + b.toNat * 2048 + msk.toNat * 128 + ca.toNat * 64 + cb.toNat * 32
  | .vscanmax d a b msk ca cb => 0xC8000007 + d.toNat * 2097152 + a.toNat * 65536 + b.toNat * 2048 + msk.toNat * 128 + ca.toNat * 64 + cb.toNat * 32
  | .vsegred d a b msk ca => 0xC8000008 + d.toNat * 2097152 + a.toNat * 65536 + b.toNat * 2048 + msk.toNat * 128 + ca.toNat * 64
  | .vsegscan d a b msk ca => 0xC8000009 + d.toNat * 2097152 + a.toNat * 65536 + b.toNat * 2048 + msk.toNat * 128 + ca.toNat * 64
  | .vsegmax d a b msk ca => 0xC800000A + d.toNat * 2097152 + a.toNat * 65536 + b.toNat * 2048 + msk.toNat * 128 + ca.toNat * 64
  | .viota d msk start incr => 0xCC000000 + d.toNat * 2097152 + msk.toNat * 131072 + start.toNat * 256 + incr.toNat
  | .vld t base msk ff => 0xD0000000 + t.toNat * 2097152 + base.toNat * 65536 + msk.toNat * 128 + ff.toNat * 64
  | .vlds t base x msk ff => 0xD0000001 + t.toNat * 2097152 + base.toNat * 65536 + x.toNat * 2048 + msk.toNat * 128 + ff.toNat * 64
  | .vldx t base x msk ff c => 0xD0000002 + t.toNat * 2097152 + base.toNat * 65536 + x.toNat * 2048 + msk.toNat * 128 + ff.toNat * 64 + c.toNat * 32
  | .vldn t base msk ff => 0xD0000003 + t.toNat * 2097152 + base.toNat * 65536 + msk.toNat * 128 + ff.toNat * 64
  | .vldk t base => 0xD0000004 + t.toNat * 2097152 + base.toNat * 65536
  | .vldb t base msk => 0xD0000005 + t.toNat * 2097152 + base.toNat * 65536 + msk.toNat * 128
  | .vldt t base x msk => 0xD0000006 + t.toNat * 2097152 + base.toNat * 65536 + x.toNat * 2048 + msk.toNat * 128
  | .vst t base msk c => 0xD4000000 + t.toNat * 2097152 + base.toNat * 65536 + msk.toNat * 128 + c.toNat * 32
  | .vsts t base x msk c => 0xD4000001 + t.toNat * 2097152 + base.toNat * 65536 + x.toNat * 2048 + msk.toNat * 128 + c.toNat * 32
  | .vstx t base x msk c => 0xD4000002 + t.toNat * 2097152 + base.toNat * 65536 + x.toNat * 2048 + msk.toNat * 128 + c.toNat * 32
  | .vstn t base msk c => 0xD4000003 + t.toNat * 2097152 + base.toNat * 65536 + msk.toNat * 128 + c.toNat * 32
  | .vstk t base => 0xD4000004 + t.toNat * 2097152 + base.toNat * 65536
  | .vstt t base x msk c => 0xD4000005 + t.toNat * 2097152 + base.toNat * 65536 + x.toNat * 2048 + msk.toNat * 128 + c.toNat * 32
  | .mctx a => 0xE0000000 + a.toNat * 65536
  | .mgeo a => 0xE0000001 + a.toNat * 65536
  | .mloadb a b tag => 0xE0000002 + a.toNat * 65536 + b.toNat * 2048 + tag.toNat * 64
  | .mswap tag => 0xE0000003 + tag.toNat * 64
  | .mrun tag => 0xE0000004 + tag.toNat * 64
  | .mclr tag => 0xE0000005 + tag.toNat * 64
  | .cpcfg a => 0xE4000000 + a.toNat * 65536
  | .cpy d a b tag => 0xE4000001 + d.toNat * 2097152 + a.toNat * 65536 + b.toNat * 2048 + tag.toNat * 64
  | .cpyn d a b tag => 0xE4000002 + d.toNat * 2097152 + a.toNat * 65536 + b.toNat * 2048 + tag.toNat * 64
  | .publ a tag => 0xE4000003 + a.toNat * 65536 + tag.toNat * 64
  | .cpabort => 0xE4000004
  | .sbind d a => 0xE8000000 + d.toNat * 2097152 + a.toNat * 65536
  | .sunbind d => 0xE8000001 + d.toNat * 2097152
  | .ssync d => 0xE8000002 + d.toNat * 2097152
  | .sstat d a => 0xE8000003 + d.toNat * 2097152 + a.toNat * 65536
  | .gdef a b tag => 0xEC000000 + a.toNat * 65536 + b.toNat * 2048 + tag.toNat * 64
  | .gwait tag => 0xEC000001 + tag.toNat * 64
  | .gqry d tag => 0xEC000002 + d.toNat * 2097152 + tag.toNat * 64
  | .eret => 0xF8000000
  | .rtwr a b => 0xF8000001 + a.toNat * 65536 + b.toNat * 2048
  | .rtrd a b => 0xF8000002 + a.toNat * 65536 + b.toNat * 2048
  | .rtinv a b => 0xF8000003 + a.toNat * 65536 + b.toNat * 2048
  | .rsplit d a => 0xF8000004 + d.toNat * 2097152 + a.toNat * 65536
  | .rmerge d a => 0xF8000005 + d.toNat * 2097152 + a.toNat * 65536
  | .genbump d a => 0xF8000006 + d.toNat * 2097152 + a.toNat * 65536
  | .rcompact d a b => 0xF8000007 + d.toNat * 2097152 + a.toNat * 65536 + b.toNat * 2048
  | .ctxsv d a b => 0xF8000008 + d.toNat * 2097152 + a.toNat * 65536 + b.toNat * 2048
  | .ctxld d a b => 0xF8000009 + d.toNat * 2097152 + a.toNat * 65536 + b.toNat * 2048
  | .ipost d a => 0xF800000A + d.toNat * 2097152 + a.toNat * 65536
  | .wfi d a => 0xF800000B + d.toNat * 2097152 + a.toNat * 65536
  | .haltc d a => 0xF800000C + d.toNat * 2097152 + a.toNat * 65536
  | .qtailWrite _ _ _ => 0
  | .queueConfigWrite _ _ _ _ => 0
  | .registerWrite _ _ _ _ => 0
  | .debugHaltRelease _ => 0
  | .queryEnum _ => 0
  | .createVdev _ => 0
  | .destroyVdev _ => 0
  | .bind _ => 0
  | .setWeight _ => 0
  | .postDeadline _ => 0
  | .partitionMode _ => 0
  | .reset _ => 0
  | .checkpoint _ => 0
  | .restore _ => 0
  | .attest _ _ => 0
  | .tdispOp _ _ => 0
  | .resync _ => 0
  | .logRead _ => 0
  | .getVersion _ => 0
  | .getCapabilities _ => 0
  | .negotiateAlgorithms _ => 0
  | .getDigests _ => 0
  | .getCertificate _ => 0
  | .challenge _ => 0
  | .getMeasurements _ => 0
  | .keyExchange _ => 0
  | .finish _ => 0
  | .ideKm _ _ _ _ => 0
  | .lockInterfaceRequest _ => 0
  | .startInterfaceRequest _ => 0
  | .stopInterfaceRequest _ => 0
  | .ideIntegrityFailure _ _ _ => 0
  | .firmwareImageWrite _ _ => 0
  | .hostWrite _ _ _ => 0
  | .hostRead _ _ _ => 0
  | .peerTransaction _ _ _ _ _ => 0
  | .podRelayForward _ _ _ _ _ => 0
  | .ualinkReplyTimeout _ _ => 0
  | .launchSelection _ => 0
  | .wispPlacement _ => 0
  | .expansionResume _ => 0
  | .wispRecordArrival _ _ _ => 0
  | .freeResourceReport _ => 0
  | .reportArrival _ _ _ _ => 0
  | .overflowDrain _ => 0
  | .heldWispDepart _ => 0
  | .wispPickup _ => 0
  | .wispResume _ => 0
  | .priorityAging _ _ => 0
  | .clusterReservation _ => 0
  | .groupStart _ => 0
  | .suspendWake _ _ => 0
  | .gangCollectivePairing _ => 0
  | .fill _ _ => 0
  | .ownreq _ _ _ _ _ => 0
  | .grant _ _ _ _ => 0
  | .data _ _ _ => 0
  | .fwd _ _ _ => 0
  | .revoke _ _ _ => 0
  | .yield _ _ _ _ => 0
  | .evict _ _ _ _ => 0
  | .disownreq _ _ _ _ => 0
  | .ack _ _ => 0
  | .rangeWalk _ _ => 0
  | .generationNotice _ _ => 0
  | .rangeInvalidation _ _ _ _ _ => 0
  | .dredgeCopyPhase => 0
  | .dredgeSwitchPhase => 0
  | .dredgeBumpPhase => 0
  | .dredgeReleasePhase => 0
  | .pieceAdmission _ => 0
  | .creditReturn _ _ => 0
  | .foreignFlitDrop _ _ => 0
  | .linkOutOfService _ _ _ => 0
  | .timeRequest _ => 0
  | .timeReply _ _ => 0
  | .copyCommandStart _ => 0
  | .copyCompletion _ => 0
  | .publicationSwap _ => 0
  | .matrixRowStep _ => 0
  | .mloadbExecution _ => 0
  | .mswapExecution _ => 0
  | .mclrExecution _ => 0
  | .matrixCommandCompletion _ => 0
  | .streamPrefetch _ _ => 0
  | .streamStorePerform _ _ => 0
  | .sendChunk _ _ => 0
  | .ringProducedUpdate _ _ => 0
  | .streamWaitEnd _ => 0
  | .streamWatchdog _ _ => 0
  | .collectiveCombine _ => 0
  | .slotRequest _ => 0
  | .slotReturn _ => 0
  | .quorumStreamArrival _ _ => 0
  | .joinDeadline _ _ => 0
  | .killSignal _ _ => 0
  | .kgraceExpiry _ => 0
  | .preemptPosting _ _ _ => 0
  | .forceSet _ => 0
  | .forcedPreemptionTrap _ => 0
  | .quantumEnd _ => 0
  | .checkpointVacateTimeout _ => 0
  | .deadlineRecheck _ _ => 0
  | .checkpointEngineCopy _ => 0
  | .wispEndCount _ _ => 0
  | .launchCompletion _ => 0
  | .eccError _ _ => 0
  | .scrub => 0
  | .backingRewrite _ => 0
  | .coldBoot => 0
  | .powerDown => 0
  | .functionLevelReset _ => 0
  | .resetEscalation _ _ _ => 0
  | .thermalThrottle _ => 0
  | .clockRestore _ => 0
  | .overtempShutdown _ => 0
  | .wfiTimeReached _ => 0
  | .resumeFromCarr _ _ => 0

/-- The word of a well-formed instruction. -/
def encode (i : Instr) : BitVec 32 := BitVec.ofNat 32 (encodeNat i)

/-- The rows of the table that have a word. -/
def Instr.hasWord (i : Instr) : Bool := encodeNat i != 0

end Sys2Proof
end

