-- ==== Sys2Proof/Machine/Event.lean ====
section
/-! DEFINITION. A step of an agent other than the running core, as it stands in the schedule that the state holds:
the same rows, with the same operands, as the constructors of Instr that have no word (95_what_each_step_holds.md).
Machine/Schedule.lean sends each to its meaning; Event.toInstr gives the constructor of Instr it stands for. -/

namespace Sys2Proof.Machine

inductive Event where
  | qtailWrite (fn q : Nat) (v : BitVec 64)
  | queueConfigWrite (fn q off : Nat) (v : BitVec 64)
  | registerWrite (fn bar off : Nat) (v : BitVec 64)
  | debugHaltRelease (core : Nat)
  | queryEnum (fn : Nat)
  | createVdev (fn : Nat)
  | destroyVdev (fn : Nat)
  | bind (fn : Nat)
  | setWeight (fn : Nat)
  | postDeadline (fn : Nat)
  | partitionMode (fn : Nat)
  | reset (fn : Nat)
  | checkpoint (fn : Nat)
  | restore (fn : Nat)
  | attest (fn : Nat) (req : SpdmReq)
  | tdispOp (fn : Nat) (req : TdispReq)
  | resync (fn : Nat)
  | logRead (fn : Nat)
  | getVersion (fn : Nat)
  | getCapabilities (fn : Nat)
  | negotiateAlgorithms (fn : Nat)
  | getDigests (fn : Nat)
  | getCertificate (fn : Nat)
  | challenge (fn : Nat)
  | getMeasurements (fn : Nat)
  | keyExchange (fn : Nat)
  | finish (fn : Nat)
  | ideKm (fn port stream : Nat) (key : BitVec 256)
  | lockInterfaceRequest (fn : Nat)
  | startInterfaceRequest (fn : Nat)
  | stopInterfaceRequest (fn : Nat)
  | ideIntegrityFailure (fn port stream : Nat)
  | firmwareImageWrite (off : Nat) (v : BitVec 64)
  | hostWrite (port pa : Nat) (bytes : List (BitVec 8))
  | hostRead (port pa n : Nat)
  | peerTransaction (src : Nat) (op : PeerOp) (pa n : Nat) (v : BitVec 64)
  | podRelayForward (src : Nat) (op : PeerOp) (pa n : Nat) (v : BitVec 64)
  | ualinkReplyTimeout (core : Nat) (dva : BitVec 64)
  | launchSelection (part : Nat)
  | wispPlacement (launch : Nat)
  | expansionResume (launch : Nat)
  | wispRecordArrival (launch index die : Nat)
  | freeResourceReport (die : Nat)
  | reportArrival (die idle free : Nat) (occ : List (Nat × Nat))
  | overflowDrain (vdev : Nat)
  | heldWispDepart (core : Nat)
  | wispPickup (core : Nat)
  | wispResume (core : Nat)
  | priorityAging (launch index : Nat)
  | clusterReservation (die : Nat)
  | groupStart (cluster : Nat)
  | suspendWake (launch index : Nat)
  | gangCollectivePairing (core : Nat)
  | fill (core line : Nat)
  | ownreq (core line : Nat) (words : BitVec 16) (data : BitVec 512) (dirty : BitVec 16)
  | grant (core line : Nat) (data : BitVec 512) (mask : BitVec 16)
  | data (core line : Nat) (data : BitVec 512)
  | fwd (core line : Nat) (words : BitVec 16)
  | revoke (core line : Nat) (words : BitVec 16)
  | yield (core line : Nat) (data : BitVec 512) (dirty : BitVec 16)
  | evict (core line : Nat) (data : BitVec 512) (dirty : BitVec 16)
  | disownreq (core line : Nat) (data : BitVec 512) (dirty : BitVec 16)
  | ack (core line : Nat)
  | rangeWalk (core : Nat) (dva : BitVec 64)
  | generationNotice (core asn : Nat)
  | rangeInvalidation (core asn base limit issuer : Nat)
  | dredgeCopyPhase
  | dredgeSwitchPhase
  | dredgeBumpPhase
  | dredgeReleasePhase
  | pieceAdmission (die : Nat)
  | creditReturn (die flits : Nat)
  | foreignFlitDrop (part unit : Nat)
  | linkOutOfService (x y dir : Nat)
  | timeRequest (core : Nat)
  | timeReply (core time : Nat)
  | copyCommandStart (core : Nat)
  | copyCompletion (core : Nat)
  | publicationSwap (core : Nat)
  | matrixRowStep (cluster : Nat)
  | mloadbExecution (core : Nat)
  | mswapExecution (core : Nat)
  | mclrExecution (core : Nat)
  | matrixCommandCompletion (core : Nat)
  | streamPrefetch (core bix : Nat)
  | streamStorePerform (core bix : Nat)
  | sendChunk (core bix : Nat)
  | ringProducedUpdate (pa count : Nat)
  | streamWaitEnd (core : Nat)
  | streamWatchdog (core bix : Nat)
  | collectiveCombine (anchor : Nat)
  | slotRequest (anchor : Nat)
  | slotReturn (anchor : Nat)
  | quorumStreamArrival (core bix : Nat)
  | joinDeadline (site slot : Nat)
  | killSignal (launch index : Nat)
  | kgraceExpiry (core : Nat)
  | preemptPosting (core : Nat) (kind : PreemptKind) (deadline : Nat)
  | forceSet (core : Nat)
  | forcedPreemptionTrap (core : Nat)
  | quantumEnd (part : Nat)
  | checkpointVacateTimeout (launch : Nat)
  | deadlineRecheck (isPart : Bool) (target : Nat)
  | checkpointEngineCopy (launch : Nat)
  | wispEndCount (launch index : Nat)
  | launchCompletion (launch : Nat)
  | eccError (pa : Nat) (correctable : Bool)
  | scrub
  | backingRewrite (pa : Nat)
  | coldBoot
  | powerDown
  | functionLevelReset (fn : Nat)
  | resetEscalation (rung target queue : Nat)
  | thermalThrottle (die : Nat)
  | clockRestore (die : Nat)
  | overtempShutdown (die : Nat)
  | wfiTimeReached (core : Nat)
  | resumeFromCarr (launch index : Nat)
deriving DecidableEq, Repr

/-- The constructor of Instr that a step of the schedule is. -/
noncomputable def Event.toInstr : Event → Instr
  | .qtailWrite x_fn x_q x_v => .qtailWrite x_fn x_q x_v
  | .queueConfigWrite x_fn x_q x_off x_v => .queueConfigWrite x_fn x_q x_off x_v
  | .registerWrite x_fn x_bar x_off x_v => .registerWrite x_fn x_bar x_off x_v
  | .debugHaltRelease x_core => .debugHaltRelease x_core
  | .queryEnum x_fn => .queryEnum x_fn
  | .createVdev x_fn => .createVdev x_fn
  | .destroyVdev x_fn => .destroyVdev x_fn
  | .bind x_fn => .bind x_fn
  | .setWeight x_fn => .setWeight x_fn
  | .postDeadline x_fn => .postDeadline x_fn
  | .partitionMode x_fn => .partitionMode x_fn
  | .reset x_fn => .reset x_fn
  | .checkpoint x_fn => .checkpoint x_fn
  | .restore x_fn => .restore x_fn
  | .attest x_fn x_req => .attest x_fn x_req
  | .tdispOp x_fn x_req => .tdispOp x_fn x_req
  | .resync x_fn => .resync x_fn
  | .logRead x_fn => .logRead x_fn
  | .getVersion x_fn => .getVersion x_fn
  | .getCapabilities x_fn => .getCapabilities x_fn
  | .negotiateAlgorithms x_fn => .negotiateAlgorithms x_fn
  | .getDigests x_fn => .getDigests x_fn
  | .getCertificate x_fn => .getCertificate x_fn
  | .challenge x_fn => .challenge x_fn
  | .getMeasurements x_fn => .getMeasurements x_fn
  | .keyExchange x_fn => .keyExchange x_fn
  | .finish x_fn => .finish x_fn
  | .ideKm x_fn x_port x_stream x_key => .ideKm x_fn x_port x_stream x_key
  | .lockInterfaceRequest x_fn => .lockInterfaceRequest x_fn
  | .startInterfaceRequest x_fn => .startInterfaceRequest x_fn
  | .stopInterfaceRequest x_fn => .stopInterfaceRequest x_fn
  | .ideIntegrityFailure x_fn x_port x_stream => .ideIntegrityFailure x_fn x_port x_stream
  | .firmwareImageWrite x_off x_v => .firmwareImageWrite x_off x_v
  | .hostWrite x_port x_pa x_bytes => .hostWrite x_port x_pa x_bytes
  | .hostRead x_port x_pa x_n => .hostRead x_port x_pa x_n
  | .peerTransaction x_src x_op x_pa x_n x_v => .peerTransaction x_src x_op x_pa x_n x_v
  | .podRelayForward x_src x_op x_pa x_n x_v => .podRelayForward x_src x_op x_pa x_n x_v
  | .ualinkReplyTimeout x_core x_dva => .ualinkReplyTimeout x_core x_dva
  | .launchSelection x_part => .launchSelection x_part
  | .wispPlacement x_launch => .wispPlacement x_launch
  | .expansionResume x_launch => .expansionResume x_launch
  | .wispRecordArrival x_launch x_index x_die => .wispRecordArrival x_launch x_index x_die
  | .freeResourceReport x_die => .freeResourceReport x_die
  | .reportArrival x_die x_idle x_free x_occ => .reportArrival x_die x_idle x_free x_occ
  | .overflowDrain x_vdev => .overflowDrain x_vdev
  | .heldWispDepart x_core => .heldWispDepart x_core
  | .wispPickup x_core => .wispPickup x_core
  | .wispResume x_core => .wispResume x_core
  | .priorityAging x_launch x_index => .priorityAging x_launch x_index
  | .clusterReservation x_die => .clusterReservation x_die
  | .groupStart x_cluster => .groupStart x_cluster
  | .suspendWake x_launch x_index => .suspendWake x_launch x_index
  | .gangCollectivePairing x_core => .gangCollectivePairing x_core
  | .fill x_core x_line => .fill x_core x_line
  | .ownreq x_core x_line x_words x_data x_dirty => .ownreq x_core x_line x_words x_data x_dirty
  | .grant x_core x_line x_data x_mask => .grant x_core x_line x_data x_mask
  | .data x_core x_line x_data => .data x_core x_line x_data
  | .fwd x_core x_line x_words => .fwd x_core x_line x_words
  | .revoke x_core x_line x_words => .revoke x_core x_line x_words
  | .yield x_core x_line x_data x_dirty => .yield x_core x_line x_data x_dirty
  | .evict x_core x_line x_data x_dirty => .evict x_core x_line x_data x_dirty
  | .disownreq x_core x_line x_data x_dirty => .disownreq x_core x_line x_data x_dirty
  | .ack x_core x_line => .ack x_core x_line
  | .rangeWalk x_core x_dva => .rangeWalk x_core x_dva
  | .generationNotice x_core x_asn => .generationNotice x_core x_asn
  | .rangeInvalidation x_core x_asn x_base x_limit x_issuer => .rangeInvalidation x_core x_asn x_base x_limit x_issuer
  | .dredgeCopyPhase => .dredgeCopyPhase
  | .dredgeSwitchPhase => .dredgeSwitchPhase
  | .dredgeBumpPhase => .dredgeBumpPhase
  | .dredgeReleasePhase => .dredgeReleasePhase
  | .pieceAdmission x_die => .pieceAdmission x_die
  | .creditReturn x_die x_flits => .creditReturn x_die x_flits
  | .foreignFlitDrop x_part x_unit => .foreignFlitDrop x_part x_unit
  | .linkOutOfService x_x x_y x_dir => .linkOutOfService x_x x_y x_dir
  | .timeRequest x_core => .timeRequest x_core
  | .timeReply x_core x_time => .timeReply x_core x_time
  | .copyCommandStart x_core => .copyCommandStart x_core
  | .copyCompletion x_core => .copyCompletion x_core
  | .publicationSwap x_core => .publicationSwap x_core
  | .matrixRowStep x_cluster => .matrixRowStep x_cluster
  | .mloadbExecution x_core => .mloadbExecution x_core
  | .mswapExecution x_core => .mswapExecution x_core
  | .mclrExecution x_core => .mclrExecution x_core
  | .matrixCommandCompletion x_core => .matrixCommandCompletion x_core
  | .streamPrefetch x_core x_bix => .streamPrefetch x_core x_bix
  | .streamStorePerform x_core x_bix => .streamStorePerform x_core x_bix
  | .sendChunk x_core x_bix => .sendChunk x_core x_bix
  | .ringProducedUpdate x_pa x_count => .ringProducedUpdate x_pa x_count
  | .streamWaitEnd x_core => .streamWaitEnd x_core
  | .streamWatchdog x_core x_bix => .streamWatchdog x_core x_bix
  | .collectiveCombine x_anchor => .collectiveCombine x_anchor
  | .slotRequest x_anchor => .slotRequest x_anchor
  | .slotReturn x_anchor => .slotReturn x_anchor
  | .quorumStreamArrival x_core x_bix => .quorumStreamArrival x_core x_bix
  | .joinDeadline x_site x_slot => .joinDeadline x_site x_slot
  | .killSignal x_launch x_index => .killSignal x_launch x_index
  | .kgraceExpiry x_core => .kgraceExpiry x_core
  | .preemptPosting x_core x_kind x_deadline => .preemptPosting x_core x_kind x_deadline
  | .forceSet x_core => .forceSet x_core
  | .forcedPreemptionTrap x_core => .forcedPreemptionTrap x_core
  | .quantumEnd x_part => .quantumEnd x_part
  | .checkpointVacateTimeout x_launch => .checkpointVacateTimeout x_launch
  | .deadlineRecheck x_isPart x_target => .deadlineRecheck x_isPart x_target
  | .checkpointEngineCopy x_launch => .checkpointEngineCopy x_launch
  | .wispEndCount x_launch x_index => .wispEndCount x_launch x_index
  | .launchCompletion x_launch => .launchCompletion x_launch
  | .eccError x_pa x_correctable => .eccError x_pa x_correctable
  | .scrub => .scrub
  | .backingRewrite x_pa => .backingRewrite x_pa
  | .coldBoot => .coldBoot
  | .powerDown => .powerDown
  | .functionLevelReset x_fn => .functionLevelReset x_fn
  | .resetEscalation x_rung x_target x_queue => .resetEscalation x_rung x_target x_queue
  | .thermalThrottle x_die => .thermalThrottle x_die
  | .clockRestore x_die => .clockRestore x_die
  | .overtempShutdown x_die => .overtempShutdown x_die
  | .wfiTimeReached x_core => .wfiTimeReached x_core
  | .resumeFromCarr x_launch x_index => .resumeFromCarr x_launch x_index

end Sys2Proof.Machine
end

