-- ==== Sys2Proof/Machine/Store.lean ====
section
/-! DEFINITION. One sparse store for everything the machine keeps by number: memory bytes, registers, cores, lines,
records. It is a list of (key, value) pairs in one canonical form: keys strictly rising, and no value equal to the
default that an unlisted key reads as. Equal stores are therefore equal lists. -/

namespace Sys2Proof.Machine

/-- A sparse store; which value an unlisted key reads as is said at each read. -/
abbrev Store (α : Type) := List (Nat × α)

/-- The value at k; d where k is not listed. -/
def Store.get {α : Type} (d : α) : Store α → Nat → α
  | [], _ => d
  | (k', v) :: m, k => if k = k' then v else Store.get d m k

/-- Puts v at k, in its place among the rising keys. -/
def Store.put {α : Type} : Store α → Nat → α → Store α
  | [], k, v => [(k, v)]
  | (k', v') :: m, k, v =>
    if k < k' then (k, v) :: (k', v') :: m
    else if k = k' then (k, v) :: m
    else (k', v') :: Store.put m k v

/-- Puts v at k and keeps the canonical form: a default value is not listed. -/
def Store.set {α : Type} [DecidableEq α] (d : α) (m : Store α) (k : Nat) (v : α) : Store α :=
  if v = d then m.filter (fun e => !(e.1 == k)) else Store.put m k v

/-- The canonical form: keys strictly rising from lo, no default value listed. -/
def Store.wfFrom {α : Type} [DecidableEq α] (d : α) : Nat → Store α → Bool
  | _, [] => true
  | lo, (k, v) :: m => decide (lo ≤ k) && decide (v ≠ d) && Store.wfFrom d (k + 1) m

def Store.wf {α : Type} [DecidableEq α] (d : α) (m : Store α) : Bool := Store.wfFrom d 0 m

/-- Changes the value at k by f. -/
def Store.upd {α : Type} [DecidableEq α] (d : α) (m : Store α) (k : Nat) (f : α → α) : Store α :=
  Store.set d m k (f (Store.get d m k))

/-- The keys listed. -/
def Store.keys {α : Type} (m : Store α) : List Nat := m.map Prod.fst

/-- Keeps the entries that p admits (the canonical form stays). -/
def Store.keep {α : Type} (m : Store α) (p : Nat → α → Bool) : Store α := m.filter (fun e => p e.1 e.2)

/-- Changes every listed value; entries that become the default leave. -/
def Store.mapAll {α : Type} [DecidableEq α] (d : α) (m : Store α) (f : Nat → α → α) : Store α :=
  (m.map (fun e => (e.1, f e.1 e.2))).filter (fun e => decide (e.2 ≠ d))

/-- The first key from lo, below lo + n, that the store does not list. -/
def Store.firstFree {α : Type} (m : Store α) : Nat → Nat → Option Nat
  | _, 0 => none
  | lo, n + 1 => if m.keys.contains lo then Store.firstFree m (lo + 1) n else some lo

end Sys2Proof.Machine
end

