-- ==== Sys2Proof/Machine/State.lean ====
section
/-! DEFINITION. The state of one Omrath package as plain data: every piece of state the manual names (INVENTORY.md,
'## State', gives the rule and the reset value of each), the steps that are due, and the state right after reset. -/

namespace Sys2Proof.Machine

/-! ## Memory tiers -/

/-- State of an L1 line (R271); an absent line is I. -/
inductive LineSt where
  | v | o | io | oi | ov
deriving DecidableEq, Repr

/-- A 64-byte line held in a tier (R264): RID of the filling entry, own-package bit, words held, dirty words, poisoned
words, data, the L1 state and the virtual device whose access filled it (R350). -/
structure Line where
  rid : Nat := 0
  own : Bool := true
  st : LineSt := .v
  valid : BitVec 16 := 0
  dirty : BitVec 16 := 0
  pois : BitVec 16 := 0
  data : BitVec 512 := 0
  vdev : Nat := 0
deriving DecidableEq, Repr

/-- Ownership registration of a line at its home (R269): owner core per word (core + 1; 0 none), cores holding a copy. -/
structure Reg where
  owners : Store Nat := []
  copies : List Nat := []
deriving DecidableEq, Repr

/-- Words that a revocation takes for a core, and whether that core awaits a GRANT of the line with them (R271, R273). -/
structure Take where
  core : Nat
  words : BitVec 16
  grant : Bool
deriving DecidableEq, Repr

/-- Who awaits the answer to a forward (R266, R269, R273): a core, every core of a die whose cache evicted the words, a port
whose host or peer wrote them (R280), the Sluice that wrote them into the RECV ring of the record at pa (R236). -/
inductive Awaiter where
  | core (c : Nat)
  | die (d : Nat)
  | port
  | ring (pa : Nat)
deriving DecidableEq, Repr

/-- A forward or revocation outstanding for a line (R273): its owner + 1, the words that forwarded writes wrote, what
revocations take, in the order in which the home accepted them, and whose writes await the answer. -/
structure Pending where
  owner : Nat := 0
  fwd : BitVec 16 := 0
  takes : List Take := []
  waiters : List Awaiter := []
deriving DecidableEq, Repr

/-- A tentative word (R298): the wisp that wrote it, the join and index it is tagged with, its address and value, and
whether bytes of it that no store has covered are poisoned (R336). -/
structure Tent where
  launch : Nat
  index : Nat
  join : Nat
  cindex : Nat
  rid : Nat
  pa : Nat
  value : BitVec 32
  pois : Bool := false
  hidden : Bool := false                   -- the wisp has stored over it since, not tentatively (R123)
deriving DecidableEq, Repr

/-- A waiter in a word's AMOWAIT queue (R294). core is some c for a wisp that waits on its core. -/
structure Waiter where
  pa : Nat
  wide : Bool
  y : Word
  launch : Nat
  index : Nat
  core : Option Nat
deriving DecidableEq, Repr

/-! ## Cores -/

/-- A range-table slot: the 64-byte entry of R82 and the directory index it came from (none: wired). -/
structure Slot where
  img : BitVec 512 := 0
  dirIdx : Option Nat := none
deriving DecidableEq, Repr

/-- What the core is doing with the wisp it holds. -/
inductive Stage where
  | idle      -- no wisp
  | run       -- issues instructions
  | wait      -- waits on the core for an event (R24, R323, R345)
  | held      -- leaving, but no pool entry or overflow slot is free (R36)
  | halted    -- stopped for the debugger (R338)
deriving DecidableEq, Repr

/-- How the instruction at the PC stands (log 1): not issued; issued and waiting, to complete before a pre-emption or kill
is taken (R137, R282, R325); waiting so that a pre-emption abandons it with TEPC at the PC (R137, R191, R237, R239, R248),
or, for the yield of a SETVL, with TEPC = PC + 4 (R239, R386). -/
inductive Hold where
  | free | firm | loose | yielding
deriving DecidableEq, Repr

/-- An RTINV that awaits acknowledgements (R96): its scope and operands, and how many cores have not answered. -/
structure Inval where
  scope : Nat
  asn : Nat
  base : Nat
  limit : Nat
  left : Nat
deriving DecidableEq, Repr

/-- The event a wisp waits for, on its core or parked, with what the instruction writes when the wait ends. -/
inductive WaitOn where
  | none
  | suspend (wake : Nat)                                                -- R129
  | barrier (key phase d scope : Nat)                                   -- R291; key: which barrier
  | word (pa : Nat) (y : Word) (wide : Bool) (d order scope : Nat)      -- R294
  | join (id d : Nat)                                                   -- R306
  | wfi (d : Nat) (time : Nat) (pend force : Bool)                      -- R345
  | time (reply : Option Nat)                                           -- R258, an outstanding request and its answer
  | woken (v : Word) (d : Nat) (acq : Option Nat)                       -- the wait has ended: result, gd, scope to acquire
  | passed (key d scope : Nat)                                          -- a barrier's phase has completed (R291)
deriving DecidableEq, Repr

/-- An owned range (R285): its descriptor, and the words it covers by line. -/
structure OwnRange where
  base : Nat := 0        -- PA of element 0
  stride : Nat := 0
  count : Nat := 0
  width : Nat := 0       -- bytes of an element
  cells : Store (BitVec 16) := []
  leaving : Bool := false -- a DISOWN of it awaits its acknowledgements (R286)
deriving DecidableEq, Repr

inductive MKind where
  | loadb | swap | run | clr
deriving DecidableEq, Repr

/-- A command of the matrix queue, with the context and geometry it captured (R202). -/
structure MCmd where
  kind : MKind
  tag : Nat
  src : Nat := 0
  pitch : Nat := 0
  mfc : Word := 0
  mgeo : Word := 0
  next : Nat := 0        -- next row of an MRUN (R209)
  fin : Bool := false    -- its effect is made; it completes next (R203)
  seq : Nat := 0         -- place among the cluster's bank commands (R207)
deriving DecidableEq, Repr

inductive CKind where
  | cpy | cpyn | publ
deriving DecidableEq, Repr

/-- The copy geometry of R221. -/
structure CGeo where
  len : Nat := 0
  n1 : Nat := 0
  n2 : Nat := 0
  ss1 : Word := 0
  ss2 : Word := 0
  ds1 : Word := 0
  ds2 : Word := 0
deriving DecidableEq, Repr

/-- A command of the copy queue (R218, R228, R229). -/
structure CCmd where
  kind : CKind
  tag : Nat
  dst : Word := 0
  src : Word := 0
  scope : Nat := 0
  geo : CGeo := {}
  mask : Nat := 0
  started : Bool := false
  adm : Nat := 0         -- its pieces that are admitted (R254)
  fin : Bool := false    -- its words are written; it completes when they are released
deriving DecidableEq, Repr

/-- A prefetched stream element: its bits, or the trap cause its access met (R238). -/
inductive Elem where
  | val (v : Nat)
  | bad (cause : Nat) (dva : Word) (frec : BitVec 512)
deriving DecidableEq, Repr

/-- A Sluice binding (R231): the record's DVA and home address, its image, the bound register, the count of R243, the
prefetched elements, the pushed elements not yet performed or sent, and its faults. -/
structure Binding where
  used : Bool := false
  addr : Word := 0
  pa : Nat := 0
  anchor : Nat := 0              -- home address of the anchor's record, for a collective (R310)
  rank : Nat := 0
  img : BitVec 512 := 0
  vd : Nat := 0
  count : Nat := 0
  pushed : Nat := 0
  pre : List Elem := []
  unsent : List Nat := []
  ended : Bool := false
  stall : Option Nat := none     -- TIME since which it waits (R237)
  eng : Bool := false            -- that wait is an ENGWAIT's (R135)
  dead : Bool := false           -- delivers nothing more (R238)
  flt : Option Word := none      -- TVAL of an unreported fault
  noPush : Bool := false         -- pushes are discarded (R310, second case)
deriving DecidableEq, Repr

/-- A graph node (R244). -/
structure GNode where
  count : Nat := 0
  mask : BitVec 32 := 0
  defd : Bool := false
  held : Bool := false
  done : Bool := false
deriving DecidableEq, Repr

/-- The gang a wisp is in (R188): this member's index, the word of the collective it has issued (R191), and the TVAL of
a gang fault that it takes at its next collective (R193). -/
structure Gang where
  member : Nat
  issued : Option (BitVec 32) := none
  failed : Option Word := none
deriving DecidableEq, Repr

/-- The user control registers of R68 that the core holds. -/
structure UReg where
  vl : BitVec 16 := 0
  vtype : BitVec 8 := 0
  vlive : BitVec 32 := 0
  fctl : BitVec 16 := 0
  fstat : BitVec 7 := 0
  vstart : BitVec 16 := 0
  dix : BitVec 48 := 0
  dn : Store (BitVec 16) := []
  ds : Store Word := []
  joinctx : Word := 0
  kgrace : BitVec 16 := 100
deriving DecidableEq, Repr

/-- The supervisor registers of R69. -/
structure SReg where
  tvec : Word := 0
  tcause : BitVec 8 := 0
  tval : Word := 0
  tepc : Word := 0
  ppriv : Bool := false
  inh : Bool := false
  asn : BitVec 16 := 0
  asgen : BitVec 16 := 0
  rdir : Word := 0
  pend : Bool := false
  force : Bool := false
  deadline : Word := 0
  brkhalt : Bool := false
  step : Bool := false
deriving DecidableEq, Repr

/-- The typed buffers (R194): two physical copies of W and A, C, the front bit of each window (1: copy 1 is the front),
and the poisoned words (R197), keyed by space * 2^20 + copy * 2^19 + word. -/
structure Typed where
  w0 : Store Byte := []
  w1 : Store Byte := []
  a0 : Store Byte := []
  a1 : Store Byte := []
  c : Store Byte := []
  wFront : BitVec 8 := 0
  aFront : BitVec 8 := 0
  pois : Store Bool := []
deriving DecidableEq, Repr

/-- The engines' state that the core keeps (R203, R221, R223, R231, R244). -/
structure Eng where
  mfc : Word := 0
  mgeo : Word := 0
  mq : List MCmd := []
  mdone : Bool := false
  mflt : Bool := false
  mfault : Option Word := none
  geo : CGeo := {}
  cq : List CCmd := []
  cdone : Bool := false
  cflt : Bool := false
  cfault : Option Word := none
  bind : Store Binding := []
  graph : Store GNode := []
deriving DecidableEq, Repr

/-- One core. -/
structure Core where
  wisp : Option (Nat × Nat) := none        -- launch id and index of the wisp it holds
  stage : Stage := .idle
  waitOn : WaitOn := .none
  hold : Hold := .free                     -- how the instruction at the PC stands
  ir : BitVec 32 := 0                      -- the word of the instruction it issued last, which a wait issues again
  pc : Word := 0
  sup : Bool := false                      -- privilege S
  g : Store Word := []
  sg : Store Word := []                    -- the S copies of g4 to g7 (R319)
  v : Store VReg := []
  k : Store KReg := []
  u : UReg := {}
  s : SReg := {}
  slots : Store Slot := []
  age : List Nat := []                     -- slots 8 to 31 from the least to the most recently used (R86)
  frec : BitVec 512 := 0                   -- fault record (R91)
  l1 : Store Line := []
  sentPois : Store (BitVec 16) := []       -- line to the poisoned words of a message of it under way (R270, R336)
  fillPois : Store (BitVec 16) := []       -- line to the poisoned words of a GRANT or DATA under way to it (R336)
  drop : List Nat := []                    -- lines whose next GRANT or DATA is to be dropped (R272)
  lost : Option Nat := none                -- the address of a write-back answered with poison (R256)
  owned : Store OwnRange := []
  typed : Typed := {}
  e : Eng := {}
  gang : Option Gang := none
  gangWait : Option (BitVec 32) := none    -- it has issued GANG, this word, and waits for the others (R188)
  kill : Option (Nat × Nat) := none        -- signalled kill: TIME at which its grace ends, END code (R300, R361)
  preKind : Option PreemptKind := none
  lastTime : Nat := 0                      -- R258
  timeC0 : Nat := 0                        -- CYCLE when its outstanding RDTIME request left (R258)
  popped : Nat := 0                        -- positions that the waiting vector instruction has popped
  pushed : Nat := 0                        -- and pushed (R237)
  lastVdev : Option Nat := none            -- R196
  saved : BitVec 4 := 0                    -- parts saved by CTXSV since trap entry (R342, R346)
  inval : List Inval := []                 -- RTINVs that await acknowledgements (R96, R284)
  refill : Bool := false                   -- refill notice (R345)
  cycles : Nat := 0                        -- charged to the running wisp (R351)
  dbgKilled : Bool := false
  dbgEvicted : Bool := false
  csel : BitVec 6 := 0
  bump : Option (Nat × BitVec 16) := none  -- a GENBUMP that awaits its acknowledgements: ASN and new generation (R92)
  mc : List Nat := []                      -- lines on which it took trap 0x0E (R337)
deriving DecidableEq, Repr

/-! ## Clusters and dies -/

/-- A barrier (R288, R289). -/
structure Barrier where
  nexp : Nat := 0
  arrived : Nat := 0
  vand : Bool := false
  vor : Bool := false
  mism : Bool := false
  land : Bool := false
  lor : Bool := false
  lmism : Bool := false
  phase : Nat := 0
  owner : Option Nat := none
deriving DecidableEq, Repr

/-- A bank of the matrix unit (R198): aligned element (k, j) is elems at k * 256 + j. -/
structure Bank where
  valid : Bool := false
  bfmt : Nat := 0
  bb : BitVec 8 := 0
  kb : Nat := 0
  nb : Nat := 0
  eb : Store Int := []
  bnan : Store Bool := []
  elems : Store Int := []
  pois : Store Bool := []                  -- poisoned elements (R197)
deriving DecidableEq, Repr

structure Cluster where
  bars : Store Barrier := []
  cache : Store Line := []
  icache : Store Line := []
  bank0 : Bank := {}
  bank1 : Bank := {}
  active1 : Bool := false                  -- bank1 is the active bank
  lastGrant : Nat := 3                     -- R208
  lastVdev : Option Nat := none
deriving DecidableEq, Repr

/-- A die's report as the Wader holds it (R42): idle cores, free pool entries, records sent since. -/
structure Report where
  idle : Nat
  free : Nat
  sent : Nat
deriving DecidableEq, Repr

/-- A piece of a transfer (R254): the core that asks for it, the cycle of the request, its flits, the links of its route, the
step that goes on when it is admitted, and whether its flits are on their way. -/
structure Piece where
  core : Nat
  cyc : Nat
  flits : Nat
  links : List Nat
  wake : Event
  sent : Bool := false
deriving DecidableEq, Repr

structure Die where
  bars : Store Barrier := []
  cache : Store Line := []
  clock : Option (Nat × Nat) := none       -- CYCLE, and TIME in ps, when the clock step last changed (R259)
  clockStep : Nat := 0                     -- 3 % steps below nominal (R380)
  hotAt : Nat := 0                         -- latest TIME at which the throttling condition held (R380)
  resv : Store Nat := []                   -- physical cluster to the first index + 1 of the group, keyed (R45)
  resvLaunch : Store Nat := []
  report : Option Report := none           -- none: as at reset (R42)
  sentNow : Nat := 0                       -- records sent to it since its latest report left (R42)
  sentFirst : Nat := 0                     -- records sent to it since reset (R42)
  nextReport : Nat := 1000                 -- TIME of the next free-resource report (R42; the start: DESIGN CHOICE, log 45)
  occ : List (Nat × Nat) := []             -- occupancy of the latest report
  waiting : List Piece := []               -- pieces awaiting admission, in the order of request (R254)
  flying : List Piece := []                -- admitted pieces, whose flits hold credits of the die (R253)
deriving DecidableEq, Repr

/-! ## Joins, collectives -/

inductive JState where
  | free | opened | released | failed
deriving DecidableEq, Repr

/-- A join record (R295, R296, R299, R304). -/
structure Join where
  st : JState := .free
  gen : Nat := 1
  img : BitVec 512 := 0
  accPa : Nat := 0                         -- ACCADDR before interleaving, and its entry's IOV
  accIov : Nat := 0
  arrived : BitVec 64 := 0
  left : BitVec 64 := 0
  killed : BitVec 64 := 0
  warr : Nat := 0
  staged : Store (List Nat) := []          -- contributor index to its elements (f32 bits), index 64 for none
  dline : Bool := false
  settling : Option (Bool × Bool) := none  -- settlement decided, awaiting a directory edit: released, by DEADLINE (R301)
  alsoFailed : Bool := false               -- R302: released, but too late for its parent
  nv : Bool := false
  ovf : Bool := false
  nx : Bool := false
  word : Word := 0                         -- the state word as captured at settlement (R306)
  fpend : Bool := false
  vdev : Nat := 0
  part : Nat := 0
  asn : BitVec 16 := 0
  rdir : Word := 0
deriving DecidableEq, Repr

inductive CAlg where
  | home | slot | endpoint | join
deriving DecidableEq, Repr

/-- A collective instance at its anchor (R310). It is open while some rank's done bit is clear. -/
structure Inst where
  img : BitVec 512 := 0                    -- the reference record
  peers : List Nat := []                   -- record DVAs in rank order
  dest : Option Nat := none                -- PERMUTE: home address of the destination's record
  bases : Store Nat := []                  -- rank to the DVA of its result area, and its directory
  rdirs : Store Nat := []
  dies : Store Nat := []                   -- rank to the die of its binding, + 1
  pushes : Store (List Nat) := []          -- rank to its pushed elements
  done : Store Bool := []
  written : Store Nat := []                -- rank * 128 + source rank to the results written to the area
  combined : Nat := 0
  alg : CAlg := .home
  part : Nat := 0
  vdev : Nat := 0                          -- the device that is charged and counts it (R315, R316)
  pkgs : List Nat := []                    -- packages that hold its records (R314)
  slotDie : Option Nat := none             -- the I/O die whose reduction slot it holds (R315)
  fault : Bool := false                    -- its join did not match, or failed (R317)
  came : Store Bool := []                  -- rank whose arrival has been made
  lost : Store Bool := []                  -- rank whose arrival its join did not count
  outcome : Option (List Nat × BitVec 64) := none   -- its join's result, and who had arrived
deriving DecidableEq, Repr

/-! ## Wisps, launches, devices -/

/-- Where a wisp record is. -/
inductive Loc where
  | core (c : Nat)
  | pool (die : Nat)
  | moving (die : Nat)                     -- written by the Wader, not yet at the die
  | ovfNew
  | ovfBack (die : Nat)                    -- returning; the die it left
  | ended
deriving DecidableEq, Repr

/-- A wisp record (R20) with what the device keeps beside it. -/
structure Wisp where
  launch : Nat := 0
  index : Nat := 0
  pc : Word := 0
  st : Nat := 0                            -- STATE 0 to 3
  frame : Word := 0
  g1 : Word := 0
  g2 : Word := 0
  g3 : Word := 0
  join : Word := 0                         -- JOINID, WEIGHT, CINDEX
  vl : BitVec 16 := 0
  vtype : BitVec 8 := 0
  pinned : Bool := false
  gangSusp : Bool := false
  vsaved : Bool := false
  reason : Nat := 0
  yields : Nat := 0
  loc : Loc := .ended
  addr : Nat := 0
  prio : Nat := 0
  eff : Nat := 0
  since : Nat := 0                         -- order in which records became ready
  readyAt : Nat := 0                       -- TIME at which it became ready, or was last aged (R38)
  started : Bool := false
  viaOvf : Bool := false                   -- next pickup acquires at package scope (R128)
  waitOn : WaitOn := .none
  entered : Nat := 0                       -- its place in the order of entering the overflow queue (R36)
  kept : Bool := false                     -- a resume kept for the next SUSPEND (R326)
  aband : Bool := false                    -- its wait at SUSPEND was abandoned (R326)
  cluster : Option Nat := none             -- the cluster its group runs on (R45)
  group : Nat := 0                         -- first index of its CLUSTER group
  endCode : Nat := 0                       -- END of R361
  jout : Nat := 0                          -- JOUT recorded by its join (R361)
  cycles : Nat := 0
  counted : Bool := false
  fstat : BitVec 7 := 0
  tend : Nat := 0
  outcome : Nat := 0                       -- JREL and JFAIL of R361, bits 0 and 1
  compDone : Bool := false                 -- its completion record is written or refused (R363)
  lastDie : Nat := 0                       -- the die at which it ended
  gang : Option Gang := none
  binds : List Binding := []               -- bindings that its context buffer holds (R239)
deriving DecidableEq, Repr

inductive Decision where
  | none | run | checkpoint | discard
deriving DecidableEq, Repr

/-- A launch (R26 to R30, R40, R362). -/
structure Launch where
  img : BitVec 1024 := 0
  vdev : Nat := 0
  part : Nat := 0
  queue : Option Nat := none
  prio : Nat := 0
  parent : Nat := 0
  next : Nat := 0                          -- next index to place
  paused : Bool := false
  group : Nat := 1                         -- g of R44
  dieMask : Nat := 0                       -- dies allowed (R43), by partition logical die
  nret : Nat := 0
  nkill : Nat := 0
  nchild : Nat := 0
  status : Nat := 0
  tsel : Nat := 0
  cycles : Nat := 0
  decision : Decision := .none
  vacateBy : Nat := 0
  dlt0 : Nat := 0                          -- t0 of the deadline that decided CHECKPOINT (R333)
  resv : Nat := 0                          -- bytes per ns of the checkpoint engine reserved for it (R333)
  saving : Option (List Nat) := none       -- granules harvested for its image and still to be copied (R335)
  saved : List (Nat × List Byte) := []     -- granules copied into its image
  savedPois : List Nat := []               -- package-local addresses of their poisoned words
deriving DecidableEq, Repr

/-- A queue's registers (R31, R365). -/
structure Queue where
  qbase : Nat := 0                         -- QBASE [43:7] in place
  qlog : Nat := 4
  qen : Bool := false
  qhead : Nat := 0
  qtail : Nat := 0
  ovf : Bool := false
  back : Bool := false
  rej : Bool := false
  lastrej : Nat := 0
  qdone : Nat := 0
  qien : Bool := false
deriving DecidableEq, Repr

/-- A virtual device (R357, R316). -/
structure VDev where
  live : Bool := false
  part : Option Nat := none
  share : Nat := 0
  asnBase : Nat := 0
  asnCnt : Nat := 0
  ovfBase : Nat := 0
  ovfCap : Nat := 0
  occLim : Nat := 0
  pbt : Nat := 0
  sbt : Nat := 0
  safe : Nat := 0
  safeLen : Nat := 0
  safeKind : Bool := false
  backTab : Nat := 0
  dirTab : Nat := 0
  deficit : Int := 0
  rot : Bool := false                      -- bound at some time since its last turn ended (R351)
  counters : Store Nat := []               -- R316, by offset / 8
deriving DecidableEq, Repr

/-- A bind record (R39). -/
structure Bind where
  valid : Bool := false
  vdev : Nat := 0
  qmask : BitVec 16 := 0
  part : Nat := 0
  share : Nat := 0
  pfloor : Nat := 0
  bgen : Nat := 0
deriving DecidableEq, Repr

/-- A partition (R347, R356). -/
structure Part where
  x0 : Nat
  y0 : Nat
  w : Nat
  h : Nat
  slots : Nat := 0
  gran : Nat := 0
  handler : Word := 0
  himg : Nat := 0                          -- handler image: address and length (R356)
  hlen : Nat := 0
deriving DecidableEq, Repr

/-! ## Carr -/

/-- A mailbox (R354). arg and res are keyed by byte; cmd is ARG as it was when the command started. -/
structure Mbox where
  opc : Nat := 0
  ctag : Nat := 0
  busy : Bool := false
  done : Bool := false
  ovl : Bool := false
  result : Nat := 0
  rtag : Nat := 0
  cseq : Nat := 0
  since : Nat := 0                         -- TIME of its latest OPC write (R355)
  arg : Store Byte := []
  cmd : Store Byte := []
  res : Store Byte := []
deriving DecidableEq, Repr

/-- A deadline in force (R331): its target, T, t0, the functions whose commands it completes, and the decisions made. -/
structure Deadline where
  isPart : Bool
  target : Nat
  t : Nat
  t0 : Nat
  fns : List (Nat × Bool)                  -- function, and whether its T was raised
  counts : List Nat := [0, 0, 0, 0]
  noRun : Bool := false                    -- CHECKPOINT: RUN is never chosen
  granted : List Nat := []                 -- devices whose first CHECKPOINT launch has counted the dirty granules (R332)
deriving DecidableEq, Repr

/-- A checkpoint image in a safe tier (R335): the tier (its base, and whether it is host memory), the offset in it, the
launch and its wisps, the granules, the grade and the live cores of each die of the partition (R356, RESTORE). -/
structure Image where
  safe : Nat
  host : Bool
  offset : Nat
  launch : Launch
  id : Nat
  wisps : List Wisp
  pages : List (Nat × List Byte)
  pois : List Nat := []                    -- package-local addresses of their poisoned words (R336)
  length : Nat
  grade : Nat
  dies : List Nat
deriving DecidableEq, Repr

structure LogEntry where
  seq : Nat
  time : Nat
  kind : Nat
  device : Nat
  part : Nat
  detail : Nat
deriving DecidableEq, Repr

inductive Tdisp where
  | unlocked | locked | run | error
deriving DecidableEq, Repr

/-- Firmware state (R374): the image slot that is loaded (false: A, true: B; none: the ROM alone) and its version, the
bytes of the two slots in flash, and the rollback floor. -/
structure Firmware where
  loaded : Option Bool := none
  version : Nat := 0
  slotA : Store Byte := []
  slotB : Store Byte := []
  floor : Nat := 0
  cert : Store Byte := []                  -- the identity key's certificate, in flash (R375)
deriving DecidableEq, Repr

/-- The identity key: an ML-DSA-65 key pair (R375). -/
structure KeyPair where
  pub : List Byte := []
  sec : List Byte := []
deriving DecidableEq, Repr

/-- A reset under way (R352): its rung and target, the functions whose commands it completes, when it was requested and
when its rung began, and what its end does besides: STOP_INTERFACE_REQUEST (R377), DESTROY_VDEV (R356). -/
structure ResetReq where
  rung : Nat
  target : Nat
  vdev : Nat := 0                          -- the device it was requested for, where a wider rung has a wider target
  queue : Nat := 0
  fns : List Nat := []
  t0 : Nat := 0
  since : Nat := 0
  stop : Bool := false
  destroy : Bool := false
deriving DecidableEq, Repr

/-- What has left the part: MSI-X messages, data answering host reads and peer transactions, SPDM responses. -/
inductive Out where
  | msix (fn vector : Nat)
  | hostData (port : Nat) (bytes : List Byte) (poisoned : Bool)
  | peerData (dst : Nat) (v : Nat) (poisoned : Bool)
  | forwarded (src io port : Nat) (op : PeerOp) (pa n : Nat) (v : Word)     -- a relay's, by its I/O die and port (R263)
  | spdm (fn : Nat) (req : SpdmReq) (bytes : List Byte)
  | ualink (io port : Nat) (op : PeerOp) (pa n v : Nat)      -- a transaction for another package (R262)
deriving DecidableEq, Repr

/-- A Dredge request (R97): the entry's BASE and its directory, old and new base, length, granule size, IOV and RESID of
the entry, ASN, partition, and the phase reached. -/
structure Move where
  entry : Nat
  dir : Nat
  old : Nat
  new : Nat
  len : Nat
  gran : Nat
  iov : Nat := 0
  resid : BitVec 64
  asn : Nat
  part : Nat
  phase : Nat := 1
  copied : Nat := 0                        -- bytes copied so far
deriving DecidableEq, Repr

/-- What is fused or found at boot (R46, R47, R5); a key that is not listed has the value of a part with every unit live. -/
structure Fuse where
  grade : Nat := 0
  dead : Store (BitVec 64) := []           -- die to its cores that are not live
  deadSlices : Store (BitVec 16) := []
  mhz : Store Nat := []                    -- die to its frequency; 2,400 where not listed
  entropy : BitVec 256 := 0                -- identity entropy (R374)
  fusedDead : Store (BitVec 64) := []      -- units that the fuses name as not live (R375)
  fusedSlices : Store (BitVec 16) := []
deriving DecidableEq, Repr

/-- An HDM decoder of a host port (R261): host addresses from base on, len bytes, and the package-local address of the first. -/
structure Hdm where
  base : Nat := 0
  len : Nat := 0
  loc : Nat := 0
deriving DecidableEq, Repr

/-- The package. -/
structure State where
  cur : Nat := 0
  sched : List Event := []
  draw : Nat := 0
  evTurn : Bool := true                    -- the next step is the schedule's, if it holds one (log 1)
  evCount : Nat := 0                       -- steps of the schedule so far (log 1)
  on : Bool := true
  time : Nat := 0                          -- TIME, in ns (R257)
  ps : Nat := 0                            -- picoseconds since TIME last changed
  pkg : Nat := 0                           -- the package's own number (R81)
  fuse : Fuse := {}
  mem : Store Byte := []
  pois : Store Bool := []
  dirtyMap : Store Bool := []
  reg : Store Reg := []
  pending : Store Pending := []
  tents : List Tent := []
  waiters : List Waiter := []
  cores : Store Core := []
  clusters : Store Cluster := []
  dies : Store Die := []
  joins : Store Join := []                 -- key: site * 1024 + slot
  gens : Store (BitVec 16) := []           -- key: partition * 65536 + ASN
  parts : Store (Option Part) := [(0, some { x0 := 0, y0 := 0, w := 16, h := 20 })]
  linksDown : List (Nat × Nat × Nat) := []
  relays : Store Nat := []                 -- pod to the accelerator, + 1, that relays to it (R263)
  relay : Option (Nat × Nat) := none       -- the two pods between which this package is a relay (R263)
  mute : List (Nat × Nat) := []            -- a core, and the line of another package whose reply to it does not come (R263)
  hdm : Store Hdm := []                    -- key: port * 8 + decoder (R261)
  moves : List Move := []
  slotUse : Store Nat := []                -- partition to the reduction slots it uses (R315)
  ioSlots : Store Nat := []                -- I/O die to its slots in use
  geos : List CGeo := []                   -- copy geometries that context buffers name (log 25)
  insts : Store Inst := []                 -- key: home address of the anchor record
  ringDev : Store Nat := []                -- ring word to the device whose stream flit is on its way to it, + 1 (R353)
  binds : Store Bind := []
  vdevs : Store VDev := []
  queues : Store Queue := []               -- key: function * 16 + queue
  turn : Store Nat := []                   -- partition to the device whose turn it is + 1
  launches : Store Launch := []
  wisps : Store Wisp := []                 -- key: launch * 2^32 + index
  seq : Nat := 0                           -- next place in the order of becoming ready
  mbox : Store Mbox := []
  deadlines : List Deadline := []
  measured : List Nat := [0, 0, 0, 16, 20, 0, 0, 0, 0, 0]      -- layout and handler images as they were last measured (R375)
  layout : Option (List (Nat × Part)) := none      -- the layout of the PARTITION_MODE in progress (R348)
  images : List Image := []
  log : List LogEntry := []
  logSeq : Nat := 0
  losses : Nat := 0
  tdisp : Store Tdisp := []
  ide : Store (BitVec 256) := []           -- key: port * 16 + stream
  spdmSession : Store Nat := []            -- function to 1 after KEY_EXCHANGE, 2 after FINISH (R376)
  fw : Firmware := {}
  identity : KeyPair := {}                 -- generated at boot (R375)
  resets : List ResetReq := []
  out : List Out := []
deriving DecidableEq, Repr

/-- A step stops with a fault only where nothing of the machine runs. -/
inductive Fault where
  /-- Raised by step on a part that is powered down (R381): no unit runs until COLD_BOOT (R374). Safe: the machine
  stops where the part does. -/
  | powerOff
deriving DecidableEq, Repr

inductive Refusal where
  /-- Raised by an arm of exec whose instruction has no meaning yet. Safe: no behaviour is claimed. -/
  | notModelled (mnemonic : String)
deriving DecidableEq, Repr

abbrev Res := Host.Outcome State Fault Refusal

/-- Measurement 1, of the ROM (R375). -/
def romMeasurement : List Byte := (List.range 64).map (Config.shake256 [1])
/-- The identity key that a boot generates, from the seed SHAKE256(fused entropy, measurement 1): the same at every boot (R375). -/
def identityOf (entropy : BitVec 256) : KeyPair :=
  let bytes : List Byte := (List.range 32).map (fun i => entropy.extractLsb' (8 * i) 8) ++ romMeasurement
  let seed : List Byte := (List.range 64).map (Config.shake256 (bytes.map BitVec.toNat))
  { pub := Config.mlDsaPublic seed, sec := Config.mlDsaSecret seed }

/-- The machine right after reset (R374, R385): one partition over the whole grid, no device, no wisp, memory zero, and the
identity key of the boot. -/
def State.reset : State := { identity := identityOf 0 }

end Sys2Proof.Machine
end

