-- ==== Sys2Proof/Machine/Base.lean ====
section
/-! DEFINITION. Reading and writing the parts of the state: cores, registers, the schedule, wisps and launches. -/

namespace Sys2Proof.Machine

/-! ## Parts of the package -/

def State.coreAt (s : State) (c : Nat) : Core := Store.get {} s.cores c
def State.setCore (s : State) (c : Nat) (x : Core) : State := { s with cores := Store.set {} s.cores c x }
def State.updCore (s : State) (c : Nat) (f : Core → Core) : State := s.setCore c (f (s.coreAt c))
/-- The core whose turn it is. -/
def State.me (s : State) : Core := s.coreAt s.cur
def State.updMe (s : State) (f : Core → Core) : State := s.updCore s.cur f

def State.clusterAt (s : State) (k : Nat) : Cluster := Store.get {} s.clusters k
def State.updCluster (s : State) (k : Nat) (f : Cluster → Cluster) : State :=
  { s with clusters := Store.upd {} s.clusters k f }
def State.dieAt (s : State) (d : Nat) : Die := Store.get {} s.dies d
def State.updDie (s : State) (d : Nat) (f : Die → Die) : State := { s with dies := Store.upd {} s.dies d f }

/-- A core's number is die * 64 + physical core; its cluster and die follow (R15). -/
def clusterOf (c : Nat) : Nat := c / 4
def dieOf (c : Nat) : Nat := c / 64

/-- The key of a wisp record. -/
def wkey (launch index : Nat) : Nat := launch * 2 ^ 32 + index
def State.wispAt (s : State) (k : Nat) : Wisp := Store.get {} s.wisps k
def State.updWisp (s : State) (k : Nat) (f : Wisp → Wisp) : State := { s with wisps := Store.upd {} s.wisps k f }
def State.launchAt (s : State) (l : Nat) : Launch := Store.get {} s.launches l
def State.updLaunch (s : State) (l : Nat) (f : Launch → Launch) : State :=
  { s with launches := Store.upd {} s.launches l f }
def State.vdevAt (s : State) (f : Nat) : VDev := Store.get {} s.vdevs f
def State.updVdev (s : State) (n : Nat) (f : VDev → VDev) : State := { s with vdevs := Store.upd {} s.vdevs n f }
def State.queueAt (s : State) (fn q : Nat) : Queue := Store.get {} s.queues (fn * 16 + q)
def State.updQueue (s : State) (fn q : Nat) (f : Queue → Queue) : State :=
  { s with queues := Store.upd {} s.queues (fn * 16 + q) f }
def State.mboxAt (s : State) (f : Nat) : Mbox := Store.get {} s.mbox f
def State.updMbox (s : State) (n : Nat) (f : Mbox → Mbox) : State := { s with mbox := Store.upd {} s.mbox n f }

/-- Adds a step to the schedule. -/
def State.post (s : State) (e : Event) : State := { s with sched := s.sched ++ [e] }
/-- Adds a step that is not already due. -/
def State.postOnce (s : State) (e : Event) : State := if s.sched.contains e then s else s.post e
/-- A message that leaves the part. -/
def State.emit (s : State) (o : Out) : State := { s with out := s.out ++ [o] }
/-- Carr's log keeps the latest 65,536 entries (R356, LOG_READ). -/
def State.logAdd (s : State) (kind device part detail : Nat) : State :=
  { s with
    log := (s.log ++ [LogEntry.mk s.logSeq s.time kind device part detail]).drop (s.log.length + 1 - 65536)
    logSeq := s.logSeq + 1 }

/-! ## Registers of a core (R57, R319) -/

/-- At S, fields 4 to 7 name the S copies (R319); g0 reads 0 (R57). -/
def Core.gRead (x : Core) (r : Nat) : Word :=
  if r = 0 then 0 else if x.sup && 4 ≤ r && r ≤ 7 then Store.get 0 x.sg r else Store.get 0 x.g r
def Core.gWrite (x : Core) (r : Nat) (v : Word) : Core :=
  if r = 0 then x
  else if x.sup && 4 ≤ r && r ≤ 7 then { x with sg := Store.set 0 x.sg r v } else { x with g := Store.set 0 x.g r v }
def Core.vRead (x : Core) (r : Nat) : VReg := Store.get 0 x.v r
def Core.vWrite (x : Core) (r : Nat) (v : VReg) : Core := { x with v := Store.set 0 x.v r v }
def Core.kRead (x : Core) (r : Nat) : KReg := Store.get 0 x.k r
def Core.kWrite (x : Core) (r : Nat) (v : KReg) : Core := { x with k := Store.set 0 x.k r v }

def State.rg (s : State) (r : BitVec 5) : Word := s.me.gRead r.toNat
def State.wg (s : State) (r : BitVec 5) (v : Word) : State := s.updMe (·.gWrite r.toNat v)
/-- The PC of the running core. -/
def State.pc (s : State) : Word := s.me.pc
def State.jump (s : State) (t : Word) : State := s.updMe ({ · with pc := t })
/-- next_pc = PC + 4 (R71). -/
def State.nextPc (s : State) : State := s.jump (s.pc + 4)

def Core.updU (x : Core) (f : UReg → UReg) : Core := { x with u := f x.u }
def Core.updS (x : Core) (f : SReg → SReg) : Core := { x with s := f x.s }
def Core.updE (x : Core) (f : Eng → Eng) : Core := { x with e := f x.e }

/-- VTYPE's fields (R68). -/
def UReg.ew (u : UReg) : Nat := u.vtype.toNat % 4
def UReg.fmt (u : UReg) : Nat := u.vtype.toNat / 4 % 8
def UReg.fz (u : UReg) : Bool := u.vtype.toNat / 32 % 2 == 1
def UReg.rm (u : UReg) : Nat := u.fctl.toNat % 8
def UReg.mbias (u : UReg) : Int := (u.fctl.extractLsb' 8 8).toInt

/-! ## Traps as data -/

/-- A trap to be taken (R320): cause, TVAL, TEPC when it is not the PC, and the fault record when one is written (R91). -/
structure Trap where
  cause : Nat
  tval : Word := 0
  tepc : Option Word := none
  frec : Option (BitVec 512) := none
deriving DecidableEq, Repr

/-- How a memory access ends: with a value, with a trap (the state keeps what was done before
it, such as a slot filled by a walk), or waiting (an edit of the directory is in
progress, R89; a line is in transit, R271; an ownership answer is awaited, R273). -/
inductive Acc (α : Type) where
  | ok (a : α) (s : State)
  | trap (t : Trap) (s : State)
  | wait (s : State)

/-- Continues after a successful access. -/
def Acc.bind {α β : Type} (x : Acc α) (f : α → State → Acc β) : Acc β :=
  match x with
  | .ok a s => f a s
  | .trap t s => .trap t s
  | .wait s => .wait s

/-! ## Turns -/

/-- The next core after c, in ascending number taken cyclically, that issues instructions; c itself if none does. -/
def State.nextRunning (s : State) (c : Nat) : Nat :=
  let run := (s.cores.filter (fun e => e.2.stage == .run)).map Prod.fst
  match run.find? (fun i => c < i) with
  | some i => i
  | none => match run with
    | i :: _ => i
    | [] => c

/-- An instruction that waits is issued again at its core's next turn (log 1); it completes before a pre-emption or a kill
is taken (R137, R282, R325). -/
def State.block (s : State) : State := s.updMe ({ · with hold := .firm })
/-- A wait that a pre-emption or kill abandons (R137, R191, R237, R239, R248). -/
def State.stall (s : State) : State := s.updMe ({ · with hold := .loose })

end Sys2Proof.Machine
end

