-- ==== Sys2Proof/Machine/Topo.lean ====
section
/-! DEFINITION. Where things are: the grid (R10 to R13), live units and logical numbering (R46 to R52, R384), partitions
(R347) and the home map (R81, R385), all computed from the fused state and the partition layout. -/

namespace Sys2Proof.Machine

/-! ## The grid -/

/-- GRADE 2 is the half grid of OMR-P80 (R10, R46). -/
def State.isP80 (s : State) : Bool := s.fuse.grade == 2
def State.rows (s : State) : Nat := if s.isP80 then 10 else 20
/-- Compute dies, and memory sites (R10). -/
def State.ndie (s : State) : Nat := if s.isP80 then 80 else 160
def State.nio (s : State) : Nat := if s.isP80 then 4 else 8

/-- Site of logical die d, and of logical memory site m (R49). -/
def dieXY (d : Nat) : Nat × Nat := (2 * (d % 8) + d / 8 % 2, d / 8)
def siteXY (m : Nat) : Nat × Nat := (2 * (m % 8) + 1 - m / 8 % 2, m / 8)
/-- Hops between two sites (R249). -/
def hopsXY (a b : Nat × Nat) : Nat := (a.1 - b.1) + (b.1 - a.1) + ((a.2 - b.2) + (b.2 - a.2))

/-- The I/O dies present and the site each attaches to (R13, R262). -/
def ioSites (p80 : Bool) : List (Nat × (Nat × Nat)) :=
  if p80 then [(0, (0, 2)), (1, (0, 7)), (4, (15, 2)), (5, (15, 7))]
  else [(0, (0, 2)), (1, (0, 7)), (2, (0, 12)), (3, (0, 17)), (4, (15, 2)), (5, (15, 7)), (6, (15, 12)), (7, (15, 17))]

/-- Links N, E, S, W of a site at bits 0 to 3: to each grid neighbour, and in the edge position to an I/O die (R11, R47). -/
def State.linkLive (s : State) (xy : Nat × Nat) : Nat :=
  let io := (ioSites s.isP80).any (fun e => e.2 == xy)
  (decide (xy.2 + 1 < s.rows)).toNat + (decide (xy.1 < 15) || io).toNat * 2 + (decide (0 < xy.2)).toNat * 4
    + (decide (0 < xy.1) || io).toNat * 8

/-- The I/O die and port by which a transaction leaves for accelerator a (R262). -/
def State.ualinkExit (s : State) (a : Nat) : Nat × Nat :=
  (((ioSites s.isP80).map Prod.fst).getD (a % s.nio) 0, a / s.nio % 5)

/-! ## Clocks (R5, R257, R259, R380) -/

/-- The instant, in ps of TIME. -/
def State.nowPs (s : State) : Nat := 1000 * s.time + s.ps
/-- Frequency of a die in units of 10 kHz: 3 % below nominal for every step of R380. -/
def State.dieFreq (s : State) (d : Nat) : Nat := Store.get 2400 s.fuse.mhz d * (100 - 3 * (s.dieAt d).clockStep)
/-- CYCLE of die d at an instant: the die's own clock has counted since it started, or since its clock step last changed; the
starting instants differ by free amounts (R259, log 3). -/
def State.cycleOf (s : State) (d ps : Nat) : Nat :=
  match (s.dieAt d).clock with
  | none => Config.cycleLead d + ps * s.dieFreq d / 10 ^ 8
  | some (n, t) => n + (ps - t) * s.dieFreq d / 10 ^ 8
def State.cycleNow (s : State) (d : Nat) : Nat := s.cycleOf d s.nowPs % 2 ^ 64

/-! ## Live units (R46, R48) -/

def State.mcore (s : State) : Nat := if s.fuse.grade = 1 then 56 else 62
def State.mclus (s : State) : Nat := if s.fuse.grade = 1 then 14 else 16
def State.mslice (s : State) : Nat := if s.fuse.grade = 1 then 14 else 15

def State.coreLiveMask (s : State) (d : Nat) : BitVec 64 := ~~~ (Store.get 0 s.fuse.dead d)
def State.sliceLiveMask (s : State) (d : Nat) : BitVec 16 := ~~~ (Store.get 0 s.fuse.deadSlices d)
def State.coreLive (s : State) (c : Nat) : Bool := (s.coreLiveMask (dieOf c)).getLsbD (c % 64)
/-- Live cores of a cluster, by package-wide core number (R48). -/
def State.clusterCores (s : State) (k : Nat) : List Nat := ((List.range 4).map (k * 4 + ·)).filter s.coreLive
def State.clusterLive (s : State) (k : Nat) : Bool := (s.clusterCores k).length != 0
def State.liveCores (s : State) (d : Nat) : List Nat := ((List.range 64).map (d * 64 + ·)).filter s.coreLive
def State.liveClusters (s : State) (d : Nat) : List Nat := ((List.range 16).map (d * 16 + ·)).filter s.clusterLive
def State.liveSlices (s : State) (d : Nat) : Nat :=
  ((List.range 16).filter (fun i => (s.sliceLiveMask d).getLsbD i)).length

/-! ## Partitions (R347) -/

def State.partAt (s : State) (p : Nat) : Option Part := Store.get none s.parts p
def Part.holds (r : Part) (xy : Nat × Nat) : Bool :=
  decide (r.x0 ≤ xy.1 ∧ xy.1 < r.x0 + r.w ∧ r.y0 ≤ xy.2 ∧ xy.2 < r.y0 + r.h)

/-- The partition that holds a site. -/
def State.partOfXY (s : State) (xy : Nat × Nat) : Option Nat :=
  (s.parts.find? (fun e => match e.2 with | some r => r.holds xy && decide (xy.2 < s.rows) | none => false)).map Prod.fst
def State.partOfDie (s : State) (d : Nat) : Option Nat := s.partOfXY (dieXY d)
def State.partOfSite (s : State) (m : Nat) : Option Nat := s.partOfXY (siteXY m)
def State.partOfCore (s : State) (c : Nat) : Option Nat := s.partOfDie (dieOf c)

/-- Dies and memory sites of partition p in ascending logical number: their order within it is R49's. -/
def State.partDies (s : State) (p : Nat) : List Nat := (List.range s.ndie).filter (fun d => s.partOfDie d == some p)
def State.partSites (s : State) (p : Nat) : List Nat := (List.range s.ndie).filter (fun m => s.partOfSite m == some p)
def State.partCores (s : State) (p : Nat) : List Nat := (s.partDies p).flatMap s.liveCores

/-! ## Logical numbering (R50, R384) -/

def sumBefore (f : Nat → Nat) (l : List Nat) (x : Nat) : Nat := ((l.takeWhile (· != x)).map f).foldl (· + ·) 0

/-- Logical number within the partition of the unit of rank j on die d: guaranteed below m, extra from n * m on. -/
def logicalNumber (dies : List Nat) (live : Nat → Nat) (m d j : Nat) : Nat :=
  let k := dies.idxOf d
  if j < m then k * m + j else dies.length * m + sumBefore (fun e => live e - m) dies d + (j - m)

def State.lcoreOf (s : State) (c : Nat) : Nat :=
  match s.partOfCore c with
  | none => 0
  | some p =>
    logicalNumber (s.partDies p) (fun d => (s.liveCores d).length) s.mcore (dieOf c) ((s.liveCores (dieOf c)).idxOf c)
def State.lclusterOf (s : State) (k : Nat) : Nat :=
  match s.partOfDie (k / 16) with
  | none => 0
  | some p => logicalNumber (s.partDies p) (fun d => (s.liveClusters d).length) s.mclus (k / 16) ((s.liveClusters (k / 16)).idxOf k)
def State.ldieOf (s : State) (d : Nat) : Nat :=
  match s.partOfDie d with
  | none => 0
  | some p => (s.partDies p).idxOf d

/-- The package logical number of a core: the case n = NDIE of R50, which the debug windows use (R339). -/
def State.pkgCore (s : State) (n : Nat) : Option Nat :=
  let dies := List.range s.ndie
  let live := fun d => (s.liveCores d).length
  (dies.flatMap s.liveCores).find? (fun c => logicalNumber dies live s.mcore (dieOf c) ((s.liveCores (dieOf c)).idxOf c) == n)

/-- The package logical number of a die's first extra unit; 0xFFFF when it has none (R47, R384). -/
def State.firstExtra (s : State) (live : Nat → Nat) (m d : Nat) : Nat :=
  if live d ≤ m then 0xFFFF else logicalNumber (List.range s.ndie) live m d m

/-! ## Bands (R255) -/

def bandOfHops (h : Nat) : Nat :=
  if h = 0 then 1 else if h = 1 then 2 else if h ≤ 4 then 3 else if h ≤ 10 then 4 else if h ≤ 20 then 5 else 6
def bandBound (b : Nat) : Nat := [20, 60, 150, 300, 600, 1000, 1600, 3000].getD b 1600

/-- LOCQ's value for partition logical die t as seen from die d (R52). -/
def State.locq (s : State) (d t : Nat) : Word :=
  match s.partOfDie d with
  | none => 0xFFFFFFFFFFFFFFFF
  | some p =>
    match (s.partDies p)[t]? with
    | none => 0xFFFFFFFFFFFFFFFF
    | some e =>
      let h := hopsXY (dieXY d) (dieXY e)
      BitVec.ofNat 64 (bandBound (bandOfHops h) * 2 ^ 32 + h * 2 ^ 8 + bandOfHops h)

/-- QRY's value for selector q on core c (R51, R132). -/
def State.qry (s : State) (c q : Nat) : Word :=
  let d := dieOf c
  let p := (s.partOfCore c).getD 0
  let dies := s.partDies p
  let v : Nat := match q with
    | 0 => (dies.map (fun d => (s.liveCores d).length)).foldl (· + ·) 0
    | 1 => (dies.map (fun d => (s.liveClusters d).length)).foldl (· + ·) 0
    | 2 => dies.length
    | 3 => s.mcore
    | 4 => s.mclus
    | 5 => (s.liveCores d).length
    | 6 => (s.clusterCores (clusterOf c)).length
    | 7 => s.liveSlices d
    | 8 => match s.partAt p with
      | none => 0
      | some r => r.x0 + r.y0 * 2 ^ 4 + r.w * 2 ^ 9 + r.h * 2 ^ 14
    | 9 => s.fuse.grade
    | 10 => (dieXY d).1 + (dieXY d).2 * 2 ^ 4
    | _ => 0xFFFFFFFFFFFFFFFF
  BitVec.ofNat 64 v

/-! ## The home map (R81, R385) -/

/-- The package-local part of a PA and its package field (R81). -/
def paLocal (pa : Nat) : Nat := pa % 2 ^ 44
def paPkg (pa : Nat) : Nat := pa / 2 ^ 44 % 4096
def State.ownPa (s : State) (pa : Nat) : Bool := paPkg pa == s.pkg && decide (pa < 2 ^ 56)

/-- The memory site a home-map entry is nominal to (R385). -/
def nominalSite (e : Nat) : Nat := e / 36
/-- The partition that owns the entry holding a local address; none when it is unbacked (R81, R385). -/
def State.backing (s : State) (pa : Nat) : Option Nat :=
  let m := nominalSite (paLocal pa / 2 ^ 30)
  if m < s.ndie then s.partOfSite m else none
/-- Where the pool of die d has its records (log 11): the last 512 KiB of the entries nominal to the memory site of the die's
rank in its partition. -/
def State.poolBase (s : State) (d : Nat) : Nat :=
  let m := match s.partOfDie d with
    | some p => (s.partSites p).getD ((s.partDies p).idxOf d) d
    | none => d
  s.pkg * 2 ^ 44 + (36 * m + 36) * 2 ^ 30 - 2 ^ 19
def State.backedFor (s : State) (pa p : Nat) : Bool := s.ownPa pa && s.backing pa == some p

/-- The largest power of two at most min n 64. -/
def groupSize (n : Nat) : Nat :=
  if 64 ≤ n then 64 else if 32 ≤ n then 32 else if 16 ≤ n then 16 else if 8 ≤ n then 8 else if 4 ≤ n then 4
  else if 2 ≤ n then 2 else 1

/-- The interleave group that holds site m: groups of power-of-two sizes taken in order (R385). The first argument
bounds the number of groups. -/
def siteGroup : Nat → List Nat → Nat → List Nat
  | 0, _, _ => []
  | k + 1, l, m =>
    let g := l.take (groupSize l.length)
    if g.contains m then g else siteGroup k (l.drop (groupSize l.length)) m

/-- Interleave granule in bytes: GRAN of R81, or the override IOV of R82. -/
def granBytes (gran : Nat) : Nat := 256 * 2 ^ gran

/-- Where a package-local address lies: its memory site and stack offset, under interleave override iov (R81, R82). -/
def State.stackPlace (s : State) (loc iov : Nat) : Nat × Nat :=
  let e := loc / 2 ^ 30
  let m := nominalSite e
  match s.partOfSite m with
  | none => (m, loc % 2 ^ 30)
  | some p =>
    let grp := siteGroup 16 (s.partSites p) m
    let n := grp.length
    let gran := granBytes (match s.partAt p with | some r => r.gran | none => 0)
    let r := grp.idxOf m * 36 + e % 36
    let sbase := r * (2 ^ 30 / n)
    let o := loc % 2 ^ 30
    if iov = 1 then (grp.headD m, sbase + o)
    else
      let g := if 2 ≤ iov then granBytes (iov - 2) else gran
      (grp.getD (o / g % n) m, sbase + o / g / n * g + o % g)

/-- The home site of a local address under the home map. -/
def State.homeSite (s : State) (pa : Nat) : Nat := (s.stackPlace (paLocal pa) 0).1

/-- The local address whose place under the home map is the place that iov gives loc: memory is kept by that address, so
that two interleaves of one address meet exactly where the stacks do. none: outside the site's stack (log 12). -/
def State.place (s : State) (pa iov : Nat) : Option Nat :=
  if iov = 0 || !s.ownPa pa then some pa
  else
    let loc := paLocal pa
    let (site, off) := s.stackPlace loc iov
    match s.partOfSite site with
    | none => some pa
    | some p =>
      let grp := siteGroup 16 (s.partSites p) site
      let n := grp.length
      let gran := granBytes (match s.partAt p with | some r => r.gran | none => 0)
      let span := 2 ^ 30 / n
      let r := off / span
      let rem := off % span
      if 36 * n ≤ r then none
      else
        let q := rem / gran * n + grp.idxOf site
        some (pa - loc + (grp.getD (r / 36) site * 36 + r % 36) * 2 ^ 30 + q * gran + rem % gran)

/-- The place, or the address itself where the override has none. -/
def State.placeAt (s : State) (pa iov : Nat) : Nat := (s.place pa iov).getD pa

/-! ## Routes (R12, R249, R256) -/

/-- Where a transfer starts or ends: a site of the grid or an I/O die. -/
inductive Node where
  | site (xy : Nat × Nat)
  | io (n : Nat)
deriving DecidableEq, Repr

/-- A link is named by a site it leaves and its direction there: 0 N, 1 E, 2 S, 3 W (R47). The route from a to b takes
its X hops first; the first argument bounds the number of hops. -/
def routeSteps : Nat → Nat × Nat → Nat × Nat → List (Nat × Nat × Nat)
  | 0, _, _ => []
  | k + 1, a, b =>
    if a.1 < b.1 then (a.1, a.2, 1) :: routeSteps k (a.1 + 1, a.2) b
    else if b.1 < a.1 then (a.1, a.2, 3) :: routeSteps k (a.1 - 1, a.2) b
    else if a.2 < b.2 then (a.1, a.2, 0) :: routeSteps k (a.1, a.2 + 1) b
    else if b.2 < a.2 then (a.1, a.2, 2) :: routeSteps k (a.1, a.2 - 1) b
    else []

/-- The site an I/O die attaches to, and the link between them: it stands in the site's edge position (R11, R13). -/
def State.ioSite (s : State) (n : Nat) : Nat × Nat := (((ioSites s.isP80).find? (fun e => e.1 == n)).map Prod.snd).getD (0, 0)
def State.ioLink (s : State) (n : Nat) : Nat × Nat × Nat :=
  let xy := s.ioSite n
  (xy.1, xy.2, if xy.1 = 0 then 3 else 1)
/-- The direction from the I/O die to the site is named 4 above (R253). -/
def inward (l : Nat × Nat × Nat) : Nat × Nat × Nat := (l.1, l.2.1, l.2.2 + 4)
def State.nodeSite (s : State) : Node → Nat × Nat
  | .site xy => xy
  | .io n => s.ioSite n
def Node.isIo : Node → Bool
  | .io _ => true
  | .site _ => false
def State.nodeLink (s : State) : Node → List (Nat × Nat × Nat)
  | .site _ => []
  | .io n => [s.ioLink n]

/-- The links of the dimension-ordered route between two places, the link to an I/O die counted as one hop (R249). -/
def State.route (s : State) (a b : Node) : List (Nat × Nat × Nat) :=
  (s.nodeLink a).map inward ++ routeSteps 40 (s.nodeSite a) (s.nodeSite b) ++ s.nodeLink b
/-- The same link as the site at its other end names it. -/
def farEnd (l : Nat × Nat × Nat) : Nat × Nat × Nat :=
  match l with
  | (x, y, 0) => (x, y + 1, 2)
  | (x, y, 1) => (x + 1, y, 3)
  | (x, y, 2) => (x, y - 1, 0)
  | (0, y, _) => (0, y, 3)
  | (x, y, _) => (x - 1, y, 1)
/-- A link is out of service in both directions: a transfer whose route takes it is replaced by poison (R256). -/
def State.linkDown (s : State) (l : Nat × Nat × Nat) : Bool :=
  let l := (l.1, l.2.1, l.2.2 % 4)
  s.linksDown.contains l || s.linksDown.contains (farEnd l)
def State.routeDown (s : State) (a b : Node) : Bool := s.linksDown != [] && (s.route a b).any s.linkDown

/-- The accelerator to which a transaction for a package goes first: the package itself in the own pod, else the relay that
Carr has designated for its pod (R263). -/
def State.firstHop (s : State) (pkg : Nat) : Nat :=
  match (if pkg / 1024 = s.pkg / 1024 then 0 else Store.get 0 s.relays (pkg / 1024)) with
  | 0 => pkg % 1024
  | r + 1 => r
/-- Where a request for a physical address leaves the Causeway: its home, or the I/O die towards its package (R262). -/
def State.homeNode (s : State) (pa : Nat) : Node :=
  if s.ownPa pa then .site (siteXY (s.homeSite pa)) else .io (s.ualinkExit (s.firstHop (paPkg pa))).1
def dieNode (d : Nat) : Node := .site (dieXY d)
/-- The route of a request from die d to an address, and that of its reply, meet a link out of service (R256). -/
def State.reqDown (s : State) (d pa : Nat) : Bool := s.routeDown (dieNode d) (s.homeNode pa)
def State.replyDown (s : State) (d pa : Nat) : Bool := s.routeDown (s.homeNode pa) (dieNode d)
/-- The reply to core c is poisoned: a link of either route is out of service (R256), or the core's remote transaction ends
without a reply (R263). -/
def State.cutOff (s : State) (c pa : Nat) : Bool :=
  s.reqDown (dieOf c) pa || s.replyDown (dieOf c) pa || s.mute.contains (c, pa / 64)

/-! ## Admission credits (R253) -/

/-- A link as a number. -/
def linkNo (l : Nat × Nat × Nat) : Nat := l.1 + 16 * l.2.1 + 512 * l.2.2
/-- Routes inside rectangle r, from and to the compute die at xy, that cross link l: X hops are made in the source's row, and
Y hops in the destination's column. -/
def Part.routesOver (r : Part) (xy : Nat × Nat) (l : Nat × Nat × Nat) : Nat :=
  let (x, y, dir) := l
  let (dx, dy) := xy
  if r.holds (x, y) = false then 0
  else match dir with
    | 0 => (if dy ≤ y then r.y0 + r.h - 1 - y else 0) + (if dx = x ∧ y < dy then r.w * (y - r.y0 + 1) else 0)
    | 2 => (if y ≤ dy then y - r.y0 else 0) + (if dx = x ∧ dy < y then r.w * (r.y0 + r.h - y) else 0)
    | 1 => (if dy = y ∧ dx ≤ x then (r.x0 + r.w - 1 - x) * r.h else 0) + (if x < dx then x - r.x0 + 1 else 0)
    | _ => (if dy = y ∧ x ≤ dx then (x - r.x0) * r.h else 0) + (if dx < x then r.x0 + r.w - x else 0)
/-- The dimension-ordered route from a to b crosses link l of the grid. -/
def onRoute (a b : Nat × Nat) (l : Nat × Nat × Nat) : Bool :=
  let (x, y, dir) := l
  match dir with
  | 0 => decide (x = b.1 ∧ a.2 ≤ y ∧ y < b.2)
  | 1 => decide (y = a.2 ∧ a.1 ≤ x ∧ x < b.1)
  | 2 => decide (x = b.1 ∧ b.2 < y ∧ y ≤ a.2)
  | _ => decide (y = a.2 ∧ b.1 < x ∧ x ≤ a.1)
/-- Routes between the compute die at xy and the I/O dies of the part that cross link l. -/
def State.ioRoutes (s : State) (xy : Nat × Nat) (l : Nat × Nat × Nat) : Nat :=
  (ioSites s.isP80).foldl (fun n e =>
    let link := s.ioLink e.1
    n + (onRoute xy e.2 l).toNat + (onRoute e.2 xy l).toNat + (l == link).toNat + (l == inward link).toNat) 0
/-- The lead I/O die, among the dies that admit pieces: the Dredge and the checkpoint engine stand there (R14, R254); and the
number that their pieces carry, which no core has. -/
def leadIo : Nat := 160
def leadUnit : Nat := 64 * leadIo
/-- Routes of die d that cross link l of the I/O share. The lead I/O die counts as one, where a route between it and a compute
die's place crosses the link (DESIGN CHOICE, log 46). -/
def State.ioRoutesOf (s : State) (l : Nat × Nat × Nat) (d : Nat) : Nat :=
  if d = leadIo then
    ((List.range s.ndie).any (fun e => onRoute (dieXY e) (s.ioSite 0) l || onRoute (s.ioSite 0) (dieXY e) l)
      || l == s.ioLink 0 || l == inward (s.ioLink 0)).toNat
  else s.ioRoutes (dieXY d) l
/-- The credits that die d holds for a link, in flits per millisecond (DESIGN CHOICE, log 46): its part, by routes, of the 0.85
TB/s of the partition's routes, or, for a transfer to or from an I/O die (io), of the 0.05 TB/s of the I/O share (R251, R253). -/
def State.linkShare (s : State) (d : Nat) (io : Bool) (l : Nat × Nat × Nat) : Nat :=
  let of (all : Nat) (ds : List Nat) (f : Nat → Nat) : Nat := all * f d / (ds.map f).foldl (· + ·) 0
  if io then of 781250 (List.range s.ndie ++ [leadIo]) (s.ioRoutesOf l)
  else match s.partOfDie d with
    | none => 0
    | some p =>
      match s.partAt p with
      | none => 0
      | some r => of 13281250 (s.partDies p) (fun e => r.routesOver (dieXY e) l)
/-- The credits of die d that are out on a link. -/
def Die.out (x : Die) (l : Nat) : Nat := ((x.flying.filter (fun p => p.links.contains l)).map Piece.flits).foldl (· + ·) 0

/-- The links of a route, as numbers; 4096 above for a route to or from an I/O die, which takes the I/O share (R251). -/
def State.routeLinks (s : State) (a b : Node) : List Nat :=
  (s.route a b).map (fun l => linkNo l + if a.isIo || b.isIo then 4096 else 0)
/-- The links of the transfer of n bytes between die d and what `home` gives for each of its granules of 256 bytes, the finest
interleave (R81); out: from the die. -/
def State.spanLinks (s : State) (d : Nat) (out : Bool) (homes : List Node) : List Nat :=
  (homes.flatMap (fun h => if out then s.routeLinks (dieNode d) h else s.routeLinks h (dieNode d))).eraseDups
/-- Flits of the pieces, of at most 4 KiB each, of n bytes (R254). -/
def piecesOf (n : Nat) : List Nat :=
  (List.range ((n + 4095) / 4096)).map (fun i => (min 4096 (n - 4096 * i) + 63) / 64)
/-- Pieces wait in the order of request; those of one cycle by ascending core (R254). -/
def joinQueue (l : List Piece) (p : Piece) : List Piece :=
  let before (q : Piece) : Bool := q.cyc != p.cyc || decide (q.core ≤ p.core)
  l.filter before ++ p :: l.filter (fun q => !before q)
/-- The pieces of a transfer of core c, on die d, over some links: admitted, they go; else those not yet asked for join the
die's queue, and ev follows when they are admitted (R254). Within a die there is no admission. -/
def State.admission (s : State) (d c : Nat) (pieces links : List Nat) (ev : Event) : Bool × State :=
  if links = [] then (true, s)
  else
    let mine (p : Piece) : Bool := p.wake == ev && p.core == c && !p.sent
    let got := (s.dieAt d).flying.filter mine
    if pieces.length ≤ got.length then
      (true, got.foldl (fun s p => s.post (.creditReturn d p.flits)) (s.updDie d (fun x => { x with
        flying := x.flying.map (fun p => if mine p then { p with sent := true } else p) })))
    else
      let asked := got.length + ((s.dieAt d).waiting.filter mine).length
      (false, (s.updDie d (fun x => { x with
        waiting := (pieces.drop asked).foldl (fun l n => joinQueue l ⟨c, s.cycleNow d, n, links, ev, false⟩) x.waiting })).postOnce
          (.pieceAdmission d))

/-- The die holds credits for a piece on every link of its route. -/
def State.holdsCredits (s : State) (d : Nat) (p : Piece) : Bool :=
  p.links.all (fun l => decide ((s.dieAt d).out l + p.flits ≤ s.linkShare d (l / 4096 == 1) (l % 16, l / 16 % 32, l / 512 % 8)))

end Sys2Proof.Machine
end

