-- ==== Sys2Proof/Machine/Ready.lean ====
section
/-! DEFINITION. Wisp records as data in memory (R20), the die pools (R35), and how a record that has become ready is
offered to an idle core (R37, R38, R45, R351). -/

namespace Sys2Proof.Machine

/-! ## Bytes at an address, without the effects of a registered write -/

/-- The byte at a physical address (memory is zero at reset, R374). -/
def State.byteAt (s : State) (pa : Nat) : Byte := Store.get 0 s.mem pa
/-- A little-endian number of n bytes (R3). -/
def State.rawRead (s : State) (pa : Nat) : Nat → Nat
  | 0 => 0
  | n + 1 => (s.byteAt pa).toNat + 256 * s.rawRead (pa + 1) n
/-- Puts the n low bytes of v at pa. -/
def memPut (m : Store Byte) (pa v : Nat) : Nat → Store Byte
  | 0 => m
  | n + 1 => memPut (Store.set 0 m pa (BitVec.ofNat 8 v)) (pa + 1) (v / 256) n
def State.rawWrite (s : State) (pa n v : Nat) : State := { s with mem := memPut s.mem pa v n }

/-! ## The record -/

/-- The 64 bytes of a wisp record (R20). -/
def Wisp.image (w : Wisp) : Nat :=
  let flags := w.vl.toNat + w.vtype.toNat * 2 ^ 16 + w.pinned.toNat * 2 ^ 24 + w.gangSusp.toNat * 2 ^ 25
    + w.vsaved.toNat * 2 ^ 26 + w.reason * 2 ^ 32 + w.yields * 2 ^ 48
  (w.pc.toNat / 4 * 4 + w.st) + w.frame.toNat * 2 ^ 64 + w.g1.toNat * 2 ^ 128 + w.g2.toNat * 2 ^ 192
    + w.g3.toNat * 2 ^ 256 + w.join.toNat * 2 ^ 320 + (w.index + w.launch * 2 ^ 32) * 2 ^ 384 + flags * 2 ^ 448

def Wisp.key (w : Wisp) : Nat := wkey w.launch w.index

/-- The device writes the record in memory whenever it changes off a core (R20), and its granule is dirty (R99). -/
def State.writeRecord (s : State) (k : Nat) : State :=
  let w := s.wispAt k
  match w.loc with
  | .moving _ => s
  | _ => { s.rawWrite w.addr 64 w.image with dirtyMap := Store.set false s.dirtyMap (paLocal w.addr / 4096) true }

/-! ## Pools (R35, R36) -/

def State.poolUsed (s : State) (d : Nat) : Nat := (s.wisps.filter (fun e => e.2.loc == .pool d)).length
/-- F of R35. -/
def State.poolFree (s : State) (d : Nat) : Nat := 4096 - s.poolUsed d

def firstUnused (used : List Nat) (base step : Nat) : Nat → Nat → Option Nat
  | _, 0 => none
  | j, n + 1 => if used.contains (base + step * j) then firstUnused used base step (j + 1) n else some (base + step * j)

/-- A record address in the die's pool that no living wisp's record uses (log 11). -/
def State.poolAddr (s : State) (d : Nat) : Nat :=
  let used := (s.wisps.filter (fun e => e.2.loc != .ended && (match e.2.loc with | .moving _ => false | _ => true))).map (fun e => e.2.addr)
  (firstUnused used (s.poolBase d) 64 0 8192).getD (s.poolBase d)

def Loc.isOvf : Loc → Bool
  | .ovfNew | .ovfBack _ => true
  | _ => false

/-- Slots of the overflow queue of device f in use, and in use by new wisps. -/
def State.ovfUsed (s : State) (f : Nat) : Nat :=
  (s.wisps.filter (fun e => e.2.loc.isOvf && (s.launchAt e.2.launch).vdev == f)).length
/-- Live cores of a partition (LC of R36, R351). -/
def State.lc (s : State) (p : Nat) : Nat := (s.partCores p).length
/-- A slot open to new wisps: they occupy at most OVFCAP - LC slots (R36). -/
def State.ovfOpenNew (s : State) (f : Nat) : Bool :=
  let v := s.vdevAt f
  let new := (s.wisps.filter (fun e => e.2.loc == .ovfNew && (s.launchAt e.2.launch).vdev == f)).length
  decide (s.ovfUsed f < v.ovfCap ∧ new + s.lc (v.part.getD 0) < v.ovfCap)
def State.ovfOpen (s : State) (f : Nat) : Bool := decide (s.ovfUsed f < (s.vdevAt f).ovfCap)
def State.ovfAddr (s : State) (f : Nat) : Nat :=
  let used := (s.wisps.filter (fun e => e.2.loc.isOvf)).map (fun e => e.2.addr)
  (firstUnused used (s.vdevAt f).ovfBase 64 0 (s.vdevAt f).ovfCap).getD (s.vdevAt f).ovfBase

/-! ## Queue indices (R31, R32) -/

def Queue.size (x : Queue) : Nat := 2 ^ x.qlog
/-- n of R32: the records posted and not yet selected. -/
def Queue.posted (x : Queue) : Nat := (x.qtail + 2 ^ 16 * x.size - x.qhead) % x.size

/-! ## Launch fields (R26) -/

def Launch.field (l : Launch) (byte hi lo : Nat) : Nat := bits (l.img.toNat / 2 ^ (8 * byte)) hi lo
def Launch.entry (l : Launch) : Word := BitVec.ofNat 64 (l.field 0 63 0)
def Launch.args (l : Launch) : Word := BitVec.ofNat 64 (l.field 8 63 0)
def Launch.extX (l : Launch) : Nat := l.field 0x10 15 0
def Launch.extY (l : Launch) : Nat := l.field 0x10 31 16
def Launch.extZ (l : Launch) : Nat := l.field 0x10 47 32
def Launch.count (l : Launch) : Nat := l.extX * l.extY * l.extZ
def Launch.asn (l : Launch) : BitVec 16 := BitVec.ofNat 16 (l.field 0x18 15 0)
def Launch.codeRid (l : Launch) : Nat := l.field 0x18 23 16
def Launch.prioField (l : Launch) : Nat := l.field 0x18 26 24
def Launch.rclass (l : Launch) : Nat := l.field 0x18 29 28
def Launch.gangw (l : Launch) : Nat := l.field 0x18 34 32
def Launch.joinWord (l : Launch) : Nat := l.field 0x20 47 0
def Launch.pmode (l : Launch) : Nat := l.field 0x28 2 0
def Launch.popnd (l : Launch) : Nat := l.field 0x30 63 0
def Launch.compl (l : Launch) : Nat := l.field 0x38 63 0
def Launch.hint (l : Launch) : Nat := l.field 0x48 63 0
def Launch.fsize (l : Launch) : Nat := l.field 0x50 31 0
def Launch.ssize (l : Launch) : Nat := l.field 0x50 63 32
def Launch.fbase (l : Launch) : Word := BitVec.ofNat 64 (l.field 0x58 63 0)
def Launch.sbase (l : Launch) : Word := BitVec.ofNat 64 (l.field 0x60 63 0)
/-- The device still dispenses wisps of the launch (R331, R333). -/
def Launch.dispensed (l : Launch) : Bool := l.decision == .none || l.decision == .run

/-! ## Who takes a ready record (R37, R45, R351) -/

def State.bound (s : State) (f : Nat) : Bool := s.binds.any (fun b => b.2.valid && b.2.vdev == f)
/-- Device f is in the rotation of partition p: it has a bind record, or has not ended a turn since it had one (R351). -/
def State.inRotation (s : State) (p f : Nat) : Bool :=
  (s.vdevAt f).live && (s.vdevAt f).part == some p && (s.bound f || (s.vdevAt f).rot)
/-- The device that has the turn of partition p, + 1; 0: none. -/
def State.turnOf (s : State) (p : Nat) : Nat :=
  match Store.get 0 s.turn p with
  | 0 => 0
  | t + 1 => if (s.vdevAt t).live && (s.vdevAt t).part == some p then t + 1 else 0

/-- The devices of partition p whose wisps may be dispensed: the one that has the turn, then those of the rotation with a
positive deficit, in turn order (R351). -/
def State.devOrder (s : State) (p : Nat) : List Nat :=
  let devs := (s.vdevs.filter (fun e => s.inRotation p e.1 && decide (0 < e.2.deficit))).map Prod.fst
  match s.turnOf p with
  | 0 => devs
  | t + 1 => t :: (devs.filter (fun d => t < d) ++ devs.filter (fun d => d < t))

/-- A CLUSTER group that runs on no cluster, new or placed again by RESTORE, or that a pre-emption has taken off its cores, is
taken by GROUP_START alone (R45, R329). -/
def State.awaitsGroup (s : State) (w : Wisp) : Bool :=
  (s.launchAt w.launch).pmode == 3 && (w.cluster.isNone || s.wisps.any (fun e => e.2.launch == w.launch && e.2.group == w.group
    && [5, 6, 7].contains e.2.reason && (match e.2.loc with | .core _ | .ended => false | _ => true)))

/-- Ready wisps of a group in the pool of die d, in ascending index, and whether every other member is off its core. -/
def State.groupReady (s : State) (d l first : Nat) : List (Nat × Wisp) :=
  s.wisps.filter (fun e => e.2.launch == l && e.2.group == first && e.2.loc == .pool d && e.2.st == 0)
def State.groupVacated (s : State) (l first : Nat) : Bool :=
  !s.wisps.any (fun e => e.2.launch == l && e.2.group == first && (match e.2.loc with | .core _ => true | _ => false))

def State.reservedCluster (s : State) (k : Nat) : Bool := Store.get 0 (s.dieAt (k / 16)).resv (k % 16) != 0

/-- Ready, unpinned records of die d that core c may take. -/
def State.takeable (s : State) (c : Nat) : List (Nat × Wisp) :=
  if s.reservedCluster (clusterOf c) then []
  else s.wisps.filter (fun e =>
    e.2.loc == .pool (dieOf c) && e.2.st == 0 && !e.2.pinned && (s.launchAt e.2.launch).dispensed
      && !s.awaitsGroup e.2
      && (match e.2.cluster with | some k => k == clusterOf c | none => true))

/-- The first record in the order of R37: highest effective priority, then the earliest to become ready. -/
def bestOf : List (Nat × Wisp) → Option (Nat × Wisp)
  | [] => none
  | x :: l => match bestOf l with
    | none => some x
    | some y => if y.2.eff < x.2.eff || (y.2.eff == x.2.eff && decide (x.2.since < y.2.since)) then some x else some y

/-- The record core c takes next. -/
def State.pickFor (s : State) (c : Nat) : Option Nat :=
  let l := s.takeable c
  let p := (s.partOfCore c).getD 0
  ((s.devOrder p).findSome? (fun d => bestOf (l.filter (fun e => (s.launchAt e.2.launch).vdev == d)))).map Prod.fst

/-- Idle live cores of a die, lowest first; which of several takes a record is not specified (R37, log 1). -/
def State.idleCores (s : State) (d : Nat) : List Nat := (s.liveCores d).filter (fun c => (s.coreAt c).stage == .idle)

/-- The group that has cluster k reserved, and idle cores of the cluster. -/
def State.reservation (s : State) (k : Nat) : Option (Nat × Nat) :=
  match Store.get 0 (s.dieAt (k / 16)).resv (k % 16) with
  | 0 => none
  | f + 1 => some (Store.get 0 (s.dieAt (k / 16)).resvLaunch (k % 16), f)
def State.idleIn (s : State) (k : Nat) : List Nat := (s.clusterCores k).filter (fun c => (s.coreAt c).stage == .idle)
/-- Every ready wisp of the group is in the pool of die d: the group is placed as a whole (R329). -/
def State.groupTogether (s : State) (d l first : Nat) : Bool :=
  !s.wisps.any (fun e => e.2.launch == l && e.2.group == first && e.2.st == 0 && e.2.loc != .pool d)
/-- A reserved cluster has an idle core for every wisp of its group (R45), whose launch is still dispensed (R331). -/
def State.groupCanStart (s : State) (k : Nat) : Bool :=
  match s.reservation k with
  | some (l, f) => decide ((s.groupReady (k / 16) l f).length ≤ (s.idleIn k).length) && s.groupVacated l f
      && s.groupTogether (k / 16) l f && (s.launchAt l).dispensed && (s.groupReady (k / 16) l f != [])
  | none => false
def State.hasReservation (s : State) (d : Nat) (w : Wisp) : Bool :=
  (s.liveClusters d).any (fun k => s.reservation k == some (w.launch, w.group))

/-- Posts what the idle cores of the die can do now: the start of a group, a reservation, a pickup. -/
def State.offer (s : State) (d : Nat) : State :=
  let s := ((s.liveClusters d).filter s.groupCanStart).foldl (fun s k => s.postOnce (.groupStart k)) s
  let s := if s.wisps.any (fun e => e.2.loc == .pool d && e.2.st == 0 && s.awaitsGroup e.2
        && (s.launchAt e.2.launch).dispensed && !s.hasReservation d e.2)
    then s.postOnce (.clusterReservation d) else s
  match (s.idleCores d).findSome? (fun c => (s.pickFor c).map (fun k => (c, k))) with
  | some (c, k) => s.postOnce (if (s.wispAt k).started then .wispResume c else .wispPickup c)
  | none => s

/-- A record becomes ready: STATE 00, its place in the order of R37, its priority back at PRIO (R22, R38). -/
def State.markReady (s : State) (k : Nat) : State :=
  let w := s.wispAt k
  let s := { s.updWisp k ({ · with st := 0, since := s.seq, readyAt := s.time, eff := w.prio }) with seq := s.seq + 1 }
  let s := s.writeRecord k
  match w.loc with
  | .pool d => s.offer d
  | _ => if w.loc.isOvf then s.post (.overflowDrain (s.launchAt w.launch).vdev) else s

/-- A wait on the core ends: the result is written when the core has its turn. -/
def State.endCoreWait (s : State) (c : Nat) (w : WaitOn) : State :=
  s.updCore c (fun x => { x with waitOn := w, stage := if x.stage == .wait then .run else x.stage })
def State.wakeCore (s : State) (c : Nat) (v : Word) (d : Nat) (acq : Option Nat) : State := s.endCoreWait c (.woken v d acq)

/-- A parked wisp's event occurs: it becomes ready, and its result waits for the restore (R22). -/
def State.endParkedWait (s : State) (k : Nat) (w : WaitOn) : State := (s.updWisp k ({ · with waitOn := w })).markReady k
def State.wakeParked (s : State) (k : Nat) (v : Word) (d : Nat) (acq : Option Nat) : State :=
  s.endParkedWait k (.woken v d acq)

end Sys2Proof.Machine
end

