-- ==== Sys2Proof/Machine/Mem.lean ====
section
/-! DEFINITION. Memory: the homes (R81, R97, R99, R269, R273, R294, R336), the three cache tiers (R264), releases and
acquires (R266 to R268), line states of L1 (R271) and the instruction cache (R53, R56). Addresses are those of
State.place. The sets of the caches are not given: a line leaves a cache only when the whole cache is full (log 10). -/

namespace Sys2Proof.Machine

/-! ## Words of a line -/

def wordBits (m : BitVec 16) : BitVec 512 :=
  (List.range 16).foldl (fun b i => if m.getLsbD i then b ||| (BitVec.ofNat 512 0xFFFFFFFF <<< (32 * i)) else b) 0
/-- old with the words of mask m taken from new. -/
def mergeWords (old new : BitVec 512) (m : BitVec 16) : BitVec 512 :=
  (old &&& ~~~ (wordBits m)) ||| (new &&& wordBits m)
/-- The words of its line that the n bytes at pa touch, and those they cover whole. -/
def wordsTouched (pa n : Nat) : BitVec 16 :=
  BitVec.ofNat 16 ((2 ^ ((pa % 64 + n + 3) / 4) - 1) / 2 ^ (pa % 64 / 4) * 2 ^ (pa % 64 / 4))
def wordsCovered (pa n : Nat) : BitVec 16 :=
  let lo := (pa % 64 + 3) / 4
  BitVec.ofNat 16 ((2 ^ ((pa % 64 + n) / 4) - 1) / 2 ^ lo * 2 ^ lo)
/-- n bytes at offset o of a line's data, and the data with them replaced. -/
def lineBytes (d : BitVec 512) (o n : Nat) : Nat := d.toNat / 2 ^ (8 * o) % 2 ^ (8 * n)
def lineSet (d : BitVec 512) (o n v : Nat) : BitVec 512 :=
  let m : BitVec 512 := BitVec.ofNat 512 ((2 ^ (8 * n) - 1) * 2 ^ (8 * o))
  (d &&& ~~~ m) ||| BitVec.ofNat 512 (v % 2 ^ (8 * n) * 2 ^ (8 * o))

/-! ## Homes -/

/-- Where a move puts an address of the old span; the interleave of the entry stays (R97). -/
def State.moved (s : State) (m : Move) (pa : Nat) : Option Nat :=
  if m.iov = 0 then (if m.old ≤ pa ∧ pa < m.old + m.len then some (pa - m.old + m.new) else none)
  else ((List.range (m.len / 256)).find? (fun i => s.placeAt (m.old + 256 * i) m.iov == pa / 256 * 256)).map
    (fun i => s.placeAt (m.new + 256 * i) m.iov + pa % 256)

/-- From the switch on, an access reaching an old home is forwarded to the new one (R97, phases 3 and 4). -/
def State.fwd (s : State) (pa : Nat) : Nat :=
  ((s.moves.filter (fun m => 3 ≤ m.phase)).findSome? (fun m => s.moved m pa)).getD pa

/-- n bytes at a home, little-endian, and whether one of their words is poisoned (R336). -/
def State.homeRead (s : State) (pa n : Nat) : Nat := s.rawRead (s.fwd pa) n
def State.homePois (s : State) (pa n : Nat) : Bool :=
  let pa := s.fwd pa
  s.pois != [] && (List.range ((pa % 4 + n + 3) / 4)).any (fun i => Store.get false s.pois (pa / 4 + i))

/-- A run of bytes over several lines, each line at the home it has moved to (R98); the first argument bounds the lines. -/
def State.spanReadN : Nat → State → Nat → Nat → Nat
  | 0, _, _, _ => 0
  | k + 1, s, pa, n =>
    let m := min n (64 - pa % 64)
    if n = 0 then 0 else s.homeRead pa m + State.spanReadN k s (pa + m) (n - m) * 2 ^ (8 * m)
def State.spanRead (s : State) (pa n : Nat) : Nat := State.spanReadN (n / 64 + 2) s pa n
def State.spanPoisN : Nat → State → Nat → Nat → Bool
  | 0, _, _, _ => false
  | k + 1, s, pa, n =>
    let m := min n (64 - pa % 64)
    n != 0 && (s.homePois pa m || State.spanPoisN k s (pa + m) (n - m))
def State.spanPois (s : State) (pa n : Nat) : Bool := s.pois != [] && State.spanPoisN (n / 64 + 2) s pa n

def overlap (a n b m : Nat) : Bool := decide (a < b + m ∧ b < a + n)

/-- The word an AMOWAIT waits on, extended as R293 extends a result. -/
def State.watched (s : State) (pa : Nat) (wide : Bool) : Word :=
  if wide then BitVec.ofNat 64 (s.homeRead pa 8) else (BitVec.ofNat 32 (s.homeRead pa 4)).signExtend 64

/-- What an AMOWAIT that waits asked for: its gd, and the scope it acquires at the end. -/
def WaitOn.wordWait : WaitOn → Option (Nat × Option Nat)
  | .word _ _ _ d order scope => Option.some (d, if order = 1 ∨ order = 3 then Option.some scope else Option.none)
  | _ => Option.none

/-- A waiter is dequeued: its result is the word as it stands (R294). -/
def State.wakeWaiter (s : State) (w : Waiter) : State :=
  let s := { s with waiters := s.waiters.erase w }
  let v := s.watched w.pa w.wide
  match w.core with
  | some c =>
    match (s.coreAt c).waitOn.wordWait with
    | some (d, a) => s.wakeCore c v d a
    | none => s
  | none =>
    match (s.wispAt (wkey w.launch w.index)).waitOn.wordWait with
    | some (d, a) => s.wakeParked (wkey w.launch w.index) v d a
    | none => s

/-- A registered write wakes every waiter whose word it gives a value other than the awaited one (R294). -/
def State.wakeWaiters (s : State) (pa n : Nat) : State :=
  (s.waiters.filter (fun w => overlap pa n w.pa (if w.wide then 8 else 4))).foldl
    (fun s w => if s.watched w.pa w.wide == w.y then s else s.wakeWaiter w) s

/-! ### Ownership at the home (R269, R273) -/

def State.regAt (s : State) (line : Nat) : Reg := Store.get {} s.reg line
def State.updReg (s : State) (line : Nat) (f : Reg → Reg) : State := { s with reg := Store.upd {} s.reg line f }
/-- The words of the line that core c owns. -/
def Reg.words (r : Reg) (c : Nat) : BitVec 16 :=
  r.owners.foldl (fun m e => if e.2 = c + 1 then m ||| BitVec.ofNat 16 (2 ^ e.1) else m) 0
def Reg.ownersOf (r : Reg) (m : BitVec 16) : List Nat :=
  ((r.owners.filter (fun e => m.getLsbD e.1)).map (fun e => e.2 - 1)).eraseDups
def Reg.clear (r : Reg) (c : Nat) (m : BitVec 16) : Reg :=
  { r with owners := r.owners.filter (fun e => !(e.2 == c + 1 && m.getLsbD e.1)) }
def Reg.give (r : Reg) (c : Nat) (m : BitVec 16) : Reg :=
  { r with owners := (List.range 16).foldl (fun o i => if m.getLsbD i then Store.set 0 o i (c + 1) else o) r.owners }

def pkey (line owner : Nat) : Nat := line * 16384 + owner
def State.pendAt (s : State) (line owner : Nat) : Pending := Store.get {} s.pending (pkey line owner)
def State.isPending (s : State) (line owner : Nat) : Bool := Store.get {} s.pending (pkey line owner) != {}

/-- The home asks an owner that holds a copy to give the line up: forwarded words m, or words that t takes; a later
revocation takes a word from an earlier one (R269). What finds a message outstanding awaits the same answer (R273). w is who
waits for the answer. -/
def State.askOwner (s : State) (line owner : Nat) (m : BitVec 16) (t : Option Take) (w : Option Awaiter) : State :=
  let p := s.pendAt line owner
  let had := s.isPending line owner
  let p := { p with
    owner := owner + 1
    fwd := if t.isNone then p.fwd ||| m else p.fwd
    takes := match t with
      | some k => p.takes.map (fun q => { q with words := q.words &&& ~~~ m }) ++ [k]
      | none => p.takes
    waiters := match w with | some c => if p.waiters.contains c then p.waiters else p.waiters ++ [c] | none => p.waiters }
  let s := { s with pending := Store.set {} s.pending (pkey line owner) p }
  if had then s else s.post (if t.isNone then .fwd owner line m else .revoke owner line m)

/-- A write registered by `who` is foreign to the other owners of its words: each that holds a copy is forwarded the
write (R269). -/
def State.foreignWrite (s : State) (who : Option Nat) (w : Option Awaiter) (pa n : Nat) : State :=
  let line := pa / 64
  let r := s.regAt line
  (r.ownersOf (wordsTouched pa n)).foldl
    (fun s o => if who == some o || !r.copies.contains o then s else s.askOwner line o (wordsTouched pa n) none w) s

/-- Words of a line of core c are deregistered: what it owns, and what revocations under way take for it (R273, R286). -/
def State.deregister (s : State) (c line : Nat) (m : BitVec 16) : State :=
  let s := s.updReg line (·.clear c m)
  { s with pending := Store.mapAll {} s.pending (fun k p =>
      if k / 16384 = line then
        { p with takes := p.takes.map (fun q => if q.core = c then { q with words := q.words &&& ~~~ m } else q) }
      else p) }

/-! ### Registered writes -/

/-- Bytes, poison (a whole word written loses it, R336) and the dirty-granule bit (R99) of a write at its home. -/
def State.putHome (s : State) (pa n v : Nat) : State :=
  let s := s.rawWrite pa n v
  let whole := (pa + 3) / 4
  { s with
    pois := if s.pois == [] then s.pois
      else (List.range ((pa + n) / 4 - whole)).foldl (fun p i => Store.set false p (whole + i) false) s.pois
    dirtyMap := if s.ownPa pa && n != 0
      then Store.set false (Store.set false s.dirtyMap (paLocal pa / 4096) true) (paLocal (pa + n - 1) / 4096) true
      else s.dirtyMap }

/-- Where the Dredge mirrors a write to what it has copied, until the switch (R97). -/
def State.mirrorOf (s : State) (pa : Nat) : Option Nat :=
  (s.moves.filter (fun m => decide (m.phase ≤ 2))).findSome? (fun m => s.moved { m with len := m.copied } pa)

/-- A write within a line is registered at its home: forwarded or mirrored by the Dredge (R97), foreign to owners (R269).
A write that the Dredge mirrors is registered at the new home too.
`who` is the core whose own L1 writes it, w who awaits the answers. -/
def State.register (s : State) (who : Option Nat) (w : Option Awaiter) (pa n v : Nat) : State :=
  let pa := s.fwd pa
  let s := (s.putHome pa n v).foreignWrite who w pa n
  match s.mirrorOf pa with
  | some q => (s.putHome q n v).foreignWrite who w q n
  | none => s

/-- An access to another package's memory leaves as a transaction through the I/O die and port of its first accelerator (R262). -/
def State.sendRemote (s : State) (op : PeerOp) (pa n v : Nat) : State :=
  if s.ownPa pa then s
  else let x := s.ualinkExit (s.firstHop (paPkg pa)); s.emit (.ualink x.1 x.2 op pa n v)

/-- A write within a line is registered and wakes waiters (R294). -/
def State.homeUpdate (s : State) (who : Option Nat) (w : Option Awaiter) (pa n v : Nat) : State :=
  (s.register who w pa n v).wakeWaiters (s.fwd pa) n
/-- One registered write within a line. -/
def State.homeWrite1 (s : State) (who : Option Nat) (w : Option Awaiter) (pa n v : Nat) : State :=
  (s.sendRemote .write pa n v).homeUpdate who w pa n v

/-- A registered write of n bytes, cut at line boundaries; the first argument bounds the number of lines. -/
def State.homeWriteN : Nat → State → Option Nat → Option Awaiter → Nat → Nat → Nat → State
  | 0, s, _, _, _, _, _ => s
  | k + 1, s, who, w, pa, n, v =>
    let m := min n (64 - pa % 64)
    if n = 0 then s
    else State.homeWriteN k (s.homeWrite1 who w pa m v) who w (pa + m) (n - m) (v / 2 ^ (8 * m))
def State.homeWrite (s : State) (who : Option Nat) (w : Option Awaiter) (pa n v : Nat) : State :=
  State.homeWriteN (n / 64 + 2) s who w pa n v

/-- The words become poisoned at the home, and where the Dredge mirrors them (R97, R336). -/
def State.homePoison (s : State) (line : Nat) (m : BitVec 16) : State :=
  let words := (List.range 16).filterMap (fun i => if m.getLsbD i then some (s.fwd (64 * line + 4 * i)) else none)
  { s with pois := (words ++ words.filterMap s.mirrorOf).foldl (fun p a => Store.set false p (a / 4) true) s.pois }

/-- The words of mask m of a line are registered at the home, those of pois poisoned. They wake waiters when all of them
stand there: a store of 8 bytes is never seen in halves (R278). -/
def State.homeWriteWords (s : State) (who : Option Nat) (w : Option Awaiter) (line : Nat) (data : BitVec 512) (m pois : BitVec 16) : State :=
  let words := (List.range 16).filter (fun i => m.getLsbD i)
  let s := words.foldl (fun s i =>
    (s.sendRemote .write (64 * line + 4 * i) 4 (lineBytes data (4 * i) 4)).register who w (64 * line + 4 * i) 4
      (lineBytes data (4 * i) 4)) s
  words.foldl (fun s i => s.wakeWaiters (s.fwd (64 * line + 4 * i)) 4) (s.homePoison line (m &&& pois))

/-- A write that a unit of the device makes from place `from_` (R12): over a link out of service it is replaced by poison, which
the touched words of the home take (R256; DESIGN CHOICE, log 29). -/
def State.unitWrite (s : State) (from_ : Node) (w : Option Awaiter) (pa n v : Nat) : State :=
  if s.routeDown from_ (s.homeNode pa) then s.homePoison (pa / 64) (wordsTouched pa n) else s.homeWrite1 none w pa n v

/-- A line as its home holds it: data and poisoned words. -/
def State.homeLine (s : State) (line : Nat) : BitVec 512 × BitVec 16 :=
  (BitVec.ofNat 512 (s.homeRead (64 * line) 64),
    if s.pois == [] then 0
    else (List.range 16).foldl (fun m i => if s.homePois (64 * line + 4 * i) 4 then m ||| BitVec.ofNat 16 (2 ^ i) else m) 0)

/-! ## Tiers -/

/-- What an access knows of the range entry it went through: RID, and the device of the core's wisp (R264, R350). -/
structure LineTag where
  rid : Nat
  own : Bool
  vdev : Nat
deriving DecidableEq, Repr

/-- The line with its missing words taken from (data, pois); a fill stamps the tag of the access (R264). -/
def Line.fill (l : Line) (t : LineTag) (data : BitVec 512) (pois have_ : BitVec 16) : Line :=
  let m := have_ &&& ~~~ l.valid
  { l with
    rid := if l.valid = 0 then t.rid else l.rid
    own := if l.valid = 0 then t.own else l.own
    vdev := if l.valid = 0 then t.vdev else l.vdev
    data := mergeWords l.data data m
    pois := l.pois ||| (pois &&& m)
    valid := l.valid ||| have_ }

/-- Words written into a tier: dirty there, or clean where they only pass (R266). -/
def Line.take (l : Line) (t : LineTag) (data : BitVec 512) (m pois : BitVec 16) (dirty : Bool) : Line :=
  { l with
    rid := if l.valid = 0 then t.rid else l.rid
    own := if l.valid = 0 then t.own else l.own
    vdev := if l.valid = 0 then t.vdev else l.vdev
    data := mergeWords l.data data m
    valid := l.valid ||| m
    pois := (l.pois &&& ~~~ m) ||| (pois &&& m)
    dirty := if dirty then l.dirty ||| m else l.dirty &&& ~~~ m }

def Line.tag (l : Line) : LineTag := ⟨l.rid, l.own, l.vdev⟩

/-- What a cache keeps of a fill: a word that is poisoned where it comes from is delivered, and not kept (R337). -/
def Line.keepFill (l : Line) (t : LineTag) (data : BitVec 512) (pois have_ : BitVec 16) : Line :=
  if l.valid ||| (have_ &&& ~~~ pois) = 0 then l else l.fill t data 0 (have_ &&& ~~~ pois)

/-- A line that a tier holds takes words that pass it, clean (R266); it lets go of words that are poisoned (R337). -/
def Line.pass (l : Line) (data : BitVec 512) (m pois : BitVec 16) : Line :=
  if l.valid = 0 then l
  else
    let l := l.take l.tag data m pois false
    { l with valid := l.valid &&& ~~~ (m &&& pois), pois := l.pois &&& ~~~ (m &&& pois) }

/-- A store into the line l as it was delivered, of which the tier has kept `held`: the words it touches are dirty, and of the
others the tier holds what it has kept (R337). -/
def Line.store (l held : Line) (pa n v : Nat) : Line :=
  let kept := held.valid ||| wordsTouched pa n
  { l with
    data := lineSet l.data (pa % 64) n v
    valid := kept
    dirty := l.dirty ||| wordsTouched pa n
    pois := l.pois &&& kept &&& ~~~ (wordsCovered pa n) }

/-- Bytes set in a line that a tier holds; its other dirty words stay as they are. -/
def Line.putBytes (l : Line) (pa n v : Nat) : Line :=
  if l.valid = 0 then l
  else { l with
    data := lineSet l.data (pa % 64) n v
    pois := l.pois &&& ~~~ (wordsCovered pa n) }

/-! ### Capacities (R15, R17, R48, R350) -/

def cluCap : Nat := 8192
def icacheCap : Nat := 2048
/-- Lines of a die cache: 2 MiB in each live slice. -/
def State.dieCap (s : State) (d : Nat) : Nat := s.liveSlices d * 32768

def State.dieLine (s : State) (d line : Nat) : Line := Store.get {} (s.dieAt d).cache line
def State.cluLine (s : State) (k line : Nat) : Line := Store.get {} (s.clusterAt k).cache line

/-- The launch and index of the wisp on core c, and its device. -/
def State.wispOn (s : State) (c : Nat) : Nat × Nat := (s.coreAt c).wisp.getD (0, 0)
def State.vdevOn (s : State) (c : Nat) : Nat := (s.launchAt (s.wispOn c).1).vdev

/-- A die cache's words of a line for device v meet a link out of service on the way to the home: the poisoned reply goes to the
cores of the die that run wisps of the device (DESIGN CHOICE, log 29). -/
def State.loseWords (s : State) (d v line : Nat) : State :=
  ((s.liveCores d).filter (fun c => (s.coreAt c).wisp.isSome && s.vdevOn c == v)).foldl
    (fun s c => s.updCore c ({ · with lost := some (64 * line) })) s
/-- A fill of a full die cache for a device has a victim, one of the device's own lines where it holds OCCLIM of them or
more (R350; no limit at 0, R357); its dirty words are registered at the home, which the releases of the die's cores await. -/
def State.dieRoom (s : State) (d vdev : Nat) : State :=
  let cache := (s.dieAt d).cache
  if cache.length < s.dieCap d then s
  else
    let own := cache.filter (fun e => e.2.vdev == vdev)
    let cand := if (s.vdevAt vdev).occLim ≠ 0 ∧ (s.vdevAt vdev).occLim * 16384 ≤ own.length then own else cache
    match cand[Config.victim s.draw d % cand.length]? with
    | none => s
    | some (line, l) =>
      let s := s.updDie d (fun x => { x with cache := Store.set {} x.cache line {} })
      let s := { s with draw := s.draw + 1 }
      if l.dirty = 0 then s
      else if s.reqDown d (64 * line) then s.loseWords d l.vdev line
      else s.homeWriteWords none (some (.die d)) line l.data l.dirty l.pois
/-- A line of a die cache becomes l; one that was not held first has room made for it. -/
def State.setDieLine (s : State) (d line : Nat) (l : Line) : State :=
  (if (s.dieLine d line).valid = 0 ∧ l.valid ≠ 0 then s.dieRoom d l.vdev else s).updDie d
    (fun x => { x with cache := Store.set {} x.cache line l })

/-- A full cluster cache gives up one line, its dirty words to the die cache. -/
def State.cluRoom (s : State) (k : Nat) : State :=
  let cache := (s.clusterAt k).cache
  if cache.length < cluCap then s
  else
    match cache[Config.victim s.draw k % cache.length]? with
    | none => s
    | some (line, l) =>
      let s := s.updCluster k (fun x => { x with cache := Store.set {} x.cache line {} })
      let s := { s with draw := s.draw + 1 }
      if l.dirty = 0 then s
      else s.setDieLine (k / 16) line ((s.dieLine (k / 16) line).take l.tag l.data l.dirty l.pois true)
def State.setCluLine (s : State) (k line : Nat) (l : Line) : State :=
  (if (s.cluLine k line).valid = 0 ∧ l.valid ≠ 0 then s.cluRoom k else s).updCluster k
    (fun x => { x with cache := Store.set {} x.cache line l })

def State.l1Line (s : State) (c line : Nat) : Line := Store.get {} (s.coreAt c).l1 line
def State.setL1 (s : State) (c line : Nat) (l : Line) : State :=
  s.updCore c (fun x => { x with l1 := Store.set {} x.l1 line l })

/-- Every word of the line as core c's die cache delivers it: missing ones come from the home. A route over a link out of
service delivers poison (R256). -/
def State.fillDie (s : State) (c line : Nat) (t : LineTag) : Line × State :=
  let d := dieOf c
  let l := s.dieLine d line
  if l.valid = BitVec.allOnes 16 then (l, s)
  else
    let (data, pois) := s.homeLine line
    let pois := if s.cutOff c (64 * line) then BitVec.allOnes 16 else pois
    (l.fill t data pois (BitVec.allOnes 16),
      (s.sendRemote .read (64 * line) 64 0).setDieLine d line (l.keepFill t data pois (BitVec.allOnes 16)))
/-- The same from its cluster cache. -/
def State.fillClu (s : State) (c line : Nat) (t : LineTag) : Line × State :=
  let k := clusterOf c
  let l := s.cluLine k line
  if l.valid = BitVec.allOnes 16 then (l, s)
  else
    let (b, s) := s.fillDie c line t
    (l.fill t b.data b.pois b.valid, s.setCluLine k line (l.keepFill t b.data b.pois b.valid))

/-! ## Messages at the home (R269 to R275) -/

/-- The words of a line that lie in an owned range (R285). -/
def OwnRange.words (r : OwnRange) (line : Nat) : BitVec 16 := Store.get 0 r.cells line
def Core.ownRangeWords (x : Core) (line : Nat) : BitVec 16 :=
  x.owned.foldl (fun m e => if e.2.leaving then m else m ||| e.2.words line) 0
/-- Words of the line that a slot being freed by a DISOWN covers, and no other. -/
def Core.leavingWords (x : Core) (line : Nat) : BitVec 16 :=
  x.owned.foldl (fun m e => if e.2.leaving then m ||| e.2.words line else m) 0 &&& ~~~ (x.ownRangeWords line)

/-- A line as a fill by core c finds it: the home's words, under words that c's own die and cluster caches hold dirty. -/
def State.fillData (s : State) (c line : Nat) : BitVec 512 × BitVec 16 :=
  let h := s.homeLine line
  let d := s.dieLine (dieOf c) line
  let k := s.cluLine (clusterOf c) line
  let pois := if s.cutOff c (64 * line) then BitVec.allOnes 16 else h.2
  let lay (p : BitVec 512 × BitVec 16) (l : Line) : BitVec 512 × BitVec 16 :=
    (mergeWords p.1 l.data l.dirty, (p.2 &&& ~~~ l.dirty) ||| (l.pois &&& l.dirty))
  lay (lay (h.1, pois) d) k

/-- Words of mask m that core c's die and cluster caches hold of a line become those of data: no tier keeps a value older than
one that has passed it (R266, R278). Words that a tier holds dirty change only where `all` is set. -/
def State.passTiers (s : State) (c line : Nat) (data : BitVec 512) (m pois : BitVec 16) (all : Bool) : State :=
  let d := s.dieLine (dieOf c) line
  let s := if d.valid = 0 then s
    else s.setDieLine (dieOf c) line (d.pass data (if all then m else m &&& ~~~ d.dirty) pois)
  let k := s.cluLine (clusterOf c) line
  if k.valid = 0 then s
  else s.setCluLine (clusterOf c) line (k.pass data (if all then m else m &&& ~~~ k.dirty) pois)

/-- A message with the line leaves for core c, and the poisoned words of it (R336). -/
def State.sendLine (s : State) (c line : Nat) (pois : BitVec 16) (e : Event) : State :=
  (s.updCore c (fun x => { x with fillPois := Store.set 0 x.fillPois line pois })).post e

/-- The core is answered with a GRANT of the words it owns, or with DATA when it owns none; a GRANT records the copy. A request
that meets a link out of service is answered with poison (R256). -/
def State.answerFill (s : State) (c line : Nat) : State :=
  if s.reqDown (dieOf c) (64 * line) then s.sendLine c line (BitVec.allOnes 16) (.data c line 0)
  else
    let (data, pois) := s.fillData c line
    let s := (s.sendRemote .read (64 * line) 64 0).passTiers c line data (BitVec.allOnes 16) pois false
    let mine := (s.regAt line).words c
    if mine = 0 then s.sendLine c line pois (.data c line data)
    else
      let s := s.updReg line (fun r => { r with copies := if r.copies.contains c then r.copies else r.copies ++ [c] })
      s.sendLine c line pois (.grant c line data mine)

/-- Words that a core comes to own and that its die or cluster cache holds dirty go to the home first: owned words are
never held dirty there (R266; DEDUCED, log 32). The core's next release awaits them. -/
def State.flushOwned (s : State) (c line : Nat) (m : BitVec 16) : State :=
  let d := s.dieLine (dieOf c) line
  let k := s.cluLine (clusterOf c) line
  let s := if d.dirty &&& m = 0 then s
    else (s.setDieLine (dieOf c) line { d with dirty := d.dirty &&& ~~~ m }).homeWriteWords (some c) (some (.core c)) line d.data
      (d.dirty &&& m) d.pois
  if k.dirty &&& m = 0 then s
  else
    let s := s.setCluLine (clusterOf c) line { k with dirty := k.dirty &&& ~~~ m }
    let d := s.dieLine (dieOf c) line
    let s := s.setDieLine (dieOf c) line (d.pass k.data (k.dirty &&& m) k.pois)
    s.homeWriteWords (some c) (some (.core c)) line k.data (k.dirty &&& m) k.pois

/-- Words of a message that has reached the home are registered there, with the poison they carry; the core's tiers take
what the home then holds (R266, R336). A request over a link out of service does not arrive (R256). -/
def State.arriveWords (s : State) (c line : Nat) (data : BitVec 512) (m : BitVec 16) : State :=
  if m = 0 then s
  else
    let pois := Store.get 0 (s.coreAt c).sentPois line
    let s := s.updCore c (fun x => { x with sentPois := Store.set 0 x.sentPois line 0 })
    if s.reqDown (dieOf c) (64 * line) then s.updCore c ({ · with lost := some (64 * line) })
    else
      let s := s.homeWriteWords (some c) (some (.core c)) line data m pois
      s.passTiers c line (s.homeLine line).1 m (s.homeLine line).2 true

/-- The dirty words of a message of an owner, but for those that a forwarded write wrote (R273). -/
def State.mergeAnswer (s : State) (c line : Nat) (data : BitVec 512) (dirty : BitVec 16) : State :=
  s.arriveWords c line data (dirty &&& ~~~ (s.pendAt line c).fwd)

/-- Words go to core c at once where no other owner holds a copy; the others are revoked first (R269). A request that meets a
link out of service registers nothing, and is answered with poison (R256). -/
def State.onOwnreq (s : State) (c line : Nat) (words : BitVec 16) (data : BitVec 512) (dirty : BitVec 16) : State :=
  let awaits := (s.l1Line c line).st == .io && !s.sched.contains (.fill c line)
  if s.reqDown (dieOf c) (64 * line) then
    let s := s.mergeAnswer c line data dirty
    if awaits then s.answerFill c line else s
  else
    let s := (s.flushOwned c line words).mergeAnswer c line data dirty
    let r := s.regAt line
    let held := (r.ownersOf words).filter (fun o => o != c && r.copies.contains o)
    let taken := held.foldl (fun m o => m ||| (r.words o &&& words)) 0
    let s := s.updReg line (fun r => r.give c (words &&& ~~~ taken))
    let s := held.foldl (fun s o => s.askOwner line o (r.words o &&& words) (some ⟨c, r.words o &&& words, awaits⟩) none) s
    if taken = 0 && awaits then s.answerFill c line else s

/-- A revocation of words of the line for core c is under way, whose end brings it the line. -/
def State.takesFor (s : State) (c line : Nat) (p : Take → Bool) : Bool :=
  s.pending.any (fun e => e.1 / 16384 == line && e.2.takes.any (fun t => t.core == c && p t))

/-- The owner's words of the line are its no longer, and every write held for its answer is acknowledged; words taken by
revocations go to their new owners, and a core that awaits the line receives its GRANT when the last of its revocations has
ended (R273). -/
def State.endOwner (s : State) (c line : Nat) : State :=
  let p := s.pendAt line c
  let s := { s with pending := Store.set {} s.pending (pkey line c) {} }
  let s := s.updReg line (fun r => { r.clear c (BitVec.allOnes 16) with copies := r.copies.filter (· != c) })
  let s := p.takes.foldl (fun s t => s.updReg line (fun r => r.give t.core t.words)) s
  let cores := ((p.takes.filter Take.grant).map Take.core).eraseDups
  cores.foldl (fun s c => if (s.l1Line c line).st == .io && !s.takesFor c line Take.grant then s.answerFill c line else s) s

/-- The end of a revocation that core c awaits answers it (R273; DEDUCED, log 32: with the line of a FILL too). -/
def State.onFill (s : State) (c line : Nat) : State :=
  if s.takesFor c line (fun _ => true) then
    { s with pending := Store.mapAll {} s.pending (fun k p =>
        if k / 16384 = line then { p with takes := p.takes.map (fun t => if t.core = c then { t with grant := true } else t) } else p) }
  else s.answerFill c line

/-- A YIELD always ends the sender's ownership of the line's words (R273). -/
def State.onYield (s : State) (c line : Nat) (data : BitVec 512) (dirty : BitVec 16) : State :=
  (s.mergeAnswer c line data dirty).endOwner c line

/-- The owner's copy has left it: that answers a message outstanding, and else the registry records that it holds none,
the words of mask m being deregistered (R273). -/
def State.copyLeft (s : State) (c line : Nat) (data : BitVec 512) (dirty m : BitVec 16) : State :=
  let had := s.isPending line c
  let s := s.mergeAnswer c line data dirty
  if had then s.endOwner c line
  else (s.deregister c line m).updReg line (fun r => { r with copies := r.copies.filter (· != c) })

def State.onEvict (s : State) (c line : Nat) (data : BitVec 512) (dirty : BitVec 16) : State :=
  (s.copyLeft c line data dirty 0).post (.ack c line)
/-- A DISOWNREQ keeps the words that the core owns through another slot (R286). -/
def State.onDisownreq (s : State) (c line : Nat) (data : BitVec 512) (dirty : BitVec 16) : State :=
  (s.copyLeft c line data dirty (~~~ ((s.coreAt c).ownRangeWords line))).post (.ack c line)

/-- A request of a core to a home (R250): the core and the line. -/
def Event.asRequest : Event → Option (Nat × Nat)
  | .fill c line | .ownreq c line _ _ _ | .evict c line _ _ | .disownreq c line _ _ => some (c, line)
  | _ => none
/-- A message of a core to a home: a request, or an answer to a forward. -/
def Event.toHome (e : Event) : Option (Nat × Nat) :=
  match e with
  | .yield c line _ _ => some (c, line)
  | _ => e.asRequest
def State.requests (s : State) (c : Nat) : List Event :=
  s.sched.filter (fun e => match e.asRequest with | some (c', _) => c' == c | none => false)
/-- What it does there. -/
def State.atHome (s : State) : Event → State
  | .fill c line => s.onFill c line
  | .ownreq c line words data dirty => s.onOwnreq c line words data dirty
  | .yield c line data dirty => s.onYield c line data dirty
  | .evict c line data dirty => s.onEvict c line data dirty
  | .disownreq c line data dirty => s.onDisownreq c line data dirty
  | _ => s

/-- The messages to homes that p admits are performed now, in the order in which they were sent. -/
def State.perform (s : State) (p : Nat → Nat → Bool) : State :=
  (s.sched.filter (fun e => match e.toHome with | some (c, line) => p c line | none => false)).foldl
    (fun s e => ({ s with sched := s.sched.erase e } : State).atHome e) s
/-- Everything that core c has sent is performed: what a release, an acquire or a fence follows (R275). -/
def State.performSent (s : State) (c : Nat) : State := s.perform (fun c' _ => c' == c)
/-- The bank of a line: its home slice, by stack address [8:6] (R274). -/
def State.bank (s : State) (line : Nat) : Nat × Nat × Nat :=
  let p := s.stackPlace (paLocal (64 * line)) 0
  (paPkg (64 * line), p.1, p.2 / 64 % 8)
/-- What core c sent to a line's bank earlier is performed before its next request there (R274). -/
def State.bankOrder (s : State) (c line : Nat) : State :=
  if s.requests c == [] then s else s.perform (fun c' l => c' == c && s.bank l == s.bank line)
/-- A core has at most 32 requests outstanding: a further one follows when the oldest is performed (R254). -/
def State.request (s : State) (c : Nat) (e : Event) : State :=
  (match (if (s.requests c).length < 32 then none else (s.requests c).head?) with
    | some f => ({ s with sched := s.sched.erase f } : State).atHome f
    | none => s).post e

/-- Core c's tiers write words of a line back to its home, as the writes of `who`: after what c sent to that bank before
(R274). Over a link out of service they do not arrive, and the core is answered with poison (R256). -/
def State.writeBack (s : State) (c : Nat) (who : Option Nat) (line : Nat) (data : BitVec 512) (m pois : BitVec 16) : State :=
  if m = 0 then s
  else
    let s := s.bankOrder c line
    let s' := if s.reqDown (dieOf c) (64 * line) then s else s.homeWriteWords who (some (.core c)) line data m pois
    if s.cutOff c (64 * line) then s'.updCore c ({ · with lost := some (64 * line) }) else s'

/-! ## Lines that leave the L1 -/

/-- Words go out of the L1 of core c to the tier of scope sc (0 cluster, 1 die, 2 and 3 home): the target takes them as
dirty, tiers they pass take the values clean where they hold the line (R266). Owned words, and lines the home marks as
owned by another core, go on to the home. Lines of another package go home at system scope only. -/
def State.writeOut (s : State) (c line sc : Nat) (l : Line) (m : BitVec 16) : State :=
  let k := clusterOf c
  let d := dieOf c
  let r := s.regAt line
  let mine := m &&& r.words c
  let toHome := decide (3 ≤ sc ∨ (sc = 2 ∧ l.own)) || r.owners.any (fun e => e.2 != c + 1)
  let sc' := if toHome then 2 else min sc 1
  let clu (s : State) (m : BitVec 16) : State := s.setCluLine k line ((s.cluLine k line).pass l.data m l.pois)
  let die (s : State) (m : BitVec 16) : State := s.setDieLine d line ((s.dieLine d line).pass l.data m l.pois)
  let home (s : State) (m : BitVec 16) : State := (die (clu s m) m).writeBack c (some c) line l.data m l.pois
  if sc' = 2 then home s m
  else
    let s := if mine = 0 then s else home s mine
    let rest := m &&& ~~~ mine
    if rest = 0 then s
    else if sc' = 1 then
      let s := clu s rest
      s.setDieLine d line ((s.dieLine d line).take l.tag l.data rest l.pois true)
    else s.setCluLine k line ((s.cluLine k line).take l.tag l.data rest l.pois true)

/-- RID r covers a line: 255 names every RID, zero included when z is set (R266, R267). -/
def ridHit (r : Nat) (z : Bool) (l : Line) : Bool := if r = 255 then z || l.rid != 0 else l.rid == r

/-- An O line leaves with its dirty words: it passes to st, and the message takes their poison along (R270, R336). -/
def State.sendDirty (s : State) (c line : Nat) (st : LineSt) (msg : BitVec 512 → BitVec 16 → Event) : State :=
  let l := s.l1Line c line
  let s := (s.setL1 c line { l with st := st, dirty := 0 }).updCore c
    (fun x => { x with sentPois := Store.set 0 x.sentPois line (l.dirty &&& l.pois) })
  s.request c (msg l.data l.dirty)

/-! ## At the core (R272) -/

/-- The answer to a FILL or OWNREQ: dropped where a forward met the line in IO, else the line comes to st. A DISOWN that
waits for it is applied now (R271). -/
def State.onLine (s : State) (c line : Nat) (data : BitVec 512) (st : LineSt) : State :=
  let x := s.coreAt c
  let l := s.l1Line c line
  if x.drop.contains line then s.updCore c (fun x => { x with drop := x.drop.erase line })
  else if l.st == .io then
    let s := s.setL1 c line
      { l with st := st, data := data, valid := BitVec.allOnes 16, dirty := 0, pois := Store.get 0 x.fillPois line }
    if x.leavingWords line = 0 then s
    else if st = .o then s.sendDirty c line .ov (.disownreq c line)
    else s.deregister c line (x.leavingWords line)
  else s
def State.onGrant (s : State) (c line : Nat) (data : BitVec 512) : State := s.onLine c line data .o
def State.onData (s : State) (c line : Nat) (data : BitVec 512) : State := s.onLine c line data .v

/-- FWD and REVOKE. Dirty words of a V line go to the cluster cache before it leaves (DEDUCED, log 20). -/
def State.onFwd (s : State) (c line : Nat) : State :=
  let l := s.l1Line c line
  match l.st with
  | .v => if l.valid = 0 then s else (s.writeOut c line 0 l l.dirty).setL1 c line {}
  | .o => ((s.setL1 c line {}).updCore c (fun x => { x with sentPois := Store.set 0 x.sentPois line (l.dirty &&& l.pois) })).post
      (.yield c line l.data l.dirty)
  | .io => ((s.setL1 c line {}).updCore c (fun x => { x with drop := x.drop ++ [line] })).post (.yield c line 0 0)
  | .oi => s
  | .ov => s.setL1 c line { l with st := .oi }

def State.onAck (s : State) (c line : Nat) : State :=
  let l := s.l1Line c line
  match l.st with
  | .oi => s.setL1 c line {}
  | .ov => s.setL1 c line { l with st := .v }
  | _ => s

/-! ## Delivering what is under way -/

/-- What a message of the schedule does; none for a step of another kind. -/
def State.message (s : State) (e : Event) : Option State :=
  match e with
  | .grant c line data _ => some (s.onGrant c line data)
  | .data c line data => some (s.onData c line data)
  | .fwd c line _ => some (s.onFwd c line)
  | .revoke c line _ => some (s.onFwd c line)
  | .ack c line => some (s.onAck c line)
  | _ => if e.toHome.isSome then some (s.atHome e) else none

/-- Delivers every message under way, those it causes included; the first argument bounds their number. -/
def State.settleN : Nat → State → State
  | 0, s => s
  | n + 1, s =>
    match s.sched.find? (fun e => (s.message e).isSome) with
    | none => s
    | some e =>
      let s := { s with sched := s.sched.erase e }
      State.settleN n ((s.message e).getD s)
def State.settle (s : State) : State := State.settleN (6 * s.sched.length + 6) s

/-! ## Release (R266) -/

def State.releaseL1 (s : State) (c r sc : Nat) : State :=
  (s.coreAt c).l1.foldl (fun s e =>
    if ridHit r true e.2 && e.2.dirty != 0 && (e.2.st == .v || e.2.st == .o) then
      let s := s.writeOut c e.1 sc e.2 e.2.dirty
      s.setL1 c e.1 { s.l1Line c e.1 with dirty := 0 }
    else s) s

def State.releaseClu (s : State) (c r sc : Nat) : State :=
  let k := clusterOf c
  let d := dieOf c
  (s.clusterAt k).cache.foldl (fun s e =>
    if ridHit r true e.2 && e.2.dirty != 0 then
      let l := e.2
      let s := s.setCluLine k e.1 { l with dirty := 0 }
      if decide (3 ≤ sc ∨ (sc = 2 ∧ l.own)) || (s.regAt e.1).owners != [] then
        (s.setDieLine d e.1 ((s.dieLine d e.1).pass l.data l.dirty l.pois)).writeBack c none e.1 l.data l.dirty l.pois
      else s.setDieLine d e.1 ((s.dieLine d e.1).take l.tag l.data l.dirty l.pois true)
    else s) s

def State.releaseDie (s : State) (c r sc : Nat) : State :=
  let d := dieOf c
  (s.dieAt d).cache.foldl (fun s e =>
    if ridHit r true e.2 && e.2.dirty != 0 && (e.2.own || decide (3 ≤ sc)) then
      (s.setDieLine d e.1 { e.2 with dirty := 0 }).writeBack c none e.1 e.2.data e.2.dirty e.2.pois
    else s) s

/-- A release of region r at scope sc by core c: what it has sent is performed, and all of the region's words registered. -/
def State.releaseNow (s : State) (c r sc : Nat) : State :=
  let s := (s.performSent c).releaseL1 c r sc
  let s := if 1 ≤ sc then s.releaseClu c r sc else s
  if 2 ≤ sc then s.releaseDie c r sc else s

/-- Someone awaits the answer to a forward. -/
def State.awaited (s : State) (w : Awaiter) : Bool := s.pending.any (fun e => e.2.waiters.contains w)
/-- Core c awaits the answer to a forward, for its own words or for words that its die cache gave up (R266, R273). -/
def State.awaitsAnswer (s : State) (c : Nat) : Bool := s.awaited (.core c) || s.awaited (.die (dieOf c))

/-- The release completes when every word is registered, answers to forwards included: until then it waits, and has
nothing left to write when it is tried again. -/
def State.release (s : State) (c r sc : Nat) : Acc Unit :=
  let s := s.releaseNow c r sc
  if s.awaitsAnswer c then .wait s else .ok () s

/-! ## Acquire (R267) -/

def State.acquireL1 (s : State) (c r : Nat) (z : Bool) : State :=
  (s.coreAt c).l1.foldl (fun s e =>
    if ridHit r z e.2 then
      match e.2.st with
      | .v => (s.writeOut c e.1 0 e.2 e.2.dirty).setL1 c e.1 {}
      | .o =>
        let mine := (s.regAt e.1).words c
        let s := if e.2.dirty &&& ~~~ mine = 0 then s else s.writeOut c e.1 0 e.2 (e.2.dirty &&& ~~~ mine)
        s.setL1 c e.1 { e.2 with valid := e.2.valid &&& mine, dirty := e.2.dirty &&& mine, pois := e.2.pois &&& mine }
      | .ov => s.setL1 c e.1 { e.2 with st := .oi }
      | .io | .oi => s
    else s) s

def State.acquireClu (s : State) (c r : Nat) (z : Bool) : State :=
  let k := clusterOf c
  let d := dieOf c
  (s.clusterAt k).cache.foldl (fun s e =>
    if ridHit r z e.2 then
      let s := if e.2.dirty = 0 then s
        else s.setDieLine d e.1 ((s.dieLine d e.1).take e.2.tag e.2.data e.2.dirty e.2.pois true)
      s.setCluLine k e.1 {}
    else s) s

def State.acquireDie (s : State) (c r sc : Nat) (z : Bool) : State :=
  let d := dieOf c
  (s.dieAt d).cache.foldl (fun s e =>
    if ridHit r z e.2 && (e.2.own || decide (3 ≤ sc)) then
      (s.writeBack c none e.1 e.2.data e.2.dirty e.2.pois).setDieLine d e.1 {}
    else s) s

/-- An acquire of region r at scope sc by core c; what it has sent is performed first (R275), and at system scope it waits until
the host and peer writes that the ports have accepted are registered, answers to forwards included (R267, R280); z takes RID 0 with 255
(R128, R268). -/
def State.acquireZ (s : State) (c r sc : Nat) (z : Bool) : State :=
  let s := if 3 ≤ sc ∧ s.awaited .port = true then s.settle else s
  let s := (s.performSent c).acquireL1 c r z
  let s := if 1 ≤ sc then s.acquireClu c r z else s
  if 2 ≤ sc then s.acquireDie c r sc z else s
def State.acquire (s : State) (c r sc : Nat) : State := s.acquireZ c r sc false

/-- The core drops its own RID 0 lines when a wisp leaves it (R268). -/
def State.dropPrivate (s : State) (c : Nat) : State :=
  s.updCore c (fun x => { x with l1 := x.l1.filter (fun e => e.2.rid != 0 || e.2.st == .io || e.2.st == .oi) })

/-- Code lines of region r leave the cluster's instruction cache (R56, R287). -/
def State.dropCode (s : State) (c r : Nat) : State :=
  s.updCluster (clusterOf c) (fun x => { x with icache := x.icache.filter (fun e => r != 255 && e.2.rid != r) })

/-! ## L1 (R271) -/

/-- A full L1 gives up one line (R271): a V line's dirty words go to the cluster cache, an O line sends EVICT. -/
def State.evictOne (s : State) (c : Nat) : State :=
  let l := (s.coreAt c).l1.filter (fun e => e.2.st == .v || e.2.st == .o)
  if (s.coreAt c).l1.length < 1024 then s
  else
    match l[Config.victim s.draw c % l.length]? with
    | none => s
    | some (line, e) =>
      let s := { s with draw := s.draw + 1 }
      match e.st with
      | .o => s.sendDirty c line .oi (.evict c line)
      | _ => (s.writeOut c line 0 e e.dirty).setL1 c line {}

/-- Brings a whole line into the L1 of core c, as a load or store of it would (R271): from the tiers, or by FILL when the
line is absent and the core owns words of it; a line in transit makes the access wait. -/
def State.l1Get (s : State) (c line : Nat) (t : LineTag) (store : Bool) : Acc Line :=
  let l := s.l1Line c line
  if l.st == .io || l.st == .oi || (store && l.st == .ov) then .wait s
  else if l.valid = BitVec.allOnes 16 then .ok l s
  else if l.valid = 0 && l.st == .v && (s.coreAt c).ownRangeWords line != 0 then
    let s := s.evictOne c
    .wait ((s.setL1 c line { l with st := .io, rid := t.rid, own := t.own, vdev := t.vdev }).request c (.fill c line))
  else
    let s := (if l.valid = 0 then s.evictOne c else s).bankOrder c line
    let (b, s) := s.fillClu c line t
    .ok (l.fill t b.data b.pois b.valid) (s.setL1 c line (l.keepFill t b.data b.pois b.valid))

/-- A write of the device from place `from_`, registered at the home; the tiers of die d that hold the line take its bytes, and whole words of it
clean. -/
def State.deviceWrite (s : State) (from_ : Node) (d pa n v : Nat) : State :=
  let line := pa / 64
  let put (l : Line) : Line :=
    let l := l.putBytes pa n v
    { l with dirty := l.dirty &&& ~~~ (wordsCovered pa n) }
  let s := s.unitWrite from_ none pa n v
  let l := s.dieLine d line
  let s := if l.valid = 0 then s else s.setDieLine d line (put l)
  (s.liveClusters d).foldl (fun s k =>
    let l := s.cluLine k line
    if l.valid = 0 then s else s.setCluLine k line (put l)) s

end Sys2Proof.Machine
end

