-- ==== Sys2Proof/Machine/Xlat.lean ====
section
/-! DEFINITION. Range translation (05_ranges.md): the range entry, the walk of the directory, the core's range table, the
checks of R90 in their order, and the fault record of R91. -/

namespace Sys2Proof.Machine

/-! ## The range entry (R82) -/

def entField (img : BitVec 512) (byte hi lo : Nat) : Nat := bits (img.toNat / 2 ^ (8 * byte)) hi lo
def entBase (img : BitVec 512) : Nat := entField img 0 63 0
def entLimit (img : BitVec 512) : Nat := entField img 8 63 0
def entOffset (img : BitVec 512) : Nat := entField img 0x10 63 0
def entBit (img : BitVec 512) (i : Nat) : Bool := entField img 0x18 i i == 1
def entV (img : BitVec 512) : Bool := entBit img 0
def entPR (img : BitVec 512) : Bool := entBit img 1
def entPW (img : BitVec 512) : Bool := entBit img 2
def entPX (img : BitVec 512) : Bool := entBit img 3
def entPS (img : BitVec 512) : Bool := entBit img 4
def entCA (img : BitVec 512) : Bool := entBit img 5
def entDEV (img : BitVec 512) : Bool := entBit img 6
def entCLK (img : BitVec 512) : Bool := entBit img 7
def entIOV (img : BitVec 512) : Nat := entField img 0x18 10 8
def entMV (img : BitVec 512) : Bool := entBit img 11
def entRID (img : BitVec 512) : Nat := entField img 0x18 23 16
def entASN (img : BitVec 512) : Nat := entField img 0x18 47 32
def entGEN (img : BitVec 512) : Nat := entField img 0x18 63 48
def entRESID (img : BitVec 512) : Nat := entField img 0x20 63 0

/-- Replaces bits [hi:lo] at a byte offset of a 64-byte image. -/
def imgPut (img : BitVec 512) (byte hi lo v : Nat) : BitVec 512 :=
  let sh := 8 * byte + lo
  let n := hi + 1 - lo
  (img &&& ~~~ (BitVec.ofNat 512 ((2 ^ n - 1) * 2 ^ sh))) ||| BitVec.ofNat 512 (v % 2 ^ n * 2 ^ sh)
/-- A slot is stamped with ASN and GEN at fill (R82). -/
def entStamp (img : BitVec 512) (asn gen : Nat) : BitVec 512 := imgPut (imgPut img 0x18 47 32 asn) 0x18 63 48 gen

/-- Bits [63:57] all equal bit 56 (R80). -/
def canonical (dva : Nat) : Bool :=
  let h := dva / 2 ^ 56
  h == 0 || h == 255

/-- R83, for an entry with V = 1. -/
def entMalformed (img : BitVec 512) : Bool :=
  entBase img % 4096 != 0 || entLimit img % 4096 != 0 || entOffset img % 4096 != 0
    || !canonical (entBase img) || decide (entLimit img ≤ entBase img)
    || (entCA img && entDEV img) || entRID img == 255 || entIOV img == 7
    || entField img 0x18 15 12 != 0 || entField img 0x18 31 24 != 0
    || entField img 0x28 63 0 != 0 || entField img 0x30 63 0 != 0 || entField img 0x38 63 0 != 0

def entCovers (img : BitVec 512) (dva : Nat) : Bool := decide (entBase img ≤ dva ∧ dva < entLimit img)
/-- The granule size G, the granule of a DVA, and whether it is resident (R85). -/
def entGranule (img : BitVec 512) : Nat := 4096 * ((entLimit img - entBase img + 262143) / 262144)
def entGranuleOf (img : BitVec 512) (dva : Nat) : Nat := (dva - entBase img) / entGranule img
def entResident (img : BitVec 512) (dva : Nat) : Bool := entRESID img / 2 ^ entGranuleOf img dva % 2 == 1
/-- PA = DVA + OFFSET (R82). -/
def entPA (img : BitVec 512) (dva : Nat) : Nat := (dva + entOffset img) % 2 ^ 64

/-! ## The walk (R88, R89) -/

def State.dirEntry (s : State) (rdir j : Nat) : BitVec 512 := BitVec.ofNat 512 (s.homeRead (rdir + 64 + 64 * j) 64)
def State.dirCount (s : State) (rdir : Nat) : Nat := min (s.homeRead rdir 8 % 2 ^ 17) 65536
def State.dirSeq (s : State) (rdir : Nat) : Nat := s.homeRead (rdir + 8) 4

inductive Walk where
  | edit                                         -- SEQ is odd
  | poison                                       -- a read of the directory found poison
  | miss
  | malformed (idx : Nat) (img : BitVec 512)
  | found (idx : Nat) (img : BitVec 512)
deriving DecidableEq, Repr

/-- A read of the directory for core c finds poison, its own or that of a route out of service (R256, R336). -/
def State.dirPois (s : State) (c : Option Nat) (pa n : Nat) : Bool :=
  s.homePois pa n || (match c with | some c => s.cutOff c pa | none => false)

/-- The probes of R89; none when one of them reads poison. -/
def State.probe (s : State) (c : Option Nat) (rdir dva : Nat) : Nat → Nat → Nat → Option Nat
  | 0, lo, _ => some lo
  | k + 1, lo, hi =>
    if hi ≤ lo then some lo
    else
      let mid := (lo + hi) / 2
      if s.dirPois c (rdir + 64 + 64 * mid) 8 then none
      else if entBase (s.dirEntry rdir mid) ≤ dva then s.probe c rdir dva k (mid + 1) hi
      else s.probe c rdir dva k lo mid

/-- The walk of R89 for core c; by the device itself, none. -/
def State.walk (s : State) (c : Option Nat) (rdir dva : Nat) : Walk :=
  if s.dirPois c rdir 16 then .poison
  else if s.dirSeq rdir % 2 = 1 then .edit
  else
    match s.probe c rdir dva 18 0 (s.dirCount rdir) with
    | none => .poison
    | some 0 => .miss
    | some (lo + 1) =>
      let e := s.dirEntry rdir lo
      if s.dirPois c (rdir + 64 + 64 * lo) 64 then .poison
      else if !entV e || decide (entLimit e ≤ dva) then .miss
      else if entMalformed e then .malformed lo e
      else .found lo e

/-! ## Checks (R90) and the fault record (R91) -/

inductive AKind where
  | read | write | fetch | atomic
deriving DecidableEq, Repr

def AKind.code : AKind → Nat
  | .read => 0 | .write => 1 | .fetch => 2 | .atomic => 3

/-- A translated access: where it goes, and the attributes that govern it (R84). -/
structure Xl where
  pa : Nat
  raw : Nat := 0         -- the address before an interleave override (R82), and the override
  iov : Nat := 0
  rid : Nat := 0
  ca : Bool := false
  dev : Bool := false
  own : Bool := true
  base : Nat := 0        -- BASE of the entry: two accesses lie in one entry when it is equal
  clk : Bool := false
deriving DecidableEq, Repr

/-- What a failed check reports. -/
structure XFault where
  cause : Nat
  kind : Nat
  idx : Option Nat := none
  img : Option (BitVec 512) := none
deriving DecidableEq, Repr

/-- Steps 3 to 7 of R90 on an entry, for an access of partition p at privilege sup. An access to a range that the Dredge has
switched goes to its new home (R97). -/
def State.checkEntry (s : State) (img : BitVec 512) (sup : Bool) (p dva : Nat) (k : AKind) (scalar : Bool) :
    Except Nat Xl :=
  let pa := entPA img dva
  if entPS img && !sup then .error 4
  else if (match k with
      | .read => !entPR img | .write => !entPW img | .atomic => !(entPR img && entPW img) | .fetch => !entPX img) then .error 3
  else if entDEV img && (!scalar || k == .fetch || k == .atomic) then .error 5
  else if pa / 2 ^ 56 != 0 || pa / 2 ^ 54 % 4 == 3 then .error 6
  else if s.ownPa pa && !(s.backing pa == some p) then .error 7
  else match s.place pa (entIOV img) with
    | none => .error 7
    | some q => .ok { pa := s.fwd q, raw := pa, iov := entIOV img, rid := entRID img, ca := entCA img, dev := entDEV img, own := s.ownPa pa,
                      base := entBase img, clk := entCLK img }

/-- The fault record (R91); asn and sup are those of the access. -/
def faultRecord (dva : Nat) (k : AKind) (sup : Bool) (asn : Nat) (f : XFault) : BitVec 512 :=
  let g := match f.img with
    | some e => if f.kind = 8 then
        let j := entGranuleOf e dva
        let b := entBase e + j * entGranule e
        b * 2 ^ 128 + min (b + entGranule e) (entLimit e) * 2 ^ 192 + j % 64 * 2 ^ 256
      else 0
    | none => 0
  let e := match f.img with | some e => entBase e * 2 ^ 320 + entLimit e * 2 ^ 384 | none => 0
  BitVec.ofNat 512 (dva + f.cause * 2 ^ 64 + f.kind * 2 ^ 72 + k.code * 2 ^ 76 + sup.toNat * 2 ^ 78 + asn * 2 ^ 80
    + f.idx.getD 0xFFFFFFFF * 2 ^ 96 + g + e)

/-! ## The range table (R86) -/

def Core.slotMatch (x : Core) (dva : Nat) (sl : Slot) : Bool :=
  entV sl.img && entASN sl.img == x.s.asn.toNat && entGEN sl.img == x.s.asgen.toNat && entCovers sl.img dva
/-- The lowest-numbered slot that matches. -/
def Core.findSlot (x : Core) (dva : Nat) : Option (Nat × Slot) := x.slots.find? (fun e => x.slotMatch dva e.2)

def Core.touchSlot (x : Core) (i : Nat) : Core :=
  if i < 8 then x else { x with age := x.age.filter (· != i) ++ [i] }
/-- Where the walker fills: the lowest invalid slot of 8 to 31, otherwise the least recently used (R86). -/
def Core.victimSlot (x : Core) : Nat :=
  match ((List.range 24).map (· + 8)).find? (fun i => !entV (Store.get {} x.slots i).img) with
  | some i => i
  | none => x.age.headD 8
def Core.setSlot (x : Core) (i : Nat) (sl : Slot) : Core := { x with slots := Store.set {} x.slots i sl }
def Core.fillSlot (x : Core) (i idx : Nat) (img : BitVec 512) : Core :=
  (x.setSlot i { img := entStamp img x.s.asn.toNat x.s.asgen.toNat, dirIdx := some idx }).touchSlot i

/-- The privilege of a wisp's accesses: S only in the handler. -/
def xfault (x : Core) (sup : Bool) (dva : Nat) (k : AKind) (f : XFault) : Trap :=
  { cause := f.cause, tval := BitVec.ofNat 64 dva,
    frec := some (faultRecord dva k sup x.s.asn.toNat f) }

def Core.rdirPa (x : Core) : Nat := x.s.rdir.toNat / 64 * 64 % 2 ^ 56

/-- The entry that translates dva on core c: from the table, else by a walk that fills a slot. -/
def State.lookup (s : State) (c dva : Nat) (k : AKind) (sup : Bool) : Acc (BitVec 512 × Option Nat × Nat) :=
  let x := s.coreAt c
  if !canonical dva then .trap (xfault x sup dva k ⟨4, 1, none, none⟩) s
  else match x.findSlot dva with
    | some (i, sl) => .ok (sl.img, sl.dirIdx, i) (s.setCore c (x.touchSlot i))
    | none =>
      match s.walk (some c) x.rdirPa dva with
      | .edit => .wait s
      | .poison => .trap { cause := 0x0E, tval := BitVec.ofNat 64 dva } s
      | .miss => .trap (xfault x sup dva k ⟨4, 0, none, none⟩) s
      | .malformed i e => .trap (xfault x sup dva k ⟨4, 2, some i, some e⟩) s
      | .found i e =>
        let v := x.victimSlot
        .ok (e, some i, v) (s.setCore c (x.fillSlot v i e))

/-- Steps 3 to 8 of R90 with the recheck of R85. A wired slot keeps its image when the recheck succeeds (R86); the access then goes
by the directory's entry, and a check that fails there names that entry's index. After a recheck that fails, also one that
meets a malformed entry, the record of KIND 8 describes the slot's own entry: its bounds, index and granule, whatever entry
the recheck met (DESIGN CHOICE, log 16). -/
def State.finishXlat (s : State) (c dva : Nat) (k : AKind) (scalar sup : Bool)
    (e : BitVec 512) (idx : Option Nat) (slot : Nat) : Acc Xl :=
  let x := s.coreAt c
  let p := (s.partOfCore c).getD 0
  match s.checkEntry e sup p dva k scalar with
  | .error kd => .trap (xfault x sup dva k ⟨5, kd, idx, some e⟩) s
  | .ok t =>
    if entResident e dva then .ok t s
    else
      match s.walk (some c) x.rdirPa dva with
      | .edit => .wait s
      | .poison => .trap { cause := 0x0E, tval := BitVec.ofNat 64 dva } s
      | .found j e2 =>
        if entResident e2 dva then
          let s := if slot < 8 then s else s.setCore c (x.fillSlot slot j e2)
          match s.checkEntry e2 sup p dva k scalar with
          | .error kd => .trap (xfault x sup dva k ⟨5, kd, some j, some e2⟩) s
          | .ok t => .ok t s
        else .trap (xfault x sup dva k ⟨6, 8, idx, some e⟩) s
      | _ => .trap (xfault x sup dva k ⟨6, 8, idx, some e⟩) s

/-- Translates an access of core c at privilege sup. scalar: a scalar load or store (R84). -/
def State.xlat (s : State) (c dva : Nat) (k : AKind) (scalar sup : Bool) : Acc Xl :=
  (s.lookup c dva k sup).bind fun (e, idx, slot) s => s.finishXlat c dva k scalar sup e idx slot

/-- The record of R91 for an access by the device itself: KIND and entry of a failed check. -/
def XFault.record (f : XFault) (dva : Nat) (k : AKind) (asn : Nat) : Option (BitVec 512) :=
  if f.cause = 0x0E then none else some (faultRecord dva k false asn f)

/-- A write or read that the device makes for a wisp that is on no core (R361, R386): straight from its directory, at U. -/
inductive DirXl where
  | ok (x : Xl)
  | edit
  | bad (f : XFault)
deriving DecidableEq, Repr

def State.xlatDir (s : State) (rdir p dva : Nat) (k : AKind) : DirXl :=
  if !canonical dva then .bad ⟨4, 1, none, none⟩
  else match s.walk none rdir dva with
    | .edit => .edit
    | .poison => .bad ⟨0x0E, 0, none, none⟩
    | .miss => .bad ⟨4, 0, none, none⟩
    | .malformed j e => .bad ⟨4, 2, some j, some e⟩
    | .found j e =>
      match s.checkEntry e false p dva k true with
      | .error kd => .bad ⟨5, kd, some j, some e⟩
      | .ok t => if entResident e dva then .ok t else .bad ⟨6, 8, some j, some e⟩

end Sys2Proof.Machine
end

