-- ==== Sys2Proof/Machine/Access.lean ====
section
/-! DEFINITION. One access of a core: translated (R90), then performed in the tiers or at the home (R84, R122 to R124,
R336), with the tentative words of joins beside memory (R298). -/

namespace Sys2Proof.Machine

/-! ## Join ids and records (R295, R296) -/

def joinSlotKey (id : Nat) : Nat := id % 256 * 1024 + id / 256 % 1024
def joinGen (id : Nat) : Nat := id / 2 ^ 18 % 2 ^ 14
def State.joinAt (s : State) (k : Nat) : Join := Store.get {} s.joins k
/-- The record that a join id names, if it names one. -/
def State.joinNamed (s : State) (id : Nat) : Option Join :=
  let j := s.joinAt (joinSlotKey id)
  if id % 2 ^ 32 != 0 && j.st != .free && j.gen == joinGen id then some j else none
def joinId (key gen : Nat) : Nat := key / 1024 + key % 1024 * 2 ^ 8 + gen * 2 ^ 18

def Join.field (j : Join) (byte hi lo : Nat) : Nat := bits (j.img.toNat / 2 ^ (8 * byte)) hi lo
def Join.n (j : Join) : Nat := j.field 0 6 0
def Join.q (j : Join) : Nat := j.field 0 14 8
def Join.qmin (j : Join) : Nat := j.field 0 22 16
def Join.fillKind (j : Join) : Nat := j.field 0 25 24
def Join.qw (j : Join) : Nat := j.field 0 63 32
def Join.deadline (j : Join) : Nat := j.field 8 63 0
def Join.grid (j : Join) : Nat := j.field 0x10 7 0
def Join.accfmt (j : Join) : Nat := j.field 0x10 15 8
def Join.alen (j : Join) : Nat := j.field 0x10 31 16
def Join.wtotal (j : Join) : Nat := j.field 0x10 63 32
def Join.accaddr (j : Join) : Nat := j.field 0x18 63 0
def Join.subaddr (j : Join) : Nat := j.field 0x20 63 0
def Join.parent (j : Join) : Nat := j.field 0x28 31 0
def Join.pindex (j : Join) : Nat := j.field 0x28 47 32
def Join.pweight (j : Join) : Nat := j.field 0x28 63 48

/-- JOINCTX: id [31:0], weight [47:32], contributor index [63:48] (R68). -/
def ctxId (w : Word) : Nat := bits w.toNat 31 0
def ctxWeight (w : Word) : Nat := bits w.toNat 47 32
def ctxIndex (w : Word) : Nat := bits w.toNat 63 48

/-! ## Tentative words (R298) -/

/-- Index c has neither arrived nor left. -/
def Join.openFor (j : Join) (c : Nat) : Bool := decide (c < j.n) && !j.arrived.getLsbD c && !j.left.getLsbD c

/-- The join and index that tag a store of core c to region rid. -/
def State.tentTag (s : State) (c rid : Nat) : Option (Nat × Nat) :=
  let ctx := (s.coreAt c).u.joinctx
  if rid = 0 ∨ ctxId ctx = 0 then none
  else match s.joinNamed (ctxId ctx) with
    | some j => if j.grid = rid ∧ j.openFor (ctxIndex ctx) then some (ctxId ctx, ctxIndex ctx) else none
    | none => none

/-- The words at [pa, pa + n) as the wisp reads them: its own tentative values lie over memory's, but for those
that a later store of its own, which is not tentative, covers (R123). -/
def overlay (tents : List Tent) (launch index pa n v : Nat) : Nat :=
  tents.foldl (fun v t =>
    if t.launch == launch && t.index == index && !t.hidden && overlap t.pa 4 pa n then
      (List.range 4).foldl (fun v i =>
        let a := t.pa + i
        if pa ≤ a ∧ a < pa + n then
          let o := 2 ^ (8 * (a - pa))
          v - v / o % 256 * o + t.value.toNat / 2 ^ (8 * i) % 256 * o
        else v) v
    else v) v

/-- A tentative word replaces an earlier one of the same wisp for the same contributor. -/
def State.putTent (s : State) (t : Tent) : State :=
  { s with tents := (s.tents.filter (fun u => !(u.launch == t.launch && u.index == t.index && u.pa == t.pa && u.join == t.join
      && u.cindex == t.cindex))) ++ [t] }

/-! ## Performing an access -/

def State.lineTag (s : State) (c : Nat) (t : Xl) : LineTag := ⟨t.rid, t.own, s.vdevOn c⟩

/-- The poisoned words of a line at its home, as core c's die reads them: all of them over a route out of service (R256). -/
def State.homeMask (s : State) (c line : Nat) : BitVec 16 :=
  if s.cutOff c (64 * line) then BitVec.allOnes 16 else (s.homeLine line).2

/-- Reads n bytes of one line as core c; second component: the poisoned words of the line. -/
def State.readRaw (s : State) (c : Nat) (t : Xl) (n : Nat) : Acc (Nat × BitVec 16) :=
  if t.ca then
    (s.l1Get c (t.pa / 64) (s.lineTag c t) false).bind fun l s => .ok (lineBytes l.data (t.pa % 64) n, l.pois) s
  else
    let s := (s.bankOrder c (t.pa / 64)).sendRemote .read t.pa n 0
    .ok (s.homeRead t.pa n, s.homeMask c (t.pa / 64)) s

def State.overlaid (s : State) (c pa n v : Nat) : Nat :=
  if s.tents == [] then v else overlay s.tents (s.wispOn c).1 (s.wispOn c).2 pa n v
/-- The poisoned words of a line as the wisp reads them: its own tentative words lie over memory's (R298). -/
def State.seenPois (s : State) (c line : Nat) (m : BitVec 16) : BitVec 16 :=
  let w := s.wispOn c
  s.tents.foldl (fun m t =>
    let b := BitVec.ofNat 16 (2 ^ (t.pa % 64 / 4))
    if t.launch == w.1 && t.index == w.2 && !t.hidden && t.pa / 64 == line then (if t.pois then m ||| b else m &&& ~~~ b) else m) m
/-- One of the words that n bytes at pa touch is poisoned for the wisp. -/
def State.readsPois (s : State) (c pa n : Nat) (m : BitVec 16) : Bool :=
  s.seenPois c (pa / 64) m &&& wordsTouched pa n != 0

/-- A load: a poisoned word traps 0x0E with the address (R336). -/
def State.loadAt (s : State) (c dva : Nat) (t : Xl) (n : Nat) : Acc Nat :=
  (s.readRaw c t n).bind fun (v, m) s =>
    if s.readsPois c t.pa n m then .trap { cause := 0x0E, tval := BitVec.ofNat 64 dva } s else .ok (s.overlaid c t.pa n v) s

/-- Words that n bytes at pa touch are tentative words of core c's wisp, as it reads them. -/
def State.ownTents (s : State) (c pa n : Nat) : Bool :=
  let w := s.wispOn c
  s.tents.any (fun t => t.launch == w.1 && t.index == w.2 && !t.hidden && overlap t.pa 4 pa n)
/-- The wisp's later store of those words stands over them in its own view (R123); they stay tentative. -/
def State.hideTents (s : State) (c pa n : Nat) : State :=
  let w := s.wispOn c
  { s with tents := s.tents.map (fun t =>
      if t.launch == w.1 && t.index == w.2 && overlap t.pa 4 pa n then { t with hidden := true } else t) }
/-- The word-aligned run that n bytes at pa touch: its address and size. -/
def wordRun (pa n : Nat) : Nat × Nat := (pa / 4 * 4, (pa % 4 + n + 3) / 4 * 4)
/-- A run of bytes with n of them, o bytes from its start, replaced by v. -/
def bytesPut (old o n v : Nat) : Nat := old - old / 2 ^ (8 * o) % 2 ^ (8 * n) * 2 ^ (8 * o) + v % 2 ^ (8 * n) * 2 ^ (8 * o)

/-- Words of a store that are tentative (R298): old is what the wisp reads there now, m the poisoned words of the line. A
word that the store does not cover keeps its poison. -/
def State.tentStore (s : State) (c : Nat) (t : Xl) (n v old : Nat) (m : BitVec 16) (j ix : Nat) : State :=
  let w0 := t.pa / 4 * 4
  let k := (t.pa % 4 + n + 3) / 4
  let new := bytesPut old (t.pa - w0) n v
  let bad := s.seenPois c (t.pa / 64) m &&& ~~~ (wordsCovered t.pa n)
  let (la, ix') := s.wispOn c
  (List.range k).foldl (fun s i => s.putTent
    ⟨la, ix', j, ix, t.rid, w0 + 4 * i, BitVec.ofNat 32 (new / 2 ^ (32 * i)), bad.getLsbD (w0 % 64 / 4 + i), false⟩) s

/-- A store of n bytes within one line that is not tentative. An uncached store over a link out of service is answered with
poison (R256). -/
def State.storePlain (s : State) (c dva : Nat) (t : Xl) (n v : Nat) : Acc Unit :=
  if t.ca then
    (s.l1Get c (t.pa / 64) (s.lineTag c t) true).bind fun l s =>
      .ok () (s.setL1 c (t.pa / 64) (l.store (s.l1Line c (t.pa / 64)) t.pa n v))
  else
    let s := s.bankOrder c (t.pa / 64)
    let s' := if s.reqDown (dieOf c) t.pa then s else s.homeWrite (some c) (some (.core c)) t.pa n v
    if s.cutOff c t.pa then .trap { cause := 0x0E, tval := BitVec.ofNat 64 dva } s' else .ok () s'

/-- A store of n bytes within one line: tentative where the wisp's join covers the region. One that is not writes whole words
(R124) as the wisp reads them, over tentative words that it wrote before (R123, R298). -/
def State.storeAt (s : State) (c dva : Nat) (t : Xl) (n v : Nat) : Acc Unit :=
  let (w0, k) := wordRun t.pa n
  match if t.dev then none else s.tentTag c t.rid with
  | some (j, ix) =>
    (s.readRaw c { t with pa := w0 } k).bind fun (old, m) s =>
      .ok () (s.tentStore c t n v (s.overlaid c w0 k old) m j ix)
  | none =>
    if !s.ownTents c t.pa n then s.storePlain c dva t n v
    else (s.readRaw c { t with pa := w0 } k).bind fun (old, m) s =>
      if s.seenPois c (t.pa / 64) m &&& (wordsTouched t.pa n &&& ~~~ (wordsCovered t.pa n)) ≠ 0 then s.storePlain c dva t n v
      else (s.storePlain c dva { t with pa := w0 } k (bytesPut (s.overlaid c w0 k old) (t.pa - w0) n v)).bind fun _ s =>
        .ok () (s.hideTents c t.pa n)

/-- Translates and loads, translates and stores: an access of core c at privilege sup. -/
def State.load (s : State) (c dva n : Nat) (scalar sup : Bool) : Acc Nat :=
  (s.xlat c dva .read scalar sup).bind fun t s => s.loadAt c dva t n
def State.store (s : State) (c dva n v : Nat) (scalar sup : Bool) : Acc Unit :=
  (s.xlat c dva .write scalar sup).bind fun t s => s.storeAt c dva t n v

/-- Stores a long run of bytes in pieces that stay within a line; the first argument bounds the number of pieces. A spill goes
out so: the piece that fails a check gives TVAL, and a device range takes the pieces as scalar accesses (DESIGN CHOICE,
log 44). -/
def State.storeRun : Nat → State → Nat → Nat → Nat → Nat → Bool → Acc Unit
  | 0, s, _, _, _, _, _ => .ok () s
  | k + 1, s, c, dva, n, v, sup =>
    if n = 0 then .ok () s
    else
      let m := min n (64 - dva % 64)
      (s.store c dva m v true sup).bind fun _ s => State.storeRun k s c (dva + m) (n - m) (v / 2 ^ (8 * m)) sup
def State.loadRun : Nat → State → Nat → Nat → Nat → Bool → Acc Nat
  | 0, s, _, _, _, _ => .ok 0 s
  | k + 1, s, c, dva, n, sup =>
    if n = 0 then .ok 0 s
    else
      let m := min n (64 - dva % 64)
      (s.load c dva m true sup).bind fun a s =>
        (State.loadRun k s c (dva + m) (n - m) sup).bind fun b s => .ok (a + b * 2 ^ (8 * m)) s

/-- Translates every 4 KiB page of a span: all of its bytes pass R90. -/
def State.xlatRun : Nat → State → Nat → Nat → Nat → AKind → Bool → Acc Unit
  | 0, s, _, _, _, _, _ => .ok () s
  | k + 1, s, c, dva, n, kd, sup =>
    if n = 0 then .ok () s
    else
      let m := min n (4096 - dva % 4096)
      (s.xlat c dva kd true sup).bind fun _ s => State.xlatRun k s c (dva + m) (n - m) kd sup

/-! ## Accesses of the engines, which do not pass through the L1 (R222, R269) -/

/-- n bytes of one line from the tier of scope sc or above, and the poisoned words of the line. -/
def State.tierRead (s : State) (c : Nat) (t : Xl) (n sc : Nat) : Nat × BitVec 16 × State :=
  let line := t.pa / 64
  if !t.ca || decide (3 ≤ sc ∨ (sc = 2 ∧ t.own)) then (s.homeRead t.pa n, s.homeMask c line, s.sendRemote .read t.pa n 0)
  else
    let (l, s) := if sc = 0 then s.fillClu c line (s.lineTag c t) else s.fillDie c line (s.lineTag c t)
    (lineBytes l.data (t.pa % 64) n, l.pois, s)
/-- The same as core c's wisp reads it, and whether a word of it is poisoned. -/
def State.engineRead (s : State) (c : Nat) (t : Xl) (n sc : Nat) : Nat × Bool × State :=
  let (v, m, s) := s.tierRead c t n sc
  (s.overlaid c t.pa n v, s.readsPois c t.pa n m, s)
/-- A write of core c's engines at a home; over a link out of service it is answered with poison, which the core takes as a
machine check (R256); w awaits the answers of owners. -/
def State.engineHome (s : State) (c : Nat) (w : Option Awaiter) (pa n v : Nat) : State :=
  let s' := if s.reqDown (dieOf c) pa then s else s.homeWrite none w pa n v
  if s.cutOff c pa then s'.updCore c ({ · with lost := some pa }) else s'

/-- A write of n bytes within a line into the tier of scope sc, where it is registered; a line with owners, like every
line at package scope, takes it at its home, as a foreign write even of the owner's own core (R269). -/
def State.enginePlain (s : State) (c : Nat) (t : Xl) (n v sc : Nat) : State :=
  let line := t.pa / 64
  let k := clusterOf c
  let d := dieOf c
  let kl (s : State) := s.setCluLine k line ((s.cluLine k line).putBytes t.pa n v)
  let dl (s : State) := s.setDieLine d line ((s.dieLine d line).putBytes t.pa n v)
  if !t.ca || decide (3 ≤ sc ∨ (sc = 2 ∧ t.own)) || (s.regAt line).owners != [] then
    (dl (kl s)).engineHome c (some (.core c)) t.pa n v
  else if sc = 0 then
    let (l, s) := s.fillClu c line (s.lineTag c t)
    s.setCluLine k line (l.store (s.cluLine k line) t.pa n v)
  else
    let (l, s) := s.fillDie c line (s.lineTag c t)
    let s := kl s
    s.setDieLine d line (l.store (s.dieLine d line) t.pa n v)
/-- A write of core c's engines: tentative, or over the wisp's tentative words, as its own store would be. -/
def State.engineWrite (s : State) (c : Nat) (t : Xl) (n v sc : Nat) : State :=
  let (w0, k) := wordRun t.pa n
  match if t.dev then none else s.tentTag c t.rid with
  | some (j, ix) =>
    let (old, m, s) := s.tierRead c { t with pa := w0 } k sc
    s.tentStore c t n v (s.overlaid c w0 k old) m j ix
  | none =>
    if !s.ownTents c t.pa n then s.enginePlain c t n v sc
    else
      let (old, m, s) := s.tierRead c { t with pa := w0 } k sc
      if s.seenPois c (t.pa / 64) m &&& (wordsTouched t.pa n &&& ~~~ (wordsCovered t.pa n)) ≠ 0 then s.enginePlain c t n v sc
      else (s.enginePlain c { t with pa := w0 } k (bytesPut (s.overlaid c w0 k old) (t.pa - w0) n v) sc).hideTents c t.pa n

/-- A reply to core c that did not come in time has been poisoned, and read (R263). -/
def State.unmute (s : State) (c pa : Nat) : State := { s with mute := s.mute.erase (c, pa / 64) }

/-- The address that an access of core c's engines to a DVA reaches, for the route of its piece (R254); none: it
does not translate now. -/
def State.homeAddr (s : State) (c dva : Nat) (k : AKind := .read) : Option Nat :=
  match s.xlat c dva k false false with
  | .ok t _ => some t.pa
  | _ => none
/-- The places that accesses of core c's engines to some DVAs reach. -/
def State.homesOf (s : State) (c : Nat) (k : AKind) (dvas : List Nat) : List Node :=
  (dvas.filterMap (fun a => (s.homeAddr c a k).map s.homeNode)).eraseDups

/-! ## Instruction fetch (R53 to R56) -/

/-- A line comes into a cluster's instruction cache; a full cache gives one up. -/
def State.setCode (s : State) (k line : Nat) (l : Line) : State :=
  let cache := (s.clusterAt k).icache
  let out := if (Store.get ({} : Line) cache line).valid = 0 ∧ icacheCap ≤ cache.length
    then (cache[Config.victim s.draw k % cache.length]?).map Prod.fst else none
  let s := match out with
    | some o => { s.updCluster k (fun y => { y with icache := Store.set {} y.icache o {} }) with draw := s.draw + 1 }
    | none => s
  s.updCluster k (fun y => { y with icache := Store.set {} y.icache line l })

/-- The word at the PC, through the cluster's instruction cache, which fills from the die cache and the home. The wisp's own
tentative words lie over it (R298). -/
def State.fetch (s : State) (c : Nat) : Acc Nat :=
  let x := s.coreAt c
  let pc := x.pc.toNat
  (s.xlat c pc .fetch false x.sup).bind fun t s =>
    let line := t.pa / 64
    let s := s.bankOrder c line
    let (v, m, s) :=
      if !t.ca then (s.homeRead t.pa 4, s.homeMask c line, s.sendRemote .read t.pa 4 0)
      else
        let l : Line := Store.get {} (s.clusterAt (clusterOf c)).icache line
        let (l, s) :=
          if l.valid = BitVec.allOnes 16 then (l, s)
          else
            let (b, s) := s.fillDie c line (s.lineTag c t)
            (l.fill (s.lineTag c t) b.data b.pois b.valid,
              s.setCode (clusterOf c) line (l.keepFill (s.lineTag c t) b.data b.pois b.valid))
        (lineBytes l.data (t.pa % 64) 4, l.pois, s)
    if s.readsPois c t.pa 4 m then .trap { cause := 0x0E, tval := x.pc } s else .ok (s.overlaid c t.pa 4 v) s

end Sys2Proof.Machine
end

