-- ==== Sys2Proof/Machine/Flags.lean ====
section
/-! DEFINITION. The sticky flags of FSTAT (R68, R145) and how an instruction sets them. -/

namespace Sys2Proof.Machine

/-- Flags raised by one operation, in the bit order of FSTAT: NV 0, DZ 1, OF 2, UF 3, NX 4, AL 5, SAT 6. -/
abbrev Flags := BitVec 7

def fNV : Flags := 1
def fDZ : Flags := 2
def fOF : Flags := 4
def fUF : Flags := 8
def fNX : Flags := 16
def fAL : Flags := 32
def fSAT : Flags := 64

/-- The flags of one instruction are set together; they are sticky (R145). -/
def Core.raise (x : Core) (f : Flags) : Core := x.updU (fun u => { u with fstat := u.fstat ||| f })
def State.raise (s : State) (c : Nat) (f : Flags) : State := if f = 0 then s else s.updCore c (·.raise f)

/-- Union of the flags of a list of results. -/
def unionFlags {α : Type} (l : List (α × Flags)) : Flags := l.foldl (fun f e => f ||| e.2) 0

end Sys2Proof.Machine
end

