-- ==== Sys2Proof/Machine/Float.lean ====
section
/-! DEFINITION. The number formats and rounding of 07_number_formats.md: values are exact dyadics, and each result is
rounded once (R144 to R147). Roots, quotients and the special functions of R166 keep enough of the exact value, with a
sticky bit, to be rounded as if exact. -/

namespace Sys2Proof.Machine

/-! ## Formats (R140) and values -/

structure FFmt where
  eb : Nat
  fb : Nat
deriving DecidableEq, Repr

def f16 : FFmt := ⟨5, 10⟩
def bf16 : FFmt := ⟨8, 7⟩
def f32 : FFmt := ⟨8, 23⟩
def f64 : FFmt := ⟨11, 52⟩

def FFmt.width (f : FFmt) : Nat := 1 + f.eb + f.fb
def FFmt.bias (f : FFmt) : Nat := 2 ^ (f.eb - 1) - 1
/-- Exponent of the last place of subnormals. -/
def FFmt.qmin (f : FFmt) : Int := 1 - (f.bias : Int) - f.fb
def FFmt.emin (f : FFmt) : Int := 1 - (f.bias : Int)
def FFmt.infCode (f : FFmt) : Nat := (2 ^ f.eb - 1) * 2 ^ f.fb
def FFmt.signBit (f : FFmt) : Nat := 2 ^ (f.eb + f.fb)
def FFmt.signed (f : FFmt) (neg : Bool) (body : Nat) : Nat := if neg then f.signBit + body else body
/-- The canonical quiet NaN (R141). -/
def FFmt.nan (f : FFmt) : Nat := f.infCode + 2 ^ (f.fb - 1)
def FFmt.inf (f : FFmt) (neg : Bool) : Nat := f.signed neg f.infCode
def FFmt.zero (f : FFmt) (neg : Bool) : Nat := f.signed neg 0
def FFmt.largest (f : FFmt) (neg : Bool) : Nat := f.signed neg (f.infCode - 1)

/-- A value: NaN (signalling or not), an infinity, a zero, or (-1)^neg * m * 2^e with m > 0. -/
inductive FVal where
  | nan (sig : Bool)
  | inf (neg : Bool)
  | zero (neg : Bool)
  | fin (neg : Bool) (m : Nat) (e : Int)
deriving DecidableEq, Repr

def FFmt.decode (f : FFmt) (code : Nat) : FVal :=
  let c := code % 2 ^ f.width
  let neg := decide (f.signBit ≤ c)
  let body := c % f.signBit
  let ex := body / 2 ^ f.fb
  let fr := body % 2 ^ f.fb
  if ex = 2 ^ f.eb - 1 then (if fr = 0 then .inf neg else .nan (decide (fr < 2 ^ (f.fb - 1))))
  else if body = 0 then .zero neg
  else if ex = 0 then .fin neg fr f.qmin
  else .fin neg (2 ^ f.fb + fr) (f.qmin + (ex - 1 : Nat))

/-- FZ = 1 replaces a subnormal source by a zero of its sign (R148). -/
def FFmt.decodeFz (f : FFmt) (fz : Bool) (code : Nat) : FVal :=
  let body := code % f.signBit
  if fz && body / 2 ^ f.fb == 0 then .zero (decide (f.signBit ≤ code % 2 ^ f.width)) else f.decode code

def FVal.isNan : FVal → Bool
  | .nan _ => true
  | _ => false
def FVal.isSig : FVal → Bool
  | .nan s => s
  | _ => false
def FVal.isInf : FVal → Bool
  | .inf _ => true
  | _ => false
def FVal.isZero : FVal → Bool
  | .zero _ => true
  | _ => false
def FVal.neg : FVal → Bool
  | .nan _ => false
  | .inf n => n
  | .zero n => n
  | .fin n _ _ => n
def FVal.negate : FVal → FVal
  | .nan s => .nan s
  | .inf n => .inf (!n)
  | .zero n => .zero (!n)
  | .fin n m e => .fin (!n) m e

/-- An integer times a power of two, as a value; `z` is the sign of an exact zero. -/
def ofInt (z : Bool) (n : Int) (e : Int) : FVal := if n = 0 then .zero z else .fin (decide (n < 0)) n.natAbs e

/-! ## Rounding (R144, R145, R148) -/

/-- Rounding modes: 0 RNE, 1 RTZ, 2 RDN, 3 RUP, 4 RNA. Whether a magnitude q + rem / 2^sh (plus a sticky part below)
rounds up. -/
def roundsUp (rm : Nat) (neg : Bool) (q rem sh : Nat) (st : Bool) : Bool :=
  let inexact := rem != 0 || st
  let half := if sh = 0 then 0 else 2 ^ (sh - 1)
  match rm with
  | 0 => sh != 0 && (decide (half < rem) || (rem == half && (st || q % 2 == 1)))
  | 1 => false
  | 2 => neg && inexact
  | 3 => !neg && inexact
  | _ => sh != 0 && decide (half ≤ rem)

/-- m * 2^e (plus a sticky part, at most one unit of m) rounded to a multiple of 2^q: the multiple, and inexactness. -/
def roundAt (rm : Nat) (neg : Bool) (m : Nat) (e q : Int) (st : Bool) : Nat × Bool :=
  if q ≤ e then (m * 2 ^ (e - q).toNat + (if roundsUp rm neg 0 0 0 st then 1 else 0), st)
  else
    let sh := (q - e).toNat
    let k := m / 2 ^ sh
    let r := m % 2 ^ sh
    (k + (if roundsUp rm neg k r sh st then 1 else 0), r != 0 || st)

/-- The result of an overflow (R144). -/
def FFmt.overflow (f : FFmt) (rm : Nat) (neg : Bool) : Nat :=
  match rm, neg with
  | 1, n => f.largest n
  | 2, false => f.largest false
  | 3, true => f.largest true
  | _, n => f.inf n

/-- round_to of a nonzero finite value (-1)^neg * (m + sticky) * 2^e. With a sticky part, m must have at least two bits
more than the format's precision, or lie below half of the smallest subnormal. -/
def FFmt.roundFin (f : FFmt) (fz : Bool) (rm : Nat) (neg : Bool) (m : Nat) (e : Int) (st : Bool) : Nat × Flags :=
  let top : Int := (Nat.log2 m : Int) + e
  let q0 := top - f.fb
  let q := max q0 f.qmin
  let (k, inexact) := roundAt rm neg m e q st
  let (k0, _) := roundAt rm neg m e q0 st
  let tiny := decide (top < f.emin) && !(top == f.emin - 1 && k0 == 2 ^ (f.fb + 1))
  let body := (q - f.qmin).toNat * 2 ^ f.fb + k
  if f.infCode ≤ body then (f.overflow rm neg, fOF ||| fNX)
  else if tiny && fz then (f.zero neg, fUF ||| fNX)
  else (f.signed neg body, (if inexact then fNX else 0) ||| (if tiny && inexact then fUF else 0))

/-- round_to of a value: a signalling NaN sets NV, every NaN is canonical. -/
def FFmt.round (f : FFmt) (fz : Bool) (rm : Nat) (x : FVal) : Nat × Flags :=
  match x with
  | .nan s => (f.nan, if s then fNV else 0)
  | .inf n => (f.inf n, 0)
  | .zero n => (f.zero n, 0)
  | .fin n m e => f.roundFin fz rm n m e false

/-! ## Sums and products -/

/-- A finite value as an integer multiple of 2^e0, for e0 at most its exponent. -/
def FVal.scaled (x : FVal) (e0 : Int) : Int :=
  match x with
  | .fin n m e => let k : Int := (m * 2 ^ (e - e0).toNat : Nat); if n then -k else k
  | _ => 0
def FVal.expo (x : FVal) (d : Int) : Int :=
  match x with
  | .fin _ _ e => e
  | _ => d

/-- The exact sum of two finite values; an exact zero of opposite signs is +0, or -0 under RDN (R144). -/
def addExact (rm : Nat) (a b : FVal) : FVal :=
  match a, b with
  | .zero n, .zero k => .zero (if n = k then n else rm == 2)
  | .zero _, y => y
  | x, .zero _ => x
  | x, y =>
    let e0 := min (x.expo 0) (y.expo 0)
    ofInt (rm == 2) (x.scaled e0 + y.scaled e0) e0

/-- a + b with the invalid case of R165. -/
def FFmt.add (f : FFmt) (fz : Bool) (rm : Nat) (a b : FVal) : Nat × Flags :=
  let sig := if a.isSig || b.isSig then fNV else 0
  if a.isNan || b.isNan then (f.nan, sig)
  else match a, b with
    | .inf n, .inf k => if n = k then (f.inf n, 0) else (f.nan, fNV)
    | .inf n, _ => (f.inf n, 0)
    | _, .inf n => (f.inf n, 0)
    | x, y => f.round fz rm (addExact rm x y)

/-- The exact product of two numbers that are not NaN; none for 0 × ∞. -/
def mulExact (a b : FVal) : Option FVal :=
  let n := a.neg != b.neg
  match a, b with
  | .inf _, .zero _ | .zero _, .inf _ => none
  | .inf _, _ | _, .inf _ => some (.inf n)
  | .zero _, _ | _, .zero _ => some (.zero n)
  | .fin _ m e, .fin _ k g => some (.fin n (m * k) (e + g))
  | x, _ => some x

def FFmt.mul (f : FFmt) (fz : Bool) (rm : Nat) (a b : FVal) : Nat × Flags :=
  if a.isNan || b.isNan then (f.nan, if a.isSig || b.isSig then fNV else 0)
  else match mulExact a b with
    | none => (f.nan, fNV)
    | some p => f.round fz rm p

/-- a × b + d, rounded once; 0 × ∞ is invalid even when d is a quiet NaN (R165). -/
def FFmt.fma (f : FFmt) (fz : Bool) (rm : Nat) (negP : Bool) (a b d : FVal) : Nat × Flags :=
  let sig := if a.isSig || b.isSig || d.isSig then fNV else 0
  if a.isNan || b.isNan then (f.nan, sig)
  else match mulExact a b with
    | none => (f.nan, fNV)
    | some p =>
      let p := if negP then p.negate else p
      if d.isNan then (f.nan, sig)
      else match p, d with
        | .inf n, .inf k => if n = k then (f.inf n, 0) else (f.nan, fNV)
        | .inf n, _ => (f.inf n, 0)
        | _, .inf n => (f.inf n, 0)
        | x, y => f.round fz rm (addExact rm x y)

/-- A nonzero quotient of magnitudes m * 2^e / (k * 2^g). -/
def FFmt.roundQuot (f : FFmt) (fz : Bool) (rm : Nat) (neg : Bool) (m : Nat) (e : Int) (k : Nat) (g : Int) : Nat × Flags :=
  let sh := Nat.log2 k + f.fb + 4
  let n := m * 2 ^ sh
  f.roundFin fz rm neg (n / k) (e - g - sh) (n % k != 0)

def FFmt.div (f : FFmt) (fz : Bool) (rm : Nat) (a b : FVal) : Nat × Flags :=
  let n := a.neg != b.neg
  if a.isNan || b.isNan then (f.nan, if a.isSig || b.isSig then fNV else 0)
  else match a, b with
    | .inf _, .inf _ | .zero _, .zero _ => (f.nan, fNV)
    | .inf _, _ => (f.inf n, 0)
    | _, .inf _ => (f.zero n, 0)
    | .zero _, _ => (f.zero n, 0)
    | .fin _ _ _, .zero _ => (f.inf n, fDZ)
    | .fin _ m e, .fin _ k g => f.roundQuot fz rm n m e k g
    | _, _ => (f.nan, 0)

/-! ## Roots and reciprocals (R166) -/

/-- The bits of the integer square root of n from position k - 1 down. -/
def isqrtFrom (n : Nat) : Nat → Nat → Nat
  | 0, r => r
  | k + 1, r => if (r + 2 ^ k) * (r + 2 ^ k) ≤ n then isqrtFrom n k (r + 2 ^ k) else isqrtFrom n k r
def isqrt (n : Nat) : Nat := isqrtFrom n (Nat.log2 n / 2 + 1) 0

def FFmt.sqrt (f : FFmt) (fz : Bool) (rm : Nat) (a : FVal) : Nat × Flags :=
  match a with
  | .nan s => (f.nan, if s then fNV else 0)
  | .zero n => (f.zero n, 0)
  | .inf false => (f.inf false, 0)
  | .inf true => (f.nan, fNV)
  | .fin true _ _ => (f.nan, fNV)
  | .fin false m e =>
    let sh : Nat := 2 * (f.fb + 4) + (e % 2).toNat
    let n := m * 2 ^ sh
    let r := isqrt n
    f.roundFin fz rm false r ((e - sh) / 2) (r * r != n)

def FFmt.rcp (f : FFmt) (fz : Bool) (rm : Nat) (a : FVal) : Nat × Flags :=
  match a with
  | .nan s => (f.nan, if s then fNV else 0)
  | .zero n => (f.inf n, fDZ)
  | .inf n => (f.zero n, 0)
  | .fin n m e => f.roundQuot fz rm n 1 0 m e

def FFmt.rsq (f : FFmt) (fz : Bool) (rm : Nat) (a : FVal) : Nat × Flags :=
  match a with
  | .nan s => (f.nan, if s then fNV else 0)
  | .zero n => (f.inf n, fDZ)
  | .inf false => (f.zero false, 0)
  | .inf true => (f.nan, fNV)
  | .fin true _ _ => (f.nan, fNV)
  | .fin false m e =>
    -- 1 / sqrt(m * 2^e) = sqrt(2^(2 t) / m') * 2^(- t - e'/2), with m' * 2^e' = m * 2^e and e' even
    let odd : Nat := (e % 2).toNat
    let m' := m * 2 ^ odd
    let e' := e - odd
    let t := Nat.log2 m' + f.fb + 4
    let r := isqrt (2 ^ (2 * t) / m')
    f.roundFin fz rm false r (-(t : Int) - e' / 2) (r * r * m' != 2 ^ (2 * t))

/-! ## 2^a, log2 a and tanh a (R166)

Each value that is not among the listed exact results is irrational, so an interval that is narrow enough rounds to one
code at both ends. Intervals are in units of 2^-P; the list of precisions ends far above what any operand needs. -/

/-- Rounds an open interval (lo, hi) * 2^-p if both ends round alike. -/
def FFmt.roundBetween (f : FFmt) (fz : Bool) (rm : Nat) (neg : Bool) (lo hi : Nat) (ex : Int) : Option (Nat × Flags) :=
  if lo = 0 ∨ hi ≤ lo then none
  else
    let a := f.roundFin fz rm neg lo ex true
    let b := f.roundFin fz rm neg (hi - 1) ex true
    if a = b then some a else none

/-- Tries rising precisions. -/
def ziv (g : Nat → Option (Nat × Flags)) (d : Nat × Flags) : List Nat → Nat × Flags
  | [] => d
  | p :: l => match g p with
    | some r => r
    | none => ziv g d l
def precisions : List Nat := [192, 512, 1400]

/-- ln 2 in units of 2^-p, low by less than 2p units: 2 * sum of 1 / ((2k+1) 3^(2k+1)). -/
def ln2Sum : Nat → Nat → Nat → Nat → Nat
  | 0, _, _, acc => acc
  | n + 1, k, t, acc => ln2Sum n (k + 1) (t / 9) (acc + t / (2 * k + 1))
def ln2 (p : Nat) : Nat := 2 * ln2Sum p 0 (2 ^ p / 3) 0

/-- Sum of r^k / k! for k from 1 on, in units of 2^-p; at most 1 + n units low for each of n terms. -/
def expSum (r p : Nat) : Nat → Nat → Nat → Nat → Nat
  | 0, _, _, acc => acc
  | n + 1, k, t, acc =>
    let t' := t * r / 2 ^ p / k
    if t' = 0 then acc else expSum r p n (k + 1) t' (acc + t')
/-- exp(r) - 1 for r in [0, 1), in units of 2^-p. -/
def expm1 (r p : Nat) : Nat := expSum r p p 1 (2 ^ p) 0

/-- Error bound of the sums above, in units. -/
def sumErr (p : Nat) : Nat := 16 * p

def FFmt.exp2 (f : FFmt) (fz : Bool) (rm : Nat) (a : FVal) : Nat × Flags :=
  match a with
  | .nan s => (f.nan, if s then fNV else 0)
  | .inf n => if n then (f.zero false, 0) else (f.inf false, 0)
  | .zero _ => f.roundFin fz rm false 1 0 false
  | .fin n m e =>
    if 12 ≤ (Nat.log2 m : Int) + e then
      f.roundFin fz rm false (2 ^ 64) (if n then -5000 else 5000) true
    else
      let v := (FVal.fin n m e).scaled (min e 0)
      let d : Int := 2 ^ (0 - min e 0).toNat
      let i := v / d
      let fr := (v % d).toNat
      if fr = 0 then f.roundFin fz rm false 1 i false
      else ziv (fun p =>
          let r := fr * ln2 p / d.toNat
          let x := 2 ^ p + expm1 r p
          f.roundBetween fz rm false (x - sumErr p) (x + sumErr p) (i - p))
        (f.roundFin fz rm false (2 ^ 64) (i - 64) true) precisions

/-- atanh(z) for z in [0, 1/3], in units of 2^-p. -/
def atanhSum (z2 p : Nat) : Nat → Nat → Nat → Nat → Nat
  | 0, _, _, acc => acc
  | n + 1, k, t, acc => if t = 0 then acc else atanhSum z2 p n (k + 1) (t * z2 / 2 ^ p) (acc + t / (2 * k + 1))

def FFmt.log2 (f : FFmt) (fz : Bool) (rm : Nat) (a : FVal) : Nat × Flags :=
  match a with
  | .nan s => (f.nan, if s then fNV else 0)
  | .zero _ => (f.inf true, fDZ)
  | .inf false => (f.inf false, 0)
  | .inf true => (f.nan, fNV)
  | .fin true _ _ => (f.nan, fNV)
  | .fin false m e =>
    let k := Nat.log2 m
    let i : Int := k + e
    if m = 2 ^ k then f.round fz rm (ofInt false i 0)
    else ziv (fun p =>
        -- y = m / 2^k in (1, 2); z = (y - 1) / (y + 1)
        let z := (m - 2 ^ k) * 2 ^ p / (m + 2 ^ k)
        let l := 2 * atanhSum (z * z / 2 ^ p) p p 0 z 0
        let g := l * 2 ^ p / ln2 p
        let err := sumErr p
        let lo : Int := i * 2 ^ p + (g - err : Nat)
        let hi : Int := i * 2 ^ p + (g + err : Nat)
        if g ≤ err then none
        else if 0 < lo then f.roundBetween fz rm false lo.toNat hi.toNat (-p)
        else if hi < 0 then f.roundBetween fz rm true hi.natAbs lo.natAbs (-p)
        else none)
      (f.round fz rm (ofInt false i 0)) precisions

def FFmt.tanh (f : FFmt) (fz : Bool) (rm : Nat) (a : FVal) : Nat × Flags :=
  match a with
  | .nan s => (f.nan, if s then fNV else 0)
  | .zero n => (f.zero n, 0)
  | .inf n => f.roundFin fz rm n 1 0 false
  | .fin n m e =>
    -- from 64 on, tanh lies strictly between 1 - 2^-100 and 1
    if 6 ≤ (Nat.log2 m : Int) + e then f.roundFin fz rm n (2 ^ 100 - 1) (-100) true
    else ziv (fun p =>
        -- u = 2 |a| = i * ln 2 + r; exp(u) = 2^i * exp(r)
        let u := if 0 ≤ e then m * 2 ^ (e.toNat + p + 1) else m * 2 ^ (p + 1) / 2 ^ (0 - e).toNat
        let l := ln2 p
        let i := u / l
        let r := u % l
        let em1 := (2 ^ p + expm1 r p) * 2 ^ i - 2 ^ p
        let err := sumErr p * 2 ^ i * (i + 1)
        let lo := (em1 - err) * 2 ^ p / (em1 - err + 2 ^ (p + 1))
        let hi := (em1 + err) * 2 ^ p / (em1 + err + 2 ^ (p + 1)) + 1
        f.roundBetween fz rm n lo hi (-p))
      (f.roundFin fz rm n (m * 2 ^ 64) (e - 64) true) precisions

/-! ## Minimum, maximum, order, class (R165, R167) -/

/-- a < b for numbers. -/
def FVal.lt (a b : FVal) : Bool :=
  match a, b with
  | .inf n, .inf k => n && !k
  | .inf n, _ => n
  | _, .inf k => !k
  | x, y => let e0 := min (x.expo 0) (y.expo 0); decide (x.scaled e0 < y.scaled e0)
/-- a = b as values (+0 = -0). -/
def FVal.eqv (a b : FVal) : Bool := !a.isNan && !b.isNan && !a.lt b && !b.lt a

/-- minimumNumber and maximumNumber: -0 is below +0. Result: true for the first operand. -/
def FVal.firstIsLess (a b : FVal) : Bool := a.lt b || (!b.lt a && a.neg && !b.neg)

def FFmt.minmax (f : FFmt) (wantMax : Bool) (ca cb : Nat) (a b : FVal) : Nat × Flags :=
  let fl := if a.isSig || b.isSig then fNV else 0
  if a.isNan && b.isNan then (f.nan, fl)
  else if a.isNan then (cb, fl)
  else if b.isNan then (ca, fl)
  else if wantMax then ((if a.firstIsLess b then cb else ca), fl) else ((if b.firstIsLess a then cb else ca), fl)

/-- VFCLASS (R165). -/
def FFmt.classOf (f : FFmt) (a : FVal) : Nat :=
  match a with
  | .inf n => if n then 1 else 2 ^ 7
  | .zero n => if n then 2 ^ 3 else 2 ^ 4
  | .nan s => if s then 2 ^ 8 else 2 ^ 9
  | .fin n m e =>
    let sub := decide ((Nat.log2 m : Int) + e < f.emin)
    if n then (if sub then 2 ^ 2 else 2) else (if sub then 2 ^ 5 else 2 ^ 6)

/-! ## m8 (R142, R143, R146) -/

/-- A value or NV of an m8 code under bias b: the marker's position gives the binade and the fraction's width. -/
def m8Decode (b : Int) (code : Nat) : FVal :=
  let body := code % 128
  let neg := decide (128 ≤ code % 256)
  if body = 0 then (if neg then .nan false else .zero false)
  else
    let r := Nat.log2 body
    let z := 6 - r
    let rest := body - 2 ^ r
    let ew := min 2 r
    let fw := r - ew
    let e : Int := (rest / 2 ^ fw : Nat)
    let fr := rest % 2 ^ fw
    let x : Int := if z ≤ 4 then b - 4 * z - 3 + e else if z = 5 then b - 21 + e else b - 22
    .fin neg (2 ^ fw + fr) (x - fw)

/-- Magnitudes m * 2^e compared. -/
def magLt (m : Nat) (e : Int) (k : Nat) (g : Int) : Bool :=
  let e0 := min e g
  decide (m * 2 ^ (e - e0).toNat < k * 2 ^ (g - e0).toNat)

/-- The positive code of the largest value at most 2^x * y, 1 ≤ y < 2, for B - 22 ≤ x ≤ B; frac gives the top n bits of
y's fraction. -/
def m8Floor (d : Nat) (frac : Nat → Nat) : Nat :=
  -- d = x - (B - 22), 0 to 22
  if d = 0 then 1
  else if d ≤ 2 then 2 + (d - 1)
  else if d ≤ 6 then 4 + (d - 3)
  else
    let g := (d - 7) / 4
    let e := (d - 7) % 4
    let fw := g + 1
    2 ^ (fw + 2) + e * 2 ^ fw + frac fw

/-- round_m8 (R146). Values are exact dyadics or the exact quotients of none: no sticky part arises. -/
def roundM8 (b : Int) (x : FVal) : Nat × Flags :=
  match x with
  | .nan s => (0x80, if s then fNV else 0)
  | .inf n => (if n then 0xFF else 0x7F, fSAT)
  | .zero _ => (0, 0)
  | .fin n m e =>
    let sgn (c : Nat) := if n then 0x80 + c else c
    if magLt 31 (b - 4) m e then (sgn 0x7F, fSAT)
    else if !magLt 1 (b - 23) m e then (0, fUF ||| fNX)
    else
      let k := Nat.log2 m
      let top : Int := k + e
      let lo : Nat := if top < b - 22 then 0
        else m8Floor (top - (b - 22)).toNat (fun w => (m - 2 ^ k) * 2 ^ w / 2 ^ k)
      match m8Decode b lo with
      | .fin _ vm ve =>
        if !magLt vm ve m e then (sgn lo, 0)
        else
          -- between lo and lo + 1: compare twice the magnitude with the sum of the two values
          match m8Decode b (lo + 1) with
          | .fin _ wm we =>
            let e0 := min e (min ve we)
            let s2 := vm * 2 ^ (ve - e0).toNat + wm * 2 ^ (we - e0).toNat
            let t := 2 * m * 2 ^ (e - e0).toNat
            let c := if t < s2 then lo else if s2 < t then lo + 1 else if lo % 2 = 0 then lo else lo + 1
            (sgn c, fNX)
          | _ => (sgn lo, fNX)
      | _ => (sgn 1, fNX)

/-! ## To integers (R147) -/

/-- The bounds of an integer format of n bits. -/
def intLo (signed : Bool) (n : Nat) : Int := if signed then -(2 ^ (n - 1)) else 0
def intHi (signed : Bool) (n : Nat) : Int := if signed then 2 ^ (n - 1) - 1 else 2 ^ n - 1

/-- Clamps to an integer format, as its bits. -/
def clampInt (signed : Bool) (n : Nat) (v : Int) : Nat × Flags :=
  if v < intLo signed n then ((intLo signed n % 2 ^ n).toNat, fSAT)
  else if intHi signed n < v then ((intHi signed n).toNat, fSAT)
  else ((v % 2 ^ n).toNat, 0)

/-- A value rounded to an integer under rm; large magnitudes are cut where they clamp anyway. -/
def toInt (rm : Nat) (signed : Bool) (n : Nat) (x : FVal) : Nat × Flags :=
  match x with
  | .nan _ => (0, fNV)
  | .inf k => ((if k then (intLo signed n % 2 ^ n).toNat else (intHi signed n).toNat), fSAT)
  | .zero _ => (0, 0)
  | .fin k m e =>
    if 70 ≤ (Nat.log2 m : Int) + e then ((if k then (intLo signed n % 2 ^ n).toNat else (intHi signed n).toNat), fSAT)
    else
      let (q, ix) := roundAt rm k m e 0 false
      let v : Int := if k then -(q : Int) else q
      let (c, fl) := clampInt signed n v
      (c, if fl = fSAT then fSAT else if ix then fNX else 0)

end Sys2Proof.Machine
end

