-- ==== Sys2Proof/Machine/Typed.lean ====
section
/-! DEFINITION. The typed buffers of a core (R194 to R197) and typed operands (R219, R220). Spaces: 0 W, 1 A, 2 C. -/

namespace Sys2Proof.Machine

/-- Which physical copy an access means: W and A have a front and a back by window; C has one copy. -/
def Typed.copyOf (t : Typed) (space off : Nat) (front : Bool) : Bool :=
  match space with
  | 0 => t.wFront.getLsbD (off / 32768) == front
  | 1 => t.aFront.getLsbD (off / 32768) == front
  | _ => false

def Typed.store (t : Typed) (space : Nat) (copy1 : Bool) : Store Byte :=
  match space, copy1 with
  | 0, false => t.w0
  | 0, true => t.w1
  | 1, false => t.a0
  | 1, true => t.a1
  | _, _ => t.c
def Typed.setStore (t : Typed) (space : Nat) (copy1 : Bool) (m : Store Byte) : Typed :=
  match space, copy1 with
  | 0, false => { t with w0 := m }
  | 0, true => { t with w1 := m }
  | 1, false => { t with a0 := m }
  | 1, true => { t with a1 := m }
  | _, _ => { t with c := m }

def poisKey (space : Nat) (copy1 : Bool) (word : Nat) : Nat := space * 2 ^ 20 + copy1.toNat * 2 ^ 19 + word

/-- n bytes at an offset of an array, little-endian. -/
def byteRun (m : Store Byte) (off : Nat) : Nat → Nat
  | 0 => 0
  | n + 1 => (Store.get 0 m off).toNat + 256 * byteRun m (off + 1) n
/-- n bytes at an offset, little-endian, each from the copy that its own window gives. -/
def Typed.get (t : Typed) (space : Nat) (front : Bool) (off : Nat) : Nat → Nat
  | 0 => 0
  | n + 1 => (Store.get 0 (t.store space (t.copyOf space off front)) off).toNat + 256 * t.get space front (off + 1) n
def Typed.isPois (t : Typed) (space : Nat) (front : Bool) (off n : Nat) : Bool :=
  (List.range ((off % 4 + n + 3) / 4)).any (fun i =>
    Store.get false t.pois (poisKey space (t.copyOf space (off / 4 * 4 + 4 * i) front) (off / 4 + i)))

/-- n bytes are written within a window; a word written whole loses its poison (R197). -/
def Typed.putIn (t : Typed) (space : Nat) (front : Bool) (off n v : Nat) : Typed :=
  let c1 := t.copyOf space off front
  let whole := (off + 3) / 4
  { t.setStore space c1 (memPut (t.store space c1) off v n) with
    pois := (List.range ((off + n) / 4 - whole)).foldl
      (fun p i => Store.set false p (poisKey space c1 (whole + i)) false) t.pois }
/-- n bytes are written, over at most two windows. -/
def Typed.put (t : Typed) (space : Nat) (front : Bool) (off n v : Nat) : Typed :=
  let m := min n (32768 - off % 32768)
  (t.putIn space front off m v).putIn space front (off + m) (n - m) (v / 2 ^ (8 * m))

/-! ## Typed operands (R219) -/

def isTyped (v : Nat) : Bool := v / 2 ^ 56 == 0xFE
def typedOff (v : Nat) : Nat := v % 2 ^ 18
def typedSpace (v : Nat) : Nat := bits v 21 20
/-- The core a typed operand of core c names. -/
def typedCore (c v : Nat) : Nat := if bits v 22 22 = 1 then c else clusterOf c * 4 + bits v 19 18

/-- R220 for n bytes at a typed offset of a space: below 0x4_0000 and 4-byte aligned. -/
def typedFits (off n : Nat) : Bool := off % 4 == 0 && decide (off + n ≤ 0x40000)

def State.typedPut (s : State) (c space : Nat) (front : Bool) (off n v : Nat) : State :=
  s.updCore c (fun x => { x with typed := x.typed.put space front off n v })

end Sys2Proof.Machine
end

