-- ==== Sys2Proof/Machine/JoinCore.lean ====
section
/-! DEFINITION. Barriers as units and homes hold them (R289, R291), and the state machine of a quorum join at its home (R295 to R304): arrivals, leaves, settlement, the result of
R301, parents, tentative words, and the freeing of records. -/

namespace Sys2Proof.Machine

/-! ## Barriers (R289, R291) -/

def Barrier.low (b : Barrier) : Nat :=
  b.nexp + b.arrived * 2 ^ 16 + b.vand.toNat * 2 ^ 32 + b.vor.toNat * 2 ^ 33 + b.mism.toNat * 2 ^ 34
    + b.land.toNat * 2 ^ 35 + b.lor.toNat * 2 ^ 36 + b.lmism.toNat * 2 ^ 37
def Barrier.ofEntry (lo hi : Nat) : Barrier :=
  { nexp := bits lo 15 0, arrived := bits lo 31 16, vand := bits lo 32 32 == 1, vor := bits lo 33 33 == 1
    mism := bits lo 34 34 == 1, land := bits lo 35 35 == 1, lor := bits lo 36 36 == 1, lmism := bits lo 37 37 == 1
    phase := bits hi 31 0 }

/-- Cluster and die barriers are held in hardware, the others in their entries at their homes. -/
def State.barAt (s : State) (key : Nat) : Barrier :=
  if key < 2 ^ 60 then Store.get {} (s.clusterAt (key / 32)).bars (key % 32)
  else if key < 2 ^ 61 then Store.get {} (s.dieAt ((key - 2 ^ 60) / 32)).bars (key % 32)
  else Barrier.ofEntry (s.homeRead (key - 2 ^ 61) 8) (s.homeRead (key - 2 ^ 61 + 8) 8)
def State.setBar (s : State) (key : Nat) (b : Barrier) : State :=
  if key < 2 ^ 60 then s.updCluster (key / 32) (fun x => { x with bars := Store.set {} x.bars (key % 32) b })
  else if key < 2 ^ 61 then s.updDie ((key - 2 ^ 60) / 32) (fun x => { x with bars := Store.set {} x.bars (key % 32) b })
  else s.homeWrite1 none none (key - 2 ^ 61) 16 (b.low + b.phase * 2 ^ 64)

def phaseDone (phase q : Nat) : Bool := let k := (phase + 2 ^ 32 - q) % 2 ^ 32; decide (1 ≤ k ∧ k < 2 ^ 31)
/-- WAITB's result (R291). -/
def Barrier.result (b : Barrier) : Word :=
  BitVec.ofNat 64 (b.land.toNat + b.lor.toNat * 2 + b.lmism.toNat * 4 + b.phase * 2 ^ 32)

/-- What a wait that has ended writes: the result, gd, and the scope to acquire. -/
def State.waitResult (s : State) : WaitOn → Option (Word × Nat × Option Nat)
  | .woken v d acq => some (v, d, acq)
  | .passed key d sc => some ((s.barAt key).result, d, some sc)
  | _ => none

/-! ## Join records -/

/-- The place of a join's record: its memory site (R295). -/
def joinNode (key : Nat) : Node := .site (siteXY (key / 1024))
/-- The route of core c's messages to a join's home, or that of the replies, meets a link out of service: the reply is poison
(R256). -/
def State.joinCut (s : State) (c id : Nat) : Bool :=
  let h := joinNode (joinSlotKey id)
  decide (id % 256 < s.ndie) && (s.routeDown (dieNode (dieOf c)) h || s.routeDown h (dieNode (dieOf c)))

def State.updJoin (s : State) (k : Nat) (f : Join → Join) : State := { s with joins := Store.upd {} s.joins k f }

def countBits (m : BitVec 64) : Nat := ((List.range 64).filter (fun i => m.getLsbD i)).length
def bit64 (i : Nat) : BitVec 64 := BitVec.ofNat 64 (2 ^ i)

/-- The state word of R304. -/
def Join.stateWord (j : Join) (freed fpend : Bool) : Word :=
  BitVec.ofNat 64 (countBits j.arrived + countBits j.left * 2 ^ 8 + countBits j.killed * 2 ^ 16 + fpend.toNat * 2 ^ 23
    + (j.st == .released).toNat * 2 ^ 24 + (j.st == .failed || j.alsoFailed).toNat * 2 ^ 25 + j.dline.toNat * 2 ^ 26
    + j.nv.toNat * 2 ^ 28 + j.ovf.toNat * 2 ^ 29 + j.nx.toNat * 2 ^ 30 + freed.toNat * 2 ^ 31 + j.warr * 2 ^ 32)
/-- Only GONE: the id names no join. -/
def goneWord : Word := BitVec.ofNat 64 (2 ^ 27)

/-- The living wisps whose JOINCTX holds join id with contributor index c. -/
def State.contributors (s : State) (id c : Nat) : List Nat :=
  (s.wisps.filter (fun e => e.2.loc != .ended && ctxId e.2.join == id && ctxIndex e.2.join == c)).map Prod.fst

def State.setJout (s : State) (id c v : Nat) : State :=
  (s.contributors id c).foldl (fun s k => s.updWisp k ({ · with jout := v })) s

/-! ## Tentative words at settlement (R298, R303) -/

def State.discardTents (s : State) (p : Tent → Bool) : State := { s with tents := s.tents.filter (fun t => !p t) }
def Tent.of (t : Tent) (id c : Nat) : Bool := t.join == id && t.cindex == c

/-- A tier that holds the word of a commit takes its value; one on the path of the contributor's own core even where it
holds the word dirty (R123). -/
def Line.commitWord (l : Line) (pa v : Nat) (bad mine : Bool) : Line :=
  let m := wordsTouched pa 4
  if l.valid &&& m = 0 ∨ (l.dirty &&& m ≠ 0 ∧ mine = false) then l
  else { l with data := lineSet l.data (pa % 64) 4 v, dirty := l.dirty &&& ~~~ m
                pois := if bad then l.pois ||| m else l.pois &&& ~~~ m }
/-- Untagged copies of a committed word: its writer goes on reading its own store, whatever tier answers (R123, R298). -/
def State.commitTiers (s : State) (t : Tent) : State :=
  let c? := match (s.wispAt (wkey t.launch t.index)).loc with | .core c => some c | _ => Option.none
  let ln := t.pa / 64
  let put (mine : Bool) (m : Store Line) : Store Line := Store.upd {} m ln (·.commitWord t.pa t.value.toNat t.pois mine)
  { s with
    cores := Store.mapAll {} s.cores (fun c x => { x with l1 := put (c? == some c) x.l1 })
    clusters := Store.mapAll {} s.clusters (fun k x => { x with cache := put (c?.map clusterOf == some k) x.cache })
    dies := Store.mapAll {} s.dies (fun d x => { x with cache := put (c?.map dieOf == some d) x.cache }) }

/-- Committed words are registered as writes at their homes, and may be forwarded; they wake waiters when all of them stand
there (R278, R294). A commit whose route from the join's home meets a link out of service leaves poison (R256). -/
def State.commitTents (s : State) (id c : Nat) (w : Option Awaiter) : State :=
  let l := s.tents.filter (fun t => t.of id c)
  let s := l.foldl (fun s t =>
    let s := (s.commitTiers t).register none w t.pa 4 t.value.toNat
    if t.pois || s.routeDown (joinNode (joinSlotKey id)) (s.homeNode t.pa) then s.homePoison (t.pa / 64) (wordsTouched t.pa 4) else s) s
  (l.foldl (fun s t => s.wakeWaiters (s.fwd t.pa) 4) s).discardTents (fun t => t.of id c)
def State.retagTents (s : State) (id c id' c' : Nat) : State :=
  { s with tents := s.tents.map (fun t => if t.of id c then { t with join := id', cindex := c' } else t) }

/-! ## The result (R301) -/

/-- A word read through a directory at U; none when its read fails a check of R90 or reads poison. -/
def State.readDir (s : State) (rdir part dva n : Nat) : Option Nat :=
  match s.xlatDir rdir part dva .read with
  | .ok t => if s.homePois t.pa n then none else some (s.homeRead t.pa n)
  | _ => none

/-- The substitute vector is to be read, and its directory is in edit: the walk waits until SEQ is even (R89, R301). -/
def State.subBusy (s : State) (j : Join) : Bool :=
  j.fillKind == 2 && j.alen != 0 && (List.range j.n).any (fun c => !j.arrived.getLsbD c)
    && (match s.xlatDir j.rdir.toNat j.part j.subaddr .read with | .edit => true | _ => false)

/-- Sum in ascending index, RNE, subnormals kept. -/
def sumF32 : List Nat → Nat × Flags
  | [] => (0, 0)
  | x :: l => l.foldl (fun a y =>
      let r := f32.add false 0 (f32.decode a.1) (f32.decode y)
      (r.1, a.2 ||| r.2)) (x, 0)

/-- r * WTOTAL / W, one rounding. -/
def rescaleF32 (r wtotal w : Nat) : Nat × Flags :=
  if w = 0 then (f32.nan, fNV)
  else match f32.decode r with
    | .fin n m e => f32.roundQuot false 0 n (m * wtotal) e w 0
    | x => f32.round false 0 x

/-- Element e of the result of join j, whose record names rdir and part for the substitute vector. -/
def State.joinElem (s : State) (j : Join) (e : Nat) : Nat × Flags :=
  let sub := if j.fillKind = 2 && (List.range j.n).any (fun c => !j.arrived.getLsbD c)
    then s.readDir j.rdir.toNat j.part (j.subaddr + 4 * e) 4 else none
  let xs := (List.range j.n).filterMap (fun c =>
    if j.arrived.getLsbD c then some ((Store.get [] j.staged c).getD e 0)
    else if j.fillKind = 2 then some (sub.getD f32.nan) else none)
  let nv := if j.fillKind = 2 && sub.isNone && (List.range j.n).any (fun c => !j.arrived.getLsbD c) then fNV else 0
  let r := sumF32 xs
  if j.fillKind = 1 && xs != [] then
    let q := rescaleF32 r.1 j.wtotal j.warr
    (q.1, r.2 ||| q.2 ||| nv)
  else (r.1, r.2 ||| nv)

def State.joinResult (s : State) (j : Join) : List (Nat × Flags) := (List.range j.alen).map (s.joinElem j)

/-! ## Events at the home (R299, R302) -/

inductive JoinEv where
  | arrive (key c weight : Nat) (elems : List Nat) (child : Option Nat) (w : Option Awaiter)
  | leave (key c : Nat)
  | settle (key : Nat) (rel dline : Bool)
deriving DecidableEq, Repr

def Join.quorum (j : Join) : Bool := decide (j.q ≤ countBits j.arrived ∧ j.qw ≤ j.warr)
def Join.accounted (j : Join) : Bool := (List.range j.n).all (fun c => j.arrived.getLsbD c || j.left.getLsbD c)
/-- Arrivals and leaves count: the join is OPEN, and its settlement is not decided (R299). -/
def Join.isOpen (j : Join) : Bool := j.st == .opened && j.settling.isNone
/-- What the quorum and accounting rules decide after an event. -/
def Join.decided (j : Join) (key : Nat) : List JoinEv :=
  if j.quorum then [.settle key true false]
  else if j.accounted then [.settle key (decide (j.qmin ≤ countBits j.arrived)) false] else []

/-- Ends every wait at JWAIT for the join, with the state word captured now (R306). -/
def State.wakeJoin (s : State) (id : Nat) (v : Word) : State :=
  let s := s.cores.foldl (fun s e => match e.2.waitOn with
    | .join i d => if i = id then s.wakeCore e.1 v d (some 2) else s
    | _ => s) s
  s.wisps.foldl (fun s e => match e.2.waitOn with
    | .join i d => if i = id && e.2.st == 1 then s.wakeParked e.1 v d (some 2) else s
    | _ => s) s

/-- The quorum collective of a join that settles: its result, or its failure (R317). -/
def State.settleInsts (s : State) (id : Nat) (r : Option (List Nat × BitVec 64)) : State :=
  (s.insts.filter (fun e => e.2.alg == .join && bits (e.2.img.toNat / 2 ^ 320) 63 32 == id)).foldl (fun s e =>
    { s with insts := Store.set {} s.insts e.1 { e.2 with outcome := r, fault := e.2.fault || r.isNone } }.post
      (.collectiveCombine e.1)) s

/-- A message from the home of join key to that of another join meets a link out of service (R256). -/
def State.joinsApart (s : State) (key key' : Nat) : Bool := s.routeDown (joinNode key) (joinNode key')

/-- The join settles: the result, the kills, the discard, the wakes; then its parent and its children. What is to reach them over
a link out of service does not arrive: the arrival at a parent is not counted there, and a child stays open (R256; DESIGN CHOICE,
log 29). -/
def State.settleNow (s : State) (key : Nat) (rel dline : Bool) : State × List JoinEv :=
  let j := s.joinAt key
  let id := joinId key j.gen
  let res := if rel then s.joinResult j else []
  let lost := j.parent != 0 && s.joinsApart key (joinSlotKey j.parent)
  let fl := unionFlags res
  let dead := (List.range j.n).filter (fun c => !j.arrived.getLsbD c && !j.left.getLsbD c)
  let j := { j with
    st := if rel then .released else .failed
    settling := none
    alsoFailed := lost && rel
    dline := dline
    nv := j.nv || fl &&& fNV != 0
    ovf := j.ovf || fl &&& fOF != 0
    nx := j.nx || fl &&& fNX != 0
    killed := dead.foldl (fun m c => m ||| bit64 c) j.killed }
  let word := ({ j with alsoFailed := false } : Join).stateWord false false
  let s := { s with joins := Store.set {} s.joins key { j with word := word } }
  let s := (res.zipIdx).foldl (fun s e => s.unitWrite (joinNode key) none (s.placeAt (j.accPa + 4 * e.2) j.accIov) 4 e.1.1) s
  let s := dead.foldl (fun s c =>
    let s := s.setJout id c 3
    (s.contributors id c).foldl (fun s k => s.post (.killSignal (s.wispAt k).launch (s.wispAt k).index)) s) s
  let s := s.discardTents (fun t => t.join == id && j.arrived.getLsbD t.cindex)
  let s := if lost && rel then
      s.discardTents (fun t => t.join == j.parent && t.cindex == j.pindex) else s
  let s := s.wakeJoin id word
  let s := s.settleInsts id (if rel then some (res.map Prod.fst, j.arrived) else none)
  let up := if j.parent = 0 || lost then []
    else if rel then [JoinEv.arrive (joinSlotKey j.parent) j.pindex j.pweight (res.map Prod.fst) (some key) none]
    else [JoinEv.leave (joinSlotKey j.parent) j.pindex]
  let down := (s.joins.filter (fun e => e.2.isOpen && e.2.parent == id && !s.joinsApart key e.1)).map (fun e => JoinEv.settle e.1 false false)
  (s, up ++ down)

/-- One event, and the events it causes. -/
def State.joinStep (s : State) (ev : JoinEv) : State × List JoinEv :=
  match ev with
  | .arrive key c weight elems child w =>
    let j := s.joinAt key
    let id := joinId key j.gen
    if j.isOpen then
      if j.openFor c then
        let j := { j with
          arrived := j.arrived ||| bit64 c
          warr := (j.warr + weight) % 2 ^ 32
          staged := Store.set [] j.staged c elems }
        let s := { s with joins := Store.set {} s.joins key j }
        let s := s.setJout id c 1
        let s := if j.parent = 0 then s.commitTents id c w else s.retagTents id c j.parent j.pindex
        (s, j.decided key)
      else (if child.isSome then s.discardTents (fun t => t.of id c) else s, [])
    else
      let s := s.discardTents (fun t => t.of id c)
      (match child with
        | some k => s.updJoin k ({ · with alsoFailed := true })
        | none => s, [])
  | .leave key c =>
    let j := s.joinAt key
    let id := joinId key j.gen
    if j.isOpen && j.openFor c then
      let j := { j with left := j.left ||| bit64 c }
      let s := { s with joins := Store.set {} s.joins key j }
      let s := (s.setJout id c 2).discardTents (fun t => t.of id c)
      (s, j.decided key)
    else (s.discardTents (fun t => t.of id c), [])
  | .settle key rel dline =>
    let j := s.joinAt key
    if j.st ≠ .opened ∨ (j.settling.isSome ∧ j.settling ≠ some (rel, dline)) then (s, [])
    else if rel && s.subBusy j then
      ({ s with joins := Store.set {} s.joins key { j with settling := some (rel, dline) } }, [])
    else s.settleNow key rel dline

/-- Runs events until none is left; the first argument bounds their number. -/
def State.joinRun : Nat → State → List JoinEv → State
  | 0, s, _ => s
  | _, s, [] => s
  | n + 1, s, e :: l => let (s, l') := s.joinStep e; State.joinRun n s (l' ++ l)
def State.joinEvent (s : State) (e : JoinEv) : State := s.joinRun (4 * s.joins.length + 8) [e]

/-- The status of an arrival or a leave of index c at a join (R305, statuses 2 to 4). -/
def Join.status (j : Join) (c : Nat) : Nat :=
  if j.n ≤ c then 2 else if j.arrived.getLsbD c || j.left.getLsbD c then 3 else if !j.isOpen then 4 else 0

/-! ## Freeing a record (R295, R299) -/

def nextGen (g : Nat) : Nat := if g = 16383 then 1 else g + 1

/-- An index congruent to c of a launch that names the join is still to be placed. -/
def State.unplaced (s : State) (id c : Nat) : Bool :=
  s.launches.any (fun e => e.2.joinWord % 2 ^ 32 == id
    && (List.range ((e.2.count + 65535 - c) / 65536)).any (fun j => decide (e.2.next ≤ c + 65536 * j)))
/-- A signalled kill has not yet taken effect: its contributor lives, or is still to be placed. -/
def State.killsPending (s : State) (key : Nat) : Bool :=
  let j := s.joinAt key
  let id := joinId key j.gen
  (List.range j.n).any (fun c => j.killed.getLsbD c && (s.contributors id c != [] || s.unplaced id c))
def State.freeJoin (s : State) (key : Nat) : State :=
  { s with joins := Store.set {} s.joins key { gen := nextGen (s.joinAt key).gen } }
/-- When the last pending kill has taken effect, a record whose freeing was asked for becomes free. -/
def State.joinFreePending (s : State) (id : Nat) : State :=
  match s.joinNamed id with
  | some j => if j.fpend && !s.killsPending (joinSlotKey id) then s.freeJoin (joinSlotKey id) else s
  | none => s

/-- A contributor that has neither arrived nor left withdraws from its join while it is open (R360). One whose settlement is
decided counts it no more: it is signalled a kill (R299, R361). -/
def State.withdraw (s : State) (join : Word) : State :=
  let id := ctxId join
  let ix := ctxIndex join
  match s.joinNamed id with
  | some j =>
    if !(j.st == .opened && j.openFor ix) then s
    else if j.isOpen then s.joinEvent (.leave (joinSlotKey id) ix)
    else s.setJout id ix 3
  | none => s

end Sys2Proof.Machine
end

