-- ==== Sys2Proof/Machine/Stream.lean ====
section
/-! DEFINITION. The Sluice (R231 to R243) and the collectives (R307 to R318): bindings, what a pop delivers, what a push
hands over, what the engine's steps perform, and the instance at the anchor's home. -/

namespace Sys2Proof.Machine

/-! ## The record (R233) -/

def recField (img : BitVec 512) (byte hi lo : Nat) : Nat := bits (img.toNat / 2 ^ (8 * byte)) hi lo
def Binding.kind (b : Binding) : Nat := recField b.img 0 7 0
def Binding.format (b : Binding) : Nat := recField b.img 0 15 8
def Binding.op (b : Binding) : Nat := recField b.img 0 23 16
def Binding.isJoin (b : Binding) : Bool := recField b.img 0 24 24 == 1
def Binding.scope (b : Binding) : Nat := recField b.img 0 26 25
def Binding.base (b : Binding) : Nat := recField b.img 8 63 0
def sext32 (n : Nat) : Int := (BitVec.ofNat 32 n).toInt
def Binding.stride0 (b : Binding) : Int := sext32 (recField b.img 0x10 31 0)
def Binding.len0 (b : Binding) : Nat := recField b.img 0x10 63 32
def Binding.stride1 (b : Binding) : Int := sext32 (recField b.img 0x18 31 0)
def Binding.len1 (b : Binding) : Nat := recField b.img 0x18 63 32
/-- PEERA [56:6], sign-extended from bit 56. -/
def Binding.peera (b : Binding) : Nat :=
  ((BitVec.ofNat 57 (recField b.img 0x20 56 6 * 64)).signExtend 64).toNat
def Binding.npeer (b : Binding) : Nat := recField b.img 0x20 63 57
def Binding.chunkField (b : Binding) : Nat := recField b.img 0x28 15 0
def Binding.joinid (b : Binding) : Nat := recField b.img 0x28 63 32
def Binding.ewb (b : Binding) : Nat := 2 ^ (b.format % 4)
def Binding.depth (b : Binding) : Nat :=
  min (let d := recField b.img 0x38 31 16; if d = 0 then 64 else d) (8192 / b.ewb)
/-- Elements per chunk; a binding holds at most 8 KiB of pushes (R330). -/
def Binding.chunk (b : Binding) : Nat := min b.chunkField (8192 / b.ewb)
/-- Stall limit in ns (R233). -/
def Binding.wdogNs (b : Binding) : Nat := (let d := recField b.img 0x38 63 48; if d = 0 then 1000 else d) * 1000
def Binding.reads (b : Binding) : Bool := [0, 2, 3, 4, 6, 7].contains b.kind
def Binding.writes (b : Binding) : Bool := [1, 2, 3, 4, 5, 7].contains b.kind
def Binding.collective (b : Binding) : Bool := [2, 3, 4, 7].contains b.kind
/-- Elements of the stream that can be pushed, and results that can be popped (R235, R236, R307). -/
def Binding.pushTotal (b : Binding) : Nat := if b.collective then b.len0 else b.len0 * b.len1
def Binding.popTotal (b : Binding) : Nat :=
  match b.kind with
  | 3 => b.len0 / (max b.npeer 1)
  | 4 => b.len0 * b.npeer
  | 2 | 7 => b.len0
  | _ => b.len0 * b.len1
/-- DVA of element n of a LOAD or STORE (R235). -/
def Binding.elemAddr (b : Binding) (n : Nat) : Nat :=
  ((b.base + (n % b.len0 : Nat) * b.stride0 + (n / b.len0 : Nat) * b.stride1 : Int) % 2 ^ 64).toNat
/-- A legal VTYPE (R155). -/
def vtypeLegal (n : Nat) : Bool := [0, 1, 2, 3, 4, 5, 6, 7, 9, 0xA, 0xB, 0xD, 0x10].contains (n - n / 32 % 2 * 32)

def State.bindAt (s : State) (c i : Nat) : Binding := Store.get {} (s.coreAt c).e.bind i
def State.updBind (s : State) (c i : Nat) (f : Binding → Binding) : State :=
  s.updCore c (·.updE (fun e => { e with bind := Store.upd {} e.bind i f }))
/-- The binding of register v. -/
def Core.bindOf (x : Core) (v : Nat) : Option (Nat × Binding) := x.e.bind.find? (fun e => e.2.used && e.2.vd == v)

/-- CONSUMED at the record's home (R233); a binding that CTXLD could not bring back has no record. -/
def State.writeConsumed (s : State) (c i : Nat) : State :=
  let b := s.bindAt c i
  if b.img = 0 then s else s.unitWrite (dieNode (dieOf c)) none (b.pa + 0x30) 4 (b.count % 2 ^ 32)
/-- BOUND at the record's home, as die d writes it; the reserved bits of its 8 bytes are written as zero (R8). -/
def State.setBound (s : State) (d pa : Nat) (v : Bool) : State :=
  s.unitWrite (dieNode d) none pa 8 (s.homeRead pa 4 % 2 ^ 27 + (if v then 2 ^ 31 else 0))

/-- TVAL of a stream fault (R238). -/
def streamTval (code bix : Nat) : Word := BitVec.ofNat 64 (3 + code * 2 ^ 8 + bix * 2 ^ 16)
/-- A collective counter of R316, by offset / 8. -/
def State.bumpCounter (s : State) (f i : Nat) : State :=
  s.updVdev f (fun v => { v with counters := Store.set 0 v.counters i ((Store.get 0 v.counters i + 1) % 2 ^ 64) })
/-- CFAULT counts the stream faults 0x05 and 0x06 that are raised (R316). -/
def State.countFault (s : State) (c code : Nat) : State :=
  if code = 5 ∨ code = 6 then s.bumpCounter (s.vdevOn c) 6 else s
/-- A write-kind binding faults: it delivers nothing more (R238). -/
def State.streamFault (s : State) (c i code : Nat) (frec : Option (BitVec 512)) : State :=
  let s := s.updBind c i (fun b => { b with dead := true, unsent := [], flt := some (streamTval code i) })
  let s := s.countFault c code
  match frec with
  | some f => s.updCore c ({ · with frec := f })
  | none => s

/-! ## Combining (R313) -/

/-- The IEEE or bf16 format of a VTYPE value, if it is one (R138). -/
def floatOf (vt : Nat) : Option FFmt :=
  match vt / 4 % 8, vt % 4 with
  | 2, 1 => some f16
  | 2, 2 => some f32
  | 2, 3 => some f64
  | 3, 1 => some bf16
  | _, _ => none
def vtWidth (vt : Nat) : Nat := 8 * 2 ^ (vt % 4)
def toSigned (n v : Nat) : Int := if v % 2 ^ n < 2 ^ (n - 1) then (v % 2 ^ n : Nat) else (v % 2 ^ n : Nat) - (2 ^ n : Nat)

/-- op: 1 sum, 2 max, 3 min. -/
def combine (vt op a b : Nat) : Nat :=
  let n := vtWidth vt
  match floatOf vt with
  | some f =>
    if op = 1 then (f.add false 0 (f.decode a) (f.decode b)).1
    else (f.minmax (op == 2) a b (f.decode a) (f.decode b)).1
  | none =>
    let less := if vt / 4 % 8 = 0 then decide (toSigned n a < toSigned n b) else decide (a < b)
    match op with
    | 1 => (a + b) % 2 ^ n
    | 2 => if less then b else a
    | _ => if less then a else b
/-- The identity I of R187 for sum, max and min. -/
def combineId (vt op : Nat) : Nat :=
  let n := vtWidth vt
  match floatOf vt with
  | some f => if op = 1 then f.zero true else f.inf (op == 2)
  | none =>
    if op = 1 then 0
    else if vt / 4 % 8 = 0 then (if op = 2 then 2 ^ (n - 1) else 2 ^ (n - 1) - 1)
    else if op = 2 then 0 else 2 ^ n - 1
/-- One level of the pairwise tree. -/
def pairUp (f : Nat → Nat → Nat) : List Nat → List Nat
  | a :: b :: l => f a b :: pairUp f l
  | l => l
def treeFold (f : Nat → Nat → Nat) : Nat → List Nat → List Nat
  | 0, l => l
  | n + 1, l => treeFold f n (pairUp f l)
/-- The root of the tree over the least power of two of leaves, padded with the identity. -/
def combineTree (vt op : Nat) (xs : List Nat) : Nat :=
  let k := if xs.length ≤ 1 then 0 else Nat.log2 (xs.length - 1) + 1
  let leaves := xs ++ List.replicate (2 ^ k - xs.length) (combineId vt op)
  (treeFold (combine vt op) k leaves).headD 0

/-! ## The instance (R310) -/

def Inst.kind (i : Inst) : Nat := recField i.img 0 7 0
def Inst.format (i : Inst) : Nat := recField i.img 0 15 8
def Inst.op (i : Inst) : Nat := recField i.img 0 23 16
def Inst.ewb (i : Inst) : Nat := 2 ^ (i.format % 4)
def Inst.len0 (i : Inst) : Nat := recField i.img 0x10 63 32
/-- Ranks whose pushes and done bits the instance holds: for PERMUTE, only its own record's. -/
def Inst.ranks (i : Inst) : Nat := if i.kind = 7 then 1 else i.peers.length
def Inst.pushedBy (i : Inst) (q : Nat) : List Nat := Store.get [] i.pushes q
def Inst.closed (i : Inst) : Bool := (List.range i.ranks).all (fun r => Store.get false i.done r)
/-- Input positions that every rank has pushed. -/
def Inst.ready (i : Inst) : Nat :=
  (List.range i.ranks).foldl (fun m q => min m (i.pushedBy q).length) i.len0

/-- The instance at an anchor, open or still moving its data. -/
def State.instRaw (s : State) (a : Nat) : Option Inst := (s.insts.find? (fun e => e.1 == a)).map Prod.snd
/-- The open instance at an anchor. -/
def State.instAt (s : State) (a : Nat) : Option Inst :=
  match s.instRaw a with
  | some i => if i.closed then none else some i
  | none => none
def State.setInst (s : State) (a : Nat) (i : Inst) : State := { s with insts := Store.set {} s.insts a i }
def State.updInst (s : State) (a : Nat) (f : Inst → Inst) : State :=
  match s.instRaw a with
  | some i => s.setInst a (f i)
  | none => s
/-- The open instance that a binding takes part in. -/
def State.instOf (s : State) (c i : Nat) : Option Inst :=
  let b := s.bindAt c i
  if b.noPush then none else s.instAt b.anchor

/-- A closed instance goes once its data has moved, its request for slots is answered and its slots are returned (R310, R315). -/
def State.reap (s : State) (a : Nat) : State :=
  match s.instRaw a with
  | some i =>
    if i.closed && !(i.kind == 7 && decide (i.combined < (i.pushedBy 0).length)) && i.alg != .slot
      && !s.sched.contains (.slotRequest a)
    then { s with insts := s.insts.filter (fun e => e.1 != a) } else s
  | none => s

/-- A closed instance whose data still moves, or whose slots are still to be returned, makes room at its anchor for the next one
(R310): it goes on under a key of its own. -/
def State.setAside (s : State) (a : Nat) : State :=
  match s.instRaw a with
  | some i =>
    if !i.closed then s
    else
      let b := (((List.range (s.insts.length + 1)).map (fun n => a + (n + 1) * 2 ^ 60)).find?
        (fun b => (s.instRaw b).isNone)).getD a
      let s : State := { s with
        insts := Store.set {} (s.insts.filter (fun e => e.1 != a)) b i
        sched := s.sched.map (fun e => if e = .slotRequest a then .slotRequest b else e) }
      if i.alg = .slot then s.post (.slotReturn b) else s.post (.collectiveCombine b)
  | none => s

/-- Results of rank q's area that a source rank has filled. -/
def Inst.wrote (i : Inst) (q r : Nat) : Nat := Store.get 0 i.written (q * 128 + r)
/-- Result m of rank q stands in its area (R307, R309). -/
def Inst.has (i : Inst) (q m : Nat) : Bool :=
  if i.kind = 4 then decide (m % i.len0 < i.wrote q (m / i.len0)) else decide (m < i.wrote q 0)

/-- The elements of input position pos, in rank order. -/
def Inst.leaves (i : Inst) (pos : Nat) : List Nat := (List.range i.ranks).map (fun r => (i.pushedBy r).getD pos 0)
/-- What source r can write into rank q's area now, as (result, value), from the first result not yet written. -/
def Inst.items (i : Inst) (q r : Nat) : List (Nat × Nat) :=
  let w := i.wrote q r
  match i.kind with
  | 2 =>
    (match i.alg, i.outcome with
    | .join, some (l, arrived) => if arrived.getLsbD q then (l.zipIdx.map (fun e => (e.2, e.1))).drop w else []
    | .join, none => []
    | _, _ => ((List.range i.ready).drop w).map (fun m => (m, combineTree i.format i.op (i.leaves m))))
  | 3 =>
    let part := i.len0 / max i.ranks 1
    (((List.range part).filter (fun m => decide (q * part + m < i.ready))).drop w).map (fun m =>
      (m, combineTree i.format i.op (i.leaves (q * part + m))))
  | _ => ((i.pushedBy r).zipIdx.drop w).map (fun e => (r * i.len0 + e.2, e.1))

/-- A result area that cannot be written is a fault 0x02 of the participant's binding (log 24), with the record of R91 (R238). -/
def State.areaFault (s : State) (a q dva : Nat) (f : XFault) : State :=
  s.cores.foldl (fun s e => e.2.e.bind.foldl (fun s b =>
    if b.2.used && b.2.collective && b.2.anchor == a && b.2.rank == q && !b.2.noPush
    then s.streamFault e.1 b.1 2 (f.record dva .write e.2.s.asn.toNat) else s) s) s

/-- Writes results into rank q's area, each at its home, and clean copies in the tiers of the rank's die follow, so that an
acquire at any SCOPE shows them (R309); how many were written before the directory was in edit. -/
def State.putResults (s : State) (a : Nat) (i : Inst) (q : Nat) : List (Nat × Nat) → Nat → Nat × State
  | [], k => (k, s)
  | (m, v) :: l, k =>
    let dva := (Store.get 0 i.bases q - 1 + m * i.ewb) % 2 ^ 64
    match s.xlatDir (Store.get 0 i.rdirs q) i.part dva .write with
    | .edit => (k, s)
    | .ok t =>
      let s := match Store.get 0 i.dies q with
        | 0 => s.unitWrite (s.homeNode (a % 2 ^ 60)) none t.pa i.ewb v
        | d + 1 => s.deviceWrite (s.homeNode (a % 2 ^ 60)) d t.pa i.ewb v
      State.putResults s a i q l (k + 1)
    | .bad f => State.putResults (s.areaFault a q dva f) a i q l (k + 1)
/-- Source r's results go to rank q, if it has bound. -/
def State.giveRank (s : State) (a q r : Nat) : State :=
  match s.instRaw a with
  | none => s
  | some i =>
    if Store.get 0 i.bases q = 0 then s
    else
      let (k, s) := s.putResults a i q (i.items q r) 0
      s.updInst a (fun i => { i with written := Store.set 0 i.written (q * 128 + r) (i.wrote q r + k) })

/-- The collective has moved: an ENGWAIT that waits for it is timed afresh (R135). -/
def State.unstall (s : State) (a : Nat) : State :=
  { s with cores := Store.mapAll {} s.cores (fun _ x => x.updE (fun e => { e with
    bind := Store.mapAll {} e.bind (fun _ b =>
      if b.used && b.collective && b.anchor == a && b.eng then { b with stall := none } else b) })) }

/-- PERMUTE: elements move to the destination's area, once the destination's instance is open (R307). -/
def State.permute (s : State) (a : Nat) : State :=
  match s.instRaw a with
  | none => s
  | some i =>
    match i.dest with
    | none => s
    | some d =>
      match s.instAt d with
      | none => s
      | some j =>
        let (k, s) := s.putResults d j 0 (((i.pushedBy 0).zipIdx.drop i.combined).map (fun e => (e.2, e.1))) 0
        let s := (s.updInst d (fun j => { j with written := Store.set 0 j.written 0 (j.wrote 0 0 + k) })).updInst a
          (fun i => { i with combined := i.combined + k })
        if k = 0 then s else s.unstall a

/-- The instance combines what every rank has pushed, and writes and releases the results (R309, R313, R317). -/
def State.combineNow (s : State) (a : Nat) : State :=
  match s.instRaw a with
  | none => s
  | some i =>
    let s :=
      if i.kind = 7 then s.permute a
      else
        let rs := if i.kind = 4 then List.range i.ranks else [0]
        let s := (List.range i.ranks).foldl (fun s q => rs.foldl (fun s r => s.giveRank a q r) s) s
        match s.instRaw a with
        | none => s
        | some j =>
          let n := if j.alg = .join then (if j.outcome.isSome then j.len0 else j.combined) else j.ready
          if (List.range j.ranks).all (fun q => rs.all (fun r => j.items q r == [])) then
            (if j.combined < n then s.unstall a else s).setInst a { j with combined := n }
          else s.postOnce (.collectiveCombine a)
    s.reap a

/-! ## Prefetch and pops (R235, R236, R309) -/

/-- The next element of a LOAD stream, as a relaxed load of the wisp. -/
def State.fetchElem (s : State) (c i n : Nat) : Option Elem × State :=
  let b := s.bindAt c i
  match s.load c (b.elemAddr n) b.ewb false false with
  | .ok v s => (some (.val v), s)
  | .wait s => (none, s)
  | .trap t s =>
    (some (.bad (if t.cause = 0x0E then 3 else 1) t.tval (t.frec.getD 0)),
      match s.homeAddr c (b.elemAddr n) with | some a => s.unmute c a | none => s)

/-- Prefetches until k elements stand ready, the stream ends, or an element is bad. -/
def State.prefetchTo : Nat → State → Nat → Nat → Nat → State
  | 0, s, _, _, _ => s
  | n + 1, s, c, i, k =>
    let b := s.bindAt c i
    let at_ := b.count + b.pre.length
    if k ≤ b.pre.length ∨ b.popTotal ≤ at_ then s
    else match b.pre.getLast? with
      | some (.bad _ _ _) => s
      | _ =>
        match s.fetchElem c i at_ with
        | (some e, s) => State.prefetchTo n (s.updBind c i (fun b => { b with pre := b.pre ++ [e] })) c i k
        | (none, s) => s

/-- The pieces of elements of w bytes at some DVAs are admitted, from their homes or to them (R254). -/
def State.admitSpan (s : State) (c w : Nat) (kd : AKind) (dvas : List Nat) (ev : Event) : Bool × State :=
  s.admission (dieOf c) c (piecesOf (dvas.length * w)) (s.spanLinks (dieOf c) (kd == .write) (s.homesOf c kd dvas)) ev
/-- The chunk of k elements of a LOAD or STORE from element n on is admitted. -/
def State.admitElems (s : State) (c i n k : Nat) (kd : AKind) (ev : Event) : Bool × State :=
  let b := s.bindAt c i
  if isTyped b.base then (true, s)
  else s.admitSpan c b.ewb kd ((List.range (min k b.chunk)).map (fun j => b.elemAddr (n + j))) ev
/-- Prefetches until k elements stand ready, chunk by chunk as they are admitted. -/
def State.prefetch (s : State) (c i k : Nat) : State :=
  let b := s.bindAt c i
  if k ≤ b.pre.length ∨ b.popTotal ≤ b.count + b.pre.length then s
  else match s.admitElems c i (b.count + b.pre.length) (k - b.pre.length) .read (.streamPrefetch c i) with
    | (true, s) => s.prefetchTo (k + 1) c i k
    | (false, s) => s

inductive PopEnd where
  | all
  | wait
  | fault (t : Trap)
deriving DecidableEq, Repr

/-- The record of R91 for a read that failed a check, or that found poison (R236; log 24). -/
def State.readRecord (s : State) (c : Nat) (t : Trap) : BitVec 512 :=
  t.frec.getD (faultRecord t.tval.toNat .read false (s.coreAt c).s.asn.toNat ⟨t.cause, 0, none, none⟩)

/-- An element popped at its home, as the wisp reads it there: its own tentative words lie over it (R298). A forward of the
line that is not answered yet is waited for (R309). -/
def State.popHome (s : State) (c i dva n : Nat) (l : List Nat) : List Nat × Option PopEnd × State :=
  let bad (code : Nat) (frec : Option (BitVec 512)) : PopEnd :=
    .fault { cause := 9, tval := streamTval code i, frec := frec }
  match s.xlat c dva .read false false with
  | .ok t s =>
    if s.pending.any (fun e => e.1 / 16384 == t.pa / 64 && e.2.fwd != 0) then (l, some .wait, s)
    else match s.engineRead c t n 3 with
      | (_, true, s) => (l, some (bad 3 none), s.unmute c t.pa)
      | (v, false, s) => (l ++ [v], none, s)
  | .trap t s => (l, some (bad (if t.cause = 0x0E then 3 else 1) t.frec), s)
  | .wait s => (l, some .wait, s)

/-- Elements at some DVAs, until one cannot be had. -/
def State.popHomes (s : State) (c i w : Nat) : List Nat → List Nat → List Nat × Option PopEnd × State
  | [], l => (l, none, s)
  | a :: as, l => match s.popHome c i a w l with
    | (l, some e, s) => (l, some e, s)
    | (l, none, s) => State.popHomes s c i w as l

/-- What the stream of binding i can deliver now for n positions: the elements, and why there are no more. -/
def State.popPeek (s : State) (c i n : Nat) : List Nat × PopEnd × State :=
  let b := s.bindAt c i
  let bad (code : Nat) (frec : Option (BitVec 512)) : PopEnd :=
    .fault { cause := 9, tval := streamTval code i, frec := frec }
  match b.kind with
  | 0 =>
    let s := s.prefetch c i n
    let b := s.bindAt c i
    let good := (b.pre.takeWhile (fun e => match e with | .val _ => true | _ => false)).take n
    let vals := good.map (fun e => match e with | .val v => v | _ => 0)
    if vals.length = n then (vals, .all, s)
    else match b.pre.drop good.length with
      | .bad code _ frec :: _ => (vals, bad code (if code = 1 then some frec else none), s)
      | _ =>
        if b.popTotal ≤ b.count + vals.length then (vals ++ List.replicate (n - vals.length) 0, .all, s) else (vals, .wait, s)
  | 6 =>
    let produced := s.homeRead (b.pa + 0x34) 4
    let ready := (produced + 2 ^ 32 - b.count % 2 ^ 32) % 2 ^ 32
    let k := min n ready
    let slots := (List.range k).map (fun j => (b.base + (b.count + j) % b.len0 * b.ewb) % 2 ^ 64)
    match s.admitSpan c b.ewb .read slots (.streamPrefetch c i) with
    | (false, s) => ([], .wait, s)
    | (true, s) =>
      match s.popHomes c i b.ewb slots [] with
      | (l, some e, s) => (l, e, s)
      | (l, none, s) => (l, if k = n then .all else .wait, s)
  | _ =>
    let left := min n (b.popTotal - b.count)
    let (failed, k) := match s.instOf c i with
      | none => (false, left)
      | some inst =>
        if inst.fault || Store.get false inst.lost b.rank then (decide (0 < left), 0)
        else (false, ((List.range left).takeWhile (fun j => inst.has b.rank (b.count + j))).length)
    let area := (List.range k).map (fun j => (b.base + (b.count + j) * b.ewb) % 2 ^ 64)
    if failed then ([], bad 6 none, s)
    else match s.admitSpan c b.ewb .read area (.streamPrefetch c i) with
      | (false, s) => ([], .wait, s)
      | (true, s) =>
        match s.popHomes c i b.ewb area [] with
        | (l, some e, s) => (l, e, s)
        | (l, none, s) => if k < left then (l, .wait, s) else (l ++ List.replicate (n - left) 0, .all, s)

/-- k elements are popped for good (R232): the count advances, END shows a pop past the last, CONSUMED is written. -/
def State.popCommit (s : State) (c i k : Nat) : State :=
  if k = 0 then s
  else
    let b := s.bindAt c i
    let room := if b.kind = 6 then k else b.popTotal - b.count
    let s := s.updBind c i (fun b => { b with
      count := b.count + min k room, pre := b.pre.drop k, ended := b.ended || decide (room < k), stall := none })
    let s := if b.kind = 0 then s.postOnce (.streamPrefetch c i) else s.acquire c 255 b.scope
    s.writeConsumed c i

/-- A bad element that was reported is fetched again when it is next popped. -/
def State.dropBad (s : State) (c i : Nat) : State :=
  s.updBind c i (fun b => { b with pre := b.pre.takeWhile (fun e => match e with | .val _ => true | _ => false) })

/-! ## Pushes (R235, R236, R311) -/

/-- Up to k pushed elements of a STORE are performed in element order (R235). -/
def State.performStores : Nat → State → Nat → Nat → State
  | 0, s, _, _ => s
  | k + 1, s, c, i =>
    let b := s.bindAt c i
    match b.unsent with
    | [] => s
    | v :: rest =>
      let n := b.count - b.unsent.length
      let a := b.elemAddr n
      let done (s : State) := s.updBind c i ({ · with unsent := rest, stall := none })
      if isTyped b.base then State.performStores k (done (s.typedPut c 1 false (typedOff a) b.ewb v)) c i
      else match s.xlat c a .write false false with
        | .ok t s => State.performStores k (done (s.engineWrite c t b.ewb v b.scope)) c i
        | .wait s => s
        | .trap t s => s.streamFault c i 2 t.frec
/-- The pushed elements of a STORE go chunk by chunk, each when it is admitted (R254). -/
def State.storeChunk (s : State) (c i : Nat) : State :=
  let b := s.bindAt c i
  let k := min b.unsent.length b.chunk
  if k = 0 then s
  else match s.admitElems c i (b.count - b.unsent.length) k .write (.streamStorePerform c i) with
    | (false, s) => s
    | (true, s) =>
      let s := s.performStores k c i
      if (s.bindAt c i).unsent = [] then s else s.postOnce (.streamStorePerform c i)

/-- The record that entry e of the binding's peer list names, its home, and what entry f of that record's list holds; the
two pair when that is the binding's own record (R236, R307). A read of it that meets a link out of service finds poison
(R256). -/
def State.pairWith (s : State) (c i kind npeer e f : Nat) : Acc (Option (Nat × Binding)) :=
  let b := s.bindAt c i
  (s.load c ((b.peera + 8 * e) % 2 ^ 64) 8 false false).bind fun d s =>
    (s.xlat c d .read false false).bind fun t s =>
      let s := s.sendRemote .read t.pa 64 0
      if s.homePois t.pa 64 || s.cutOff c t.pa then .trap { cause := 0x0E, tval := BitVec.ofNat 64 d } s
      else
        let r : Binding := { img := BitVec.ofNat 512 (s.homeRead t.pa 64) }
        if r.kind != kind || r.npeer != npeer then .ok none s
        else (s.load c ((r.peera + 8 * f) % 2 ^ 64) 8 false false).bind fun back s =>
          if back = b.addr.toNat then .ok (some (t.pa, r)) s else .ok none s

inductive SendRes where
  | sent | full | wait
deriving DecidableEq, Repr

/-- The reply to a message of core c's engines to a home is poison, which the core takes as a machine check (R256, R263). -/
def State.loseReply (s : State) (c pa : Nat) : State :=
  if s.cutOff c pa then s.updCore c ({ · with lost := some pa }) else s

/-- The stream flit that advances PRODUCED of the ring record at rp goes out, with the tag of the sender's device (R236, R353). -/
def State.sendProduced (s : State) (c rp n : Nat) : State :=
  ({ s with ringDev := Store.set 0 s.ringDev rp (s.vdevOn c + 1) } : State).post (.ringProducedUpdate rp (n % 2 ^ 32))

/-- A chunk of k elements goes out if its last element lies below CONSUMED + LEN0 and the piece is admitted: it is written into
the ring and released, and PRODUCED advances after that (R236, R254): see execRingProducedUpdate. -/
def State.sendNow (s : State) (c i k : Nat) : SendRes × State :=
  let b := s.bindAt c i
  if b.dead then (.sent, s)
  else match s.pairWith c i 6 1 0 0 with
    | .wait s => (.wait, s)
    | .trap t s => (.sent, s.streamFault c i 4 (some (s.readRecord c t)))
    | .ok none s => (.sent, s.streamFault c i 4 none)
    | .ok (some (rp, r)) s =>
      let first := b.count - b.unsent.length
      let s := s.sendRemote .read (rp + 0x30) 4 0
      let consumed := s.homeRead (rp + 0x30) 4
      let ahead := (first + k + 2 ^ 32 - consumed % 2 ^ 32) % 2 ^ 32
      let slot (j : Nat) : Nat := (r.base + (first + j) % r.len0 * b.ewb) % 2 ^ 64
      if r.len0 < ahead then (.full, s)
      else match s.admitSpan c b.ewb .write ((List.range k).map slot) (.sendChunk c i) with
        | (false, s) => (.wait, s)
        | (true, s) =>
        let w := ((b.unsent.take k).zipIdx).foldl (fun (acc : Option Trap × Bool × State) e =>
          match acc with
          | (some t, x, s) => (some t, x, s)
          | (none, true, s) => (none, true, s)
          | (none, false, s) =>
            match s.xlat c (slot e.2) .write false false with
            | .ok t s => (none, false, s.engineHome c (some (.ring rp)) t.pa b.ewb e.1)
            | .trap t s => (some t, false, s)
            | .wait s => (none, true, s)) (none, false, s)
        match w with
        | (some t, _, s) => (.sent, s.streamFault c i 2 t.frec)
        | (none, true, s) => (.wait, s)
        | (none, false, s) =>
          let s := s.updBind c i ({ · with unsent := b.unsent.drop k, stall := none })
          (.sent, (if s.reqDown (dieOf c) rp then s else s.sendProduced c rp (first + k)).loseReply c rp)

/-! ## Arrivals of a quorum collective (R317) -/

/-- The E-th element of a participant has been accepted: the home records its arrival, once, as JARRIVE does. -/
def State.quorumArrive (s : State) (c i : Nat) : State :=
  let b := s.bindAt c i
  if !b.used || !b.isJoin then s
  else match s.instOf c i with
    | none => s
    | some inst =>
      if Store.get false inst.came b.rank || decide ((inst.pushedBy b.rank).length < b.len0) then s
      else
      let s := s.updInst b.anchor (fun i => { i with came := Store.set false i.came b.rank true })
      let lose (s : State) := s.updInst b.anchor (fun i => { i with lost := Store.set false i.lost b.rank true })
      if inst.fault then s
      else match s.joinNamed b.joinid with
        | none => lose s
        | some j =>
          let st := j.status b.rank
          if st = 4 then lose (s.joinEvent (.arrive (joinSlotKey b.joinid) b.rank 0 [] none none))
          else if st ≠ 0 then lose s
          else s.joinEvent (.arrive (joinSlotKey b.joinid) b.rank (ctxWeight (s.coreAt c).u.joinctx)
            (inst.pushedBy b.rank) none none)
/-- The first k unsent elements of a collective leave for the anchor, where they are accepted (R311, R312); the last of them makes
the arrival of a quorum collective in the same step (R317). Over a link out of service they do not arrive (R256). -/
def State.acceptNow (s : State) (c i k : Nat) : State :=
  let b := s.bindAt c i
  let out := b.unsent.take k
  let s := s.updBind c i ({ · with unsent := b.unsent.drop k, stall := none })
  let s := if out = [] then s else
    (s.sendRemote .write b.anchor (out.length * b.ewb) (out.foldr (fun x v => x + 2 ^ (8 * b.ewb) * v) 0)).loseReply c b.anchor
  if s.reqDown (dieOf c) b.anchor then s
  else match s.instOf c i with
  | none => s
  | some inst =>
    let s := (s.setInst b.anchor { inst with pushes := Store.set [] inst.pushes b.rank (inst.pushedBy b.rank ++ out) }).postOnce
      (.collectiveCombine b.anchor)
    s.quorumArrive c i
/-- A PERMUTE has paired with its destination, which it does at its first push (R307): paired; false: the pairing waits. A
pairing that fails is a fault of the binding. -/
def State.paired (s : State) (c i : Nat) : Bool × State :=
  match s.instOf c i with
  | none => (true, s)
  | some inst =>
    if inst.kind != 7 || inst.dest.isSome then (true, s)
    else match s.pairWith c i 7 2 0 1 with
      | .wait s => (false, s)
      | .trap t s => (true, s.streamFault c i 4 (some (s.readRecord c t)))
      | .ok none s => (true, s.streamFault c i 4 none)
      | .ok (some (d, _)) s => (true, s.updInst (s.bindAt c i).anchor ({ · with dest := some d }))
/-- The first k unsent elements go, once the binding is paired and their pieces are admitted (R254); false: they wait. -/
def State.acceptAtAnchor (s : State) (c i k : Nat) : Bool × State :=
  match s.paired c i with
  | (false, s) => (false, s)
  | (true, s) =>
    let b := s.bindAt c i
    match s.admission (dieOf c) c (piecesOf (min k b.unsent.length * b.ewb)) (s.spanLinks (dieOf c) true [s.homeNode b.anchor])
        (.sendChunk c i) with
    | (false, s) => (false, s)
    | (true, s) => (true, s.acceptNow c i k)

/-- One element is pushed; false: the push waits, and nothing is pushed (R236, R311). -/
def State.pushOne (s : State) (c i v : Nat) : Bool × State :=
  let b := s.bindAt c i
  if b.dead then (true, s.updBind c i (fun b => { b with count := b.count + (if b.collective then 0 else 1) }))
  else match b.kind with
    | 1 =>
      if b.pushTotal ≤ b.count then (true, s.updBind c i ({ · with ended := true }))
      else if 8192 ≤ b.unsent.length * b.ewb then (false, s)
      else (true, (s.updBind c i (fun b => { b with count := b.count + 1, unsent := b.unsent ++ [v] })).postOnce
        (.streamStorePerform c i))
    | 5 =>
      if b.pushTotal ≤ b.count then (true, s.updBind c i ({ · with ended := true }))
      else
        let s' := s.updBind c i (fun b => { b with count := b.count + 1, unsent := b.unsent ++ [v] })
        if b.unsent.length + 1 < b.chunk then (true, s')
        else match s'.sendNow c i (b.unsent.length + 1) with
          | (.sent, s') => (true, s')
          | (_, s') => (false, s'.updBind c i (fun _ => b))
    | _ =>
      if b.noPush || decide (b.pushTotal ≤ b.pushed) then (true, s.updBind c i ({ · with ended := true }))
      else
        let f := match s.instOf c i with | some inst => inst.combined | none => b.len0
        if f + b.depth ≤ b.pushed then (false, s)
        else
          let s := s.updBind c i (fun b => { b with pushed := b.pushed + 1, unsent := b.unsent ++ [v] })
          if b.chunk ≤ b.unsent.length + 1 then
            match s.acceptAtAnchor c i b.chunk with
            | (true, s) => (true, s)
            | (false, s) => (true, s.postOnce (.sendChunk c i))
          else if b.pushed = 0 ∧ b.kind = 7 then (true, (s.paired c i).2)
          else (true, s)

/-- Pushes the values in order; how many were taken. -/
def State.pushMany (s : State) (c i : Nat) : List Nat → Nat → Nat × State
  | [], k => (k, s)
  | v :: l, k => match s.pushOne c i v with
    | (true, s) => State.pushMany s c i l (k + 1)
    | (false, s) => (k, s)

/-! ## Synchronising and releasing a binding (R239, R242, R312) -/

/-- Every pushed element is performed, sent or accepted, and released at SCOPE, with CONSUMED written; .wait otherwise. -/
def State.syncBind (s : State) (c i : Nat) : Acc Unit :=
  let b := s.bindAt c i
  if b.dead || b.noPush then .ok () (s.writeConsumed c i)
  else match b.kind with
    | 1 =>
      if b.unsent != [] then .wait (s.postOnce (.streamStorePerform c i))
      else if s.awaitsAnswer c then .wait s else .ok () (s.writeConsumed c i)
    | 5 =>
      let s := if b.unsent = [] then s else (s.sendNow c i (min b.unsent.length b.chunk)).2
      if (s.bindAt c i).unsent != [] || s.awaitsAnswer c then .wait s else .ok () (s.writeConsumed c i)
    | 0 | 6 => .ok () (s.writeConsumed c i)
    | _ =>
      if b.unsent = [] then .ok () (s.writeConsumed c i)
      else match s.acceptAtAnchor c i b.unsent.length with
        | (true, s) => .ok () (s.writeConsumed c i)
        | (false, s) => .wait s

/-- Sets a rank's done bit; the instance ends when every rank's bit is set, and its slots return (R310, R315). -/
def State.instDone (s : State) (a q : Nat) : State :=
  match s.instAt a with
  | none => s
  | some i =>
    let i := { i with done := Store.set false i.done q true }
    let s := s.setInst a i
    (s.reap a).setAside a

/-- The binding goes: BOUND is cleared; a collective's done bit is set when it leaves with every result popped, or by a
kill or retirement (R239, R310). -/
def State.freeBind (s : State) (c i : Nat) (dropped : Bool) : State :=
  let b := s.bindAt c i
  let s := if b.collective && !b.noPush && (dropped || b.count == b.popTotal) then s.instDone b.anchor b.rank else s
  let s := if b.img = 0 then s else s.setBound (dieOf c) b.pa false
  let mine (p : Piece) : Bool := !p.sent && [Event.streamPrefetch c i, .streamStorePerform c i, .sendChunk c i].contains p.wake
  let s := s.updDie (dieOf c) (fun d => { d with
    waiting := d.waiting.filter (fun p => !mine p), flying := d.flying.filter (fun p => !mine p) })
  s.updCore c (·.updE (fun e => { e with bind := Store.set {} e.bind i {} }))

/-- Synchronises bindings, each as far as it goes: those that wait, or a trap. -/
def State.syncAll (s : State) (c : Nat) : List Nat → List Nat × Option Trap × State
  | [] => ([], none, s)
  | i :: l =>
    match s.syncBind c i with
    | .trap t s => ([], some t, s)
    | .ok _ s => State.syncAll s c l
    | .wait s => let (w, t, s) := State.syncAll s c l; (i :: w, t, s)
def State.liveBinds (s : State) (c : Nat) : List Nat :=
  ((s.coreAt c).e.bind.filter (fun e => e.2.used)).map Prod.fst
def State.dropBinds (s : State) (c : Nat) : State := (s.liveBinds c).foldl (fun s i => s.freeBind c i true) s

/-- A binding has pushed elements that are not performed or sent, or a collective in progress (R238). -/
def State.bindBusy (s : State) (c i : Nat) : Bool :=
  let b := s.bindAt c i
  b.used && (b.unsent != [] || (b.collective && !b.noPush && !b.dead && (match s.instOf c i with
    | some inst => decide (inst.combined < inst.len0)
    | none => false)))
/-- SBUSY (R238). -/
def State.sbusy (s : State) (c : Nat) : Bool := (s.liveBinds c).any (fun i => s.bindBusy c i)

/-! ## Waiting (R237) -/

/-- A pop, push or sync of binding i waits: the stall is timed from its beginning; past WDOG it traps 0x0A. -/
def State.stallTrap (s : State) (c i : Nat) : Option Trap :=
  let b := s.bindAt c i
  match b.stall with
  | some t0 => if t0 + b.wdogNs ≤ s.time then
      some { cause := 0x0A, tval := BitVec.ofNat 64 (b.addr.toNat / 64 * 64 + i) } else none
  | none => none
def State.stallMark (s : State) (c i : Nat) (eng : Bool := false) : State :=
  s.updBind c i (fun b => { b with stall := some (b.stall.getD s.time), eng := eng })
def State.stallClear (s : State) (c i : Nat) : State := s.updBind c i ({ · with stall := none })
/-- No binding of the core waits any longer. -/
def Core.clearStalls (x : Core) : Core :=
  x.updE (fun e => { e with bind := Store.mapAll {} e.bind (fun _ b => { b with stall := none }) })

end Sys2Proof.Machine
end

