-- ==== Sys2Proof/Machine/Queues.lean ====
section
/-! DEFINITION. The engines' command queues as the engines see them: the dependence graph (R244 to R246), and which
command of a queue can take its step (R202, R207, R218). -/

namespace Sys2Proof.Machine

/-! ## The graph (R244) -/

def Core.node (x : Core) (n : Nat) : GNode := Store.get {} x.e.graph n
def Eng.updNode (e : Eng) (n : Nat) (f : GNode → GNode) : Eng := { e with graph := Store.upd {} e.graph n f }
/-- A command of node n has not completed. -/
def Eng.nodeBusy (e : Eng) (n : Nat) : Bool := n != 0 && (e.mq.any (fun m => m.tag == n) || e.cq.any (fun k => k.tag == n))
/-- The command tagged n waits for its node: its count has not reached 0. -/
def Eng.heldTag (e : Eng) (n : Nat) : Bool := n != 0 && (Store.get ({} : GNode) e.graph n).count != 0
/-- A tag is legal at hand-over (R245). -/
def Eng.tagOk (e : Eng) (n : Nat) : Bool := n == 0 || ((Store.get ({} : GNode) e.graph n).defd && !e.nodeBusy n)
def Eng.handTag (e : Eng) (n : Nat) : Eng := if n = 0 then e else e.updNode n (fun g => { g with held := g.count != 0 })
/-- The count of node n falls by one; at 0 its command is held no longer. -/
def Eng.countDown (e : Eng) (n : Nat) : Eng :=
  e.updNode n (fun g => { g with count := g.count - 1, held := g.held && decide (1 < g.count) })
/-- The command of node n has completed. -/
def Eng.completeTag (e : Eng) (n : Nat) : Eng :=
  if n = 0 then e
  else
    let mask := (Store.get ({} : GNode) e.graph n).mask
    (List.range 32).foldl (fun e m => if mask.getLsbD m then e.countDown m else e)
      (e.updNode n (fun g => { g with done := true, held := false }))
/-- The queues as they are after commands have been discarded: one that became empty shows DONE, and FLT when a fault of its
engine is pending (R203, R223). -/
def Eng.discard (e : Eng) (mq : List MCmd) (cq : List CCmd) : Eng :=
  let m := e.mq != [] && mq == []
  let k := e.cq != [] && cq == []
  { e with
    mdone := e.mdone || m, mflt := if m then e.mfault.isSome else e.mflt
    cdone := e.cdone || k, cflt := if k then e.cfault.isSome else e.cflt
    mq := mq, cq := cq }
/-- The nodes of discarded commands hold no command any longer; they never complete (R204, R224, R230). -/
def Eng.dropHeld (e : Eng) (tags : List Nat) : Eng :=
  (tags.filter (· != 0)).foldl (fun e n => e.updNode n ({ · with held := false })) e
/-- A report resets the graph: held commands are discarded, every node is undefined (R246). -/
def Eng.resetGraph (e : Eng) : Eng :=
  { e.discard (e.mq.filter (fun m => !e.heldTag m.tag)) (e.cq.filter (fun k => !e.heldTag k.tag)) with graph := [] }

/-! ## Asking for an engine's step -/

def MKind.isBank : MKind → Bool
  | .loadb | .swap => true
  | .run | .clr => false
/-- Every earlier bank command of the cluster has completed (R207): they form one sequence, in the order in which they
were handed over. -/
def State.bankTurn (s : State) (c : Nat) (m : MCmd) : Bool :=
  ((List.range 4).map (clusterOf c * 4 + ·)).all (fun o => o == c
    || (s.coreAt o).e.mq.all (fun n => !n.kind.isBank || decide (m.seq < n.seq || (n.seq = m.seq && c < o))))

/-- Asks for the step of the command at the head of the core's matrix queue. -/
def State.kickM (s : State) (c : Nat) : State :=
  match (s.coreAt c).e.mq with
  | [] => s
  | m :: _ =>
    if m.fin then s.postOnce (.matrixCommandCompletion c)
    else if (s.coreAt c).e.heldTag m.tag then s
    else match m.kind with
      | .loadb => if s.bankTurn c m then s.postOnce (.mloadbExecution c) else s
      | .swap => if s.bankTurn c m then s.postOnce (.mswapExecution c) else s
      | .clr => s.postOnce (.mclrExecution c)
      | .run => s.postOnce (.matrixRowStep (clusterOf c))
/-- The same for every core of the cluster: a bank command may have left the sequence. -/
def State.kickCluster (s : State) (c : Nat) : State :=
  (List.range 4).foldl (fun s i => s.kickM (clusterOf c * 4 + i)) s
def State.kickC (s : State) (c : Nat) : State :=
  if (s.coreAt c).e.cq == [] then s else s.postOnce (.copyCommandStart c)

end Sys2Proof.Machine
end

