-- ==== Sys2Proof/Machine/Coherence.lean ====
section
/-! DEFINITION. The messages of line ownership (R269 to R273): what the home does with a request, what a core does with
a home's message, and how a core runs the exchanges that are under way to their end when a wisp leaves it. Every message
may take any time (R255), so the order in which the schedule delivers them is one of the orders allowed. -/

namespace Sys2Proof.Machine

/-! ## Giving up owned ranges (R268, R286) -/

def OwnRange.lines (r : OwnRange) : List Nat := Store.keys r.cells

/-- Begins the DISOWN of a slot, after what the core has sent: O lines send DISOWNREQ and move to OV; a line in IO follows
when its answer arrives; words of every other line are deregistered. -/
def State.beginDisown (s : State) (c i : Nat) : State :=
  let r : OwnRange := Store.get {} (s.coreAt c).owned i
  let s := (s.performSent c).updCore c (fun x => { x with owned := Store.set {} x.owned i { r with leaving := true } })
  r.lines.foldl (fun s line =>
    let l := s.l1Line c line
    match l.st with
    | .o => s.sendDirty c line .ov (.disownreq c line)
    | .v | .oi => s.deregister c line (r.words line &&& ~~~ (s.coreAt c).ownRangeWords line)
    | .io | .ov => s) s

/-- Lines of the slot still in transit: an IO line is disowned when its answer arrives, an OV line awaits its ACK. -/
def State.disownWaits (s : State) (c i : Nat) : Bool :=
  let r : OwnRange := Store.get {} (s.coreAt c).owned i
  r.lines.any (fun line => (s.l1Line c line).st == .io || (s.l1Line c line).st == .ov || (s.l1Line c line).st == .oi)

def State.endDisown (s : State) (c i : Nat) : State :=
  s.updCore c (fun x => { x with owned := Store.set {} x.owned i {} })

/-- The core gives up every range it owns, all messages delivered (R268). -/
def State.disownAll (s : State) (c : Nat) : State :=
  let s := s.settle
  let s := ((s.coreAt c).owned.map Prod.fst).foldl (fun s i => s.beginDisown c i) s
  let s := s.settle
  s.updCore c (fun x => { x with owned := [] })

/-- The steps of R268 when a wisp leaves: ranges disowned, RID 255 released at the scope, RID 0 lines dropped. -/
def State.leaveCaches (s : State) (c sc : Nat) : State :=
  (((s.disownAll c).releaseNow c 255 sc).settle).dropPrivate c

/-! ## The steps of the table -/

def execFill (core line : Nat) (s : State) : Res := .next (s.onFill core line)
def execOwnreq (core line : Nat) (words : BitVec 16) (data : BitVec 512) (dirty : BitVec 16) (s : State) : Res :=
  .next (s.onOwnreq core line words data dirty)
def execGrant (core line : Nat) (data : BitVec 512) (_mask : BitVec 16) (s : State) : Res :=
  .next (s.onGrant core line data)
def execData (core line : Nat) (data : BitVec 512) (s : State) : Res := .next (s.onData core line data)
def execFwd (core line : Nat) (_words : BitVec 16) (s : State) : Res := .next (s.onFwd core line)
def execRevoke (core line : Nat) (_words : BitVec 16) (s : State) : Res := .next (s.onFwd core line)
def execYield (core line : Nat) (data : BitVec 512) (dirty : BitVec 16) (s : State) : Res :=
  .next (s.onYield core line data dirty)
def execEvict (core line : Nat) (data : BitVec 512) (dirty : BitVec 16) (s : State) : Res :=
  .next (s.onEvict core line data dirty)
def execDisownreq (core line : Nat) (data : BitVec 512) (dirty : BitVec 16) (s : State) : Res :=
  .next (s.onDisownreq core line data dirty)
def execAck (core line : Nat) (s : State) : Res := .next (s.onAck core line)

end Sys2Proof.Machine
end

