-- ==== Sys2Proof/Machine/Leave.lean ====
section
/-! DEFINITION. How a wisp leaves its core: its seat in a pool or overflow queue (R35, R36), the spill (R23, R386), the
record (R22), kills (R300, R359, R360) and the wisp completion record (R361). What the device does when a wisp leaves
is one step; the messages it needs are delivered within it (log 21). -/

namespace Sys2Proof.Machine

/-- The key of the wisp that core c holds. -/
def State.wispKey (s : State) (c : Nat) : Nat := let w := s.wispOn c; wkey w.1 w.2

/-! ## Seats (R35, R36) -/

/-- Where the record of a wisp that leaves core c goes: the pool of the die, else the overflow queue; none: it is held. -/
def State.seat (s : State) (c : Nat) : Option Loc :=
  if 1 ≤ s.poolFree (dieOf c) then some (.pool (dieOf c))
  else if s.ovfOpen (s.vdevOn c) then some (.ovfBack (dieOf c)) else none
def State.seatAddr (s : State) (k : Nat) : Loc → Nat
  | .pool d => s.poolAddr d
  | .moving d => s.poolAddr d
  | .ovfNew | .ovfBack _ => s.ovfAddr (s.launchAt (s.wispAt k).launch).vdev
  | .core _ | .ended => (s.wispAt k).addr
/-- The scope of the release of R128 for a seat. -/
def seatScope : Option Loc → Nat
  | some l => if l.isOvf then 2 else 1
  | none => 1

/-- Reservations of die d end whose groups have no ready wisp that is dispensed (R45, R331). -/
def State.pruneResv (s : State) (d : Nat) : State :=
  let gone : List Nat := ((s.dieAt d).resv.filter (fun e => match s.reservation (d * 16 + e.1) with
    | some (l, f) => (s.groupReady d l f == []) || !(s.launchAt l).dispensed
    | none => false)).map Prod.fst
  if gone = [] then s
  else s.updDie d (fun x => { x with
    resv := x.resv.filter (fun e => !gone.contains e.1), resvLaunch := x.resvLaunch.filter (fun e => !gone.contains e.1) })

/-- The wisps held on their cores that a pool entry of die d or an overflow slot of device f would let leave (R36). -/
def State.askHeld (s : State) (d f : Nat) : State :=
  ((s.cores.filter (fun e => e.2.stage == .held && (dieOf e.1 == d || s.vdevOn e.1 == f))).map Prod.fst).foldl
    (fun s c => s.postOnce (.heldWispDepart c)) s
/-- A pool entry, an overflow slot or a core has become free: whoever waits for one tries again (R36, R37). -/
def State.freed (s : State) (d f : Nat) : State :=
  let s := (s.askHeld d f).pruneResv d
  let s := (s.launches.filter (fun e => e.2.paused)).foldl (fun s e => s.postOnce (.expansionResume e.1)) s
  let s := if s.ovfUsed f = 0 then s else s.postOnce (.overflowDrain f)
  s.offer d

/-- The core holds no wisp: PEND and FORCE are cleared with every trace of the wisp's stay (R324). -/
def State.vacate (s : State) (c : Nat) : State :=
  let s := s.updCore c (fun x => { x with
    wisp := none, stage := .idle, waitOn := .none, hold := .free, gang := none, gangWait := none, kill := none, preKind := none, refill := false, bump := none, lost := none, drop := [], popped := 0, pushed := 0
    cycles := 0, saved := 0, sup := false
    s := { x.s with pend := false, force := false, deadline := 0, inh := false } })
  s.updDie (dieOf c) (fun x => { x with waiting := x.waiting.filter (fun p => p.core != c), flying := x.flying.filter (fun p => p.core != c || p.sent) })

/-! ## The spill (R23, R386) -/

/-- The header, then at a yield each register named in VLIVE; first argument false leaves the registers out. -/
def Core.spillBytes (x : Core) (frame : Nat) (yld : Bool) : List (Nat × Nat × Nat) :=
  (frame, 64, x.u.vlive.toNat + x.u.fctl.toNat * 2 ^ 32 + x.u.fstat.toNat * 2 ^ 48)
    :: (if yld then (((List.range 32).filter (fun r => x.u.vlive.getLsbD r)).zipIdx).map (fun e =>
        ((frame + 0x40 + 0x100 * e.2) % 2 ^ 64, 256, (x.vRead e.1).toNat)) else [])

def State.storeList (s : State) (c : Nat) : List (Nat × Nat × Nat) → Acc Unit
  | [] => .ok () s
  | (a, n, v) :: l => (State.storeRun 8 s c a n v false).bind fun _ s => State.storeList s c l

def State.spill (s : State) (c : Nat) (yld : Bool) : Acc Unit :=
  s.storeList c ((s.coreAt c).spillBytes (s.wispAt (s.wispKey c)).frame.toNat yld)

/-- The copies that the wisp handed over complete (R128, R246), and the bindings are synchronised and released (R239); a
binding that cannot move is watched (R237). -/
def State.leaveBinds (s : State) (c : Nat) : Acc Unit :=
  if (s.coreAt c).e.cq ≠ [] then .wait s else
  match s.syncAll c (s.liveBinds c) with
  | (_, some t, s) => .trap t s
  | ([], none, s) => .ok () ((s.liveBinds c).foldl (fun s i => s.freeBind c i false) s)
  | (l, none, s) =>
    match l.findSome? (fun i => s.stallTrap c i) with
    | some t => .trap t s
    | none => .wait (l.foldl (fun s i => s.stallMark c i) s)

/-! ## The record -/

/-- PC, g1 to g3, VL, VTYPE, the JOIN word, REASON and STATE go into the record (R22, R23). A collective that the wisp has
issued is done or abandoned (R191). -/
def State.recordCore (s : State) (c reason st : Nat) (pc : Word) (yld : Bool) : State :=
  let x := s.coreAt c
  s.updWisp (s.wispKey c) (fun w => { w with
    pc := pc, st := st, reason := reason
    g1 := Store.get 0 x.g 1, g2 := Store.get 0 x.g 2, g3 := Store.get 0 x.g 3
    vl := x.u.vl, vtype := x.u.vtype, join := x.u.joinctx, fstat := x.u.fstat
    vsaved := yld, yields := if yld then min (w.yields + 1) 0xFFFF else w.yields
    gangSusp := x.gang.isSome, gang := x.gang.map ({ · with issued := none })
    cycles := w.cycles + x.cycles })

/-- The record takes the seat, and the core is idle; with no seat the wisp is held on its core (R36), and a kill signalled
before reaches it there. A ready wisp takes its
place in the order of R37 at the seat (DESIGN CHOICE, log 44). -/
def State.takeSeat (s : State) (c : Nat) (seat : Option Loc) : State :=
  let k := s.wispKey c
  let f := s.vdevOn c
  match seat with
  | none => s.updCore c (fun x => { x with stage := .held, waitOn := .none, kill := none, cycles := 0 })
  | some l =>
    let a := s.seatAddr k l
    let s := (s.updWisp k ({ · with loc := l, addr := a, viaOvf := l.isOvf, entered := s.seq })).vacate c
    let s := { s with seq := s.seq + 1 }
    let s := s.writeRecord k
    let s := if (s.wispAt k).st = 0 then s.markReady k else s
    s.freed (dieOf c) f

/-- An unpinned wisp whose spill is made leaves core c: R268 and R128, then the record (R22). -/
def State.depart (s : State) (c reason st : Nat) (pc : Word) (w : WaitOn) (yld : Bool) : State :=
  let seat := s.seat c
  let s := s.leaveCaches c (seatScope seat)
  let s := (s.recordCore c reason st pc yld).updWisp (s.wispKey c) ({ · with waitOn := w, started := true })
  s.takeSeat c seat
/-- A pinned wisp that suspends keeps its core (R24); with INH = 1 the record is not written (R323). -/
def State.parkOnCore (s : State) (c reason : Nat) (pc : Word) (w : WaitOn) : State :=
  let x := s.coreAt c
  let s := s.updCore c ({ · with waitOn := w, stage := .wait })
  if x.s.inh then s
  else
    let s := s.recordCore c reason 1 pc false
    let s := s.updWisp (s.wispKey c) (fun v => { v with cycles := v.cycles - x.cycles })
    s.writeRecord (s.wispKey c)

/-! ## Ends (R300, R359 to R361) -/

/-- Bits 0 and 1: REL and FAIL of the state word of the join that JOINCTX names. -/
def State.joinOutcome (s : State) (ctx : Word) : Nat :=
  match s.joinNamed (ctxId ctx) with
  | some j => (j.st == .released).toNat + 2 * (j.st == .failed || j.alsoFailed).toNat
  | none => 0

/-- The 64 bytes of the wisp completion record (R361). -/
def Wisp.completion (w : Wisp) : Nat :=
  (w.endCode + w.fstat.toNat * 2 ^ 16 + w.yields * 2 ^ 32) + w.tend * 2 ^ 64 + w.g1.toNat * 2 ^ 128 + w.g2.toNat * 2 ^ 192
    + w.g3.toNat * 2 ^ 256 + (ctxId w.join + w.jout * 2 ^ 32 + w.outcome * 2 ^ 34) * 2 ^ 320
    + (w.cycles % 2 ^ 64) * 2 ^ 384 + 1 * 2 ^ 448

/-- The die at whose core or pool a wisp was last. -/
def Loc.die : Loc → Nat
  | .core c => dieOf c
  | .pool d | .moving d | .ovfBack d => d
  | .ovfNew | .ended => 0

/-- The directory base of a launch's address space, from the device's directory table (R87). -/
def State.rdirOf (s : State) (l : Launch) : Nat :=
  let v := s.vdevAt l.vdev
  s.homeRead (v.dirTab + 8 * (l.asn.toNat - v.asnBase)) 8 / 64 * 64 % 2 ^ 56

/-- The completion record is written at FRAME, or refused by R90; while a directory edit is in progress it waits (R361).
On a core it goes through the core's range table, and otherwise straight through the directory (R386). -/
def State.writeCompletion (s : State) (k : Nat) (core : Option Nat) (d : Nat) : State :=
  let w := s.wispAt k
  let l := s.launchAt w.launch
  let done (s : State) : State := s.updWisp k ({ · with compDone := true })
  match core with
  | some c =>
    (match s.xlat c w.frame.toNat .write true false with
      | .ok t s => done (s.deviceWrite (dieNode d) d t.pa 64 w.completion)
      | .trap _ s => done s
      | .wait s => s)
  | none =>
    match s.xlatDir (s.rdirOf l) l.part w.frame.toNat .write with
    | .ok t => done (s.deviceWrite (dieNode d) d t.pa 64 w.completion)
    | .edit => s
    | .bad _ => done s

/-- The gang width of a launch, and the keys of the wisps of the gang that wisp (l, i) belongs to, leader first (R188). -/
def State.gangWidth (s : State) (l : Nat) : Nat := 2 ^ (s.launchAt l).gangw
def State.gangKeys (s : State) (l i : Nat) : List Nat :=
  let w := s.gangWidth l
  (List.range w).map (fun m => wkey l (i / w * w + m))
def Loc.coreOf : Loc → Option Nat
  | .core c => some c
  | _ => none

/-- The other members of a gang trap 0x10 at their next collective (R193, reason 2), parked members and those held on their
cores too. -/
def State.failGang (s : State) (l i : Nat) : State :=
  let f : Option Word := some (BitVec.ofNat 64 (2 + i % s.gangWidth l * 2 ^ 8))
  ((s.gangKeys l i).filter (· != wkey l i)).foldl (fun s k =>
    let s := match (s.wispAt k).loc.coreOf with
      | some m => s.updCore m (fun x => { x with gang := x.gang.map (fun (g : Gang) => { g with failed := f }) })
      | none => s
    s.updWisp k (fun w => { w with gang := w.gang.map (fun (g : Gang) => { g with failed := f }) })) s

/-- The bindings that the wisp's context buffer holds are dropped: done bits are set, and BOUND is cleared (R239, R310). -/
def State.dropSaved (s : State) (k : Nat) : State :=
  let l := s.launchAt (s.wispAt k).launch
  let s := (s.wispAt k).binds.foldl (fun s b =>
    let s := if b.collective && !b.noPush then s.instDone b.anchor b.rank else s
    match s.xlatDir (s.rdirOf l) l.part b.addr.toNat .write with
    | .ok t => s.setBound (s.wispAt k).loc.die t.pa false
    | _ => s) s
  s.updWisp k ({ · with binds := [] })

/-- A wisp ends: its join (R360), its completion record, its place; it is then counted (R363). END 2 is a kill by the
wisp's own join, which it does not touch. JREL and JFAIL are read before its own withdrawal reaches the home (log 22). -/
def State.endWisp (s : State) (k st reason code : Nat) (core : Option Nat) : State :=
  let w := s.wispAt k
  let d := w.loc.die
  let id := ctxId w.join
  let s := s.updWisp k (fun w => { w with
    st := st, reason := reason, endCode := code, tend := s.time, lastDie := d, outcome := s.joinOutcome w.join, waitOn := .none })
  let s := s.dropSaved k
  let s := if code = 2 then s else s.withdraw w.join
  let s := s.discardTents (fun t => t.launch == w.launch && t.index == w.index && t.join == id && t.cindex == ctxIndex w.join)
  let s := s.writeCompletion k core d
  let s := s.writeRecord k
  let s := s.updWisp k ({ · with loc := .ended, gang := none })
  (s.joinFreePending id).post (.wispEndCount w.launch w.index)

/-- The engines' state of the core's wisp is discarded (R209, R239, R300, R359). -/
def State.dropEngines (s : State) (c : Nat) : State :=
  ((s.dropBinds c).updCore c ({ · with e := {} })).kickCluster c

/-- The cycles charged on core c are those of the wisp it holds (R361). -/
def State.chargeWisp (s : State) (c : Nat) : State :=
  let n := (s.coreAt c).cycles
  (s.updWisp (s.wispKey c) (fun w => { w with cycles := w.cycles + n })).updCore c ({ · with cycles := 0 })

/-- The steps of R300 on the core that holds the wisp, up to its record: its waits and tentative words go, the caches are left,
the engines' state is discarded, and its gang fails. A halt for the debugger ends so (R339). -/
def State.killActs (s : State) (c : Nat) : State :=
  let (l, i) := s.wispOn c
  let x := s.coreAt c
  let s := { s with waiters := s.waiters.filter (fun q => !(q.launch == l && q.index == i)) }
  let s := s.discardTents (fun t => t.launch == l && t.index == i && t.join == ctxId x.u.joinctx
    && t.cindex == ctxIndex x.u.joinctx)
  let s := (s.leaveCaches c 1).dropEngines c
  let s := if x.gang.isSome then s.failGang l i else s
  let s := (s.chargeWisp c).updCore c (fun x => { x with dbgKilled := x.dbgKilled || x.stage == .halted })
  if x.stage == .held then s
  else s.updWisp (wkey l i) (fun w => { w with loc := .core c, fstat := x.u.fstat, join := x.u.joinctx })

/-- A kill takes effect on the core that holds the wisp (R300). -/
def State.killOnCore (s : State) (c code : Nat) : State :=
  match (s.coreAt c).wisp with
  | none => s
  | some (l, i) =>
    let k := wkey l i
    let w := s.wispAt k
    let f := s.vdevOn c
    let s := ((s.killActs c).endWisp k 3 9 code (some c)).vacate c
    let s := s.updWisp k ({ · with kept := false })
    if w.loc == .ended then s else s.freed (dieOf c) f

/-- A wisp that ends on core c, with its END code, finds no pool entry and no overflow slot: it is held there (R35, R36). -/
def State.noSeat (s : State) (c : Nat) : Bool := (s.seat c).isNone && !(s.wispAt (s.wispKey c)).pinned
def State.holdEnded (s : State) (c code : Nat) : State := s.updCore c (fun x => { x with
  stage := .held, waitOn := .none, hold := .free, gang := none, gangWait := none, bump := none, lost := none
  kill := some (s.time, code) })

/-- A kill of an unpinned wisp takes a pool entry, or an overflow slot, before it frees it (R35). With neither, the wisp is
held on its core until there is one (R36). A wisp that is held at its end already ends as it began to. -/
def State.killLeave (s : State) (c code : Nat) : State :=
  if (s.coreAt c).stage == .held && (s.coreAt c).kill.isSome then s
  else if s.noSeat c then (s.killActs c).holdEnded c code
  else s.killOnCore c code

/-- A kill takes effect on a wisp whose record is off every core (R300). -/
def State.killParked (s : State) (k code : Nat) : State :=
  let w := s.wispAt k
  let s := { s with waiters := s.waiters.filter (fun q => !(q.launch == w.launch && q.index == w.index)) }
  let s := if w.gang.isSome then s.failGang w.launch w.index else s
  (s.endWisp k 3 9 code none).freed w.loc.die (s.launchAt w.launch).vdev

/-- A discard, a reset or a double fault kills a wisp wherever it is, without waiting for a kill point (R331, R352). -/
def State.killNow (s : State) (k code : Nat) : State :=
  match (s.wispAt k).loc with
  | .ended => s
  | .core c => s.killLeave c code
  | _ => s.killParked k code

/-- An unpinned wisp leaves, and a kill that was signalled to it while it ran takes effect off its core (R300), or where it is
held for want of a seat. -/
def State.leave (s : State) (c reason st : Nat) (pc : Word) (w : WaitOn) (yld : Bool) : State :=
  let k := s.wispKey c
  let t := s.depart c reason st pc w yld
  match (s.coreAt c).kill with
  | some (_, code) => t.killNow k code
  | none => t

/-- A wisp that has retired leaves its core (R359 to R361). -/
def State.endRetired (s : State) (c : Nat) : State :=
  let k := s.wispKey c
  let f := s.vdevOn c
  ((s.endWisp k 2 8 1 (some c)).vacate c).freed (dieOf c) f

/-- What the wisp on core c leaves behind when it retires, up to its end. Its record holds the RETIRE's own address as PC
(DESIGN CHOICE, log 44). -/
def State.retireActs (s : State) (c : Nat) : State :=
  let (l, i) := s.wispOn c
  let x := s.coreAt c
  let s := (s.leaveCaches c 1).dropEngines c
  let s := if x.gang.isSome then s.failGang l i else s
  let s := s.updWisp (wkey l i) (fun w => { w with
    g1 := Store.get 0 x.g 1, g2 := Store.get 0 x.g 2, g3 := Store.get 0 x.g 3
    fstat := x.u.fstat, join := x.u.joinctx, vl := x.u.vl, vtype := x.u.vtype, pc := x.pc })
  s.chargeWisp c
/-- RETIRE ends the wisp on core c (R130, R359); it leaves as at any suspension point, and is held while there is no seat (R22,
R35, R36). -/
def State.retireOn (s : State) (c : Nat) : State :=
  if (s.coreAt c).wisp.isNone then s
  else
    let s := s.retireActs c
    if s.noSeat c then s.holdEnded c 1 else s.endRetired c

/-- The wisp that is held on core c leaves it: as a record, its words at the scope of the seat, or at its end. -/
def State.leaveHeld (s : State) (c : Nat) (seat : Option Loc) : State :=
  match (s.coreAt c).kill with
  | some (_, code) => if code = 1 then (s.chargeWisp c).endRetired c else s.killOnCore c code
  | none => ((s.chargeWisp c).leaveCaches c (seatScope seat)).takeSeat c seat

/-- The kill signalled to the wisp of core c, if one is. -/
def State.killSignalled (s : State) (c : Nat) : Option Nat := ((s.coreAt c).kill).map Prod.snd

end Sys2Proof.Machine
end

