-- ==== Sys2Proof/Machine/Ops.lean ====
section
/-! DEFINITION. Taking a trap (R319, R322) and returning from one (R341), how an instruction ends (R71), and the checks
that every supervisor instruction makes (R58, R65). -/

namespace Sys2Proof.Machine

/-! ## Traps -/

/-- TVAL of a double fault's log entry: TCAUSE in [7:0], TVAL and TEPC above it (R322). -/
def doubleFaultDetail (t : Trap) (epc : Word) : Nat := t.cause + t.tval.toNat * 2 ^ 64 + epc.toNat * 2 ^ 128

/-- Core c enters the handler (R319). Whatever its instruction waited for is abandoned: an unpaired collective is issued
afresh when it executes again (R191), and VSTART counts the positions that a waiting vector instruction has delivered
(R232, R237). -/
def Core.enter (x : Core) (t : Trap) : Core :=
  { x with
    hold := .free
    gangWait := none
    gang := x.gang.map ({ · with issued := none })
    u := { x.u with vstart := x.u.vstart + BitVec.ofNat 16 (x.popped + x.pushed) }
    popped := 0
    pushed := 0
    sup := true
    pc := x.s.tvec
    saved := 0
    waitOn := .none
    stage := .run
    s := { x.s with
      tcause := BitVec.ofNat 8 t.cause
      tval := t.tval
      tepc := (t.tepc.getD x.pc) &&& ~~~ 3
      ppriv := x.sup
      inh := true } }

/-- The backing copy of a physical address in the table at tab: entries of span base, span length and backing address,
ending at a zero length (R337, R357). The first argument bounds their number. -/
def State.backScan (s : State) (pa : Nat) : Nat → Nat → Option Nat
  | 0, _ => none
  | k + 1, tab =>
    let base := s.homeRead tab 8
    let len := s.homeRead (tab + 8) 8
    if len = 0 then none
    else if base ≤ pa ∧ pa < base + len then some (s.homeRead (tab + 16) 8 + (pa - base))
    else s.backScan pa k (tab + 32)
def State.backingOf (s : State) (pa : Nat) : Option Nat :=
  s.vdevs.findSome? (fun e => if e.2.live && e.2.backTab != 0 then s.backScan pa 65536 e.2.backTab else none)

/-- The line that an access of core c to a DVA reaches: a read's, or, where the range may only be executed, a fetch's. -/
def State.lineOf (s : State) (c dva : Nat) : Option Nat :=
  [AKind.read, .fetch].findSome? (fun k => match s.xlat c dva k true (s.coreAt c).sup with
    | .ok t _ => some (t.pa / 64)
    | _ => none)
/-- A machine check on a DVA: the core remembers the home line for a refill notice, and a line with a backing copy is to be
rewritten (R337). A reply that did not come in time has been poisoned (R263). -/
def State.noteMc (s : State) (c dva : Nat) : State :=
  match s.lineOf c dva with
  | some line =>
    let s := ({ s with mute := s.mute.erase (c, line) } : State).updCore c
      (fun x => { x with mc := if x.mc.contains line then x.mc else x.mc ++ [line] })
    if (s.backingOf (line * 64)).isSome then s.postOnce (.backingRewrite (line * 64)) else s
  | none => s

/-- Core c takes trap t: it enters the handler, or a second trap at S with INH = 1 kills the wisp (R319, R322). Causes
0x04 to 0x06 write the fault record first (R91). -/
def State.takeTrap (s : State) (c : Nat) (t : Trap) : State :=
  let x := s.coreAt c
  let s := match t.frec with
    | some f => s.updCore c ({ · with frec := f })
    | none => s
  let s := if t.cause = 0x0E then s.noteMc c t.tval.toNat else s
  if x.sup && x.s.inh then
    (s.logAdd 4 (s.vdevOn c) ((s.partOfCore c).getD 0) (doubleFaultDetail t (t.tepc.getD x.pc))).killLeave c 5
  else s.updCore c (fun x => x.clearStalls.enter t)

/-- The trap of the running core. -/
def State.trap (s : State) (t : Trap) : State := s.takeTrap s.cur t

/-- 0x01, with the instruction word, and 0x02 (R320). -/
def illegal (w : BitVec 32) : Trap := { cause := 1, tval := w.setWidth 64 }
def privileged (w : BitVec 32) : Trap := { cause := 2, tval := w.setWidth 64 }
def misaligned (a : Word) : Trap := { cause := 3, tval := a }

/-- TVAL of trap 0x0D for the posting that stands (R325). -/
def Core.preemptTval (x : Core) : Word := if x.preKind = some .eviction then 2 else 1
/-- The core takes trap 0x0D at its next boundary; what has been issued and waits completes first, unless it is one of the
waits that are abandoned (R137, R325). -/
def Core.forced (x : Core) : Bool :=
  x.s.pend && x.s.force && !x.s.inh && decide (x.hold ≠ .firm) && x.bump.isNone
    && (match x.waitOn with | .time _ => false | _ => true)
/-- A forced kill or a forced pre-emption takes effect on the core at an instruction boundary now (R321). -/
def Core.takenOff (x : Core) (time : Nat) : Bool :=
  x.forced || (match x.kill with | some (t, _) => decide (t ≤ time) | none => false)

/-- The instruction completes on the cores that ran it together; with STEP set, the members other than the running core
halt here (R338). -/
def State.stepAll (s : State) (cores : List Nat) : State :=
  cores.foldl (fun s c => s.updCore c (fun x => { x with
    pc := x.pc + 4, hold := .free, popped := 0, pushed := 0, gang := x.gang.map ({ · with issued := none })
    stage := if c ≠ s.cur ∧ x.s.step = true ∧ x.sup = false ∧ x.takenOff s.time = false then .halted else x.stage })) s
/-- The cores that hold members of the gang of the wisp on core c, leader first. -/
def State.gangCores (s : State) (c : Nat) : List Nat :=
  let w := s.wispOn c
  (s.gangKeys w.1 w.2).filterMap (fun k => (s.wispAt k).loc.coreOf)

/-- The forced pre-emption trap of core c (R325). A SETVL whose yield waits stands, and TEPC is PC + 4; the SETVL of the
other members completes without a yield (R239, R386). -/
def State.preemptTrap (s : State) (c : Nat) : State :=
  let x := s.coreAt c
  let t : Trap := { cause := 0x0D, tval := x.preemptTval }
  if x.hold = .yielding then
    let others := if x.gang.isSome then (s.gangCores c).filter (· != c) else []
    (s.stepAll others).takeTrap c { t with tepc := some (x.pc + 4) }
  else s.takeTrap c t
/-- Return from the handler (R341): privilege and PC are restored and INH is cleared; then a signalled kill takes
effect, or else a forced pre-emption. -/
def State.eret (s : State) : State :=
  let c := s.cur
  let x := s.coreAt c
  let s := s.updCore c (fun x =>
    { x with hold := .free, sup := x.s.ppriv, pc := x.s.tepc, s := { x.s with inh := false } })
  match x.kill with
  | some (_, code) => s.killLeave c code
  | none => if x.s.pend && x.s.force && !x.s.ppriv then s.preemptTrap c else s

/-! ## How an instruction ends -/

/-- The ordinary end: next_pc = PC + 4 after a success, the trap after a failure, and the same instruction again at the
core's next turn after a wait (log 1). -/
def finish (r : Acc Unit) : Res :=
  match r with
  | .ok _ s => .next s.nextPc
  | .trap t s => .next (s.trap t)
  | .wait s => .next s.block
/-- The end of an instruction that suspends, which has set the PC itself; its wait for bindings is abandoned by a
pre-emption or kill (R239). -/
def finishAt (r : Acc Unit) : Res :=
  match r with
  | .ok _ s => .next s
  | .trap t s => .next (s.trap t)
  | .wait s => .next s.stall
/-- The end with a result in gd. -/
def finishG (d : BitVec 5) (r : Acc Word) : Res := finish (r.bind fun v s => .ok () (s.wg d v))

/-- A SYS instruction at U traps 0x02, whatever its operands (R65, step 2). -/
def supOnly (w : BitVec 32) (s : State) (r : Res) : Res :=
  if s.me.sup then r else .next (s.trap (privileged w))

/-- Status results of the form 0x8000_0000_0000_0000 + n. -/
def status (n : Nat) : Word := BitVec.ofNat 64 (2 ^ 63 + n)

/-- A kill signalled for the wisp takes effect at a kill point, unless INH = 1 (R300, R323). -/
def killPoint (s : State) (go : Res) : Res :=
  match s.me.kill with
  | some (_, code) => if s.me.s.inh then go else .next (s.killLeave s.cur code)
  | none => go

/-! ## Words of the formats (R60), for the TVAL of trap 0x01 -/

def rrWord (base : Nat) (d a b : BitVec 5) (x : Nat) : BitVec 32 :=
  BitVec.ofNat 32 (base + d.toNat * 2097152 + a.toNat * 65536 + b.toNat * 2048 + x * 64)
def vWord (base : Nat) (d a b : BitVec 5) (msk : BitVec 4) (ca cb : Bool) : BitVec 32 :=
  BitVec.ofNat 32 (base + d.toNat * 2097152 + a.toNat * 65536 + b.toNat * 2048 + msk.toNat * 128 + ca.toNat * 64 + cb.toNat * 32)

/-! ## Waits of the running core -/

/-- The wait of the running core's instruction begins: a pinned wisp or a handler waits on the core (R24, R323). -/
def State.waitHere (s : State) (reason : Nat) (w : WaitOn) : State := s.parkOnCore s.cur reason (s.pc + 4) w

/-- The wisp of the running core is pinned, or its handler runs: it does not leave the core (R24, R323). -/
def State.staysPut (s : State) : Bool := s.me.s.inh || (s.wispAt (s.wispKey s.cur)).pinned

/-- An instruction at which an unpinned wisp leaves its core: bindings, spill, then the departure with PC + 4 (R22 to
R24, R239, R386). With INH = 1 or pinned, it waits on its core. -/
def State.suspendAt (s : State) (reason : Nat) (w : WaitOn) : Acc Unit :=
  let c := s.cur
  if s.staysPut then .ok () (s.waitHere reason w)
  else
    (s.leaveBinds c).bind fun _ s =>
      (s.spill c false).bind fun _ s =>
        .ok () (s.leave c reason 1 (s.pc + 4) w false)

end Sys2Proof.Machine
end

