-- ==== Sys2Proof/Machine/Schedule.lean ====
section
/-! DEFINITION. What a step does around an instruction: the clocks (R257, R259, R351), the turn of the cores, the steps
of other agents that TIME makes due, the fetch (R53, R65) and the end of a wait on the core (R24, R326). -/

namespace Sys2Proof.Machine

/-! ## Clocks -/

/-- Every core that holds a wisp is charged the cycles of its die between two instants, in ps, and so is the wisp's device
(R351). -/
def State.charge (s : State) (t0 t1 : Nat) : State :=
  ((s.cores.filter (fun e => e.2.wisp.isSome)).map Prod.fst).foldl (fun s c =>
    let n := s.cycleOf (dieOf c) t1 - s.cycleOf (dieOf c) t0
    let f := s.vdevOn c
    let s := s.updCore c (fun x => { x with cycles := x.cycles + n })
    if (s.vdevAt f).live then s.updVdev f (fun v => { v with deficit := v.deficit - n }) else s) s

/-- A free time passes (log 3): TIME advances, and with it the clock of every die at its own frequency. -/
def State.tick (s : State) : State :=
  let t0 := s.nowPs
  let t1 := t0 + Config.stepPs s.draw
  let s := s.charge t0 t1
  { s with time := t1 / 1000, ps := t1 % 1000, draw := s.draw + 1, evTurn := !s.evTurn }

/-! ## Steps that TIME makes due -/

/-- A core's own timed step. -/
def Core.due (x : Core) (time c : Nat) : Option Event :=
  if x.wisp.isNone || x.stage == .held then none
  else if (match x.kill with
      | some (t, _) => decide (t ≤ time) && x.hold != Hold.firm | none => false) then some (.kgraceExpiry c)
  else if x.s.pend && !x.s.force && decide (x.s.deadline.toNat ≤ time + 40000) then some (.forceSet c)
  else if x.forced && (x.stage == .wait || (x.stage == .halted && x.preKind == some .eviction)) then
    some (.forcedPreemptionTrap c)
  else match x.waitOn with
    | .wfi _ t _ _ => if t ≠ 0 ∧ t ≤ time then some (.wfiTimeReached c) else none
    | .suspend t => if t ≠ 0 ∧ t ≤ time then x.wisp.map (fun w => .suspendWake w.1 w.2) else none
    | _ => none

def Wisp.due (w : Wisp) (time : Nat) : Option Event :=
  if w.loc.coreOf.isSome then none
  else match w.waitOn with
    | .suspend t => if t ≠ 0 ∧ t ≤ time ∧ w.st = 1 ∧ w.loc ≠ .ended then some (.suspendWake w.launch w.index) else none
    | _ => if w.st = 0 ∧ w.eff < 7 ∧ w.readyAt + 10000000 ≤ time ∧ w.loc ≠ .ended
        then some (.priorityAging w.launch w.index) else none

/-- The wisps of a launch that have not ended and hold a core. -/
def State.onCores (s : State) (l : Nat) : List Nat :=
  (s.wisps.filter (fun e => e.2.launch == l && e.2.loc.coreOf.isSome)).map Prod.fst

def State.launchDue (s : State) (l : Nat) (x : Launch) : Option Event :=
  if x.decision != .checkpoint then none
  else if s.onCores l != [] then (if x.vacateBy ≤ s.time then some (.checkpointVacateTimeout l) else none)
  else if s.images.any (fun i => i.id == l) || (s.dieAt leadIo).waiting.any (fun p => p.wake == .checkpointEngineCopy l) || x.nret + x.nkill == x.count then none else some (.checkpointEngineCopy l)

/-- A device has work: posted records in an eligible queue, or a ready wisp in a pool or its overflow queue (R351). -/
def State.hasWork (s : State) (f : Nat) : Bool :=
  s.wisps.any (fun e => e.2.st == 0 && e.2.loc.coreOf.isNone && e.2.loc != .ended
      && (s.launchAt e.2.launch).vdev == f && (s.launchAt e.2.launch).dispensed)
  || s.binds.any (fun b => b.2.valid && b.2.vdev == f && (List.range 16).any (fun q =>
      b.2.qmask.getLsbD q && (s.queueAt f q).qen && (s.queueAt f q).posted != 0))

def State.onAnyCore (s : State) (f : Nat) : Bool := s.cores.any (fun e => e.2.wisp.isSome && s.vdevOn e.1 == f)
/-- A device of the rotation that the filter admits has work. -/
def State.anyWork (s : State) (p : Nat) (ok : Nat → Bool) : Bool :=
  s.vdevs.any (fun e => ok e.1 && s.inRotation p e.1 && s.hasWork e.1)
/-- Another device of the rotation has work. -/
def State.othersWork (s : State) (p t : Nat) : Bool := s.anyWork p (· != t)

/-- The turn of partition p is at its end, or its holder is to be credited again, or is idle with a credit, or no device has
the turn and one has work (R351). -/
def State.quantumOver (s : State) (p : Nat) : Bool :=
  match s.turnOf p with
  | 0 => s.anyWork p (fun _ => true)
  | t + 1 =>
    let busy := s.hasWork t || s.onAnyCore t
    if (s.vdevAt t).deficit ≤ 0 then busy || s.othersWork p t else !busy

/-- Launches of a deadline's devices that go on under a RUN decision and still have unretired wisps (R334). -/
def State.runLaunches (s : State) (d : Deadline) : List Nat :=
  (s.launches.filter (fun e => e.2.decision == .run && decide (e.2.nret + e.2.nkill < e.2.count)
    && (if d.isPart then (s.vdevAt e.2.vdev).part == some d.target else e.2.vdev == d.target))).map Prod.fst

/-- Timeouts of R352, in ns. -/
def rungTimeout (r : Nat) : Nat := [1000000, 10000000, 50000000, 200000000].getD r 0

/-- The steps of other agents that the time has made due. -/
def State.dueTimers (s : State) : List Event :=
  s.cores.filterMap (fun e => e.2.due s.time e.1)
  ++ s.joins.filterMap (fun e => if e.2.st = .opened ∧ ((e.2.deadline ≠ 0 ∧ e.2.deadline ≤ s.time) ∨ e.2.settling.isSome)
      then some (.joinDeadline (e.1 / 1024) (e.1 % 1024)) else none)
  ++ s.wisps.filterMap (fun e => e.2.due s.time)
  ++ s.launches.filterMap (fun e => s.launchDue e.1 e.2)
  ++ s.deadlines.filterMap (fun d => if d.t ≤ s.time + 250000 ∧ s.runLaunches d ≠ []
      then some (.deadlineRecheck d.isPart d.target) else none)
  ++ s.resets.filterMap (fun r => if r.since + rungTimeout r.rung ≤ s.time
      then some (.resetEscalation r.rung r.target r.queue) else none)
  ++ s.parts.filterMap (fun e => if s.quantumOver e.1 then some (.quantumEnd e.1) else none)
  ++ (if s.time < 1000 then []
      else ((List.range s.ndie).filter (fun d => decide ((s.dieAt d).nextReport ≤ s.time))).map .freeResourceReport)
/-- The one of them that comes now: they take turns (log 1). -/
def State.dueTimer (s : State) : Option Event :=
  let l := s.dueTimers
  l[s.evCount / 2 % l.length]?

/-- The step of another agent that comes now, and the schedule after it; none: no agent has one. -/
def State.nextEvent (s : State) : Option (Event × List Event) :=
  match s.sched, s.dueTimer with
  | [], none => none
  | [], some t => some (t, [])
  | e :: l, none => some (e, l)
  | e :: l, some t => some (if s.evCount % 2 = 0 then (e, l) else (t, e :: l))

/-! ## The end of a wait on the core -/

/-- The acquire of a wisp's code region at system scope (R56). RID 0 lines leave the die cache alone, as victims could: no
acquire names them (R268). -/
def State.codeAcquire (s : State) (c : Nat) : State :=
  let r := (s.launchAt (s.wispOn c).1).codeRid
  (if r = 0 then s.acquireDie c 0 3 false else s.acquire c r 3).dropCode c r

/-- The waiting instruction completes: its acquire, its result, and PC + 4 (R24, R291, R294, R306, R345). A wisp that waited
at a suspension point resumes with the acquire of its code (R56). -/
def State.endWait (s : State) (v : Word) (d : Nat) (acq : Option Nat) : State :=
  let c := s.cur
  let s := if (s.coreAt c).hold = .firm then s else s.codeAcquire c
  let s := match acq with | some sc => s.acquire c 255 sc | none => s
  let s := s.updWisp (s.wispKey c) (fun w => { w with st := 0 })
  let s := s.updCore c (fun x => { x.gWrite d v with waitOn := .none, stage := .run, hold := .free })
  s.nextPc

/-! ## Fetch and decode -/

/-- The trap of a word that does not decode, by the order of R65. -/
def decodeTrap (w : BitVec 32) (sup : Bool) : Trap :=
  let m := w.toNat / 2 ^ 26
  if m = 0x3E && !sup then privileged w
  else if m = 0x27 && !sup && decide (0x800 ≤ w.toNat / 16 % 4096) then privileged w
  else illegal w

/-- The word that core c issues: the one at its PC, or that of the instruction that waits there. -/
def State.issue (s : State) (c : Nat) : Acc Nat :=
  let x := s.coreAt c
  let s := s.updCore c ({ · with hold := .free })
  if x.hold = .free then (s.fetch c).bind fun w s => .ok w (s.updCore c ({ · with ir := BitVec.ofNat 32 w }))
  else .ok x.ir.toNat s

/-- After a U instruction that did not wait, DBGCTL.STEP halts the core (R338). A forced kill or a forced pre-emption that
takes effect at the same boundary comes first (R321). -/
def State.stepHalt (s : State) (c : Nat) (before : Core) : State :=
  let x := s.coreAt c
  if before.s.step && !before.sup && x.hold == .free && x.stage == .run && x.wisp == before.wisp && !x.takenOff s.time
  then s.updCore c ({ · with stage := .halted }) else s

/-- The turn passes to the next core that issues instructions. -/
def State.rotate (s : State) : State := { s with cur := s.nextRunning s.cur }

/-! ## Placing an instruction -/

/-- The range entry that maps the GiB at base to the package's first memory, for every use by U and S. -/
def fetchEntry (base asn gen : Nat) : BitVec 512 :=
  let e := imgPut (imgPut (imgPut 0 0 63 0 base) 8 63 0 (base + 2 ^ 30)) 0x10 63 0 (2 ^ 64 - base)
  let e := imgPut (imgPut e 0x18 3 0 0xF) 0x20 63 0 (2 ^ 64 - 1)
  entStamp e asn gen

/-- The running core is given a wisp, a wired slot that maps its PC, and the word at that place (log 2). -/
def State.placeWord (s : State) (w : Nat) : State :=
  let c := s.cur
  let x := s.coreAt c
  let base := x.pc.toNat / 4096 * 4096
  let off := x.pc.toNat - base
  let s := s.updCore c (fun x => { x.setSlot 0 { img := fetchEntry base x.s.asn.toNat x.s.asgen.toNat } with
    wisp := some (x.wisp.getD (1, 0)), stage := .run, waitOn := .none, hold := .free, kill := none, lost := none
    s := { x.s with pend := false, force := false } })
  { s.rawWrite off 4 w with
    on := true, sched := [], evTurn := false
    pois := Store.set false s.pois (off / 4) false }

end Sys2Proof.Machine
end

