-- ==== Sys2Proof/Machine/Operands.lean ====
section
/-! DEFINITION. Operand forms and value computations of the scalar instructions (06_scalar.md), and the shared shapes of
an instruction that only writes a register or only moves the PC. -/

namespace Sys2Proof.Machine

/-! ## Operands (R61) -/

/-- A 16-bit immediate, sign-extended. -/
def immW (i : BitVec 16) : Word := i.signExtend 64
/-- PC + sext(off) * 4. -/
def State.target (s : State) {n : Nat} (off : BitVec n) : Word := s.pc + off.signExtend 64 * 4
/-- The address of format M: g[gbase] + sext(off16). -/
def State.addrM (s : State) (base : BitVec 5) (off : BitVec 16) : Word := s.rg base + immW off

def ofBool (b : Bool) : Word := if b then 1 else 0
/-- The low n bits, sign-extended. -/
def sextN (n : Nat) (v : Word) : Word := (v.setWidth n).signExtend 64
def zextN (n : Nat) (v : Word) : Word := (v.setWidth n).setWidth 64

/-! ## INT (R109) -/

/-- Leading zeros of the low n bits of v, from the top. -/
def leadZeros (v : Word) : Nat → Nat
  | 0 => 0
  | n + 1 => if v.getLsbD n then 0 else leadZeros v n + 1
/-- Trailing zeros: i counts up, n bounds the bits left. -/
def trailZeros (v : Word) : Nat → Nat → Nat
  | _, 0 => 0
  | i, n + 1 => if v.getLsbD i then 0 else trailZeros v (i + 1) n + 1
def popcount (v : Word) : Nat := ((List.range 64).filter (fun i => v.getLsbD i)).length
def bitReverse (v : Word) : Word :=
  (List.range 64).foldl (fun r i => if v.getLsbD i then r ||| BitVec.ofNat 64 (2 ^ (63 - i)) else r) 0
def byteReverse (v : Word) : Word :=
  (List.range 8).foldl (fun r i => r ||| BitVec.ofNat 64 (v.toNat / 256 ^ i % 256 * 256 ^ (7 - i))) 0
/-- SEXT and ZEXT: aux 0, 1, 2 for 8, 16, 32 bits. -/
def auxBits (x : BitVec 5) : Nat := 8 * 2 ^ x.toNat

/-! ## Bit fields (R112) -/

/-- The field of v at position p, width w, where bits above 63 read 0. -/
def bfExtract (v : Word) (p w : Nat) (signed : Bool) : Word :=
  let w := min w 64
  if w = 0 ∨ 64 ≤ p then 0
  else
    let f := v.toNat / 2 ^ p % 2 ^ w
    if signed && decide (2 ^ (w - 1) ≤ f) then BitVec.ofInt 64 (f - 2 ^ w) else BitVec.ofNat 64 f
def bfInsert (d v : Word) (p w : Nat) : Word :=
  let w := min w 64
  if w = 0 ∨ 64 ≤ p then d
  else
    let m : Word := BitVec.ofNat 64 ((2 ^ w - 1) * 2 ^ p)
    (d &&& ~~~ m) ||| ((v <<< p) &&& m)
/-- Position and width of the register forms: y [7:0] and y [15:8]. -/
def fieldPos (y : Word) : Nat := bits y.toNat 7 0
def fieldWidth (y : Word) : Nat := bits y.toNat 15 8

/-! ## MULDIV (R110) -/

/-- Bits [127:64] of a product of integers. -/
def highHalf (p : Int) : Word := BitVec.ofInt 64 (p / 2 ^ 64)
/-- Truncated quotient; all ones for a zero divisor. -/
def divS (x y : Word) : Word := if y = 0 then BitVec.allOnes 64 else BitVec.ofInt 64 (x.toInt.tdiv y.toInt)
def divU (x y : Word) : Word := if y = 0 then BitVec.allOnes 64 else BitVec.ofNat 64 (x.toNat / y.toNat)
/-- The remainder has the sign of the dividend; the dividend itself for a zero divisor. -/
def remS (x y : Word) : Word := if y = 0 then x else BitVec.ofInt 64 (x.toInt.tmod y.toInt)
def remU (x y : Word) : Word := if y = 0 then x else BitVec.ofNat 64 (x.toNat % y.toNat)
def divW (x y : Word) : Word :=
  if y.setWidth 32 = (0 : BitVec 32) then BitVec.allOnes 64
  else sextN 32 (BitVec.ofInt 64 ((x.setWidth 32).toInt.tdiv (y.setWidth 32).toInt))

/-! ## Shapes -/

/-- An instruction whose whole effect is a value in gd. -/
def setG (d : BitVec 5) (v : Word) (s : State) : Res := .next (s.wg d v).nextPc
/-- A branch: taken, or on to PC + 4. -/
def branchTo {n : Nat} (cond : Bool) (off : BitVec n) (s : State) : Res :=
  .next (if cond then s.jump (s.target off) else s.nextPc)

/-! ## Scalar loads and stores (R122) -/

/-- A load of n bytes at a; sg: sign-extended. -/
def loadG (t : BitVec 5) (a : Word) (n : Nat) (sg : Bool) (s : State) : Res :=
  if a.toNat % n ≠ 0 then .next (s.trap (misaligned a))
  else finish ((s.load s.cur a.toNat n true s.me.sup).bind fun v s =>
    .ok () (s.wg t (if sg then sextN (8 * n) (BitVec.ofNat 64 v) else BitVec.ofNat 64 v)))
/-- A store of the low n bytes of v at a. -/
def storeG (a : Word) (n : Nat) (v : Word) (s : State) : Res :=
  if a.toNat % n ≠ 0 then .next (s.trap (misaligned a))
  else finish (s.store s.cur a.toNat n (v.toNat % 2 ^ (8 * n)) true s.me.sup)

end Sys2Proof.Machine
end

