-- ==== Sys2Proof/Machine/Atomic.lean ====
section
/-! DEFINITION. The ATOM group (R292 to R294): atomics at the home of a word, and the wait for a word to change. -/

namespace Sys2Proof.Machine

/-! ## The line leaves the core's tiers (R274) -/

/-- The core's dirty words of a line are written back to its home, and the line leaves its L1 and, as a victim could, its
cluster and die caches; an O line leaves as by an EVICT, which answers a message outstanding (R273). A line in transit makes
the atomic wait. -/
def State.flushLine (s : State) (c line : Nat) : Acc Unit :=
  let l := s.l1Line c line
  if l.st == .io || l.st == .oi || l.st == .ov then .wait s
  else
    let fwd := (s.pendAt line c).fwd
    let own := if l.st = .o then l.dirty &&& ~~~ fwd else l.dirty
    let s := (s.bankOrder c line).writeBack c (some c) line l.data own l.pois
    let s := s.setL1 c line {}
    let s := if l.st = .o then s.copyLeft c line 0 0 0 else s
    let k := s.cluLine (clusterOf c) line
    let d := s.dieLine (dieOf c) line
    let s := s.writeBack c none line d.data (d.dirty &&& ~~~ (k.dirty ||| l.dirty)) d.pois
    let s := s.writeBack c none line k.data (k.dirty &&& ~~~ l.dirty) k.pois
    .ok () ((s.setCluLine (clusterOf c) line {}).setDieLine (dieOf c) line {})

/-! ## Orders of R62 -/

def releases (order : BitVec 2) : Bool := order == 2 || order == 3
def acquires (order : BitVec 2) : Bool := order == 1 || order == 3
def atomBytes (width : Bool) : Nat := if width then 8 else 4
/-- A value of n bytes as g[gd] receives it. -/
def extendW (n v : Nat) : Word := if n = 4 then sextN 32 (BitVec.ofNat 64 v) else BitVec.ofNat 64 v

/-- What every atomic does before its step at the home: alignment, translation, release, the line's write-back. -/
def State.atomicPrelude (s : State) (a : Word) (scope order : BitVec 2) (width : Bool) : Acc Xl :=
  let c := s.cur
  if a.toNat % atomBytes width ≠ 0 then .trap (misaligned a) s
  else (s.xlat c a.toNat .atomic true s.me.sup).bind fun t s =>
    (if releases order then s.release c 255 scope.toNat else .ok () s).bind fun _ s =>
      (s.flushLine c (t.pa / 64)).bind fun _ s => .ok t s

/-- A function 0 to 11 of R292: new gives the value written, if one is; reads is false for AMOST alone; op and v are what leaves
for another package's home (R262). -/
def State.atomic (s : State) (op : PeerOp) (v : Nat) (a : Word) (scope order : BitVec 2) (width reads : Bool)
    (new : Nat → Option Nat) : Acc Word :=
  let c := s.cur
  let n := atomBytes width
  (s.atomicPrelude a scope order width).bind fun t s =>
    let down := s.cutOff c t.pa
    let s := s.sendRemote op t.pa n v
    if (reads && s.homePois t.pa n) || s.reqDown (dieOf c) t.pa then .trap { cause := 0x0E, tval := a } s
    else
      let old := s.homeRead t.pa n
      let s := match new old with
        | some v => s.homeUpdate (some c) (some (.core c)) t.pa n v
        | none => s
      if down then .trap { cause := 0x0E, tval := a } s
      else .ok (extendW n old) (if acquires order then s.acquire c 255 scope.toNat else s)

/-- The shape of functions 0 to 8: f combines the old value and the operand at the width in bits. -/
def amo (op : PeerOp) (f : Nat → Nat → Nat → Nat) (d a b : BitVec 5) (scope order : BitVec 2) (width : Bool) (s : State) : Res :=
  let n := 8 * atomBytes width
  let y := (s.rg b).toNat % 2 ^ n
  finishG d (s.atomic op y (s.rg a) scope order width true (fun old => some (f n old y % 2 ^ n)))

def signedLess (n a b : Nat) : Bool := decide (toSigned n a < toSigned n b)

def execAmoadd (d a b : BitVec 5) (scope order : BitVec 2) (width : Bool) (s : State) : Res :=
  amo .add (fun _ x y => x + y) d a b scope order width s
def execAmoand (d a b : BitVec 5) (scope order : BitVec 2) (width : Bool) (s : State) : Res :=
  amo .and (fun _ x y => x &&& y) d a b scope order width s
def execAmoor (d a b : BitVec 5) (scope order : BitVec 2) (width : Bool) (s : State) : Res :=
  amo .or (fun _ x y => x ||| y) d a b scope order width s
def execAmoxor (d a b : BitVec 5) (scope order : BitVec 2) (width : Bool) (s : State) : Res :=
  amo .xor (fun _ x y => x ^^^ y) d a b scope order width s
def execAmomin (d a b : BitVec 5) (scope order : BitVec 2) (width : Bool) (s : State) : Res :=
  amo .min (fun n x y => if signedLess n y x then y else x) d a b scope order width s
def execAmomax (d a b : BitVec 5) (scope order : BitVec 2) (width : Bool) (s : State) : Res :=
  amo .max (fun n x y => if signedLess n x y then y else x) d a b scope order width s
def execAmominu (d a b : BitVec 5) (scope order : BitVec 2) (width : Bool) (s : State) : Res :=
  amo .minu (fun _ x y => min x y) d a b scope order width s
def execAmomaxu (d a b : BitVec 5) (scope order : BitVec 2) (width : Bool) (s : State) : Res :=
  amo .maxu (fun _ x y => max x y) d a b scope order width s
def execAmoswap (d a b : BitVec 5) (scope order : BitVec 2) (width : Bool) (s : State) : Res :=
  amo .swap (fun _ _ y => y) d a b scope order width s
/-- AMOCAS compares with g[gd] at the width; a failed compare writes nothing. -/
def execAmocas (d a b : BitVec 5) (scope order : BitVec 2) (width : Bool) (s : State) : Res :=
  let n := 8 * atomBytes width
  let x := (s.rg d).toNat % 2 ^ n
  let y := (s.rg b).toNat % 2 ^ n
  finishG d (s.atomic (.cas (BitVec.ofNat 64 x)) y (s.rg a) scope order width true (fun old => if old = x then some y else none))
def execAmold (d a : BitVec 5) (scope order : BitVec 2) (width : Bool) (s : State) : Res :=
  finishG d (s.atomic .read 0 (s.rg a) scope order width true (fun _ => none))
def execAmost (a b : BitVec 5) (scope order : BitVec 2) (width : Bool) (s : State) : Res :=
  let y := (s.rg b).toNat % 2 ^ (8 * atomBytes width)
  finish ((s.atomic .write y (s.rg a) scope order width false (fun _ => some y)).bind fun _ s => .ok () s)

/-! ## AMOWAIT (R294) -/

/-- The queues of a memory site hold 16,384 waiters. -/
def State.queueFull (s : State) (pa : Nat) : Bool :=
  decide (16384 ≤ (s.waiters.filter (fun w => s.homeSite w.pa == s.homeSite pa)).length)

/-- The wisp joins the tail of the word's queue; a write that its own departure registered may wake it at once. -/
def State.enqueue (s : State) (w : Waiter) : State :=
  let s := { s with waiters := s.waiters ++ [w] }
  if s.watched w.pa w.wide == w.y then s else s.wakeWaiter w

/-- A wisp for which a kill is signalled is killed as it parks (R300). -/
def execAmowait (d a b : BitVec 5) (scope order : BitVec 2) (width : Bool) (s : State) : Res :=
  let c := s.cur
  let n := atomBytes width
  let y := extendW n ((s.rg b).toNat % 2 ^ (8 * n))
  let addr := s.rg a
  match s.atomicPrelude addr scope order width with
  | .trap t s => .next (s.trap t)
  | .wait s => .next s.block
  | .ok t s =>
    let s := s.sendRemote .read t.pa n 0
    if s.homePois t.pa n || s.cutOff c t.pa then .next (s.trap { cause := 0x0E, tval := addr })
    else
      let v := s.watched t.pa width
      if v ≠ y || s.queueFull t.pa then
        finishG d (.ok v (if acquires order then s.acquire c 255 scope.toNat else s))
      else killPoint s <|
        let stay := s.staysPut
        let (l, i) := s.wispOn c
        let w : Waiter := ⟨t.pa, width, y, l, i, if stay then some c else none⟩
        finishAt ((s.suspendAt 4 (.word t.pa y width d.toNat order.toNat scope.toNat)).bind fun _ s => .ok () (s.enqueue w))

end Sys2Proof.Machine
end

