-- ==== Sys2Proof/Machine/Barrier.lean ====
section
/-! DEFINITION. Barriers (R288 to R291): ARRIVE, VOTE and WAITB. -/

namespace Sys2Proof.Machine

/-! ## Which barrier -/

def barScope (id : Nat) : Nat := id / 2 ^ 14 % 4
def barIndex (id : Nat) : Nat := id % 2 ^ 14
/-- An index in range, and an ordering scope at least the barrier's own (R288, R290). -/
def barLegal (id : Nat) (scope : BitVec 2) : Bool :=
  (match barScope id with
    | 0 => decide (barIndex id < 4)
    | 1 => decide (barIndex id < 32)
    | _ => true) && decide (barScope id ≤ scope.toNat)

/-- One number per barrier: its unit and index, or the address of its entry. -/
def State.barKey (s : State) (c id : Nat) : Nat :=
  match barScope id with
  | 0 => clusterOf c * 32 + barIndex id
  | 1 => 2 ^ 60 + dieOf c * 32 + barIndex id
  | 2 => 2 ^ 61 + ((s.vdevAt (s.vdevOn c)).pbt + 16 * barIndex id)
  | _ => 2 ^ 61 + ((s.vdevAt (s.vdevOn c)).sbt + 16 * barIndex id)

/-! ## Its state (R289) -/

/-- The virtual device of a cluster or die barrier (R288): a phase without arrivals passes to the device that arrives;
none: the phase has arrivals of another device. -/
def Barrier.ownedBy (b : Barrier) (f : Nat) : Option Barrier :=
  match b.owner with
  | some o => if o = f then some b else if b.arrived = 0 then some { owner := some f } else none
  | none => some { b with owner := some f }

/-- One arrival with count n and predicate votes (for AND, for OR); it returns the phase it counted in, and whether the
phase is complete (R290). -/
def Barrier.arrive (b : Barrier) (n : Nat) (pa po : Bool) : Barrier × Nat × Bool :=
  let b := if b.arrived = 0 then { b with nexp := n, vand := true, vor := false, mism := false }
    else if n ≠ b.nexp then { b with mism := true } else b
  let b := { b with arrived := b.arrived + 1, vand := b.vand && pa, vor := b.vor || po }
  if b.arrived = b.nexp then
    ({ b with land := b.vand, lor := b.vor, lmism := b.mism, phase := (b.phase + 1) % 2 ^ 32, arrived := 0, nexp := 0 },
      b.phase, true)
  else (b, b.phase, false)

/-- Wakes every wisp that waits for a phase of this barrier that is now complete; its result is read when it is written, so
that it describes the latest phase to complete (R291). -/
def State.wakeBarrier (s : State) (key : Nat) : State :=
  let b := s.barAt key
  let s := s.cores.foldl (fun s e => match e.2.waitOn with
    | .barrier k q d sc => if k = key ∧ phaseDone b.phase q then s.endCoreWait e.1 (.passed key d sc) else s
    | _ => s) s
  s.wisps.foldl (fun s e => match e.2.waitOn with
    | .barrier k q d sc => if k = key ∧ e.2.st = 1 ∧ phaseDone b.phase q then s.endParkedWait e.1 (.passed key d sc) else s
    | _ => s) s

/-! ## The route to an entry (R250, R256, R262) -/

/-- The reply of a barrier's home, or of a join's, is poison: a machine check that names no address (R256; DESIGN CHOICE,
log 29). -/
def poisonReply : Trap := { cause := 0x0E, tval := 0 }
/-- A message to the home of a package or system barrier; one in another package is a transaction (R262). -/
def State.barSend (s : State) (id key : Nat) : State :=
  if 2 ≤ barScope id then s.sendRemote .read (key - 2 ^ 61) 16 0 else s
def State.barReqDown (s : State) (c id key : Nat) : Bool := decide (2 ≤ barScope id) && s.reqDown (dieOf c) (key - 2 ^ 61)
def State.barCut (s : State) (c id key : Nat) : Bool := decide (2 ≤ barScope id) && s.cutOff c (key - 2 ^ 61)

/-! ## The instructions -/

def barWord (fn : Nat) (d a b : BitVec 5) (scope : BitVec 2) : BitVec 32 :=
  rrWord (0x94000000 + fn) d a b (8 * scope.toNat)

/-- An arrival; p is none for ARRIVE, whose vote is neutral. -/
def arriveAt (w : BitVec 32) (d a : BitVec 5) (p : Option Bool) (scope : BitVec 2) (s : State) : Res :=
  let c := s.cur
  let v := (s.rg a).toNat
  let id := bits v 15 0
  let n := bits v 31 16
  if v / 2 ^ 32 ≠ 0 ∨ n = 0 ∨ barLegal id scope = false then .next (s.trap (illegal w))
  else finish ((s.release c 255 scope.toNat).bind fun _ s =>
    let key := s.barKey c id
    match (if 2 ≤ barScope id then some (s.barAt key) else (s.barAt key).ownedBy (s.vdevOn c)) with
    | none => .trap { cause := 1, tval := BitVec.ofNat 64 id } s
    | some b =>
      let s := s.barSend id key
      if s.barReqDown c id key then .trap poisonReply s
      else
        let cut := s.barCut c id key
        let (b, ph, full) := b.arrive n (p.getD true) (p.getD false)
        let s := s.setBar key b
        let s := if full then s.wakeBarrier key else s
        if cut then .trap poisonReply (s.unmute c (key - 2 ^ 61)) else .ok () (s.wg d (BitVec.ofNat 64 ph)))

def execArrive (d a : BitVec 5) (scope : BitVec 2) (s : State) : Res := arriveAt (barWord 6 d a 0 scope) d a none scope s
def execVote (d a b : BitVec 5) (scope : BitVec 2) (s : State) : Res :=
  arriveAt (barWord 8 d a b scope) d a (some (s.rg b != 0)) scope s

def execWaitb (d a b : BitVec 5) (scope : BitVec 2) (s : State) : Res :=
  let c := s.cur
  let id := bits (s.rg a).toNat 15 0
  let q := bits (s.rg b).toNat 31 0
  if !barLegal id scope then .next (s.trap (illegal (barWord 7 d a b scope)))
  else killPoint s <|
    let key := s.barKey c id
    let s := s.barSend id key
    let bar := s.barAt key
    if s.barCut c id key then .next ((s.unmute c (key - 2 ^ 61)).trap poisonReply)
    else if phaseDone bar.phase q then setG d bar.result (s.acquire c 255 scope.toNat)
    else finishAt ((s.suspendAt 3 (.barrier key q d.toNat scope.toNat)).bind fun _ s =>
      .ok () (if phaseDone (s.barAt key).phase q then s.wakeBarrier key else s))

end Sys2Proof.Machine
end

