-- ==== Sys2Proof/Machine/BitField.lean ====
section
/-! DEFINITION. The BF group (R111): a width of wm1 + 1 bits at pos. -/

namespace Sys2Proof.Machine

def execBfx (d a : BitVec 5) (pos wm1 : BitVec 6) (s : State) : Res :=
  setG d (bfExtract (s.rg a) pos.toNat (wm1.toNat + 1) true) s
def execBfxz (d a : BitVec 5) (pos wm1 : BitVec 6) (s : State) : Res :=
  setG d (bfExtract (s.rg a) pos.toNat (wm1.toNat + 1) false) s
def execBfi (d a : BitVec 5) (pos wm1 : BitVec 6) (s : State) : Res :=
  setG d (bfInsert (s.rg d) (s.rg a) pos.toNat (wm1.toNat + 1)) s

end Sys2Proof.Machine
end

