-- ==== Sys2Proof/Machine/Branch.lean ====
section
/-! DEFINITION. Compare branches and jumps (R117 to R119). -/

namespace Sys2Proof.Machine

def execBeq (a b : BitVec 5) (off : BitVec 16) (s : State) : Res := branchTo (s.rg a == s.rg b) off s
def execBne (a b : BitVec 5) (off : BitVec 16) (s : State) : Res := branchTo (s.rg a != s.rg b) off s
def execBlt (a b : BitVec 5) (off : BitVec 16) (s : State) : Res := branchTo ((s.rg a).slt (s.rg b)) off s
def execBge (a b : BitVec 5) (off : BitVec 16) (s : State) : Res := branchTo (!(s.rg a).slt (s.rg b)) off s
def execBltu (a b : BitVec 5) (off : BitVec 16) (s : State) : Res := branchTo ((s.rg a).ult (s.rg b)) off s
def execBgeu (a b : BitVec 5) (off : BitVec 16) (s : State) : Res := branchTo (!(s.rg a).ult (s.rg b)) off s
def execJ (off : BitVec 26) (s : State) : Res := .next (s.jump (s.target off))
/-- JAL writes the link to g30 (R118). -/
def execJal (off : BitVec 26) (s : State) : Res := .next ((s.wg 30 (s.pc + 4)).jump (s.target off))
/-- A target with bits [1:0] set traps 0x08 before any link is written (R119). -/
def jumpReg (t : Word) (go : State → State) (s : State) : Res :=
  if t.toNat % 4 ≠ 0 then .next (s.trap { cause := 8, tval := t }) else .next ((go s).jump t)
def execJr (a : BitVec 5) (s : State) : Res := jumpReg (s.rg a) id s
def execJalr (d a : BitVec 5) (s : State) : Res := jumpReg (s.rg a) (fun s => s.wg d (s.pc + 4)) s

end Sys2Proof.Machine
end

