-- ==== Sys2Proof/Machine/Engine.lean ====
section
/-! DEFINITION. What the engines of a core share: the status of ESTAT and GSTAT (R68, R203, R223, R238), the dependence
graph (R244 to R246), pending faults and their reports (R135, R204), and the hand-over of commands (R108, R202, R218). -/

namespace Sys2Proof.Machine

/-! ## ESTAT and GSTAT -/

def Core.gpend (x : Core) : Bool := x.e.graph.any (fun e => e.2.held)
/-- A binding of the core waits (R237). -/
def Core.stalled (x : Core) : Bool := x.e.bind.any (fun e => e.2.used && e.2.stall.isSome)
/-- A piece of one of the core's copies waits for admission (R223), or one of its streams (R254). -/
def State.cadm (s : State) (c : Nat) : Bool :=
  (s.dieAt (dieOf c)).waiting.any (fun p => p.core == c && p.wake == .copyCompletion c)
def State.sstall (s : State) (c : Nat) : Bool :=
  (s.coreAt c).stalled || (s.dieAt (dieOf c)).waiting.any (fun p => p.core == c && p.wake != .copyCompletion c)
/-- A stream fault has not been reported (R238). -/
def Core.sfault (x : Core) : Bool := x.e.bind.any (fun e => e.2.used && e.2.flt.isSome)

def State.estat (s : State) (c : Nat) : BitVec 13 :=
  let x := s.coreAt c
  let e := x.e
  BitVec.ofNat 13 ((e.mq != []).toNat + e.mdone.toNat * 2 + e.mflt.toNat * 4 + (e.cq != []).toNat * 16 + e.cdone.toNat * 32
    + e.cflt.toNat * 64 + (s.cadm c).toNat * 128 + (s.sbusy c).toNat * 256 + (s.sstall c).toNat * 512 + x.sfault.toNat * 1024
    + x.gpend.toNat * 4096)
/-- Bit n: node n done. -/
def Core.gstat (x : Core) : BitVec 32 :=
  (List.range 32).foldl (fun m n => if n ≠ 0 ∧ (x.node n).done = true then m ||| BitVec.ofNat 32 (2 ^ n) else m) 0

/-- Seeing a DONE bit makes the covered commands' effects visible, as by an acquire at cluster scope (R121). -/
def State.sawDone (s : State) (c : Nat) (seen : Bool) : State := if seen then s.acquire c 255 0 else s

/-! ## Faults and reports (R135, R204) -/

def matrixTval (code fn row : Nat) : Word := BitVec.ofNat 64 (1 + code * 2 ^ 8 + fn * 2 ^ 16 + row * 2 ^ 20)
def copyTval (code fn : Nat) : Word := BitVec.ofNat 64 (2 + code * 2 ^ 8 + fn * 2 ^ 16)

/-- The pending fault that a report carries: matrix unit, copy engine, Sluice in that order. -/
def Core.pendingFault (x : Core) : Option Word :=
  match x.e.mfault, x.e.cfault with
  | some t, _ => some t
  | none, some t => some t
  | none, none => (x.e.bind.findSome? (fun e => if e.2.used then e.2.flt else none))

/-- The fault is reported: it alone is consumed, and the graph is reset (R135, R246). -/
def Eng.consume (e : Eng) : Eng :=
  match e.mfault, e.cfault with
  | some _, _ => { e with mfault := none, mflt := false }
  | none, some _ => { e with cfault := none, cflt := false }
  | none, none =>
    match e.bind.find? (fun b => b.2.used && b.2.flt.isSome) with
    | some (i, b) => { e with bind := Store.set {} e.bind i { b with flt := none } }
    | none => e
def State.report (s : State) (c : Nat) (tval : Word) (tepc : Option Word) : State :=
  let s := s.updCore c (·.updE (fun e => e.consume.resetGraph))
  ((s.kickCluster c).kickC c).takeTrap c { cause := 9, tval := tval, tepc := tepc }

/-- The hand-over of an MTX, CPYE or STRM instruction reports a pending fault first and has no effect then (R204). -/
def handOver (s : State) (go : Res) : Res :=
  match s.me.pendingFault with
  | some t => .next (s.report s.cur t none)
  | none => go

/-- The wisp becomes pinned (R24); a pre-emption that is posted is forced at once (R325). -/
def State.pin (s : State) (c : Nat) : State :=
  (s.updWisp (s.wispKey c) ({ · with pinned := true })).updCore c (fun x => x.updS (fun r => { r with force := r.force || r.pend }))

def mtxWord (fn : Nat) (d a b tag : BitVec 5) : BitVec 32 := rrWord (0xE0000000 + fn) d a b tag.toNat
def cpyWord (fn : Nat) (d a b tag : BitVec 5) : BitVec 32 := rrWord (0xE4000000 + fn) d a b tag.toNat
def strmWord (fn : Nat) (d a : BitVec 5) : BitVec 32 := rrWord (0xE8000000 + fn) d a 0 0
def graphWord (fn : Nat) (d a b tag : BitVec 5) : BitVec 32 := rrWord (0xEC000000 + fn) d a b tag.toNat

/-- A matrix command joins the queue of 8: its queue's DONE falls, its node holds it, the wisp is pinned (R202, R203). -/
def pushMatrix (w : BitVec 32) (m : MCmd) (s : State) : Res :=
  let e := s.me.e
  if !e.tagOk m.tag then .next (s.trap (illegal w))
  else if 8 ≤ e.mq.length then .next s.stall
  else
    let s := s.updMe (·.updE (fun e => { (e.handTag m.tag) with mq := e.mq ++ [{ m with seq := s.draw }], mdone := false }))
    .next ((s.pin s.cur).kickM s.cur).nextPc
/-- A copy command joins the queue of 16; a typed operand pins the wisp (R218, R223, R24). -/
def pushCopy (w : BitVec 32) (k : CCmd) (typed : Bool) (s : State) : Res :=
  let e := s.me.e
  if !e.tagOk k.tag then .next (s.trap (illegal w))
  else if 16 ≤ e.cq.length then .next s.stall
  else
    let s := s.updMe (·.updE (fun e => { (e.handTag k.tag) with cq := e.cq ++ [k], cdone := false }))
    let s := if typed then s.pin s.cur else s
    .next (s.kickC s.cur).nextPc

/-! ## ENGWAIT (R135) -/

/-- Every selected engine is idle: bits 0 matrix, 1 copy, 2 Sluice, 3 graph-held commands; mask 0 selects all. -/
def State.engIdle (s : State) (c m : Nat) : Bool :=
  let x := s.coreAt c
  let sel (i : Nat) : Bool := m == 0 || m / 2 ^ i % 2 == 1
  (!sel 0 || x.e.mq == []) && (!sel 1 || (x.e.cq == [] && !s.cadm c)) && (!sel 2 || !s.sbusy c) && (!sel 3 || !x.gpend)

/-- Asks for the step that moves a binding's pushes: those of a STORE, whole chunks of the other kinds (R235, R236, R311). -/
def State.askMove (s : State) (c i : Nat) : State :=
  let b := s.bindAt c i
  if b.kind = 1 then s.postOnce (.streamStorePerform c i)
  else
    let s := if b.chunk ≤ b.unsent.length then s.postOnce (.sendChunk c i) else s
    if b.collective then s.postOnce (.collectiveCombine b.anchor) else s

/-- The bindings that the wait awaits keep a stall clock, from when they stopped moving or from the start of the wait; past WDOG
the wait traps 0x0A (R135). -/
def State.engStall (s : State) (c m : Nat) : Option Trap × State :=
  if m == 0 || m / 4 % 2 == 1 then
    let l := (s.liveBinds c).filter (s.bindBusy c)
    match l.findSome? (fun i => s.stallTrap c i) with
    | some t => (some t, l.foldl (fun s i => s.stallClear c i) s)
    | none => (none, l.foldl (fun s i => (s.stallMark c i true).askMove c i) s)
  else (none, s)

/-- ENGWAIT's wait with mask m: what follows it, or the wait, or its watchdog; then a pending fault is reported with the
TEPC given. -/
def engWait (m : Nat) (tepc : Option Word) (s : State) (go : State → Res) : Res :=
  let c := s.cur
  if s.engIdle c m then
    let s := (s.liveBinds c).foldl (fun s i => s.stallClear c i) (s.acquire c 255 0)
    match s.me.pendingFault with
    | some t => .next (s.report c t tepc)
    | none => go s
  else
    match s.engStall c m with
    | (some t, s) => .next (s.trap t)
    | (none, s) => .next s.stall

def execEngwait (a : BitVec 5) (s : State) : Res :=
  let m := (s.rg a).toNat
  if m / 16 ≠ 0 then .next (s.trap (illegal (rrWord 0x9800000A 0 a 0 0)))
  else engWait m (some (s.pc + 4)) s (fun s => .next s.nextPc)

def execEngstat (d : BitVec 5) (s : State) : Res :=
  let c := s.cur
  let e := s.estat c
  let g := s.me.gstat
  let v : Word := BitVec.ofNat 64 (e.toNat + g.toNat / 2 * 2 ^ 33)
  setG d v (s.sawDone c (e.getLsbD 1 || e.getLsbD 5 || g != 0))

/-! ## GRAPH (R247, R248) -/

def execGdef (a b tag : BitVec 5) (s : State) : Res :=
  let n := tag.toNat
  let v := s.rg b
  if n = 0 ∨ 31 < (s.rg a).toNat ∨ v.getLsbD 0 = true ∨ v.getLsbD n = true ∨ v.toNat / 2 ^ 32 ≠ 0 ∨ s.me.e.nodeBusy n = true
  then .next (s.trap (illegal (graphWord 0 0 a b tag)))
  else
    let k := (s.rg a).toNat
    .next (s.updMe (·.updE (fun e => e.updNode n (fun _ =>
      { count := k, mask := v.setWidth 32, defd := true, held := false, done := false })))).nextPc

/-- What GWAIT awaits has come: the node is done or undefined, or with tag 0 nothing is held and every tagged command
has completed. -/
def Core.gwaitDone (x : Core) (n : Nat) : Bool :=
  if n = 0 then !x.gpend && !x.e.mq.any (fun m => m.tag != 0) && !x.e.cq.any (fun k => k.tag != 0)
  else !(x.node n).defd || (x.node n).done

def execGwait (tag : BitVec 5) (s : State) : Res :=
  let c := s.cur
  if s.me.gwaitDone tag.toNat || s.me.pendingFault.isSome then
    let s := s.acquire c 255 0
    match s.me.pendingFault with
    | some t => .next (s.report c t (some (s.pc + 4)))
    | none => .next s.nextPc
  else .next s.stall

def execGqry (d tag : BitVec 5) (s : State) : Res :=
  let g := s.me.node tag.toNat
  if tag = 0 then .next (s.trap (illegal (graphWord 2 d 0 0 tag)))
  else setG d (BitVec.ofNat 64 (g.count + g.defd.toNat * 32 + g.held.toNat * 64 + g.done.toNat * 128
    + g.mask.toNat / 2 * 2 ^ 33)) s

end Sys2Proof.Machine
end

