-- ==== Sys2Proof/Machine/Cpye.lean ====
section
/-! DEFINITION. CPYE (R218 to R230): the copy queue's instructions, and the steps of the cluster's copy engine. -/

namespace Sys2Proof.Machine

/-! ## Hand-over (R219 to R221, R226 to R230) -/

/-- R220 on one side of a copy: the fields of the operand, and every row within the buffer in steps of 4. -/
def State.typedSideOk (s : State) (c v : Nat) (dest : Bool) (g : CGeo) (st1 st2 : Word) : Bool :=
  let t := typedCore c v
  let sp := typedSpace v
  let off : Int := typedOff v
  let e1 := (g.n1 - 1 : Nat) * st1.toInt
  let e2 := (g.n2 - 1 : Nat) * st2.toInt
  bits v 55 23 == 0
    && (if dest then decide (sp ≤ 1) && s.coreLive t else sp == 2 && t == c)
    && typedOff v % 4 == 0 && g.len % 4 == 0 && st1.toNat % 4 == 0 && st2.toNat % 4 == 0
    && (g.len == 0 || g.n1 == 0 || g.n2 == 0
      || [off, off + e1, off + e2, off + e1 + e2].all (fun o => decide (0 ≤ o ∧ o + g.len ≤ 0x40000)))

/-- CPCFG captures one side's geometry from the descriptor registers. -/
def execCpcfg (a : BitVec 5) (s : State) : Res :=
  handOver s <|
    let v := s.rg a
    if v.toNat / 2 ≠ 0 then .next (s.trap (illegal (cpyWord 0 0 a 0 0)))
    else
      let u := s.me.u
      let n (i : Nat) : Nat := (Store.get (0 : BitVec 16) u.dn i).toNat
      let d (i : Nat) : Word := Store.get 0 u.ds i
      .next (s.updMe (·.updE (fun e => { e with geo :=
        if v = 0 then { e.geo with len := n 0, n1 := n 1, n2 := n 2, ss1 := d 1, ss2 := d 2 }
        else { e.geo with ds1 := d 1, ds2 := d 2 } }))).nextPc

/-- CPY and CPYN: w is the instruction word, g the rows, ok whether the control word's reserved bits are 0. -/
def handCopy (w : BitVec 32) (kind : CKind) (tag d src ctl : Word) (g : CGeo) (ok : Bool) (s : State) : Res :=
  handOver s <|
    let c := s.cur
    let td := isTyped d.toNat
    let ts := isTyped src.toNat
    if ctl.toNat / 2 ^ 34 ≠ 0 ∨ ok = false
        ∨ (ts = true ∧ s.typedSideOk c src.toNat false g g.ss1 g.ss2 = false)
        ∨ (td = true ∧ s.typedSideOk c d.toNat true g g.ds1 g.ds2 = false)
    then .next (s.trap (illegal w))
    else pushCopy w { kind := kind, tag := tag.toNat, dst := d, src := src, scope := bits ctl.toNat 33 32, geo := g } (td || ts) s

def execCpy (d a b tag : BitVec 5) (s : State) : Res :=
  let w := s.rg b
  handCopy (cpyWord 1 d a b tag) .cpy (tag.setWidth 64) (s.rg d) (s.rg a) w { len := bits w.toNat 31 0, n1 := 1, n2 := 1 } true s
def execCpyn (d a b tag : BitVec 5) (s : State) : Res :=
  let w := s.rg b
  handCopy (cpyWord 2 d a b tag) .cpyn (tag.setWidth 64) (s.rg d) (s.rg a) w s.me.e.geo (bits w.toNat 31 0 == 0) s

/-- PUBL: mask [7:0] of W windows, [15:8] of A windows. -/
def execPubl (a tag : BitVec 5) (s : State) : Res :=
  handOver s <|
    let w := cpyWord 3 0 a 0 tag
    let v := (s.rg a).toNat
    if v / 2 ^ 16 ≠ 0 then .next (s.trap (illegal w))
    else pushCopy w { kind := .publ, tag := tag.toNat, mask := v } false s

/-! ## What a copy moves (R222, R224, R228) -/

/-- Of two readings of the same source bytes, the earlier and the present one, each byte is one or the other (R222). -/
def mixOld (seed : Nat) (old new n : Nat) : Nat :=
  (List.range n).foldl (fun v i =>
    v + (if Config.overlapOld seed i then old else new) / 256 ^ i % 256 * 256 ^ i) 0

inductive CopyEnd where
  | ok
  | wait
  | bad (code : Nat) (frec : Option (BitVec 512))
deriving DecidableEq, Repr

/-- Reads n bytes, within a word, of the source as it stands in s. -/
def State.copyRead (s : State) (c src n scope : Nat) : Except CopyEnd Nat × State :=
  if isTyped src then
    let t := (s.coreAt c).typed
    (if t.isPois 2 true (typedOff src) n then .error (.bad 3 none) else .ok (t.get 2 true (typedOff src) n), s)
  else match s.xlat c src .read false false with
    | .wait s => (.error .wait, s)
    | .trap t s => (.error (if t.cause = 0x0E then .bad 3 none else .bad 1 t.frec), s)
    | .ok t s => match s.engineRead c t n scope with
      | (_, true, s) => (.error (.bad 3 none), s.unmute c t.pa)
      | (v, false, s) => (.ok v, s)

/-- Writes n bytes, within a word, of the destination; skip: the write is only checked. -/
def State.copyWrite (s : State) (c dst n v scope : Nat) (skip : Bool) : CopyEnd × State :=
  if isTyped dst then
    (.ok, if skip then s else s.typedPut (typedCore c dst) (typedSpace dst) false (typedOff dst) n v)
  else match s.xlat c dst .write false false with
    | .wait s => (.wait, s)
    | .trap t s => (if t.cause = 0x0E then .bad 3 none else .bad 2 t.frec, s)
    | .ok t s => (.ok, if skip then s else s.engineWrite c t n v scope)

/-- Copies m bytes within a word of the source and of the destination: read, at offset at_ of the piece; s0 is the state before
the copy. -/
def State.copyPart (s0 s : State) (c scope seed src m at_ : Nat) : Except CopyEnd Nat × State :=
  match s.copyRead c src m scope with
  | (.error e, s) => (.error e, s)
  | (.ok v, s) =>
    let old := match (s0.copyRead c src m scope).1 with | .ok o => o | .error _ => v
    (.ok (mixOld (seed + at_) old v m), s)
/-- Writes m bytes within a word of the destination. sel: which bytes are written, by their offset in the piece; none: all of
them, at once. -/
def State.copyPut (s : State) (c scope : Nat) (sel : Option (Nat → Bool)) (dst m x at_ : Nat) : CopyEnd × State :=
  match sel with
  | none => s.copyWrite c dst m x scope false
  | some p => (List.range m).foldl (fun acc i => match acc with
      | (.ok, s) => s.copyWrite c ((dst + i) % 2 ^ 64) 1 (x / 256 ^ i % 256) scope (!p (at_ + i))
      | r => r) (.ok, s)

/-- Copies n bytes from src to dst, word by word of the destination, each of at most two words of the source: a word that is
written whole is one write, and loses its poison (R197, R336). Up to a byte that cannot be read, bytes are written. -/
def State.copyRun (s0 : State) (c scope seed : Nat) (sel : Option (Nat → Bool)) :
    Nat → State → Nat → Nat → Nat → Nat → CopyEnd × State
  | 0, s, _, _, _, _ => (.ok, s)
  | k + 1, s, src, dst, n, at_ =>
    if n = 0 then (.ok, s)
    else
      let m := min n (4 - dst % 4)
      let a := min m (4 - src % 4)
      match s0.copyPart s c scope seed src a at_ with
      | (.error e, s) => (e, s)
      | (.ok x, s) =>
        match (if m = a then (.ok 0, s) else s0.copyPart s c scope seed ((src + a) % 2 ^ 64) (m - a) (at_ + a)) with
        | (.error .wait, s) => (.wait, s)
        | (.error e, s) => (e, (s.copyPut c scope sel dst a x at_).2)
        | (.ok y, s) =>
          match s.copyPut c scope sel dst m (x + y * 256 ^ a) at_ with
          | (.ok, s) => State.copyRun s0 c scope seed sel k s ((src + m) % 2 ^ 64) ((dst + m) % 2 ^ 64) (n - m) (at_ + m)
          | r => r

/-- One piece, of at most 4,096 bytes: whole, or up to its faulting byte, where each byte is new or old (R224). -/
def State.copyPiece (s0 s : State) (c scope seed src dst n : Nat) : CopyEnd × State :=
  match s0.copyRun c scope seed none n s src dst n 0 with
  | (.ok, s) => (.ok, s)
  | (.wait, s) => (.wait, s)
  | (.bad _ _, _) => s0.copyRun c scope seed (some (Config.pieceNew seed)) n s src dst n 0

/-- A row in pieces; limit: bytes the copy may still move, when it has been aborted. -/
def State.copyRow (s0 : State) (c scope seed : Nat) : Nat → State → Nat → Nat → Nat → Option Nat → CopyEnd × State × Option Nat
  | 0, s, _, _, _, lim => (.ok, s, lim)
  | k + 1, s, src, dst, n, lim =>
    let m := min n (min 4096 (lim.getD 4096))
    if m = 0 then (.ok, s, lim)
    else match s0.copyPiece s c scope seed src dst m with
      | (.ok, s) => State.copyRow s0 c scope (seed + 4096) k s ((src + m) % 2 ^ 64) ((dst + m) % 2 ^ 64) (n - m) (lim.map (· - m))
      | (e, s) => (e, s, lim)

/-- Where row i of a command starts at its source and at its destination, j2 outer and j1 inner (R221). -/
def CCmd.rowAt (m : CCmd) (i : Nat) : Nat × Nat :=
  let j1 := BitVec.ofNat 64 (i % max m.geo.n1 1)
  let j2 := BitVec.ofNat 64 (i / max m.geo.n1 1)
  ((m.src + j1 * m.geo.ss1 + j2 * m.geo.ss2).toNat, (m.dst + j1 * m.geo.ds1 + j2 * m.geo.ds2).toNat)
/-- The rows of a command from the i-th on; first argument: rows left. -/
def State.copyRows (s0 : State) (c seed : Nat) (m : CCmd) : Nat → Nat → State → Option Nat → CopyEnd × State
  | 0, _, s, _ => (.ok, s)
  | k + 1, i, s, lim =>
    let (src, dst) := m.rowAt i
    match s0.copyRow c m.scope (seed + i * 2 ^ 32) (m.geo.len / 4096 + 1) s src dst m.geo.len lim with
    | (.ok, s, lim) => State.copyRows s0 c seed m k (i + 1) s lim
    | (e, s, _) => (e, s)
def State.copyAll (s : State) (c : Nat) (m : CCmd) (lim : Option Nat) : CopyEnd × State :=
  s.copyRows c (s.draw * 2 ^ 64) m (m.geo.n1 * m.geo.n2) 0 s lim

/-! ## Steps of the engine -/

/-- The command that starts next: the first that no node holds; a PUBL only when it is the oldest (R218, R225). -/
def Eng.nextCopy (e : Eng) : Option CCmd :=
  if e.cq.any (·.started) then none
  else match e.cq.find? (fun m => !e.heldTag m.tag) with
    | some m => if m.kind == .publ && e.cq.head? != some m then none else some m
    | none => none

def Eng.updCopy (e : Eng) (f : CCmd → CCmd) : Eng :=
  { e with cq := e.cq.map (fun m => if m.started then f m else m) }

def CCmd.usesDva (m : CCmd) : Bool := !isTyped m.dst.toNat || !isTyped m.src.toNat
/-- Pieces of a row, of at most 4 KiB each, and of the whole copy; a copy within the cluster takes none (R223, R254). -/
def CCmd.perRow (m : CCmd) : Nat := (m.geo.len + 4095) / 4096
def CCmd.pieces (m : CCmd) : Nat := if m.usesDva then m.geo.n1 * m.geo.n2 * m.perRow else 0
/-- The bytes of the pieces that are admitted. -/
def CCmd.admitted (m : CCmd) : Nat := m.adm / m.perRow * m.geo.len + min (m.adm % m.perRow * 4096) m.geo.len
/-- Where the n bytes at a begin in each granule of 256 bytes, the finest interleave (R81). -/
def granules (a n : Nat) : List Nat :=
  a :: (List.range ((a % 256 + n - 1) / 256)).map (fun j => ((a / 256 + j + 1) * 256) % 2 ^ 64)
/-- The flits of piece k, and the links it crosses: from the homes of its source to the die, and from the die to the homes of its
destination. -/
def State.pieceAt (s : State) (c : Nat) (m : CCmd) (k : Nat) : List Nat × List Nat :=
  let (src, dst) := m.rowAt (k / m.perRow)
  let off := k % m.perRow * 4096
  let n := min 4096 (m.geo.len - off)
  let links (a : Nat) (kd : AKind) : List Nat :=
    if isTyped a then []
    else s.spanLinks (dieOf c) (kd == .write) (s.homesOf c kd (granules ((a + off) % 2 ^ 64) n))
  (piecesOf n, links src .read ++ links dst .write)

def execCopyCommandStart (core : Nat) (s : State) : Res :=
  let e := (s.coreAt core).e
  match (if (s.coreAt core).stage == .halted then none else e.nextCopy) with
  | none => .next s
  | some m =>
    let start (s : State) : State := s.updCore core (·.updE (fun e =>
      { e with cq := e.cq.map (fun x => if x == m then { x with started := true } else x) }))
    if m.kind == .publ then
      -- every push into the A windows has been written (R225)
      if (s.coreAt core).e.bind.any (fun b => b.2.used && isTyped b.2.base && b.2.kind == 1 && b.2.unsent != [])
      then .next s
      else .next ((start s).postOnce (.publicationSwap core))
    else .next ((start (s.acquire core 255 m.scope)).postOnce (.copyCompletion core))

/-- The oldest piece that waits at a die goes out when the die holds credits for it on every link of its route (R254). -/
def execPieceAdmission (die : Nat) (s : State) : Res :=
  match (s.dieAt die).waiting with
  | [] => .next s
  | p :: rest =>
    if !s.holdsCredits die p then .next s
    else
      let s := (s.updDie die (fun d => { d with waiting := rest, flying := d.flying ++ [p] })).postOnce p.wake
      .next (if rest = [] then s else s.postOnce (.pieceAdmission die))

/-- Credits return when the piece's last flit is delivered (R254). -/
def execCreditReturn (die flits : Nat) (s : State) : Res :=
  let s := s.updDie die (fun d => { d with flying := d.flying.eraseP (fun p => p.sent && p.flits == flits) })
  .next (if (s.dieAt die).waiting = [] then s else s.postOnce (.pieceAdmission die))

/-- CBUSY falls: CDONE is set, and CFLT when a fault is pending. -/
def Eng.copyIdle (e : Eng) : Eng := if e.cq = [] then { e with cdone := true, cflt := e.cfault.isSome } else e

/-- The executing command leaves the queue, and its node is done (R223, R244). -/
def State.endCopy (s : State) (c : Nat) (m : CCmd) : State :=
  let s := s.updCore c (·.updE (fun e =>
    ({ e with cq := e.cq.filter (fun x => !x.started) }.completeTag m.tag).copyIdle))
  (s.kickC c).kickCluster c

/-- A faulting copy ends; every later command is discarded (R224). -/
def State.failCopy (s : State) (c : Nat) (m : CCmd) (code : Nat) (frec : Option (BitVec 512)) : State :=
  let fn := if m.kind == .cpy then 1 else 2
  let s := s.updCore c (·.updE (fun e =>
    ({ e with cfault := some (copyTval code fn) }.dropHeld ((e.cq.dropWhile (fun (x : CCmd) => !x.started)).map CCmd.tag)).discard
      e.mq (e.cq.takeWhile (fun (x : CCmd) => !x.started))))
  match frec with
  | some f => s.updCore c ({ · with frec := f })
  | none => s

/-- The command that executes; a core that is halted has its engines stopped (R338). -/
def Core.executing (x : Core) : Option CCmd := if x.stage == .halted then none else x.e.cq.find? (·.started)

/-- The executing copy has its pieces admitted one after the other; then it moves its bytes (log 46), and completes once they are
released at its scope. -/
def execCopyCompletion (core : Nat) (s : State) : Res :=
  match (s.coreAt core).executing with
  | none => .next s
  | some m =>
    if m.kind == .publ then .next s
    else if m.adm < m.pieces then
      let (flits, links) := s.pieceAt core m m.adm
      match s.admission (dieOf core) core flits links (.copyCompletion core) with
      | (false, s) => .next s
      | (true, s) =>
        .next ((s.updCore core (·.updE (fun e => e.updCopy (fun m => { m with adm := m.adm + 1 })))).postOnce (.copyCompletion core))
    else if m.fin then
      if s.awaitsAnswer core then .next (s.postOnce (.copyCompletion core)) else .next (s.endCopy core m)
    else match s.copyAll core m none with
      | (.wait, _) => .next (s.postOnce (.copyCompletion core))
      | (.bad code frec, s) => .next ((s.failCopy core m code frec).kickC core)
      | (.ok, s) =>
        .next ((s.updCore core (·.updE (fun e => e.updCopy ({ · with fin := true })))).postOnce (.copyCompletion core))

/-- PUBL inverts the front bit of every window it names, all in one step (R225). -/
def execPublicationSwap (core : Nat) (s : State) : Res :=
  match (s.coreAt core).executing with
  | none => .next s
  | some m =>
    if m.kind != .publ then .next s
    else
      let s := s.updCore core (fun x => { x with typed := { x.typed with
        wFront := x.typed.wFront ^^^ BitVec.ofNat 8 m.mask
        aFront := x.typed.aFront ^^^ BitVec.ofNat 8 (m.mask / 256) } })
      .next (s.endCopy core m)

/-- The pieces of core c's copies that have not left are asked for no longer. -/
def State.dropPieces (s : State) (c : Nat) : State :=
  let mine (p : Piece) : Bool := p.core == c && p.wake == .copyCompletion c && !p.sent
  s.updDie (dieOf c) (fun d => { d with
    waiting := d.waiting.filter (fun p => !mine p), flying := d.flying.filter (fun p => !mine p) })

/-- CPABORT: queued and held commands are discarded, the executing one stops at a flit boundary (R230). -/
def execCpabort (s : State) : Res :=
  handOver s <|
    let c : Nat := s.cur
    let e : Eng := s.me.e
    if e.cq = [] then .next s.nextPc
    else
      let s := match e.cq.find? (·.started) with
        | some (m : CCmd) =>
          if m.kind == CKind.publ || m.fin then s
          else
            let n := Config.abortFlits s.draw * 64
            (s.copyAll c m (some (if m.usesDva then min n m.admitted else n))).2
        | none => s
      let s := s.updMe (·.updE (fun e =>
        { e.dropHeld (e.cq.map CCmd.tag) with cq := [], cdone := true, cflt := false }))
      .next (s.dropPieces c).nextPc

end Sys2Proof.Machine
end

