-- ==== Sys2Proof/Machine/Creg.lean ====
section
/-! DEFINITION. CREG (R67 to R70, R125, R126): CRD, CWR, CSET and CCLR. -/

namespace Sys2Proof.Machine

/-- The whole register, reserved bits 0; none: a number that is not in the maps of R68 and R69. -/
def State.cregRead (s : State) (c n : Nat) : Option Word :=
  let x := s.coreAt c
  let u := x.u
  let w := s.wispOn c
  match n with
  | 0x000 => some (u.vl.setWidth 64)
  | 0x001 => some (u.vtype.setWidth 64)
  | 0x002 => some (u.vlive.setWidth 64)
  | 0x003 => some (u.fctl.setWidth 64)
  | 0x004 => some (u.fstat.setWidth 64)
  | 0x005 => some (u.vstart.setWidth 64)
  | 0x006 => some (u.dix.setWidth 64)
  | 0x008 | 0x009 | 0x00A => some ((Store.get (0 : BitVec 16) u.dn (n - 8)).setWidth 64)
  | 0x00C | 0x00D | 0x00E => some (Store.get 0 u.ds (n - 0xC))
  | 0x010 => some ((s.estat c).setWidth 64)
  | 0x011 => some (x.gstat.setWidth 64)
  | 0x012 => some (BitVec.ofNat 64 w.2)
  | 0x013 => some (BitVec.ofNat 64 w.1)
  | 0x014 => some (BitVec.ofNat 64 (s.lcoreOf c % 2 ^ 16))
  | 0x015 => some (BitVec.ofNat 64 (s.lclusterOf (clusterOf c) % 2 ^ 16))
  | 0x016 => some (BitVec.ofNat 64 (s.ldieOf (dieOf c) % 2 ^ 8))
  | 0x018 => some (BitVec.ofNat 64 (s.cycleNow (dieOf c)))
  | 0x020 => some x.e.mfc
  | 0x021 => some x.e.mgeo
  | 0x030 => some u.joinctx
  | 0x031 => some (u.kgrace.setWidth 64)
  | 0x800 => some x.s.tvec
  | 0x801 => some (x.s.tcause.setWidth 64)
  | 0x802 => some x.s.tval
  | 0x803 => some x.s.tepc
  | 0x804 => some (BitVec.ofNat 64 (x.s.ppriv.toNat + x.s.inh.toNat * 2))
  | 0x810 => some (x.s.asn.setWidth 64)
  | 0x811 => some (x.s.asgen.setWidth 64)
  | 0x812 => some x.s.rdir
  | 0x820 => some ((x.s.deadline &&& ~~~ 3) ||| BitVec.ofNat 64 (x.s.pend.toNat + x.s.force.toNat * 2))
  | 0x830 => some (BitVec.ofNat 64 (x.s.brkhalt.toNat + x.s.step.toNat * 2))
  | _ => none

/-- ASN, with its generation (R87). -/
def State.setAsn (s : State) (c : Nat) (asn : BitVec 16) : State :=
  let g := Store.get 0 s.gens ((s.partOfCore c).getD 0 * 65536 + asn.toNat)
  s.updCore c (·.updS (fun r => { r with asn := asn, asgen := g }))

/-- Writes the RW fields from v; none: the register has no RW field, or does not exist. -/
def State.cregWrite (s : State) (c n : Nat) (v : Word) : Option State :=
  let u (f : UReg → UReg) : Option State := some (s.updCore c (·.updU f))
  let r (f : SReg → SReg) : Option State := some (s.updCore c (·.updS f))
  match n with
  | 0x002 => u ({ · with vlive := v.setWidth 32 })
  | 0x003 => u ({ · with fctl := v.setWidth 16 &&& 0xFF07 })
  | 0x004 => u ({ · with fstat := v.setWidth 7 })
  | 0x005 => u ({ · with vstart := v.setWidth 16 })
  | 0x006 => u ({ · with dix := v.setWidth 48 })
  | 0x008 | 0x009 | 0x00A => u (fun u => { u with dn := Store.set 0 u.dn (n - 8) (v.setWidth 16) })
  | 0x00C | 0x00D | 0x00E => u (fun u => { u with ds := Store.set 0 u.ds (n - 0xC) v })
  | 0x031 => u ({ · with kgrace := if v.setWidth 16 = (0 : BitVec 16) then 1 else v.setWidth 16 })
  | 0x800 => r ({ · with tvec := v &&& ~~~ 3 })
  | 0x801 => r ({ · with tcause := v.setWidth 8 })
  | 0x802 => r ({ · with tval := v })
  | 0x803 => r ({ · with tepc := v &&& ~~~ 3 })
  | 0x804 => r ({ · with ppriv := v.getLsbD 0 })
  | 0x810 => some (s.setAsn c (v.setWidth 16))
  | 0x812 => r ({ · with rdir := v &&& 0x00FFFFFFFFFFFFC0 })
  | 0x830 => r ({ · with brkhalt := v.getLsbD 0, step := v.getLsbD 1 })
  | _ => none

def cregWord (fn : Nat) (d a : BitVec 5) (creg : BitVec 12) : BitVec 32 :=
  BitVec.ofNat 32 (0x9C000000 + d.toNat * 2097152 + a.toNat * 65536 + creg.toNat * 16 + fn)

/-- The shape of the four: the privilege check, the old value to gd, and the new value where one is written. -/
def creg (w : BitVec 32) (d : BitVec 5) (creg : BitVec 12) (new : Option (Word → Word)) (s : State) : Res :=
  let c := s.cur
  let n := creg.toNat
  if !s.me.sup && decide (0x800 ≤ n) then .next (s.trap (privileged w))
  else match s.cregRead c n with
    | none => .next (s.trap (illegal w))
    | some old =>
      match (match new with | none => some s | some f => s.cregWrite c n (f old)) with
      | none => .next (s.trap (illegal w))
      | some s =>
        let seen := (n == 0x10 && (old.getLsbD 1 || old.getLsbD 5)) || (n == 0x11 && old != 0)
        setG d old (s.sawDone c seen)

def execCrd (d : BitVec 5) (creg : BitVec 12) (s : State) : Res :=
  Sys2Proof.Machine.creg (cregWord 0 d 0 creg) d creg none s
def execCwr (d a : BitVec 5) (creg : BitVec 12) (s : State) : Res :=
  Sys2Proof.Machine.creg (cregWord 1 d a creg) d creg (some (fun _ => s.rg a)) s
def execCset (d a : BitVec 5) (creg : BitVec 12) (s : State) : Res :=
  Sys2Proof.Machine.creg (cregWord 2 d a creg) d creg (some (fun o => o ||| s.rg a)) s
def execCclr (d a : BitVec 5) (creg : BitVec 12) (s : State) : Res :=
  Sys2Proof.Machine.creg (cregWord 3 d a creg) d creg (some (fun o => o &&& ~~~ s.rg a)) s

end Sys2Proof.Machine
end

