-- ==== Sys2Proof/Machine/Mtx.lean ====
section
/-! DEFINITION. MTX (R198 to R217): the matrix unit's instructions, and the steps of its commands. -/

namespace Sys2Proof.Machine

/-! ## Context and geometry (R199 to R201) -/

structure MCtx where
  mfc : Word
  mgeo : Word
deriving DecidableEq, Repr

def MCtx.afmt (x : MCtx) : Nat := bits x.mfc.toNat 2 0
def MCtx.adepth (x : MCtx) : Nat := bits x.mfc.toNat 3 3
def MCtx.ba (x : MCtx) : BitVec 8 := BitVec.ofNat 8 (bits x.mfc.toNat 15 8)
def MCtx.bb (x : MCtx) : BitVec 8 := BitVec.ofNat 8 (bits x.mfc.toNat 23 16)
def MCtx.csat (x : MCtx) : Bool := bits x.mfc.toNat 24 24 == 1
def MCtx.cfmt (x : MCtx) : Nat := bits x.mfc.toNat 29 28
def MCtx.c0 (x : MCtx) : Nat := bits x.mfc.toNat 43 32 * 64
def MCtx.m (x : MCtx) : Nat := bits x.mgeo.toNat 11 0
def MCtx.k (x : MCtx) : Nat := bits x.mgeo.toNat 20 12
def MCtx.n (x : MCtx) : Nat := bits x.mgeo.toNat 29 21
def MCtx.a0 (x : MCtx) : Nat := bits x.mgeo.toNat 41 30 * 64
def MCtx.as (x : MCtx) : Nat := bits x.mgeo.toNat 51 42 * 64
def MCtx.cs (x : MCtx) : Nat := bits x.mgeo.toNat 61 52 * 64
/-- Rows of the table of R199. -/
def MCtx.kcap (x : MCtx) : Nat := [256, 256, 256, 128, 128].getD x.afmt 0
def MCtx.ncap (x : MCtx) : Nat := [256, 128, 128, 128, 64].getD x.afmt 0
def MCtx.eb (x : MCtx) : Nat := [1, 1, 2, 4, 8].getD x.afmt 1
def MCtx.cb (x : MCtx) : Nat := if x.afmt = 4 then 8 else 4
def MCtx.da (x : MCtx) : Nat := if x.afmt = 1 ∧ x.adepth = 0 then 8 else [8, 16, 16, 32, 64].getD x.afmt 8
def MCtx.db (x : MCtx) : Nat := [8, 16, 16, 32, 64].getD x.afmt 8

/-- The checks of MCTX (R213). -/
def MCtx.mfcOk (x : MCtx) : Bool :=
  decide (x.afmt ≤ 4) && (x.adepth == 0 || x.afmt == 1) && ((x.ba == 0 && x.bb == 0) || x.afmt == 1)
    && !(x.csat && x.afmt == 0) && x.cfmt == [0, 1, 1, 1, 2].getD x.afmt 3
    && bits x.mfc.toNat 7 4 == 0 && bits x.mfc.toNat 27 25 == 0 && bits x.mfc.toNat 31 30 == 0 && bits x.mfc.toNat 63 44 == 0
def MCtx.mgeoOk (x : MCtx) : Bool := decide (x.k ≤ 256 ∧ x.n ≤ 256) && bits x.mgeo.toNat 63 62 == 0

def Core.mctx (x : Core) : MCtx := ⟨x.e.mfc, x.e.mgeo⟩
def MCmd.ctx (m : MCmd) : MCtx := ⟨m.mfc, m.mgeo⟩

/-! ## Hand-over (R212 to R217) -/

def execMctx (a : BitVec 5) (s : State) : Res :=
  handOver s <|
    let v := s.rg a
    if MCtx.mfcOk ⟨v, 0⟩ then .next ((s.updMe (·.updE ({ · with mfc := v }))).pin s.cur).nextPc
    else .next (s.trap (illegal (mtxWord 0 0 a 0 0)))

def execMgeo (a : BitVec 5) (s : State) : Res :=
  handOver s <|
    let v := s.rg a
    if MCtx.mgeoOk ⟨0, v⟩ then .next ((s.updMe (·.updE ({ · with mgeo := v }))).pin s.cur).nextPc
    else .next (s.trap (illegal (mtxWord 1 0 a 0 0)))

/-- A matrix command whose checks are ok joins the queue with its captured context and geometry. -/
def handMatrix (w : BitVec 32) (kind : MKind) (tag src pitch : Nat) (ok : MCtx → Bool) (s : State) : Res :=
  handOver s <|
    let x := s.me.mctx
    if ok x then
      pushMatrix w { kind := kind, tag := tag, src := src, pitch := pitch, mfc := x.mfc, mgeo := x.mgeo } s
    else .next (s.trap (illegal w))

def MCtx.tileOk (x : MCtx) : Bool := x.k != 0 && x.n != 0 && decide (x.k ≤ x.kcap ∧ x.n ≤ x.ncap)

def execMloadb (a b tag : BitVec 5) (s : State) : Res :=
  let src := (s.rg a).toNat
  let t := (s.rg b).toNat
  handMatrix (mtxWord 2 0 a b tag) .loadb tag.toNat src t (fun x =>
    decide (src < 0x40000 ∧ src % 64 = 0 ∧ t < 0x40000 ∧ t % 64 = 0) && x.tileOk
      && decide (src + (x.k - 1) * t + x.n * x.eb ≤ 0x40000)) s
def execMswap (tag : BitVec 5) (s : State) : Res := handMatrix (mtxWord 3 0 0 0 tag) .swap tag.toNat 0 0 (fun _ => true) s
def execMrun (tag : BitVec 5) (s : State) : Res :=
  handMatrix (mtxWord 4 0 0 0 tag) .run tag.toNat 0 0 (fun x =>
    x.m != 0 && x.tileOk && decide (x.a0 + (x.m - 1) * x.as + x.k * x.eb ≤ 0x40000)
      && decide (x.c0 + (x.m - 1) * x.cs + x.n * x.cb ≤ 0x40000)) s
def execMclr (tag : BitVec 5) (s : State) : Res :=
  handMatrix (mtxWord 5 0 0 0 tag) .clr tag.toNat 0 0 (fun x =>
    x.m != 0 && x.n != 0 && decide (x.c0 + (x.m - 1) * x.cs + x.n * x.cb ≤ 0x40000)) s

/-! ## Alignment and accumulation (R149, R152, R153) -/

def elemValue (afmt : Nat) (bias : BitVec 8) (code : Nat) : FVal :=
  match afmt with
  | 1 => m8Decode bias.toInt code
  | 2 => bf16.decode code
  | 3 => f32.decode code
  | _ => f64.decode code

/-- The largest exponent of the nonzero elements. -/
def topExponent (xs : List FVal) : Option Int :=
  xs.foldl (fun a x => match x with
    | .fin _ m e => let t : Int := (Nat.log2 m : Int) + e; some (match a with | some b => max b t | none => t)
    | _ => a) none

/-- A row or column aligned at depth d: its exponent, its integers, and AL. -/
def alignRow (d : Nat) (xs : List FVal) : Int × List Int × Bool :=
  match topExponent xs with
  | none => (0, xs.map (fun _ => 0), false)
  | some e =>
    let r := xs.map (fun x => match x with
      | .fin n m g =>
        let (q, ix) := roundAt 0 n m (g + d - 2 - e) 0 false
        ((if n then -(q : Int) else q), ix)
      | _ => ((0 : Int), false))
    (e, r.map Prod.fst, r.any Prod.snd)

def hasNonNumber (xs : List FVal) : Bool := xs.any (fun x => x.isNan || x.isInf)

/-- An FP element of C after adding the integer t times 2^e. -/
def accFp (f : FFmt) (flush csat : Bool) (old : Nat) (t : Int) (e : Int) : Nat × Flags :=
  let r := f.add flush 0 (f.decode old) (ofInt false t e)
  if csat && r.2 &&& fOF != 0 then (f.largest (decide (f.signBit ≤ r.1)), fSAT) else r

/-! ## The banks (R198, R206) -/

def Cluster.active (k : Cluster) : Bank := if k.active1 then k.bank1 else k.bank0
def Cluster.setShadow (k : Cluster) (b : Bank) : Cluster := if k.active1 then { k with bank0 := b } else { k with bank1 := b }

/-- Element (k, j) of bank. -/
def Bank.at (b : Bank) (k j : Nat) : Int := Store.get 0 b.elems (k * 256 + j)

/-- The exact product of an aligned row with column j. -/
def Bank.dot (b : Bank) (row : List Int) (j : Nat) : Int :=
  (row.zipIdx).foldl (fun t e => t + e.1 * b.at e.2 j) 0

/-- The bank that MLOADB makes of columns in W (R214), and AL. -/
def loadBank (x : MCtx) (col : Nat → List Nat) : Bank × Bool :=
  (List.range x.n).foldl (fun acc j =>
    let (b, al) := acc
    let put (b : Bank) (l : List Int) : Bank :=
      (l.zipIdx).foldl (fun b e => { b with elems := Store.set 0 b.elems (e.2 * 256 + j) e.1 }) b
    if x.afmt = 0 then (put b ((col j).map (toSigned 8)), al)
    else
      let vs := (col j).map (elemValue x.afmt x.bb)
      if hasNonNumber vs then ({ b with bnan := Store.set false b.bnan j true }, al)
      else
        let (e, l, a) := alignRow x.db vs
        (put { b with eb := Store.set 0 b.eb j e } l, al || a))
    ({ valid := true, bfmt := x.afmt, bb := x.bb, kb := x.k, nb := x.n }, false)

/-! ## Steps of the unit -/

/-- The head of the queue has made its effect; it completes next. -/
def State.finM (s : State) (c : Nat) : State :=
  (s.updCore c (·.updE (fun e => { e with mq := match e.mq with | m :: l => { m with fin := true } :: l | [] => [] }))).kickM c

/-- A faulting command ends, and every later one of the core's matrix queue is discarded (R204). -/
def State.failM (s : State) (c code fn row : Nat) : State :=
  (s.updCore c (·.updE (fun e =>
    ({ e with mfault := some (matrixTval code fn row) }.dropHeld (e.mq.map MCmd.tag)).discard [] e.cq))).kickCluster c

/-- The command at the head of core c's queue, if it may run now and is of the kind. -/
def Core.headM (x : Core) (k : MKind) : Option MCmd :=
  match x.e.mq with
  | m :: _ => if m.kind == k && !m.fin && !x.e.heldTag m.tag then some m else none
  | [] => none

def execMloadbExecution (core : Nat) (s : State) : Res :=
  let x := s.coreAt core
  match x.headM .loadb with
  | none => .next s
  | some m =>
    if !s.bankTurn core m then .next s
    else
      let g := m.ctx
      let at_ (k j : Nat) : Nat := m.src + k * m.pitch + j * g.eb
      let col (j : Nat) : List Nat := (List.range g.k).map (fun k => x.typed.get 0 true (at_ k j) g.eb)
      let bad := (List.range g.n).find? (fun j => (List.range g.k).any (fun k => x.typed.isPois 0 true (at_ k j) g.eb))
      let kc := clusterOf core
      match bad with
      | some j =>
        -- the columns before the poisoned one are complete (R211; in ascending order: log 25)
        let s := s.raise core (if (loadBank g (fun i => if i < j then col i else [])).2 then fAL else 0)
        .next ((s.updCluster kc (fun y => y.setShadow { (if y.active1 then y.bank0 else y.bank1) with valid := false })).failM core 4 2 0)
      | none =>
        let (b, al) := loadBank g col
        .next (((s.updCluster kc (·.setShadow b)).raise core (if al then fAL else 0)).finM core)

def execMswapExecution (core : Nat) (s : State) : Res :=
  match (s.coreAt core).headM .swap with
  | none => .next s
  | some m =>
    if !s.bankTurn core m then .next s
    else .next ((s.updCluster (clusterOf core) (fun y => { y with active1 := !y.active1 })).finM core)

/-- Zero in N elements of each row of C. -/
def execMclrExecution (core : Nat) (s : State) : Res :=
  match (s.coreAt core).headM .clr with
  | none => .next s
  | some m =>
    let g := m.ctx
    .next (((List.range g.m).foldl (fun s r => s.typedPut core 2 true (g.c0 + r * g.cs) (g.n * g.cb) 0) s).finM core)

/-- One row: fetched, aligned, bound to the active bank, accumulated; or the code of its fault (R205, R206, R216).
Its flags reach FSTAT with the row (DESIGN CHOICE, log 47: R145 says together at completion, R211 before MDONE). -/
def State.rowStep (s : State) (c : Nat) (m : MCmd) : Except Nat State :=
  let g := m.ctx
  let x := s.coreAt c
  let b := (s.clusterAt (clusterOf c)).active
  let a := g.a0 + m.next * g.as
  let co := g.c0 + m.next * g.cs
  if x.typed.isPois 1 true a (g.k * g.eb) then .error 4
  else if !b.valid then .error 1
  else if b.bfmt ≠ g.afmt then .error 2
  else if b.kb ≠ g.k ∨ b.nb ≠ g.n then .error 3
  else if b.pois.any (fun e => decide (e.1 / 256 < g.k ∧ e.1 % 256 < g.n)) || x.typed.isPois 2 true co (g.n * g.cb) then .error 4
  else
    let codes := (List.range g.k).map (fun k => x.typed.get 1 true (a + k * g.eb) g.eb)
    let old (j : Nat) := x.typed.get 2 true (co + j * g.cb) g.cb
    if g.afmt = 0 then
      let row := codes.map (toSigned 8)
      let res := (List.range g.n).map (fun j => clampInt true 32 (toSigned 32 (old j) + b.dot row j))
      .ok (((res.zipIdx).foldl (fun s e => s.typedPut c 2 true (co + e.2 * 4) 4 e.1.1) s).raise c (unionFlags res))
    else
      let vs := codes.map (elemValue g.afmt g.ba)
      let bad := hasNonNumber vs
      let (ea, row, al) := alignRow g.da vs
      let f := if g.afmt = 4 then f64 else f32
      let res := (List.range g.n).map (fun j =>
        if bad || Store.get false b.bnan j then (f.nan, fNV)
        else accFp f (g.afmt != 4) g.csat (old j) (b.dot row j)
          (ea - g.da + 2 + (Store.get 0 b.eb j - g.db + 2)))
      .ok (((res.zipIdx).foldl (fun s e => s.typedPut c 2 true (co + e.2 * g.cb) g.cb e.1.1) s).raise c
        (unionFlags res ||| (if al && !bad then fAL else 0)))

/-- The first requesting core after the core last granted, in cyclic order (R208). -/
def State.rowGrant (s : State) (k : Nat) : Option (Nat × MCmd) :=
  let last := (s.clusterAt k).lastGrant
  ((List.range 4).map (fun i => k * 4 + (last + 1 + i) % 4)).findSome? (fun c =>
    let x := s.coreAt c
    if x.stage == .halted then none
    else match x.headM .run with
      | some m => some (c, m)
      | none => none)

def execMatrixRowStep (cluster : Nat) (s : State) : Res :=
  match s.rowGrant cluster with
  | none => .next s
  | some (c, m) =>
    let s := s.updCluster cluster ({ · with lastGrant := c % 4 })
    let s := match s.rowStep c m with
      | .error code => s.failM c code 4 m.next
      | .ok s =>
        if m.next + 1 < m.ctx.m then
          s.updCore c (·.updE (fun e => { e with mq := match e.mq with
            | m :: l => { m with next := m.next + 1 } :: l | [] => [] }))
        else s.finM c
    .next (if (s.rowGrant cluster).isSome then s.postOnce (.matrixRowStep cluster) else s)

/-- The completed command leaves the queue, its node is done, and MDONE rises with the queue empty (R203, R244). -/
def State.completeM (s : State) (c : Nat) : State :=
  match (s.coreAt c).e.mq with
  | [] => s
  | m :: _ =>
    if !m.fin then s
    else
      let s := s.updCore c (·.updE (fun e =>
        let e := { e with mq := e.mq.drop 1 }.completeTag m.tag
        if e.mq = [] then { e with mdone := true, mflt := e.mfault.isSome } else e))
      (s.kickCluster c).kickC c

def execMatrixCommandCompletion (core : Nat) (s : State) : Res := .next (s.completeM core)

end Sys2Proof.Machine
end

