-- ==== Sys2Proof/Machine/Range.lean ====
section
/-! DEFINITION. The range instructions (R100 to R105), generations and invalidations as they reach cores (R92, R96), the
range walker (R89), and the Dredge (R97, R98). -/

namespace Sys2Proof.Machine

/-- The partition of the running core. -/
def State.myPart (s : State) : Nat := (s.partOfCore s.cur).getD 0
/-- A SYS instruction: at U it traps 0x02 (R100). -/
def sysWord (fn : Nat) (d a b : BitVec 5) : BitVec 32 := rrWord (0xF8000000 + fn) d a b 0

/-! ## RTWR and RTRD (R101) -/

/-- Reserved bits of a slot image are ignored when it is written, and read as zero (R8, R82). -/
def slotReserved (img : BitVec 512) : BitVec 512 :=
  imgPut (imgPut (imgPut (imgPut (imgPut img 0x18 15 12 0) 0x18 31 24 0) 0x28 63 0 0) 0x30 63 0 0) 0x38 63 0 0
/-- A slot image as RTWR writes it: stamped, with MV = 0. The load of the image goes as a scalar access does, to a DEV range too
(DESIGN CHOICE, log 47). -/
def slotImage (img : BitVec 512) (asn gen : Nat) : BitVec 512 := imgPut (entStamp (slotReserved img) asn gen) 0x18 11 11 0

def execRtwr (a b : BitVec 5) (s : State) : Res :=
  supOnly (sysWord 1 0 a b) s <|
    let c := s.cur
    let i := (s.rg a).toNat
    let p := s.rg b
    if 31 < i then .next (s.trap (illegal (sysWord 1 0 a b)))
    else if p.toNat % 64 ≠ 0 then .next (s.trap (misaligned p))
    else finish ((s.load c p.toNat 64 true true).bind fun v s =>
      let img := BitVec.ofNat 512 v
      if entV img && entMalformed img then .trap (illegal (sysWord 1 0 a b)) s
      else .ok () (s.updCore c (fun x =>
        (x.setSlot i { img := slotImage img x.s.asn.toNat x.s.asgen.toNat }).touchSlot i)))

/-- The store of the image goes as a scalar access does, to a DEV range too (DESIGN CHOICE, log 47). -/
def execRtrd (a b : BitVec 5) (s : State) : Res :=
  supOnly (sysWord 2 0 a b) s <|
    let i := (s.rg a).toNat
    let p := s.rg b
    if 32 < i then .next (s.trap (illegal (sysWord 2 0 a b)))
    else if p.toNat % 64 ≠ 0 then .next (s.trap (misaligned p))
    else finish (s.store s.cur p.toNat 64
      (if i = 32 then s.me.frec else (Store.get ({} : Slot) s.me.slots i).img).toNat true true)

/-! ## RTINV (R96, R102) -/

/-- The cores within a scope of core c; package and system scope mean its partition. Only cores that hold slots have
anything to clear. -/
def State.coresIn (s : State) (c sc : Nat) : List Nat :=
  (s.cores.filter (fun e => s.partOfCore e.1 == s.partOfCore c
    && (if sc = 0 then clusterOf e.1 == clusterOf c else if sc = 1 then dieOf e.1 == dieOf c else true))).map Prod.fst

def execRtinv (a b : BitVec 5) (s : State) : Res :=
  supOnly (sysWord 3 0 a b) s <|
    let x := (s.rg a).toNat
    let y := (s.rg b).toNat
    if bits x 11 2 ≠ 0 ∨ bits y 11 0 ≠ 0 then .next (s.trap (illegal (sysWord 3 0 a b)))
    else
      let base := x / 4096 * 4096
      let limit := if y = 0 then 2 ^ 64 else y
      if limit ≤ base then .next s.nextPc
      else
        let l := s.coresIn s.cur (x % 4)
        let c := s.cur
        let asn := s.me.s.asn.toNat
        .next ((l.foldl (fun s t => s.post (.rangeInvalidation t asn base limit c)) s).updMe
          (fun y => { y with inval := if l = [] then y.inval else y.inval ++ [⟨bits x 1 0, asn, base, limit, l.length⟩] })).nextPc

/-- V is cleared in every slot that p admits; the rest of its image stays. -/
def Core.clearSlots (x : Core) (p : BitVec 512 → Bool) : Core :=
  { x with slots := Store.mapAll {} x.slots (fun _ e =>
      if entV e.img && p e.img then { e with img := imgPut e.img 0x18 0 0 0 } else e) }
/-- One core has acknowledged the oldest RTINV of these operands (R96). -/
def ackInval (asn base limit : Nat) : List Inval → List Inval
  | [] => []
  | q :: l =>
    if q.asn = asn ∧ q.base = base ∧ q.limit = limit then (if q.left ≤ 1 then l else { q with left := q.left - 1 } :: l)
    else q :: ackInval asn base limit l

/-- The slots of the ASN whose spans overlap [base, limit) become invalid, and the issuer is acknowledged: a write that such a slot
translated is performed first, where it awaits an owner's answer (R96, R273). -/
def execRangeInvalidation (core asn base limit issuer : Nat) (s : State) : Res :=
  if s.awaitsAnswer core then .next (s.post (.rangeInvalidation core asn base limit issuer)) else
  let s := s.updCore core (fun x => x.clearSlots (fun e =>
    entASN e == asn && decide (entBase e < limit ∧ base < entLimit e)))
  .next (s.updCore issuer (fun x => { x with inval := ackInval asn base limit x.inval }))

/-! ## GENBUMP (R92, R104) -/

def genKey (p asn : Nat) : Nat := p * 65536 + asn
/-- The word of the generation table goes up, and every core that holds the ASN is notified; at 0xFFFF V is cleared in
every slot of the ASN first. -/
def State.genBump (s : State) (p asn : Nat) : BitVec 16 × State :=
  let g := Store.get 0 s.gens (genKey p asn)
  let mine := (s.cores.filter (fun e => s.partOfCore e.1 == some p)).map Prod.fst
  let s := if g = 0xFFFF then mine.foldl (fun s c => s.updCore c (·.clearSlots (fun e => entASN e == asn))) s else s
  let s := { s with gens := Store.set 0 s.gens (genKey p asn) (g + 1) }
  (g + 1, (mine.filter (fun c => (s.coreAt c).s.asn.toNat == asn)).foldl (fun s c => s.post (.generationNotice c asn)) s)

/-- A notice for the ASN is on its way to a core of the partition. -/
def State.noticesDue (s : State) (p asn : Nat) : Bool :=
  s.sched.any (fun e => match e with
    | .generationNotice c a => a == asn && s.partOfCore c == some p
    | _ => false)

/-- A core that holds the ASN loads the new generation, once each of its accesses is complete: one may await an owner's answer
(R92, R273). -/
def execGenerationNotice (core asn : Nat) (s : State) : Res :=
  if s.awaitsAnswer core then .next (s.post (.generationNotice core asn)) else
  let g := Store.get 0 s.gens (genKey ((s.partOfCore core).getD 0) asn)
  .next (s.updCore core (fun x => if x.s.asn.toNat = asn then x.updS ({ · with asgen := g }) else x))

def execGenbump (d a : BitVec 5) (s : State) : Res :=
  supOnly (sysWord 6 d a 0) s <|
    let v := (s.rg a).toNat
    if v / 65536 ≠ 0 then .next (s.trap (illegal (sysWord 6 d a 0)))
    else match s.me.bump with
      | some (asn, g) =>
        if s.noticesDue s.myPart asn then .next s.block
        else setG d (g.setWidth 64) (s.updMe ({ · with bump := none }))
      | none =>
        let (g, s) := s.genBump s.myPart v
        .next (s.updMe ({ · with bump := some (v, g) })).block

/-! ## The range walker (R89) -/

/-- A walk for a DVA that no slot of the core matches fills a slot; a miss, a malformed entry and a poisoned read leave the
trap to the access itself. -/
def execRangeWalk (core : Nat) (dva : BitVec 64) (s : State) : Res :=
  let x := s.coreAt core
  if !canonical dva.toNat || (x.findSlot dva.toNat).isSome then .next s
  else match s.walk (some core) x.rdirPa dva.toNat with
    | .found i e => .next (s.setCore core (x.fillSlot x.victimSlot i e))
    | _ => .next s

/-! ## Directory edits (R94, R103) -/

/-- Entries from j on, as bytes: the rest of the directory. -/
def State.dirTail (s : State) (rdir j n : Nat) : Nat := s.spanRead (rdir + 64 + 64 * j) (64 * (n - j))
/-- A read of the entries from j on finds poison (R89). -/
def State.dirTailPois (s : State) (rdir j n : Nat) : Bool := s.spanPois (rdir + 64 + 64 * j) (64 * (n - j))
/-- COUNT and SEQ after an edit: SEQ has gone up twice. The header's reserved bits are written as zero (R8). -/
def State.dirHeader (s : State) (rdir count : Nat) : State :=
  s.homeWrite none none rdir 64 (count + (s.dirSeq rdir + 2) % 2 ^ 32 * 2 ^ 64)
def State.putEntry (s : State) (rdir j : Nat) (e : BitVec 512) : State := s.homeWrite none none (rdir + 64 + 64 * j) 64 e.toNat

/-- RESID of an entry with bounds [b, l): a granule is resident when every granule it overlaps of the old entries is. -/
def newResid (old : List (BitVec 512)) (b l : Nat) : Nat :=
  let e0 := imgPut (imgPut 0 0 63 0 b) 8 63 0 l
  let g := entGranule e0
  (List.range 64).foldl (fun r j =>
    let lo := b + j * g
    let hi := min (b + (j + 1) * g) l
    if lo < hi && old.all (fun e => (List.range 64).all (fun i =>
        let olo := entBase e + i * entGranule e
        let ohi := min (olo + entGranule e) (entLimit e)
        !(decide (olo < entLimit e ∧ olo < hi ∧ lo < ohi)) || entRESID e / 2 ^ i % 2 == 1))
    then r + 2 ^ j else r) 0
def entBounds (e : BitVec 512) (b l resid : Nat) : BitVec 512 := imgPut (imgPut (imgPut e 0 63 0 b) 8 63 0 l) 0x20 63 0 resid

/-- The shape of the directory instructions: the entry that covers a DVA, or status 1; an edit in progress is waited for,
and poison traps 0x0E. A covering entry that is malformed gives status 1; a DVA that is not canonical is acted on where an
entry covers it, and gives status 1 elsewhere: R103 and R105 do not speak of either (DESIGN CHOICE, log 43). -/
def dirOp (d : BitVec 5) (dva : Nat) (s : State) (go : Nat → Nat → BitVec 512 → Res) : Res :=
  let rdir := s.me.rdirPa
  match s.walk (some s.cur) rdir dva with
  | .edit => .next s.block
  | .poison => .next (s.trap { cause := 0x0E, tval := BitVec.ofNat 64 dva })
  | .miss | .malformed _ _ => setG d 1 s
  | .found j e => go rdir j e

/-- p = BASE gives status 2 also where COUNT is 65,536: the table of R103 has no order (DESIGN CHOICE, log 43). -/
def execRsplit (d a : BitVec 5) (s : State) : Res :=
  supOnly (sysWord 4 d a 0) s <|
    let p := (s.rg a).toNat
    if p % 4096 ≠ 0 then .next (s.trap (illegal (sysWord 4 d a 0)))
    else dirOp d p s (fun rdir j e =>
      let n := s.dirCount rdir
      if entMV e then setG d 4 s
      else if p = entBase e then setG d 2 s
      else if n = 65536 then setG d 3 s
      else if s.dirTailPois rdir (j + 1) n then .next (s.trap { cause := 0x0E, tval := s.rg a })
      else
        let tail := s.dirTail rdir (j + 1) n
        let s := s.homeWrite none none (rdir + 64 + 64 * (j + 2)) (64 * (n - (j + 1))) tail
        let s := s.putEntry rdir j (entBounds e (entBase e) p (newResid [e] (entBase e) p))
        let s := s.putEntry rdir (j + 1) (entBounds e p (entLimit e) (newResid [e] p (entLimit e)))
        setG d 0 (s.dirHeader rdir (n + 1)))

/-- Everything but BASE, LIMIT and RESID. -/
def entRest (e : BitVec 512) : BitVec 512 := entBounds e 0 0 0

/-- A next entry that is malformed is merged like any other, where it is adjacent and equal in its attributes (DESIGN CHOICE, log
43). -/
def execRmerge (d a : BitVec 5) (s : State) : Res :=
  supOnly (sysWord 5 d a 0) s <|
    dirOp d (s.rg a).toNat s (fun rdir j e =>
      let n := s.dirCount rdir
      let f := s.dirEntry rdir (j + 1)
      if entMV e then setG d 4 s
      else if n ≤ j + 1 then setG d 1 s
      else if s.homePois (rdir + 64 + 64 * (j + 1)) 64 then .next (s.trap { cause := 0x0E, tval := s.rg a })
      else if entMV f then setG d 4 s
      else if entLimit e ≠ entBase f ∨ entRest e ≠ entRest f then setG d 2 s
      else if s.dirTailPois rdir (j + 2) n then .next (s.trap { cause := 0x0E, tval := s.rg a })
      else
        let m := entBounds e (entBase e) (entLimit f) (newResid [e, f] (entBase e) (entLimit f))
        let tail := s.dirTail rdir (j + 2) n
        let s := s.putEntry rdir j m
        let s := s.homeWrite none none (rdir + 64 + 64 * (j + 1)) (64 * (n - (j + 2))) tail
        setG d 0 (s.dirHeader rdir (n - 1)))

/-! ## RCOMPACT and the Dredge (R97, R98, R105) -/

/-- Every part of a span of own-package addresses is backed for partition p. -/
def State.spanBacked (s : State) (pa len p : Nat) : Bool :=
  (List.range (len / 2 ^ 30 + 1)).all (fun i => s.backedFor (pa + min (i * 2 ^ 30) (len - 1)) p)
    && s.backedFor (pa + len - 1) p

/-- MV of the entry that covers a DVA, and OFFSET where it is given; SEQ goes up twice. -/
def State.editEntry (s : State) (rdir j : Nat) (e : BitVec 512) (mv : Bool) (offset : Option Nat) : State :=
  let e := imgPut e 0x18 11 11 mv.toNat
  let e := match offset with | some o => imgPut e 0x10 63 0 o | none => e
  (s.putEntry rdir j e).dirHeader rdir (s.dirCount rdir)

/-- The checks in the order MV = 1 (busy whatever else holds, R98), status 2, a full queue, status 4; the request in hand
counts among the 16 of the queue (DESIGN CHOICE, log 43). -/
def execRcompact (d a b : BitVec 5) (s : State) : Res :=
  supOnly (sysWord 7 d a b) s <|
    dirOp d (s.rg a).toNat s (fun rdir j e =>
      let p := s.myPart
      let new := (s.rg b).toNat
      let old := entPA e (entBase e)
      let len := entLimit e - entBase e
      if entMV e then setG d 3 s
      else if entCLK e || entDEV e || !entCA e then setG d 2 s
      else if 16 ≤ s.moves.length then setG d 3 s
      else if new % 4096 ≠ 0 ∨ s.ownPa new = false ∨ s.spanBacked new len p = false ∨ overlap new len old len = true
        then setG d 4 s
      else
        let s := s.editEntry rdir j e true none
        let s := { s with moves := s.moves ++ [{
          entry := entBase e, dir := rdir, old := old, new := new, len := len, gran := entGranule e, iov := entIOV e
          resid := BitVec.ofNat 64 (entRESID e), asn := s.me.s.asn.toNat, part := p }] }
        setG d 0 (if s.moves.length = 1 then s.post .dredgeCopyPhase else s))

/-- The Dredge's requests are served in order: the first is in hand. -/
def State.setMove (s : State) (f : Move → Move) : State :=
  match s.moves with
  | m :: l => { s with moves := f m :: l }
  | [] => s

/-- Granule j of a range: its first byte within it, and its length. -/
def Move.granule (m : Move) (j : Nat) : Nat × Nat := (j * m.gran, min ((j + 1) * m.gran) m.len - j * m.gran)

/-- Block o of a move, of 256 bytes, within which an interleave is linear: where it is and where it goes. -/
def State.blockSrc (s : State) (m : Move) (o : Nat) : Nat := s.placeAt (m.old + o) m.iov
def State.blockDst (s : State) (m : Move) (o : Nat) : Nat := s.placeAt (m.new + o) m.iov
/-- Copies a block with its poison, as a foreign write (R269): over a link out of service, poison arrives (R256). A granule that
is not resident leaves bytes that are not predictable. -/
def State.moveBlock (s : State) (m : Move) (o : Nat) : State :=
  let src := s.blockSrc m o
  let dst := s.blockDst m o
  if m.resid.getLsbD (o / m.gran) then
    let dead := s.routeDown (s.homeNode src) (.io 0) || s.routeDown (.io 0) (s.homeNode dst)
    let s' := s.homeWrite none none dst 256 (s.rawRead src 256)
    { s' with pois := (List.range 64).foldl (fun p i =>
        Store.set false p (dst / 4 + i) (dead || Store.get false s.pois (src / 4 + i))) s'.pois }
  else (List.range 256).foldl (fun t i => t.rawWrite (dst + i) 1 (Config.movedByte s.draw (o + i)).toNat) s

/-- The entry of the move in hand, where the directory still has it and is not in edit. -/
def State.moveEntry (s : State) (m : Move) : Option (Option (Nat × BitVec 512)) :=
  match s.walk none m.dir m.entry with
  | .edit => none
  | .found j e => some (if entBase e = m.entry ∧ entMV e = true then some (j, e) else none)
  | _ => some none

/-- RESID as the entry shows it now. -/
def Move.residNow (m : Move) (e : Option (Nat × BitVec 512)) : BitVec 64 :=
  match e with | some (_, x) => BitVec.ofNat 64 (entRESID x) | none => m.resid
/-- Blocks of the next piece of a move, of at most 4 KiB (R254). -/
def Move.piece (m : Move) : List Nat := ((List.range 16).map (fun i => m.copied + 256 * i)).filter (fun o => decide (o < m.len))
/-- The links of a piece: from the old homes to the Dredge, and from it to the new ones. -/
def State.pieceLinks (s : State) (m : Move) : List Nat :=
  (m.piece.flatMap (fun o => s.routeLinks (s.homeNode (s.blockSrc m o)) (.io 0)
    ++ s.routeLinks (.io 0) (s.homeNode (s.blockDst m o)))).eraseDups
/-- A piece is copied: the granules that the entry shows resident now. -/
def State.movePiece (s : State) (m : Move) (now : BitVec 64) : State :=
  (m.piece.foldl (fun s o => s.moveBlock { m with resid := now } o) s).setMove (fun m =>
    { m with copied := min m.len (m.copied + 4096), resid := m.resid &&& now })
/-- The granules that the entry shows resident at the switch, and that were not so throughout the copy, go to the new location
with the rest (R97). -/
def State.moveLate (s : State) (m : Move) (now : BitVec 64) : State :=
  ((List.range (m.len / 256)).foldl (fun s i =>
    if m.resid.getLsbD (256 * i / m.gran) || !now.getLsbD (256 * i / m.gran) then s
    else s.moveBlock { m with resid := now } (256 * i)) s).setMove ({ · with resid := now })

/-- The copy goes on by one piece, once it is admitted (R254), or is at its end. -/
def execDredgeCopyPhase (s : State) : Res :=
  match s.moves with
  | [] => .next s
  | m :: _ =>
    if m.phase ≠ 1 then .next s
    else match s.moveEntry m with
      | none => .next (s.post .dredgeCopyPhase)
      | some r =>
        if m.len ≤ m.copied then .next ((s.setMove ({ · with phase := 2 })).post .dredgeSwitchPhase)
        else match s.admission leadIo leadUnit (piecesOf (min 4096 (m.len - m.copied))) (s.pieceLinks m) .dredgeCopyPhase with
          | (false, s) => .next s
          | (true, s) => .next ((s.movePiece m (m.residNow r)).post .dredgeCopyPhase)

/-- The addresses that steps in flight carry, after a move. -/
def Event.relocate (f : Nat → Nat) (e : Event) : Event :=
  let g (line : Nat) : Nat := f (64 * line) / 64
  match e with
  | .fill c l => .fill c (g l)
  | .ownreq c l w x y => .ownreq c (g l) w x y
  | .grant c l x m => .grant c (g l) x m
  | .data c l x => .data c (g l) x
  | .fwd c l w => .fwd c (g l) w
  | .revoke c l w => .revoke c (g l) w
  | .yield c l x y => .yield c (g l) x y
  | .evict c l x y => .evict c (g l) x y
  | .disownreq c l x y => .disownreq c (g l) x y
  | .ack c l => .ack c (g l)
  | .ringProducedUpdate pa n => .ringProducedUpdate (f pa) n
  | .collectiveCombine a => .collectiveCombine (f a)
  | .slotRequest a => .slotRequest (f a)
  | .slotReturn a => .slotReturn (f a)
  | e => e

/-- A store whose keys are changed; what moves takes the place of what stood at its new key. -/
def Store.rekey {α : Type} [DecidableEq α] (d : α) (m : Store α) (f : Nat → Nat) : Store α :=
  (m.filter (fun e => f e.1 != e.1)).foldl (fun a e => Store.set d a (f e.1) e.2) (m.filter (fun e => f e.1 == e.1))
/-- A line's registration joins what stands registered at its new home: words of other owners there keep theirs. -/
def Reg.join (old new : Reg) : Reg :=
  { owners := (List.range 16).foldl (fun m i =>
      match Store.get 0 new.owners i with
      | 0 => let o := Store.get 0 old.owners i; Store.set 0 m i (if new.copies.contains (o - 1) then 0 else o)
      | o => Store.set 0 m i o) []
    copies := (old.copies ++ new.copies).eraseDups }
/-- The registrations of lines that move. -/
def rekeyReg (m : Store Reg) (f : Nat → Nat) : Store Reg :=
  (m.filter (fun e => f e.1 != e.1)).foldl (fun a e => Store.upd {} a (f e.1) (fun old => Reg.join old e.2))
    (m.filter (fun e => f e.1 == e.1))

/-- Ownership registrations, join tags, waiters, held lines and everything else that names a home go with the lines (R97). -/
def State.relocate (s : State) (f : Nat → Nat) : State :=
  let g (line : Nat) : Nat := f (64 * line) / 64
  { s with
    sched := s.sched.map (·.relocate f)
    reg := rekeyReg s.reg g
    pending := Store.rekey {} s.pending (fun k => g (k / 16384) * 16384 + k % 16384)
    tents := s.tents.map (fun t => { t with pa := f t.pa })
    waiters := s.waiters.map (fun w => { w with pa := f w.pa })
    ringDev := Store.rekey 0 s.ringDev f
    cores := Store.mapAll {} s.cores (fun _ x => { x with
      l1 := Store.rekey {} x.l1 g
      sentPois := Store.rekey 0 x.sentPois g
      fillPois := Store.rekey 0 x.fillPois g
      drop := x.drop.map g
      owned := Store.mapAll {} x.owned (fun _ r => { r with base := f r.base, cells := Store.rekey 0 r.cells g })
      mc := x.mc.map g
      e := { x.e with bind := Store.mapAll {} x.e.bind (fun _ b => { b with pa := f b.pa, anchor := f b.anchor }) } })
    clusters := Store.mapAll {} s.clusters (fun _ x => { x with
      cache := Store.rekey {} x.cache g, icache := Store.rekey {} x.icache g })
    dies := Store.mapAll {} s.dies (fun _ x => { x with cache := Store.rekey {} x.cache g })
    joins := Store.mapAll {} s.joins (fun _ j => { j with accPa := if j.accIov = 0 then f j.accPa else j.accPa })
    insts := Store.rekey {} (Store.mapAll {} s.insts (fun _ i => { i with dest := i.dest.map f })) f }

/-- A join whose ACCADDR went through the moved entry's interleave keeps its place in the range. -/
def State.moveAcc (s : State) (m : Move) : State :=
  { s with joins := Store.mapAll {} s.joins (fun _ j =>
      if j.accIov ≠ 0 ∧ j.accIov = m.iov ∧ m.old ≤ j.accPa ∧ j.accPa < m.old + m.len
      then { j with accPa := j.accPa - m.old + m.new } else j) }

def execDredgeSwitchPhase (s : State) : Res :=
  match s.moves with
  | [] => .next s
  | m :: _ =>
    if m.phase ≠ 2 then .next s
    else match s.moveEntry m with
      | none => .next (s.post .dredgeSwitchPhase)
      | some r =>
        let s := s.moveLate m (m.residNow r)
        let s := (s.relocate (fun pa => (s.moved m pa).getD pa)).moveAcc m
        let s := s.setMove ({ · with phase := 3 })
        let s := match r with
          | some (j, e) => s.editEntry m.dir j e true (some ((m.new + 2 ^ 64 - m.entry) % 2 ^ 64))
          | none => s
        .next (s.post .dredgeBumpPhase)

def execDredgeBumpPhase (s : State) : Res :=
  match s.moves with
  | [] => .next s
  | m :: _ =>
    if m.phase ≠ 3 then .next s
    else .next (((s.genBump m.part m.asn).2.setMove ({ · with phase := 4 })).post .dredgeReleasePhase)

/-- Once every core has acknowledged the bump, forwarding ends and MV is cleared; the next request is taken up. -/
def execDredgeReleasePhase (s : State) : Res :=
  match s.moves with
  | [] => .next s
  | m :: l =>
    if m.phase ≠ 4 then .next s
    else if s.noticesDue m.part m.asn then .next (s.post .dredgeReleasePhase)
    else match s.moveEntry m with
      | none => .next (s.post .dredgeReleasePhase)
      | some r =>
        let s := match r with
          | some (j, e) => s.editEntry m.dir j e false none
          | none => s
        let s := { s with moves := l }
        .next (if l == [] then s else s.post .dredgeCopyPhase)

end Sys2Proof.Machine
end

