-- ==== Sys2Proof/Machine/Strm.lean ====
section
/-! DEFINITION. STRM (R240 to R243), the opening of collective instances (R308, R310, R314 to R318), and the steps of the
Sluice and of the collectives. -/

namespace Sys2Proof.Machine

/-! ## The limits of a record (R233, R234, R308) -/

def Binding.multiples (b : Binding) : Bool :=
  b.base % b.ewb == 0 && b.stride0 % b.ewb == 0 && b.stride1 % b.ewb == 0

/-- A typed BASE of a STORE: the A back of the issuing core, R220 for every element of the two dimensions. -/
def Binding.typedOk (b : Binding) (c : Nat) : Bool :=
  bits b.base 55 23 == 0 && typedSpace b.base == 1 && typedCore c b.base == c
    && b.ewb % 4 == 0 && typedOff b.base % 4 == 0
    && (let off : Int := typedOff b.base
        let ends := [off, off + (b.len0 - 1 : Nat) * b.stride0, off + (b.len1 - 1 : Nat) * b.stride1,
          off + (b.len0 - 1 : Nat) * b.stride0 + (b.len1 - 1 : Nat) * b.stride1]
        ends.all (fun o => decide (0 ≤ o ∧ o + b.ewb ≤ 0x40000)))

/-- R317's conditions at SBIND, but for the rank. -/
def Binding.joinOk (b : Binding) (ctx : Word) : Bool :=
  b.kind == 2 && b.op == 1 && b.format == 0x0A && b.joinid == ctxId ctx

/-- The limits that the record alone decides. -/
def Binding.limitsOk (b : Binding) (c : Nat) (ctx : Word) : Bool :=
  let fmtArith := decide (b.format / 4 % 8 ≤ 3)
  let dense := decide (1 ≤ b.len0) && b.len1 == 1 && b.stride0 == b.ewb && b.stride1 == 0 && !isTyped b.base
  decide (b.kind < 8) && vtypeLegal b.format && decide (1 ≤ b.chunkField) && b.multiples
    && (if b.isJoin then b.joinOk ctx else true)
    && (match b.kind with
      | 0 => b.op == 0 && decide (1 ≤ b.len0 ∧ 1 ≤ b.len1) && !isTyped b.base
      | 1 => b.op == 0 && decide (1 ≤ b.len0 ∧ 1 ≤ b.len1) && (!isTyped b.base || b.typedOk c)
      | 2 => dense && decide (1 ≤ b.op ∧ b.op ≤ 3) && fmtArith && decide (1 ≤ b.npeer)
      | 3 => dense && decide (1 ≤ b.op ∧ b.op ≤ 3) && fmtArith && decide (1 ≤ b.npeer) && b.len0 % b.npeer == 0
      | 4 => dense && b.op == 0 && decide (1 ≤ b.npeer)
      | 5 => b.op == 0 && b.npeer == 1 && decide (1 ≤ b.len0 ∧ 1 ≤ b.len1)
      | 6 => b.op == 0 && b.npeer == 1 && b.len1 == 1 && b.stride0 == b.ewb && decide (b.chunkField ≤ b.len0) && !isTyped b.base
      | _ => dense && b.op == 0 && b.npeer == 2)

/-! ## Opening and attaching (R310) -/

/-- The peer list, read as loads. -/
def State.readPeers (s : State) (c a : Nat) (sup : Bool) : Nat → Acc (List Nat)
  | 0 => .ok [] s
  | n + 1 =>
    (s.load c (a % 2 ^ 64) 8 false sup).bind fun v s => (State.readPeers s c (a + 8) sup n).bind fun l s => .ok (v :: l) s

/-- The packages in which the records lie: each peer's address is looked up in the wisp's directory (R314). One that does not
translate now counts for the own package (DESIGN CHOICE, log 24). -/
def State.peerPackages (s : State) (c : Nat) (peers : List Nat) : List Nat :=
  let p := (s.partOfCore c).getD 0
  (peers.map (fun a => match s.xlatDir (s.coreAt c).rdirPa p a .read with
    | .ok t => paPkg t.pa
    | _ => s.pkg)).eraseDups

/-- The join of a quorum collective fits the record: open, N = P and ALEN = E (R317). -/
def State.joinFits (s : State) (b : Binding) : Bool :=
  match s.joinNamed b.joinid with
  | some j => j.isOpen && j.n == b.npeer && j.alen == b.len0
  | none => false

/-- The partition of the anchor's wisp: the one that the anchor's home is backed by (R90, KIND 7); for an anchor in another
package, the opener's (DESIGN CHOICE, log 24). -/
def State.anchorPart (s : State) (c a : Nat) : Nat :=
  (if s.ownPa a then s.backing a else none).getD ((s.partOfCore c).getD 0)

/-- The first participant opens the instance, which fixes its algorithm and is counted (R310, R314, R316). -/
def State.openInst (s : State) (c : Nat) (b : Binding) (peers : List Nat) : State :=
  let f := s.vdevOn c
  let pkgs := s.peerPackages c peers
  let many := (b.kind == 2 || b.kind == 3) && decide (1 < pkgs.length)
  let alg : CAlg := if b.isJoin then .join else if many then .endpoint else .home
  let s := s.bumpCounter f 0
  let s := match alg with
    | .join => s.bumpCounter f 5
    | .home => s.bumpCounter f 1
    | _ => s.post (.slotRequest b.anchor)
  s.setInst b.anchor { img := b.img, peers := peers, alg := alg, part := s.anchorPart c b.anchor, vdev := f, pkgs := pkgs,
                       fault := b.isJoin && !s.joinFits b }

/-- KIND, FORMAT, OP, JOIN, SCOPE, LEN0, CHUNK, JOINID and the peer list agree with the reference (R310). -/
def Inst.agrees (i : Inst) (b : Binding) (peers : List Nat) : Bool :=
  let r : Binding := { img := i.img }
  r.kind == b.kind && r.format == b.format && r.op == b.op && r.isJoin == b.isJoin && r.scope == b.scope
    && r.len0 == b.len0 && r.chunkField == b.chunkField && r.joinid == b.joinid && i.peers == peers

/-- Binding ix of a collective record opens its instance, attaches to it, or does neither. -/
def State.attach (s : State) (c ix : Nat) (b : Binding) (peers : List Nat) : State :=
  let s := if (s.instAt b.anchor).isNone && b.count == 0 then s.openInst c b peers else s
  match s.instAt b.anchor with
  | none => s.updBind c ix ({ · with noPush := true })
  | some i =>
    if i.agrees b peers then
      let s := s.setInst b.anchor { i with
        bases := Store.set 0 i.bases b.rank (b.base + 1)
        rdirs := Store.set 0 i.rdirs b.rank (s.coreAt c).rdirPa
        dies := Store.set 0 i.dies b.rank (dieOf c + 1) }
      let s := (s.updBind c ix ({ · with pushed := (i.pushedBy b.rank).length })).postOnce (.collectiveCombine b.anchor)
      -- elements that wait for a PERMUTE's destination can move now
      (s.insts.filter (fun e => e.2.dest == some b.anchor)).foldl (fun s e => s.postOnce (.collectiveCombine e.1)) s
    else s.streamFault c ix 5 none

/-! ## STRM -/

/-- The limits hold: the binding is made (R241). -/
def State.bindNow (s : State) (c : Nat) (b : Binding) (peers : List Nat) : State :=
  let ix := ((List.range 4).find? (fun i => !(s.bindAt c i).used)).getD 0
  let b := { b with used := true, count := recField b.img 0x30 31 0 }
  let s := (s.setBound (dieOf c) b.pa true).updBind c ix (fun _ => b)
  let s := s.acquire c 255 b.scope
  let s := if b.collective then s.attach c ix b peers else s
  if b.kind = 0 then s.postOnce (.streamPrefetch c ix) else s

/-- SBIND after the record is read: the peer list and the anchor of a collective, then the binding. -/
def State.bindRecord (s : State) (c : Nat) (b : Binding) : Acc Unit :=
  let bad : Trap := { cause := 1, tval := b.addr }
  if recField b.img 0 31 31 = 1 ∨ b.limitsOk c (s.coreAt c).u.joinctx = false then .trap bad s
  else if !b.collective then .ok () (s.bindNow c b [])
  else
    (s.readPeers c b.peera s.me.sup b.npeer).bind fun peers s =>
      if b.kind = 7 then .ok () (s.bindNow c { b with anchor := b.pa } peers)
      else
        let rank := peers.idxOf b.addr.toNat
        if peers.count b.addr.toNat ≠ 1 ∨ (b.isJoin = true ∧ rank ≠ ctxIndex (s.coreAt c).u.joinctx) then .trap bad s
        else
          (s.xlat c (peers.headD 0) .read false s.me.sup).bind fun t s =>
            .ok () (s.bindNow c { b with anchor := t.pa, rank := rank } peers)

def execSbind (vd a : BitVec 5) (s : State) : Res :=
  handOver s <|
    let c := s.cur
    let addr := s.rg a
    if addr.toNat % 64 ≠ 0 then .next (s.trap (misaligned addr))
    else
      let bound := s.me.bindOf vd.toNat
      if (match bound with | some (_, b) => b.addr == addr | none => false) then .next s.nextPc
      else if bound.isSome || (s.liveBinds c).length == 4 || s.me.gang.isSome then
        .next (s.trap (illegal (strmWord 0 vd a)))
      else
        finish <| (s.xlat c addr.toNat .read false s.me.sup).bind fun t s =>
          (s.flushLine c (t.pa / 64)).bind fun _ s =>
            let s := s.sendRemote .read t.pa 64 0
            if s.homePois t.pa 64 || s.cutOff c t.pa then .trap { cause := 0x0E, tval := addr } s
            else s.bindRecord c { addr := addr, pa := t.pa, img := BitVec.ofNat 512 (s.homeRead t.pa 64), vd := vd.toNat }

/-- A wait of an STRM instruction or of the access to a bound register: watched by WDOG (R237). -/
def stallOr (c i : Nat) (s : State) : Res :=
  match s.stallTrap c i with
  | some t => .next (s.trap t)
  | none => .next (s.stallMark c i).stall

/-- SSYNC and SUNBIND: the synchronisation of a bound register's binding, then go. -/
def syncThen (vd : BitVec 5) (s : State) (go : Nat → State → State) : Res :=
  handOver s <|
    let c := s.cur
    match s.me.bindOf vd.toNat with
    | none => .next s.nextPc
    | some (i, _) =>
      match s.syncBind c i with
      | .ok _ s => .next (go i (s.stallClear c i)).nextPc
      | .wait s => stallOr c i s
      | .trap t s => .next (s.trap t)

def execSsync (vd : BitVec 5) (s : State) : Res := syncThen vd s (fun _ s => s)
def execSunbind (vd : BitVec 5) (s : State) : Res := syncThen vd s (fun i s => s.freeBind s.cur i false)

def execSstat (d va : BitVec 5) (s : State) : Res :=
  handOver s <|
    match s.me.bindOf va.toNat with
    | none => setG d 0 s
    | some (i, b) =>
      setG d (BitVec.ofNat 64 (1 + b.ended.toNat * 2 + b.stall.isSome.toNat * 4 + b.flt.isSome.toNat * 8 + i * 16
        + b.kind * 256 + b.count % 2 ^ 32 * 2 ^ 32)) s

/-! ## Steps of the Sluice -/

/-- Binding i of core c, while the core's engines go on: they stop with a core that is halted (R338). -/
def State.liveBind (s : State) (c i : Nat) : Option Binding :=
  let b := s.bindAt c i
  if b.used && (s.coreAt c).stage != .halted then some b else none

/-- Up to DEPTH elements ahead of the point reached (R235). -/
def execStreamPrefetch (core bix : Nat) (s : State) : Res :=
  match s.liveBind core bix with
  | some b => if b.kind = 0 then .next (s.prefetch core bix b.depth) else .next s
  | none => .next s

def execStreamStorePerform (core bix : Nat) (s : State) : Res :=
  match s.liveBind core bix with
  -- a PUBL may wait for these pushes (R225)
  | some b => if b.kind = 1 then .next ((s.storeChunk core bix).kickC core) else .next s
  | none => .next s

/-- A whole chunk goes out once the ring has room (R236); for a collective, to the anchor (R311). -/
def execSendChunk (core bix : Nat) (s : State) : Res :=
  match s.liveBind core bix with
  | none => .next s
  | some b =>
    if b.unsent.length < b.chunk then .next s
    else if b.kind = 5 then .next (s.sendNow core bix b.chunk).2
    else if b.collective then
      let (sent, s) := s.acceptAtAnchor core bix b.chunk
      .next (if sent && decide (b.chunk ≤ (s.bindAt core bix).unsent.length) then s.postOnce (.sendChunk core bix) else s)
    else .next s

/-- PRODUCED advances at the record's home, after the release of what was written into the ring: while that awaits the answer of an
owner, so does this (R236, R266). -/
def execRingProducedUpdate (pa count : Nat) (s : State) : Res :=
  .next (if s.awaited (.ring pa) then s.post (.ringProducedUpdate pa count)
    else ({ s with ringDev := Store.set 0 s.ringDev pa 0 } : State).homeWrite1 none none (pa + 0x34) 4 (count % 2 ^ 32))

/-- The core's waits on its bindings begin anew at its next turn, which comes now. -/
def execStreamWaitEnd (core : Nat) (s : State) : Res :=
  if (s.coreAt core).stalled && (s.coreAt core).stage == .run
  then .next { s with cur := core, evTurn := true } else .next s

/-- WDOG has passed: the waiting instruction traps 0x0A at its PC; the yield of a SETVL, at PC + 4 (R237, R239). -/
def execStreamWatchdog (core bix : Nat) (s : State) : Res :=
  let x := s.coreAt core
  if x.stage == .run && (s.bindAt core bix).used then
    match s.stallTrap core bix with
    | some t => .next (s.takeTrap core { t with tepc := if x.hold = .yielding then some (x.pc + 4) else none })
    | none => .next s
  else .next s

/-! ## Steps of the collectives -/

def execCollectiveCombine (anchor : Nat) (s : State) : Res := .next (s.combineNow anchor)

/-- Slots in use beyond their partitions' reserved shares, and the slots that are reserved. -/
def State.sharedSlots (s : State) : Nat :=
  s.slotUse.foldl (fun n e => n + (e.2 - ((s.partAt e.1).map Part.slots).getD 0)) 0
def State.reservedSlots (s : State) : Nat := s.parts.foldl (fun n e => n + (e.2.map Part.slots).getD 0) 0
/-- The partition has a slot of its reserved share left. -/
def State.ownShare (s : State) (p : Nat) : Bool :=
  decide (Store.get 0 s.slotUse p < ((s.partAt p).map Part.slots).getD 0)
/-- An I/O die with a free slot: the I/O dies hold the 256 equally (R315). -/
def State.slotIo (s : State) : Option Nat :=
  ((ioSites s.isP80).map Prod.fst).find? (fun d => decide (Store.get 0 s.ioSlots d < 256 / s.nio))

/-- A slot of the own package is granted to the instance at an anchor: charged to its partition (R315). -/
def State.takeSlot (s : State) (a : Nat) (i : Inst) : State :=
  let io := s.slotIo
  { s.setInst a { i with alg := .slot, slotDie := io } with
    slotUse := Store.set 0 s.slotUse i.part (Store.get 0 s.slotUse i.part + 1)
    ioSlots := match io with | some d => Store.set 0 s.ioSlots d (Store.get 0 s.ioSlots d + 1) | none => s.ioSlots }
/-- A request is refused: the instance runs ENDPOINT, and is counted (R316); tie: by the same-cycle rule. -/
def State.refuseSlot (s : State) (i : Inst) (tie : Bool) : State :=
  let s := s.bumpCounter i.vdev 3
  if tie then s.bumpCounter i.vdev 4 else s

/-- The other requests for a shared slot that reach the allocator with this one, when one such slot is left (R315). -/
def State.rivals (s : State) (a : Nat) : List (Nat × Inst) :=
  if s.sharedSlots + s.reservedSlots + 1 ≠ 256 then []
  else (s.sched.zipIdx).filterMap (fun e => match e.1 with
    | .slotRequest b => match s.instRaw b with
      | some j => if b ≠ a ∧ j.alg = .endpoint ∧ s.pkg ∈ j.pkgs ∧ s.ownShare j.part = false ∧ Config.sameCycle (s.draw + e.2) = true
          then some (b, j) else none
      | none => none
    | _ => none)

/-- A request of the instance at anchor b, charged to partition q, wins over that at a, charged to p (R315). -/
def beats (b q a p : Nat) : Bool :=
  if paPkg b = paPkg a then decide (q < p) else decide (paPkg b < paPkg a)
/-- The slots of an instance that has ended meanwhile go back (R315). -/
def State.slotsBack (s : State) (a : Nat) : State :=
  match s.instRaw a with
  | some i => if i.closed then s.postOnce (.slotReturn a) else s
  | none => s

/-- Each package that holds a record is asked for one slot, from the partition's reserved share and then the shared pool; of
requests of one cycle for the last shared slot that of the lower package wins, and within a package that of the lower partition. A
refusal by any makes the instance run ENDPOINT (R315). -/
def execSlotRequest (anchor : Nat) (s : State) : Res :=
  match s.instRaw anchor with
  | none => .next s
  | some i =>
    if i.alg != .endpoint then .next s
    else
      let others := i.pkgs.all (fun p => p == s.pkg || Config.remoteGrant (s.draw + p))
      let tie := i.pkgs.any (fun p => p != s.pkg && Config.remoteTie (s.draw + p))
      let refuse (tie : Bool) : State := (s.refuseSlot i tie).reap anchor
      let grant : State := ((if i.pkgs.contains s.pkg then s.takeSlot anchor i else s.setInst anchor { i with alg := .slot }).bumpCounter
        i.vdev 2).slotsBack anchor
      if !i.pkgs.contains s.pkg || s.ownShare i.part then .next (if others then grant else refuse tie)
      else if s.sharedSlots + s.reservedSlots < 256 then
        let tied := s.rivals anchor
        let last := s.sharedSlots + s.reservedSlots + 1 = 256
        if tied.any (fun r => beats r.1 r.2.part anchor i.part)
          || (decide last && (match Config.foreignRequest s.draw with | some p => decide (p < s.pkg) | none => false))
        then .next (refuse true)
        else if !others then .next (refuse tie)
        else .next (tied.foldl (fun s r => ({ s.refuseSlot r.2 true with sched := s.sched.erase (.slotRequest r.1) } : State).reap r.1)
          grant)
      else .next (refuse tie)

/-- The slots of an ended instance go back (R315). -/
def execSlotReturn (anchor : Nat) (s : State) : Res :=
  match s.instRaw anchor with
  | none => .next s
  | some i =>
    if i.closed && i.alg == .slot then
      let s : State := if i.pkgs.contains s.pkg then { s with
        slotUse := Store.upd 0 s.slotUse i.part (· - 1)
        ioSlots := match i.slotDie with | some d => Store.upd 0 s.ioSlots d (· - 1) | none => s.ioSlots } else s
      .next ((s.updInst anchor ({ · with alg := .endpoint, slotDie := none })).reap anchor)
    else .next s

/-- The E-th element of a participant has been accepted (R317): State.acceptNow makes the arrival with the acceptance, and this
step, by itself, only one that has not been made. -/
def execQuorumStreamArrival (core bix : Nat) (s : State) : Res := .next (s.quorumArrive core bix)

end Sys2Proof.Machine
end

