-- ==== Sys2Proof/Machine/Wisp.lean ====
section
/-! DEFINITION. The WISP group but for LAUNCH, ENGWAIT, ENGSTAT and the gang (R127 to R134), the flag branches (R120, R121),
and the steps that end their waits (R129, R258). -/

namespace Sys2Proof.Machine

/-! ## SUSPEND (R129, R326) -/

/-- The wisp waits at SUSPEND: on its core, held there, or parked. -/
def WaitOn.isSuspend : WaitOn → Bool
  | .suspend _ => true
  | _ => false
def State.suspended (s : State) (k : Nat) : Bool :=
  let w := s.wispAt k
  match w.loc.coreOf with
  | some c =>
    let x := s.coreAt c
    if x.stage == .held then w.waitOn.isSuspend && w.st == 1 else x.stage == .wait && x.waitOn.isSuspend
  | none => w.waitOn.isSuspend && w.st == 1
/-- A wisp that waits at SUSPEND becomes ready, on its core or parked; any other wisp does not change. -/
def State.wakeSuspended (s : State) (k : Nat) : State :=
  if !s.suspended k then s
  else match (s.wispAt k).loc.coreOf with
    | some c => if (s.coreAt c).stage == .held then s.wakeParked k 0 0 none else s.wakeCore c 0 0 none
    | none => s.wakeParked k 0 0 none

def execSuspend (a : BitVec 5) (s : State) : Res :=
  killPoint s <|
    let k := s.wispKey s.cur
    let t := (s.rg a).toNat
    let kept := (s.wispAt k).kept
    let s := s.updWisp k ({ · with kept := false, aband := false })
    if kept then .next s.nextPc
    else finishAt ((s.suspendAt 1 (.suspend t)).bind fun _ s =>
      .ok () (if t ≠ 0 ∧ t ≤ s.time then s.wakeSuspended k else s))

def execSuspendWake (launch index : Nat) (s : State) : Res := .next (s.wakeSuspended (wkey launch index))

/-! ## RETIRE (R130, R323) -/

def execRetire (s : State) : Res :=
  if s.me.s.inh then .next (s.trap (illegal 0x98000001))
  else engWait 0 (some s.pc) s (fun s => .next (s.retireOn s.cur))

/-! ## Queries and clocks (R132, R133, R258, R259) -/

def execQry (d a : BitVec 5) (s : State) : Res := setG d (s.qry s.cur (s.rg a).toNat) s
def execLocq (d a : BitVec 5) (s : State) : Res := setG d (s.locq (dieOf s.cur) (s.rg a).toNat) s

def execRdtime (d : BitVec 5) (s : State) : Res :=
  match s.me.waitOn with
  | .time (some t) =>
    setG d (BitVec.ofNat 64 t) (s.updMe ({ · with waitOn := .none }))
  | .time none => .next s.block
  | _ => .next ((s.updMe (fun x => { x with waitOn := .time none, timeC0 := s.cycleOf (dieOf s.cur) s.nowPs })).post
      (.timeRequest s.cur)).block

/-- The request reaches the lead I/O die, whose reply carries TIME. -/
def execTimeRequest (core : Nat) (s : State) : Res := .next (s.post (.timeReply core s.time))

/-- The reading of R258: half the round trip, counted on the die's clock, is added to the TIME that the reply carries. The
bound of 4 ns on either side of TIME now is what two transfers of equal length give (log 8). -/
def State.timeReading (s : State) (core time : Nat) : Nat :=
  let d := dieOf core
  let half := (s.cycleOf d s.nowPs - (s.coreAt core).timeC0) * 50000 / s.dieFreq d
  max (s.coreAt core).lastTime (min (s.time + 4) (max (s.time - 4) (time + half)))

/-- The request to the lead I/O die, or its reply, meets a link out of service (R256). -/
def State.timeDown (s : State) (core : Nat) : Bool :=
  s.routeDown (dieNode (dieOf core)) (.io 0) || s.routeDown (.io 0) (dieNode (dieOf core))
/-- The reply arrives; the result is never below the core's last. A poisoned one is a machine check, with TVAL 0 (log 29),
which ends the RDTIME before a pre-emption or kill is taken (R137). -/
def execTimeReply (core time : Nat) (s : State) : Res :=
  match (s.coreAt core).waitOn with
  | .time none =>
    if s.timeDown core then .next (s.updCore core (fun x => { x with waitOn := .none, lost := some 0 }))
    else
    let t := s.timeReading core time
    .next (s.updCore core (fun x => { x with waitOn := .time (some t), lastTime := t }))
  | _ => .next s

def execRdcyc (d : BitVec 5) (s : State) : Res := setG d (BitVec.ofNat 64 (s.cycleNow (dieOf s.cur))) s

/-! ## TRAP, BREAK, NOP (R134) -/

def execTrap (a : BitVec 5) (s : State) : Res := .next (s.trap { cause := 0x0C, tval := s.rg a })
/-- BREAK halts issue for the debugger, complete, or traps 0x0B. -/
def execBreak (s : State) : Res :=
  if s.me.s.brkhalt then .next (s.nextPc.updMe ({ · with stage := .halted }))
  else .next (s.trap { cause := 0x0B })
def execNop (s : State) : Res := .next s.nextPc

/-! ## BFS and BFC (R120, R121) -/

/-- The flag that a selector names, and whether it is a DONE bit; none: a selector that the table does not list. -/
def State.flag (s : State) (c sel : Nat) : Option (Bool × Bool) :=
  let x := s.coreAt c
  if [0, 1, 2, 4, 5, 6, 7, 8, 9, 0xA, 0xC].contains sel then some ((s.estat c).getLsbD sel, sel == 1 || sel == 5)
  else if 0x20 ≤ sel ∧ sel ≤ 0x26 then some (x.u.fstat.getLsbD (sel - 0x20), false)
  else if 0x41 ≤ sel ∧ sel ≤ 0x5F then some (x.gstat.getLsbD (sel - 0x40), true)
  else if sel = 0x80 ∨ sel = 0x81 then some (s.joinOutcome x.u.joinctx / 2 ^ (sel - 0x80) % 2 == 1, false)
  else none

def flagBranch (major : Nat) (want : Bool) (sel : BitVec 10) (off : BitVec 16) (s : State) : Res :=
  match s.flag s.cur sel.toNat with
  | none => .next (s.trap (illegal (BitVec.ofNat 32 (major * 2 ^ 26 + sel.toNat * 2 ^ 16 + off.toNat))))
  | some (v, isDone) => branchTo (v == want) off (s.sawDone s.cur (isDone && v))

def execBfs (sel : BitVec 10) (off : BitVec 16) (s : State) : Res := flagBranch 0x0E true sel off s
def execBfc (sel : BitVec 10) (off : BitVec 16) (s : State) : Res := flagBranch 0x0F false sel off s

end Sys2Proof.Machine
end

