-- ==== Sys2Proof/Machine/Sys.lean ====
section
/-! DEFINITION. ERET, CTXSV, CTXLD, IPOST, WFI and HALTC (R340 to R346), and the context buffer (R330). The inner layout
of the ENGS part and of the bank state, which R330 leaves to the device, is that of log 25. -/

namespace Sys2Proof.Machine

/-! ## Spans of memory as numbers -/

/-- Stores at privilege S, piece by piece: (address, bytes, value). -/
def State.storeAll (s : State) (c : Nat) : List (Nat × Nat × Nat) → Acc Unit
  | [] => .ok () s
  | (a, n, v) :: l => (State.storeRun (n / 64 + 2) s c a n v true).bind fun _ s => State.storeAll s c l

/-- Fields packed from bit 0 up: (width, value). -/
def packFields : List (Nat × Nat) → Nat
  | [] => 0
  | (w, v) :: l => v % 2 ^ w + 2 ^ w * packFields l
/-- Element i of width w bits of a packed run. -/
def slice (v w i : Nat) : Nat := v / 2 ^ (w * i) % 2 ^ w
def packRun (w : Nat) (l : List Nat) : Nat := packFields (l.map (fun v => (w, v)))

/-! ## REGS (R330) -/

/-- The 17 control registers in the order of R330. -/
def ctxCregs : List Nat := [0x000, 0x001, 0x002, 0x003, 0x004, 0x005, 0x006, 0x008, 0x009, 0x00A, 0x00C, 0x00D, 0x00E,
  0x030, 0x031, 0x020, 0x021]
def State.regsImage (s : State) (c : Nat) : List (Nat × Nat × Nat) :=
  let x := s.coreAt c
  [(0x40, 0x100, packRun 64 ((List.range 32).map (fun r => (if r = 0 then 0 else (Store.get (0 : Word) x.g r).toNat)))),
   (0x140, 0x180, packRun 256 ((List.range 12).map (fun r => (x.kRead r).toNat))),
   (0x2C0, 0x140, packRun 64 (ctxCregs.map (fun n => ((s.cregRead c n).getD 0).toNat)))]
  ++ (List.range 32).map (fun r => (0x400 + 0x100 * r, 0x100, (x.vRead r).toNat))

/-- The registers as they are read back: g, k, control registers, v. A KGRACE of 0 comes back as 0: that a write of 0 stores 1 is
said of CRW alone (DESIGN CHOICE, log 47). -/
def Core.loadRegs (x : Core) (g k u v : Nat) : Core :=
  let cr (i : Nat) : Nat := slice u 64 i
  { x with
    g := (List.range 32).foldl (fun m r => if r = 0 then m else Store.set 0 m r (BitVec.ofNat 64 (slice g 64 r))) []
    k := (List.range 12).foldl (fun m r => Store.set 0 m r (BitVec.ofNat 256 (slice k 256 r))) []
    v := (List.range 32).foldl (fun m r => Store.set 0 m r (BitVec.ofNat 2048 (slice v 2048 r))) []
    u := {
      vl := BitVec.ofNat 16 (cr 0), vtype := BitVec.ofNat 8 (cr 1 % 64), vlive := BitVec.ofNat 32 (cr 2)
      fctl := BitVec.ofNat 16 (cr 3) &&& 0xFF07, fstat := BitVec.ofNat 7 (cr 4), vstart := BitVec.ofNat 16 (cr 5)
      dix := BitVec.ofNat 48 (cr 6)
      dn := (List.range 3).foldl (fun m i => Store.set 0 m i (BitVec.ofNat 16 (cr (7 + i)))) []
      ds := (List.range 3).foldl (fun m i => Store.set 0 m i (BitVec.ofNat 64 (cr (10 + i)))) []
      joinctx := BitVec.ofNat 64 (cr 13), kgrace := BitVec.ofNat 16 (cr 14) }
    -- the fields of R200 and R201; their reserved bits read as zero (R8)
    e := { x.e with mfc := BitVec.ofNat 64 (cr 15) &&& 0xFFF31FFFF0F, mgeo := BitVec.ofNat 64 (cr 16) &&& 0x3FFFFFFFFFFFFFFF } }

/-! ## ENGS (R209, R239, R330) -/

/-- The core holds engine state of the wisp: queued commands, bindings, a graph, an unreported fault. -/
def Core.holdsEngine (x : Core) : Bool :=
  x.e.mq != [] || x.e.cq != [] || x.e.bind.any (fun b => b.2.used) || x.e.graph != []
    || x.e.mfault.isSome || x.e.cfault.isSome

/-- The engines come to rest: a finished matrix command completes, and the executing copy completes; none: it waits. -/
def State.restEngines (s : State) (c : Nat) : Option State :=
  let s := s.completeM c
  match (s.coreAt c).e.cq.find? (·.started) with
  | none => some s
  | some m =>
    let s := s.dropPieces c
    if m.kind == .publ then
      some ((s.updCore c (fun x => { x with typed := { x.typed with
        wFront := x.typed.wFront ^^^ BitVec.ofNat 8 m.mask
        aFront := x.typed.aFront ^^^ BitVec.ofNat 8 (m.mask / 256) } })).endCopy c m)
    else if m.fin then some (s.endCopy c m)
    else match s.copyAll c m none with
      | (.wait, _) => none
      | (.bad code frec, s) => some ((s.failCopy c m code frec).kickC c)
      | (.ok, s) => some (s.endCopy c m)

def MKind.code : MKind → Nat
  | .loadb => 0 | .swap => 1 | .run => 2 | .clr => 3
def MKind.ofCode (n : Nat) : MKind := if n = 0 then .loadb else if n = 1 then .swap else if n = 2 then .run else .clr
def CKind.code : CKind → Nat
  | .cpy => 0 | .cpyn => 1 | .publ => 2
def CKind.ofCode (n : Nat) : CKind := if n = 0 then .cpy else if n = 1 then .cpyn else .publ

/-- A matrix command in 16 bytes: the bits of MFC and of MGEO that may be set, source, pitch, kind, tag. -/
def MCmd.pack (m : MCmd) : Nat :=
  let f := m.mfc.toNat
  packFields [(4, bits f 3 0), (8, bits f 15 8), (8, bits f 23 16), (1, bits f 24 24), (2, bits f 29 28), (12, bits f 43 32),
    (62, m.mgeo.toNat), (12, m.src / 64), (12, m.pitch / 64), (2, m.kind.code), (5, m.tag)]
def MCmd.unpack (v : Nat) : MCmd :=
  { mfc := BitVec.ofNat 64 (bits v 3 0 + bits v 11 4 * 2 ^ 8 + bits v 19 12 * 2 ^ 16 + bits v 20 20 * 2 ^ 24
      + bits v 22 21 * 2 ^ 28 + bits v 34 23 * 2 ^ 32)
    mgeo := BitVec.ofNat 64 (bits v 96 35), src := bits v 108 97 * 64, pitch := bits v 120 109 * 64
    kind := MKind.ofCode (bits v 122 121), tag := bits v 127 123 }

/-- The handle of a copy geometry: its place among those that context buffers name. -/
def State.geoHandle (s : State) (g : CGeo) : Nat × State :=
  if s.geos.contains g then (s.geos.idxOf g, s) else (s.geos.length, { s with geos := s.geos ++ [g] })
def State.geoOf (s : State) (h : Nat) : CGeo := s.geos.getD h {}

def CCmd.pack (m : CCmd) (h : Nat) : Nat :=
  packFields [(64, m.dst.toNat), (64, if m.kind == .publ then m.mask else m.src.toNat), (2, m.kind.code), (5, m.tag),
    (2, m.scope), (55, 0), (64, h)]
def CCmd.unpack (s : State) (v : Nat) : CCmd :=
  let k := CKind.ofCode (bits v 129 128)
  { kind := k, tag := bits v 134 130, scope := bits v 136 135, dst := BitVec.ofNat 64 (bits v 63 0)
    src := if k == .publ then 0 else BitVec.ofNat 64 (bits v 127 64), mask := if k == .publ then bits v 127 64 else 0
    geo := s.geoOf (bits v 255 192) }

/-- A binding in 16 bytes: record DVA; register, flags, fault code, unsent-push count. -/
def Binding.pack (b : Binding) : Nat :=
  packFields [(64, b.addr.toNat), (5, b.vd), (1, b.used.toNat), (1, b.ended.toNat), (1, b.dead.toNat), (1, b.noPush.toNat),
    (1, b.flt.isSome.toNat), (6, 0), (8, match b.flt with | some t => bits t.toNat 15 8 | none => 0), (8, 0),
    (32, b.unsent.length)]
def GNode.pack (g : GNode) : Nat :=
  packFields [(5, g.count), (1, g.defd.toNat), (1, g.held.toNat), (1, g.done.toNat), (24, 0), (32, g.mask.toNat)]
def GNode.unpack (v : Nat) : GNode :=
  { count := bits v 4 0, defd := bits v 5 5 == 1, held := bits v 6 6 == 1, done := bits v 7 7 == 1
    mask := BitVec.ofNat 32 (bits v 63 32) }

/-- The run record of R209 with the engines' flags and unreported faults. -/
def Eng.runRecord (e : Eng) (h : Nat) : Nat :=
  packFields [(12, match e.mq with | m :: _ => m.next | [] => 0), (4, e.mq.length), (5, e.cq.length), (3, 0),
    (1, e.mdone.toNat), (1, e.mflt.toNat), (1, e.cdone.toNat), (1, e.cflt.toNat), (1, e.mfault.isSome.toNat),
    (1, e.cfault.isSome.toNat), (34, 0), (64, (e.mfault.getD 0).toNat), (64, (e.cfault.getD 0).toNat), (64, h)]

/-- The ENGS part, from engines at rest. -/
def State.engsImage (s : State) (c : Nat) : List (Nat × Nat × Nat) × State :=
  let e := (s.coreAt c).e
  let (h, s) := s.geoHandle e.geo
  let (cs, s) := e.cq.foldl (fun (acc : List Nat × State) m =>
    let (h, s) := acc.2.geoHandle m.geo
    (acc.1 ++ [m.pack h], s)) ([], s)
  ([(0x2400, 0x40, packRun 128 ((List.range 4).map (fun i => (s.bindAt c i).pack))),
    (0x2440, 0x100, packRun 64 ((List.range 32).map (fun n => ((s.coreAt c).node n).pack))),
    (0x2540, 0x40, e.runRecord h),
    (0x2580, 0x80, packRun 128 (e.mq.map MCmd.pack)),
    (0x2600, 0x200, packRun 256 cs)]
   ++ (List.range 4).map (fun i => (0x2800 + 0x2000 * i, 0x2000, packRun (8 * (s.bindAt c i).ewb) (s.bindAt c i).unsent)), s)

/-- The engines hold no state of the wisp any longer: prefetched elements are discarded, CONSUMED is written, BOUND stays
(R239, R342). The wisp's record keeps which bindings its context buffer holds: its end drops those that never come back. -/
def State.emptyEngines (s : State) (c : Nat) : State :=
  let s := (s.liveBinds c).foldl (fun s i => s.writeConsumed c i) s
  let bs := ((s.liveBinds c).map (s.bindAt c)).filter (fun b => b.img != 0)
  let s := s.updWisp (s.wispKey c) (fun w => { w with
    binds := w.binds.filter (fun b => !bs.any (fun x => x.addr == b.addr)) ++ bs })
  (s.updCore c (·.updE (fun e => { mfc := e.mfc, mgeo := e.mgeo }))).kickCluster c

/-! ## TYPED and BANKS (R194, R198, R330) -/

/-- Window w of W or A takes 64 KiB: its front copy, then its back copy. -/
def Typed.windowImage (t : Typed) (space base w : Nat) : List (Nat × Nat × Nat) :=
  (List.range 1024).map (fun i =>
    (base + 0x10000 * w + 64 * i, 64, t.get space (decide (i < 512)) (0x8000 * w + i % 512 * 64) 64))
def Typed.image (t : Typed) : List (Nat × Nat × Nat) :=
  (List.range 8).flatMap (t.windowImage 0 0x10000) ++ (List.range 8).flatMap (t.windowImage 1 0x90000)
    ++ (List.range 4096).map (fun i => (0x110000 + 64 * i, 64, t.get 2 true (64 * i) 64))
/-- The offset in the buffer of the first poisoned word of the typed buffers. -/
def Typed.poisonAt (t : Typed) : Option Nat :=
  (t.image.find? (fun e =>
    let o := e.1
    if o < 0x90000 then t.isPois 0 (decide (o % 0x10000 < 0x8000)) ((o - 0x10000) / 0x10000 * 0x8000 + o % 0x8000) 64
    else if o < 0x110000 then t.isPois 1 (decide (o % 0x10000 < 0x8000)) ((o - 0x90000) / 0x10000 * 0x8000 + o % 0x8000) 64
    else t.isPois 2 true (o - 0x110000) 64)).map Prod.fst

/-- Depth in bits and columns of a bank's elements, by format (R199). -/
def bankShape (fmt : Nat) : Nat × Nat := ([8, 16, 16, 32, 64].getD fmt 8, [256, 128, 128, 128, 64].getD fmt 256)
def Bank.image (b : Bank) (base : Nat) : List (Nat × Nat × Nat) :=
  let (d, n) := bankShape b.bfmt
  let per := 512 / d
  (List.range 1024).map (fun i => (base + 64 * i, 64,
    packRun d ((List.range per).map (fun j => (b.at ((i * per + j) / n) ((i * per + j) % n) % 2 ^ d).toNat))))
/-- 2 KiB of a bank's state: flags and shape, BNAN, EB. -/
def Bank.stateImage (b : Bank) : Nat :=
  packFields [(1, b.valid.toNat), (3, b.bfmt), (4, 0), (8, b.bb.toNat), (16, b.kb), (16, b.nb), (464, 0),
    (256, packRun 1 ((List.range 256).map (fun j => (Store.get false b.bnan j).toNat))), (1280, 0),
    (4096, packRun 16 ((List.range 256).map (fun j => (Store.get 0 b.eb j % 65536).toNat)))]
def Bank.load (data st : Nat) : Bank :=
  let f := bits st 3 1
  let (d, n) := bankShape f
  { valid := bits st 0 0 == 1, bfmt := f, bb := BitVec.ofNat 8 (bits st 15 8), kb := bits st 31 16, nb := bits st 47 32
    bnan := (List.range 256).foldl (fun m j => Store.set false m j (slice (st / 2 ^ 512) 1 j == 1)) []
    eb := (List.range 256).foldl (fun m j => Store.set 0 m j (toSigned 16 (slice (st / 2 ^ 2048) 16 j))) []
    elems := (List.range (524288 / d)).foldl (fun m i =>
      Store.set 0 m (i / n * 256 + i % n) (toSigned d (slice data d i))) [] }
/-- The offset in the buffer of the first poisoned element of the banks. -/
def Bank.poisonAt (b : Bank) (base : Nat) : Option Nat :=
  let (d, n) := bankShape b.bfmt
  b.pois.head?.map (fun e => base + (e.1 / 256 * n + e.1 % 256) * (d / 8) / 64 * 64)
def Cluster.poisonAt (k : Cluster) : Option Nat :=
  let (a, b) := if k.active1 then (k.bank1, k.bank0) else (k.bank0, k.bank1)
  (a.poisonAt 0x150000).orElse fun _ => b.poisonAt 0x160000
def Cluster.bankImage (k : Cluster) : List (Nat × Nat × Nat) :=
  let (a, b) := if k.active1 then (k.bank1, k.bank0) else (k.bank0, k.bank1)
  a.image 0x150000 ++ b.image 0x160000 ++ [(0x170000, 0x800, a.stateImage), (0x170800, 0x800, b.stateImage)]

/-! ## CTXSV (R342) -/

/-- The spans of the parts in m, header included. -/
def ctxSpans (m : Nat) : List (Nat × Nat) :=
  [(0, 0x40)] ++ (if m % 2 = 1 then [(0x40, 0x23C0)] else []) ++ (if m / 2 % 2 = 1 then [(0x2400, 0x8400)] else [])
    ++ (if 4 ≤ m then [(0xA800, 0x5800)] else []) ++ (if m / 4 % 2 = 1 then [(0x10000, 0x140000)] else [])
    ++ (if m / 8 % 2 = 1 then [(0x150000, 0x21000)] else [])
/-- Every byte of the parts in m passes R90 for an access of kind k at S; the pieces count as scalar accesses, to a DEV range too
(DESIGN CHOICE, log 47). -/
def State.ctxReach (s : State) (c b : Nat) (k : AKind) : List (Nat × Nat) → Acc Unit
  | [] => .ok () s
  | (o, n) :: l => (State.xlatRun (n / 4096 + 2) s c (b + o) n k true).bind fun _ s => State.ctxReach s c b k l

/-- The shape of CTXSV and CTXLD: operand limits, alignment, and status 3. -/
def ctxOp (w : BitVec 32) (d a b : BitVec 5) (k : AKind) (s : State) (go : Nat → Nat → State → Res) : Res :=
  supOnly w s <|
    let m := (s.rg b).toNat
    let p := (s.rg a).toNat
    if s.me.s.inh = false ∨ m / 16 ≠ 0 ∨ m = 0 then .next (s.trap (illegal w))
    else if p % 64 ≠ 0 then .next (s.trap (misaligned (s.rg a)))
    else match s.ctxReach s.cur p k (ctxSpans m) with
      | .wait s => .next s.block
      | .trap t s => if t.frec.isSome then setG d 3 s else .next (s.trap t)
      | .ok _ s => go m p s

/-- Another core of the cluster has a pinned wisp, with matrix commands where queued is set. -/
def State.otherPinned (s : State) (c : Nat) (queued : Bool) : Bool :=
  ((List.range 4).map (clusterOf c * 4 + ·)).any (fun o => o != c && (s.coreAt o).wisp.isSome
    && (s.wispAt (s.wispKey o)).pinned && (!queued || (s.coreAt o).e.mq != []))

def State.ctxHeader (s : State) (c m : Nat) : Nat :=
  let w := s.wispOn c
  packFields [(16, 1), (4, m), (1, (s.wispAt (s.wispKey c)).pinned.toNat), (1, (s.coreAt c).gang.isSome.toNat), (42, 0),
    (32, w.2), (32, w.1), (64, (s.coreAt c).s.tepc.toNat), (64, s.time)]

/-- The parts in m as the engines at rest give them; ENGS first, the header last. -/
def State.ctxImage (s : State) (c m : Nat) : List (Nat × Nat × Nat) × State :=
  let (e, s) := if m / 2 % 2 = 1 then s.engsImage c else ([], s)
  (e ++ (if m % 2 = 1 then s.regsImage c else []) ++ (if 4 ≤ m then [(0xA800, 0x5800, 0)] else [])
    ++ (if m / 4 % 2 = 1 then (s.coreAt c).typed.image else [])
    ++ (if m / 8 % 2 = 1 then (s.clusterAt (clusterOf c)).bankImage else []) ++ [(0, 0x40, s.ctxHeader c m)], s)

def execCtxsv (d a b : BitVec 5) (s : State) : Res :=
  ctxOp (sysWord 8 d a b) d a b .write s fun m p s =>
    let c := s.cur
    if 4 ≤ m ∧ m / 2 % 2 = 0 ∧ s.me.holdsEngine = true then setG d 4 s
    else if 8 ≤ m ∧ s.otherPinned c true = true then setG d 2 s
    else match (if m / 2 % 2 = 1 then s.restEngines c else some s) with
      | none => .next s.block
      | some s =>
        match (if m / 4 % 2 = 1 then s.me.typed.poisonAt else none).orElse fun _ =>
            if m / 8 % 2 = 1 then (s.clusterAt (clusterOf c)).poisonAt else none with
        | some o => .next (s.trap { cause := 0x0E, tval := BitVec.ofNat 64 (p + o) })
        | none =>
          let (img, s) := s.ctxImage c m
          match s.storeAll c (img.map (fun e => (p + e.1, e.2.1, e.2.2))) with
          | .wait s => .next s.block
          | .trap t s => .next (s.trap t)
          | .ok _ s =>
            let s := if m / 2 % 2 = 1 then s.emptyEngines c else s
            let s := (s.updMe (fun x => { x with saved := x.saved ||| BitVec.ofNat 4 m })).releaseNow c 255 2
            if s.awaitsAnswer c then .next (s.updMe ({ · with waitOn := .woken 0 d.toNat none, hold := .firm })) else setG d 0 s

/-! ## CTXLD (R343) -/

/-- A binding comes back: its record must still hold BOUND = 1, else it takes stream fault 0x02, with the record of R91 where the
read of the record fails R90 (R238). -/
def State.rebind (s : State) (c i w unsent : Nat) : Acc Unit :=
  if bits w 69 69 = 0 then .ok () s
  else
    let addr : Word := BitVec.ofNat 64 (bits w 63 0)
    let flt : Option Word := if bits w 73 73 = 1 then some (streamTval (bits w 87 80) i) else none
    let b : Binding := { used := true, addr := addr, vd := bits w 68 64, ended := bits w 70 70 == 1, dead := bits w 71 71 == 1
                         noPush := bits w 72 72 == 1, flt := flt }
    let lost (s : State) (frec : Option (BitVec 512)) : Acc Unit := .ok () ((s.updBind c i (fun _ => b)).streamFault c i 2 frec)
    let back (s : State) : State :=
      s.updWisp (s.wispKey c) (fun w => { w with binds := w.binds.filter (fun x => x.addr != addr) })
    match s.xlat c addr.toNat .read false true with
    | .wait s => .wait s
    | .trap t s => lost s t.frec
    | .ok t s =>
      (s.flushLine c (t.pa / 64)).bind fun _ s =>
        let s := s.sendRemote .read t.pa 64 0
        let b := { b with pa := t.pa, img := BitVec.ofNat 512 (s.homeRead t.pa 64) }
        if s.homePois t.pa 64 || s.cutOff c t.pa || recField b.img 0 31 31 == 0 then lost s none
        else
          let s := back s
          let b := { b with
            count := recField b.img 0x30 31 0
            unsent := (List.range (bits w 127 96)).map (fun j => slice unsent (8 * b.ewb) j) }
          if !b.collective then
            let s := s.updBind c i (fun _ => b)
            .ok () (if b.kind = 0 then s.postOnce (.streamPrefetch c i) else s)
          else match s.readPeers c b.peera true b.npeer with
            | .wait s => .wait s
            | .trap t s => lost s t.frec
            | .ok peers s =>
              match s.xlat c (if b.kind = 7 then addr.toNat else peers.headD 0) .read false true with
              | .wait s => .wait s
              | .trap t s => lost s t.frec
              | .ok t s =>
                let b := { b with anchor := t.pa, rank := if b.kind = 7 then 0 else peers.idxOf addr.toNat }
                let s := s.updBind c i (fun _ => b)
                if b.dead || b.noPush then .ok () s
                else
                  let s := s.attach c i b peers
                  .ok () (s.updBind c i (fun x => { x with pushed := x.pushed + b.unsent.length }))

def State.rebindAll (s : State) (c binds unsent : Nat) : Nat → Acc Unit
  | 0 => .ok () s
  | n + 1 => (State.rebindAll s c binds unsent n).bind fun _ s =>
      s.rebind c n (slice binds 128 n) (slice unsent 65536 n)

/-- The engines from the ENGS part: the run record, the queues and the graph. -/
def State.loadEngines (s : State) (c graph run mqs cqs : Nat) : State :=
  s.updCore c (·.updE (fun e => {
    mfc := e.mfc, mgeo := e.mgeo
    mq := (List.range (min 8 (bits run 15 12))).map (fun i =>
      { MCmd.unpack (slice mqs 128 i) with next := if i = 0 then bits run 11 0 else 0, seq := s.draw })
    cq := (List.range (min 16 (bits run 20 16))).map (fun i => CCmd.unpack s (slice cqs 256 i))
    mdone := bits run 24 24 == 1, mflt := bits run 25 25 == 1, cdone := bits run 26 26 == 1, cflt := bits run 27 27 == 1
    mfault := if bits run 28 28 = 1 then some (BitVec.ofNat 64 (bits run 127 64)) else none
    cfault := if bits run 29 29 = 1 then some (BitVec.ofNat 64 (bits run 191 128)) else none
    geo := s.geoOf (bits run 255 192)
    graph := (List.range 32).foldl (fun m n => Store.set {} m n (GNode.unpack (slice graph 64 n))) [] }))

/-- Windows read back: copy 0 becomes the front. -/
def Typed.loadWindows (v : Nat) (back : Bool) : Store Byte :=
  (List.range 8).foldl (fun m w =>
    memPut m (0x8000 * w) (slice v 262144 (2 * w + back.toNat)) 0x8000) []
def Typed.ofImage (w a c : Nat) : Typed :=
  { w0 := Typed.loadWindows w false, w1 := Typed.loadWindows w true, a0 := Typed.loadWindows a false
    a1 := Typed.loadWindows a true, c := memPut [] 0 c 0x40000 }

/-- n bytes at an offset of the buffer, if the part is loaded. -/
def State.ctxRead (s : State) (c a n : Nat) (want : Bool) : Acc Nat :=
  if want then State.loadRun (n / 64 + 2) s c a n true else .ok 0 s

/-- The parts in m come back from the buffer at p, whose header is h (R330, R343). -/
def State.ctxLoad (s : State) (c p m h : Nat) : Acc Unit :=
  let regs := m % 2 == 1
  let engs := m / 2 % 2 == 1
  let typd := m / 4 % 2 == 1
  let bnks := 8 ≤ m
  (s.ctxRead c (p + 0x40) 0x100 regs).bind fun g s => (s.ctxRead c (p + 0x140) 0x180 regs).bind fun k s =>
  (s.ctxRead c (p + 0x2C0) 0x140 regs).bind fun u s => (s.ctxRead c (p + 0x400) 0x2000 regs).bind fun v s =>
  (s.ctxRead c (p + 0x2400) 0x40 engs).bind fun binds s => (s.ctxRead c (p + 0x2440) 0x100 engs).bind fun graph s =>
  (s.ctxRead c (p + 0x2540) 0x40 engs).bind fun run s => (s.ctxRead c (p + 0x2580) 0x80 engs).bind fun mqs s =>
  (s.ctxRead c (p + 0x2600) 0x200 engs).bind fun cqs s => (s.ctxRead c (p + 0x2800) 0x8000 engs).bind fun uns s =>
  (s.ctxRead c (p + 0x10000) 0x80000 typd).bind fun tw s => (s.ctxRead c (p + 0x90000) 0x80000 typd).bind fun ta s =>
  (s.ctxRead c (p + 0x110000) 0x40000 typd).bind fun tc s =>
  (s.ctxRead c (p + 0x150000) 0x10000 bnks).bind fun b0 s => (s.ctxRead c (p + 0x160000) 0x10000 bnks).bind fun b1 s =>
  (s.ctxRead c (p + 0x170000) 0x1000 bnks).bind fun bs s =>
    let s := if regs then s.updCore c (fun x => { x.loadRegs g k u v with
      s := { x.s with tepc := BitVec.ofNat 64 (bits h 191 128 / 4 * 4) } }) else s
    (if engs then ((s.loadEngines c graph run mqs cqs).rebindAll c binds uns 4) else .ok () s).bind fun _ s =>
      let s := if engs then (s.kickM c).kickC c else s
      let s := if typd then (s.updCore c ({ · with typed := Typed.ofImage tw ta tc })).pin c else s
      .ok () (if bnks then s.updCluster (clusterOf c) ({ · with
        bank0 := Bank.load b0 (bs % 2 ^ 16384), bank1 := Bank.load b1 (bs / 2 ^ 16384), active1 := false }) else s)

def execCtxld (d a b : BitVec 5) (s : State) : Res :=
  ctxOp (sysWord 9 d a b) d a b .read s fun m p s =>
    let c := s.cur
    let s := s.acquire c 255 2
    match s.ctxRead c p 0x40 true with
    | .wait s => .next s.block
    | .trap t s => .next (s.trap t)
    | .ok h s =>
      if bits h 15 0 ≠ 1 ∨ bits h 95 64 ≠ (s.wispOn c).2 ∨ bits h 127 96 ≠ (s.wispOn c).1
          ∨ (BitVec.ofNat 4 m &&& ~~~ BitVec.ofNat 4 (bits h 19 16)) ≠ 0 then setG d 4 s
      else if 8 ≤ m ∧ s.otherPinned c false = true then setG d 2 s
      else finishG d ((s.ctxLoad c p m h).bind fun _ s => .ok 0 s)

/-! ## ERET, IPOST, WFI, HALTC -/

def execEret (s : State) : Res := supOnly (sysWord 0 0 0 0) s (.next s.eret)

/-- A resume for the wisp with key k: 0 when it takes effect, 1 when the wisp does not await one (R129, R294, R326). -/
def State.resumePosted (s : State) (k : Nat) : Nat × State :=
  let w := s.wispAt k
  if w.aband && !w.kept then (0, s.updWisp k ({ · with kept := true }))
  else if w.st = 1 ∧ w.reason = 1 then (if s.suspended k then (0, s.wakeSuspended k) else (1, s))
  else if w.st = 1 ∧ w.reason = 4 then
    match s.waiters.find? (fun q => wkey q.launch q.index == k) with
    | some q => (0, s.wakeWaiter q)
    | none => (1, s)
  else (1, s)

def execIpost (d a : BitVec 5) (s : State) : Res :=
  supOnly (sysWord 10 d a 0) s <|
    let p := s.rg a
    if p.toNat % 64 ≠ 0 then .next (s.trap (misaligned p))
    else finishG d ((s.xlat s.cur p.toNat .read true true).bind fun t s =>
      match s.wisps.find? (fun e => e.2.addr == t.pa && e.2.addr != 0 && e.2.loc != .ended
          && (s.launchAt e.2.launch).part == s.myPart) with
      | none => .ok 2 s
      | some (k, _) =>
        let (n, s) := s.resumePosted k
        .ok (BitVec.ofNat 64 n) s)

/-- The bits of WFI: which of its four events have occurred (R345). -/
def Core.wfiBits (x : Core) (now t : Nat) (pend force : Bool) : Nat :=
  (decide (t ≠ 0 ∧ t ≤ now)).toNat + (x.s.pend != pend || x.s.force != force).toNat * 2 + x.kill.isSome.toNat * 4
    + x.refill.toNat * 8
/-- A core that waits at WFI goes on once one of its events has occurred. -/
def State.wfiWake (s : State) (c : Nat) : State :=
  let x := s.coreAt c
  match x.waitOn, x.stage with
  | .wfi d t pend force, .wait =>
    let n := x.wfiBits s.time t pend force
    if n = 0 then s else (s.wakeCore c (BitVec.ofNat 64 n) d none).updCore c ({ · with refill := false })
  | _, _ => s

def execWfi (d a : BitVec 5) (s : State) : Res :=
  supOnly (sysWord 11 d a 0) s <|
    let x := s.me
    let t := (s.rg a).toNat
    let n := x.wfiBits s.time t x.s.pend x.s.force
    if n ≠ 0 then setG d (BitVec.ofNat 64 n) (s.updMe ({ · with refill := false }))
    else .next (s.updMe ({ · with waitOn := .wfi d.toNat t x.s.pend x.s.force, stage := .wait }))

/-- HALTC: the core is vacated with REASON 6 or 7, unless the wisp's state is not saved. -/
def execHaltc (d a : BitVec 5) (s : State) : Res :=
  supOnly (sysWord 12 d a 0) s <|
    let c := s.cur
    let x := s.me
    let r := (s.rg a).toNat
    let k := s.wispKey c
    let pinned := (s.wispAt k).pinned
    if x.s.inh = false ∨ (r ≠ 6 ∧ r ≠ 7) then .next (s.trap (illegal (sysWord 12 d a 0)))
    else if x.saved.getLsbD 0 = false then setG d 1 s
    else if x.holdsEngine = true then setG d 2 s
    else if pinned = true ∧ x.saved.getLsbD 2 = false then setG d 3 s
    else
      let seat := s.seat c
      let s := s.leaveCaches c (seatScope seat)
      let s := (s.recordCore c r (if r = 6 then 0 else 1) x.s.tepc false).updWisp k (fun w => { w with
        waitOn := .none, started := true, pinned := w.pinned && !x.saved.getLsbD 2 })
      let s := s.updCore c (fun x => { x with
        sup := false, s := { x.s with inh := false, pend := false, force := false } })
      let s := s.takeSeat c seat
      .next (match x.kill with
        | some (_, code) => s.killNow k code
        | none => s)

end Sys2Proof.Machine
end

