-- ==== Sys2Proof/Machine/Wader.lean ====
section
/-! DEFINITION. The Wader (R20, R21, R26 to R45, R351) and the cores' pickups (R21, R23, R128, R196, R328, R387): launch
records and their checks, selection, placement, the overflow queues, the reports, groups, and LAUNCH (R34, R131). -/

namespace Sys2Proof.Machine

/-! ## The checks of a launch record (R27, R28) -/

/-- A package-local physical address as a physical address of this package (R27). -/
def State.localPa (s : State) (a : Nat) : Nat := s.pkg * 2 ^ 44 + a % 2 ^ 44
/-- The address lies in a backed home-map entry of partition p. -/
def State.inEntry (s : State) (a p : Nat) : Bool :=
  decide (a < 2 ^ 44 ∧ nominalSite (a / 2 ^ 30) < s.ndie) && s.partOfSite (nominalSite (a / 2 ^ 30)) == some p
def State.complOk (s : State) (l : Launch) : Bool := l.compl == 0 || (l.compl % 64 == 0 && s.inEntry l.compl l.part)

/-- Partition logical dies in the mask of DIESET. -/
def State.dieset (s : State) (l : Launch) : Nat :=
  s.spanRead (s.localPa l.popnd) 32 % 2 ^ (s.partDies l.part).length
/-- The largest live-core count among clusters on the partition's dies (R44). -/
def State.bigCluster (s : State) (p : Nat) : Nat :=
  ((s.partDies p).flatMap s.liveClusters).foldl (fun m k => max m (s.clusterCores k).length) 0
/-- Partition logical die with the fewest hops to the home of POPND (R27). -/
def State.nearDie (s : State) (l : Launch) : Nat :=
  let xy := siteXY (s.homeSite (s.localPa l.popnd))
  let ds := (s.partDies l.part).map (fun d => hopsXY (dieXY d) xy)
  ds.idxOf (ds.foldl min 1000)

/-- The first check of R28 that fails; 0: none. own: the launching wisp's ASN, for a LAUNCH. -/
def State.checkRecord (s : State) (l : Launch) (own : Option (BitVec 16)) : Nat :=
  let v := s.vdevAt l.vdev
  let w := 2 ^ l.gangw
  if l.entry.toNat % 4 ≠ 0 ∨ s.complOk l = false
      ∨ ((l.pmode = 1 ∨ l.pmode = 2) ∧ s.inEntry l.popnd l.part = false)
      ∨ (l.pmode = 1 ∧ l.popnd / 2 ^ 30 ≠ (l.popnd + 31) / 2 ^ 30) then 1
  else if l.extX = 0 ∨ l.extY = 0 ∨ l.extZ = 0 ∨ 2 ^ 32 ≤ l.count then 2
  else if l.codeRid = 255 ∨ l.rclass = 3 ∨ 3 ≤ l.gangw ∨ (l.gangw ≠ 0 ∧ l.pmode ≠ 3) ∨ l.count % w ≠ 0 then 3
  else if 4 ≤ l.pmode ∨ (l.pmode = 1 ∧ s.dieset l = 0) ∨ (l.pmode = 3 ∧ s.bigCluster l.part < w) then 4
  else if l.fsize % 64 ≠ 0 ∨ l.ssize % 16 ≠ 0 ∨ l.fbase.toNat % 64 ≠ 0 ∨ l.sbase.toNat % 16 ≠ 0 ∨ l.fsize < 64 then 5
  else if l.field 0x10 63 48 ≠ 0 ∨ l.field 0x18 27 27 ≠ 0 ∨ l.field 0x18 31 30 ≠ 0 ∨ l.field 0x18 39 35 ≠ 0
      ∨ l.field 0x18 63 48 ≠ 0 ∨ l.field 0x20 63 48 ≠ 0 ∨ l.field 0x28 63 3 ≠ 0 ∨ l.field 0x68 63 0 ≠ 0
      ∨ l.field 0x70 63 0 ≠ 0 ∨ l.field 0x78 63 0 ≠ 0 then 6
  else if l.asn.toNat < v.asnBase ∨ v.asnBase + v.asnCnt ≤ l.asn.toNat
      ∨ (match own with | some a => a != l.asn | none => false) = true then 7
  else 0

/-! ## Completion records of launches (R362) -/

/-- The 64 bytes of the record but for DONE. -/
def Launch.completion (l : Launch) (id now status : Nat) : Nat :=
  packFields [(32, status), (32, id), (32, l.nret), (32, l.nkill), (32, l.nchild), (32, 0), (64, l.tsel), (64, now),
    (64, l.cycles), (32, l.parent), (32, 0)]
/-- The words up to +0x37 first, then DONE, both registered at the home. -/
def State.writeLaunchRecord (s : State) (l : Launch) (id status : Nat) : State :=
  if l.compl = 0 then s
  else
    let a := s.localPa l.compl
    (s.unitWrite (.io 0) none a 0x38 (l.completion id s.time status)).unitWrite (.io 0) none (a + 0x38) 8 1

/-- A launch of the queue has completed: QDONE, then the message (R365). -/
def State.queueDone (s : State) (fn q : Nat) : State :=
  let s := s.updQueue fn q (fun x => { x with qdone := (x.qdone + 1) % 2 ^ 32 })
  if (s.queueAt fn q).qien then s.emit (.msix fn (1 + q)) else s

/-! ## Accepting a launch (R30, R44) -/

/-- An id that no launch of the package holds. -/
def State.freeId (s : State) : Nat :=
  ((List.range (s.launches.length + s.images.length + 1)).map (fun j => (Config.launchId s.draw + j) % (2 ^ 32 - 1) + 1)).find?
    (fun i => !s.launches.any (fun e => e.1 == i) && !s.images.any (fun e => e.id == i)) |>.getD 1

/-- Partition logical dies that the placement allows, fixed at selection (R43, R44). -/
def State.placementMask (s : State) (l : Launch) : Nat :=
  let ds := s.partDies l.part
  match l.pmode with
  | 1 => s.dieset l
  | 2 => 2 ^ s.nearDie l
  | 3 => (List.range ds.length).foldl (fun m j =>
      if (s.liveClusters (ds.getD j 0)).any (fun k => (s.clusterCores k).length == s.bigCluster l.part) then m + 2 ^ j else m) 0
  | _ => 2 ^ ds.length - 1

def State.acceptLaunch (s : State) (l : Launch) : Nat × State :=
  let id := s.freeId
  let l := { l with
    tsel := s.time, dieMask := s.placementMask l, group := if l.pmode = 3 then s.bigCluster l.part else 1 }
  (id, { s with launches := Store.set {} s.launches id l }.post (.wispPlacement id))

/-- A rejected record: its completion record where R28 allows it; false: none was written. -/
def State.rejectLaunch (s : State) (l : Launch) (code : Nat) : Bool × State :=
  if l.compl ≠ 0 ∧ (code ≠ 1 ∨ s.complOk l = true) then (true, s.writeLaunchRecord { l with tsel := 0, parent := l.parent } 0 code)
  else (false, s)

/-! ## LAUNCH (R34, R40, R131) -/

/-- A deadline is in force for device f (R331). -/
def State.underDeadline (s : State) (f : Nat) : Bool :=
  s.deadlines.any (fun d => if d.isPart then (s.vdevAt f).part == some d.target else d.target == f)

/-- The bind record that binds queue q of device f. -/
def State.bindOf (s : State) (f q : Nat) : Option Bind :=
  (s.binds.find? (fun e => e.2.valid && e.2.vdev == f && e.2.qmask.getLsbD q)).map Prod.snd

/-- Poisoned words of the launch record are taken as the bytes that stand there (DESIGN CHOICE, log 47). -/
def execLaunch (d a : BitVec 5) (s : State) : Res :=
  let p := s.rg a
  if p.toNat % 128 ≠ 0 then .next (s.trap (misaligned p))
  else finishG d ((s.xlat s.cur p.toNat .read true s.me.sup).bind fun t s =>
    let me := (s.wispOn s.cur).1
    let par := s.launchAt me
    let l : Launch := { img := BitVec.ofNat 1024 (s.spanRead t.pa 128), vdev := par.vdev, part := par.part, parent := me }
    let floor := match par.queue with
      | some q => ((s.bindOf par.vdev q).map Bind.pfloor).getD 0
      | none => 0
    let l := { l with prio := max l.prioField floor }
    let code := s.checkRecord l (some par.asn)
    if code ≠ 0 then .ok (status code) (s.rejectLaunch l code).2
    else if !s.ovfOpenNew par.vdev || s.underDeadline par.vdev then .ok 0 s
    else
      let (id, s) := s.acceptLaunch l
      .ok (BitVec.ofNat 64 id) s)

/-! ## Turns of the devices (R351) -/

/-- A device with no work and no wisp on a core keeps no positive deficit. -/
def State.idleDeficits (s : State) (p : Nat) : State :=
  { s with vdevs := Store.mapAll {} s.vdevs (fun f v =>
      if v.live && v.part == some p && decide (0 < v.deficit) && !s.hasWork f && !s.onAnyCore f then { v with deficit := 0 } else v) }
/-- U of R351. -/
def State.quantum (s : State) (p : Nat) : Int := 240000 * s.lc p
def State.credit (s : State) (p f : Nat) : State := s.updVdev f (fun v => { v with deficit := v.deficit + v.share * s.quantum p })
/-- Devices of the rotation that have work, in the cyclic order that follows device t. -/
def State.rotation (s : State) (p t : Nat) : List Nat :=
  let l := (s.vdevs.filter (fun e => s.inRotation p e.1 && s.hasWork e.1)).map Prod.fst
  l.filter (fun d => t < d) ++ l.filter (fun d => d ≤ t)
/-- The turn passes: a device whose deficit stays at or below 0 is passed over; the first argument bounds the passes. -/
def State.passTurn : Nat → State → Nat → Nat → State
  | 0, s, _, _ => s
  | n + 1, s, p, t =>
    match s.rotation p t with
    | [] => s
    | f :: _ =>
      let s := s.credit p f
      if 0 < (s.vdevAt f).deficit then { s with turn := Store.set 0 s.turn p (f + 1) } else State.passTurn n s p f

/-! ## Selection (R31 to R33, R40, R41) -/

/-- The queue's head record. Where QLOG was made smaller while the indices lie beyond the new ring, they stay, and the record
is read at QBASE + 128 * QHEAD, outside the ring (DESIGN CHOICE, log 45). -/
def State.headRecord (s : State) (f q : Nat) : Launch :=
  let x := s.queueAt f q
  { img := BitVec.ofNat 1024 (s.spanRead (s.localPa (x.qbase + 128 * x.qhead)) 128)
    vdev := f, part := ((s.vdevAt f).part).getD 0, queue := some q }
/-- Eligible queues of a device, with their priorities. -/
def State.eligible (s : State) (f : Nat) : List (Nat × Nat) :=
  (List.range 16).filterMap (fun q =>
    let x := s.queueAt f q
    match s.bindOf f q with
    | some b => if x.qen && x.posted != 0 then some (q, max b.pfloor (s.headRecord f q).prioField) else none
    | none => none)
/-- The highest queue priority, and on equal priority the lower queue. -/
def topQueue : List (Nat × Nat) → Option (Nat × Nat)
  | [] => none
  | x :: l => match topQueue l with
    | some y => if x.2 < y.2 then some y else some x
    | none => some x

/-- A launch of the partition is being expanded. -/
def State.expanding (s : State) (p : Nat) : Bool :=
  s.launches.any (fun e => e.2.part == p && e.2.dispensed && decide (e.2.next < e.2.count))

def execLaunchSelection (part : Nat) (s : State) : Res :=
  if s.expanding part then .next s
  else
    let s := s.idleDeficits part
    let s := if s.turnOf part = 0 then State.passTurn 4096 s part 0 else s
    match s.turnOf part with
    | 0 => .next s
    | f + 1 =>
      match topQueue (s.eligible f) with
      | none => .next s
      | some (q, prio) =>
        let l := { s.headRecord f q with prio := prio }
        let code := s.checkRecord l none
        let s := s.updQueue f q (fun x => { x with qhead := (x.qhead + 1) % x.size })
        if code = 0 then .next (s.acceptLaunch l).2
        else
          let (wrote, s) := s.rejectLaunch l code
          let s := s.updQueue f q (fun x => { x with lastrej := code, rej := x.rej || !wrote })
          .next ((s.queueDone f q).post (.launchSelection part))

/-! ## Placement (R20, R42 to R44) -/

/-- Wisps that are placed together: a CLUSTER group, in whole gangs; otherwise one. -/
def Launch.unit (l : Launch) : Nat := if l.pmode = 3 then l.group / 2 ^ l.gangw * 2 ^ l.gangw else 1
/-- The unit that starts at index i: its size. -/
def Launch.unitAt (l : Launch) (i : Nat) : Nat := min (max l.unit 1) (l.count - i / max l.unit 1 * max l.unit 1)

/-- The Wader's view of a die (R42): its latest report, or until its first one arrives the state at reset, less what has been
sent since. -/
def State.reportOf (s : State) (d : Nat) : Report := (s.dieAt d).report.getD ⟨(s.liveCores d).length, 4096, (s.dieAt d).sentFirst⟩
def State.estimate (s : State) (d : Nat) : Int := (s.reportOf d).idle - (s.reportOf d).sent
def State.allowedDies (s : State) (l : Launch) : List Nat :=
  ((s.partDies l.part).zipIdx.filter (fun e => l.dieMask / 2 ^ e.2 % 2 == 1)).map Prod.fst
/-- Largest estimate, then lower logical die: the list is in ascending logical die. -/
def State.bestDie (s : State) : List Nat → Option Nat
  | [] => none
  | d :: l => match State.bestDie s l with
    | some e => if s.estimate d < s.estimate e then some e else some d
    | none => some d
/-- n records have been sent to a die. -/
def State.sendTo (s : State) (d n : Nat) : State :=
  s.updDie d (fun x => { x with sentNow := x.sentNow + n, sentFirst := x.sentFirst + n, report := x.report.map (fun r => { r with sent := r.sent + n }) })

/-- The record of wisp i as the Wader creates it (R20). -/
def Launch.wisp (l : Launch) (id i : Nat) (die : Nat) : Wisp :=
  { launch := id, index := i, pc := l.entry &&& ~~~ 3, frame := l.fbase + BitVec.ofNat 64 (i * l.fsize)
    g1 := l.args, g2 := BitVec.ofNat 64 i, g3 := BitVec.ofNat 64 l.count
    join := BitVec.ofNat 64 (l.joinWord + i % 65536 * 2 ^ 48)
    loc := .moving die, prio := l.prio, eff := l.prio, group := i / max l.unit 1 * max l.unit 1 }

/-- The next wisp of a launch, or the next group of a CLUSTER launch, is sent to the die chosen for it (R43). -/
def execWispPlacement (launch : Nat) (s : State) : Res :=
  let l := s.launchAt launch
  if l.paused || !l.dispensed || decide (l.count ≤ l.next) then .next s
  else match s.bestDie (s.allowedDies l) with
    | none => .next s
    | some d =>
      let n := l.unitAt l.next
      let s := (List.range n).foldl (fun s j =>
        s.updWisp (wkey launch (l.next + j)) (fun _ => l.wisp launch (l.next + j) d)) s
      let s := (s.sendTo d n).updLaunch launch (fun l => { l with next := l.next + n })
      .next (s.post (.wispRecordArrival launch l.next d))

/-- A record that exists now is killed at once if its join has signalled its kill before (R300); otherwise it is ready. -/
def State.bornReady (s : State) (k : Nat) : State :=
  let w := (s.wispAt k).join
  match s.joinNamed (ctxId w) with
  | some j =>
    if j.killed.getLsbD (ctxIndex w) && decide (ctxIndex w < 64) then (s.updWisp k ({ · with jout := 3 })).killParked k 2
    else s.markReady k
  | none => s.markReady k

/-- The unit that starts at an index arrives at its die: into the pool above the low-water band, else into the overflow
queue, else the expansion pauses there (R35, R36, R44). -/
def execWispRecordArrival (launch index die : Nat) (s : State) : Res :=
  let l := s.launchAt launch
  let n := l.unitAt index
  let ks := ((List.range n).map (fun j => wkey launch (index + j))).filter (fun k => (s.wispAt k).loc == .moving die)
  if ks = [] then .next s
  else
    let free := s.poolFree die
    let v := s.vdevAt l.vdev
    let news := (s.wisps.filter (fun e => e.2.loc == .ovfNew && (s.launchAt e.2.launch).vdev == l.vdev)).length
    let next (s : State) : State :=
      if (s.launchAt launch).next < l.count then s.post (.wispPlacement launch) else s.post (.launchSelection l.part)
    if (if l.pmode = 3 then decide (256 + n ≤ free) else decide (256 < free)) then
      let s := ks.foldl (fun s k => let a := s.poolAddr die; s.updWisp k ({ · with loc := .pool die, addr := a })) s
      .next (next (ks.foldl (fun s k => s.bornReady k) s))
    else if s.ovfUsed l.vdev + n ≤ v.ovfCap ∧ news + n + s.lc l.part ≤ v.ovfCap then
      let s := ks.foldl (fun s k =>
        let a := s.ovfAddr l.vdev
        { s.updWisp k ({ · with loc := .ovfNew, addr := a, viaOvf := true, entered := s.seq }) with seq := s.seq + 1 }) s
      .next (next (ks.foldl (fun s k => s.bornReady k) s))
    else
      let s := { s with wisps := Store.mapAll {} s.wisps (fun k w =>
        if ks.contains k then ({} : Wisp) else w) }
      .next ((s.updLaunch launch ({ · with next := index, paused := true })).postOnce (.expansionResume launch))

/-- A paused expansion goes on once a pool entry or an open slot is there for its next unit. -/
def execExpansionResume (launch : Nat) (s : State) : Res :=
  let l := s.launchAt launch
  if !l.paused then .next s
  else
    let n := l.unitAt l.next
    let room := (s.allowedDies l).any (fun d => if l.pmode = 3 then decide (256 + n ≤ s.poolFree d) else decide (256 < s.poolFree d))
    if room || s.ovfOpenNew l.vdev then
      .next ((s.updLaunch launch ({ · with paused := false })).post (.wispPlacement launch))
    else .next s

/-! ## Reports (R42, R350) -/

def execFreeResourceReport (die : Nat) (s : State) : Res :=
  let occ := (s.vdevs.filter (fun e => e.2.live)).map (fun e =>
    (e.1, ((s.dieAt die).cache.filter (fun l => l.2.vdev == e.1)).length))
  let s := s.updDie die (fun x => { x with nextReport := max (x.nextReport + 1000) (s.time - 1000), sentNow := 0 })
  .next (s.post (.reportArrival die (s.idleCores die).length (s.poolFree die) occ))

def execReportArrival (die idle free : Nat) (occ : List (Nat × Nat)) (s : State) : Res :=
  let s := s.updDie die (fun x => { x with report := some ⟨idle, free, x.sentNow⟩, occ := occ })
  .next ((s.vdevs.filter (fun e => e.2.live && s.ovfUsed e.1 != 0)).foldl (fun s e => s.postOnce (.overflowDrain e.1)) s)

/-! ## The overflow queue (R36) -/

/-- The oldest record of a class of device f's overflow queue. -/
def State.oldestOvf (s : State) (f : Nat) (p : Wisp → Bool) : Option Wisp :=
  ((s.wisps.filter (fun e => e.2.loc.isOvf && p e.2 && (s.launchAt e.2.launch).vdev == f)).map Prod.snd).foldl
    (fun m w => match m with
      | some v => if w.entered < v.entered then some w else some v
      | none => some w) none

def Loc.isBack : Loc → Bool
  | .ovfBack _ => true
  | _ => false
/-- What drains with a returning wisp: a CLUSTER group that no cluster has yet is placed as a whole (R44, R329, R335). -/
def State.backUnit (s : State) (w : Wisp) : List Nat :=
  if (s.launchAt w.launch).pmode = 3 ∧ w.cluster = none then
    (s.wisps.filter (fun e => e.2.launch == w.launch && e.2.group == w.group && e.2.loc.isBack)).map Prod.fst
  else [w.key]
/-- Free entries that n returning records need: a group placed as a whole leaves the low-water band free (R36, R44). -/
def State.backNeed (s : State) (w : Wisp) (n : Nat) : Nat :=
  if (s.launchAt w.launch).pmode = 3 ∧ w.cluster = none then 256 + n else n
/-- The die to which a returning wisp drains, with n free entries. -/
def State.backDie (s : State) (w : Wisp) (n : Nat) : Option Nat :=
  let l := s.launchAt w.launch
  match w.cluster with
  | some k => if n ≤ (s.reportOf (k / 16)).free then some (k / 16) else none
  | none =>
    let left := w.loc.die
    if n ≤ (s.reportOf left).free then some left
    else s.bestDie ((s.allowedDies l).filter (fun d => d != left && decide (n ≤ (s.reportOf d).free)))
def State.newDie (s : State) (w : Wisp) : Option Nat :=
  let l := s.launchAt w.launch
  s.bestDie ((s.allowedDies l).filter (fun d =>
    if l.pmode = 3 then decide (256 + l.unitAt w.index ≤ (s.reportOf d).free) else decide (256 < (s.reportOf d).free)))

/-- Records move from the overflow queue into the pool of die d. -/
def State.drainTo (s : State) (ks : List Nat) (d : Nat) : State :=
  let s := (s.sendTo d ks.length)
  let s := ks.foldl (fun s k =>
    let a := s.poolAddr d
    (s.updWisp k ({ · with loc := .pool d, addr := a })).writeRecord k) s
  s.offer d

/-- The oldest returning record drains first, and a new one only when no returning one can. -/
def execOverflowDrain (vdev : Nat) (s : State) : Res :=
  let done (s : State) : State :=
    let s := (s.launches.filter (fun e => e.2.paused)).foldl (fun s e => s.postOnce (.expansionResume e.1)) s
    let s := ((s.cores.filter (fun e => e.2.stage == .held && s.vdevOn e.1 == vdev)).map Prod.fst).foldl
      (fun s c => s.postOnce (.heldWispDepart c)) s
    if s.ovfUsed vdev = 0 then s else s.postOnce (.overflowDrain vdev)
  let back := (s.oldestOvf vdev (fun w => w.loc.isBack)).bind (fun w =>
    let ks := s.backUnit w
    let n := s.backNeed w ks.length
    (s.backDie w n).bind (fun d => if n ≤ s.poolFree d then some (ks, d) else none))
  match back with
  | some (ks, d) => .next (done (s.drainTo ks d))
  | none =>
    match s.oldestOvf vdev (fun w => !w.loc.isBack) with
    | none => .next s
    | some w =>
      let l := s.launchAt w.launch
      let ks := if l.pmode = 3 then (s.wisps.filter (fun e => e.2.launch == w.launch && e.2.group == w.group && e.2.loc == .ovfNew)).map Prod.fst
        else [w.key]
      match s.newDie w with
      | none => .next s
      | some d =>
        if (if l.pmode = 3 then decide (256 + ks.length ≤ s.poolFree d) else decide (256 < s.poolFree d))
        then .next (done (s.drainTo ks d)) else .next s

/-- A wisp held on its core leaves as soon as there is a seat. -/
def execHeldWispDepart (core : Nat) (s : State) : Res :=
  if (s.coreAt core).stage ≠ .held then .next s
  else match s.seat core with
    | none => .next s
    | some l => .next (s.leaveHeld core (some l))

/-! ## A core takes a wisp -/

/-- Buffers and banks of another device are cleared (R196). -/
def State.cleanFor (s : State) (c f : Nat) : State :=
  let x := s.coreAt c
  let s := s.updCore c (fun x => { x with lastVdev := some f })
  let s := if x.lastVdev.isSome && x.lastVdev != some f then s.updCore c ({ · with typed := {} }) else s
  s.updCluster (clusterOf c) (fun y =>
    if y.lastVdev.isSome && y.lastVdev != some f then
      { y with lastVdev := some f, bank0 := { y.bank0 with valid := false }, bank1 := { y.bank1 with valid := false } }
    else { y with lastVdev := some f })

/-- The core holds wisp k: its address space (R87), the acquires of its code and of its own accesses (R56, R128), and the
registers common to a first pickup and a resume (R21, R23). -/
def State.takeWisp (s : State) (c k : Nat) : State :=
  let w := s.wispAt k
  let l := s.launchAt w.launch
  let s := s.cleanFor c l.vdev
  let s := s.updCore c (fun x => { x with
    wisp := some (w.launch, w.index), stage := .run, waitOn := .none, hold := .free, sup := false, pc := w.pc
    g := Store.set 0 (Store.set 0 (Store.set 0 (Store.set 0 (Store.set 0 [] 1 w.g1) 2 w.g2) 3 w.g3) 29 w.frame) 31
      (l.sbase + BitVec.ofNat 64 ((w.index + 1) * l.ssize))
    v := [], k := [], u := { joinctx := w.join }, e := {}, gang := none, gangWait := none, kill := none, preKind := none
    saved := 0, refill := false, cycles := 0, bump := none, popped := 0, pushed := 0
    s := { x.s with inh := false, pend := false, force := false, deadline := 0 } })
  let s := s.setAsn c l.asn
  let s := s.updCore c (·.updS ({ · with rdir := BitVec.ofNat 64 (s.rdirOf l) }))
  let s := if w.viaOvf then s.acquireZ c 255 2 true else if w.started then s.acquire c 255 1 else s
  let s := s.codeAcquire c
  s.updWisp k (fun w => { w with
    loc := .core c, eff := w.prio, viaOvf := false, started := true, vsaved := false, gangSusp := false, gang := none
    waitOn := .none
    cluster := if l.pmode = 3 then some (clusterOf c) else none })

/-- First pickup (R21). -/
def State.startOn (s : State) (c k : Nat) : State := s.takeWisp c k

/-- The spilled registers from index i on, as they are read (R387). -/
def State.reload (s : State) (c frame : Nat) : List Nat → Nat → Acc Unit
  | [], _ => .ok () s
  | r :: l, i =>
    (State.loadRun 8 s c ((frame + 0x40 + 0x100 * i) % 2 ^ 64) 256 false).bind fun v s =>
      State.reload (s.updCore c (·.vWrite r (BitVec.ofNat 2048 v))) c frame l (i + 1)
def State.restore (s : State) (c frame : Nat) (vsaved : Bool) : Acc Unit :=
  (State.loadRun 4 s c frame 64 false).bind fun h s =>
    let live : BitVec 32 := BitVec.ofNat 32 h
    let s := s.updCore c (·.updU (fun u => { u with
      vlive := live, fctl := BitVec.ofNat 16 (h / 2 ^ 32) &&& 0xFF07, fstat := BitVec.ofNat 7 (h / 2 ^ 48) }))
    if vsaved then s.reload c frame ((List.range 32).filter (fun r => live.getLsbD r)) 0 else .ok () s

/-- Resume (R23, R387): the restore, then the result of the wait that has ended; a record of a forced pre-emption takes
trap 0x0D with TVAL 3 first (R328). none: a read of the restore has to wait. A restore read that traps drops the wait's
result and the trap of R328 (DESIGN CHOICE, log 44). -/
def State.resumeOn (s : State) (c k : Nat) : Option State :=
  let w := s.wispAt k
  let s := (s.takeWisp c k).updCore c (fun x => { x.updU (fun u => { u with vl := w.vl, vtype := w.vtype }) with gang := w.gang })
  match s.restore c w.frame.toNat w.vsaved with
  | .wait _ => none
  | .trap t s => some (s.takeTrap c t)
  | .ok _ s =>
    let s := match s.waitResult w.waitOn with
      | some (v, d, acq) =>
        let s := match acq with | some sc => s.acquire c 255 sc | none => s
        s.updCore c (·.gWrite d v)
      | none => s
    some (if w.reason = 6 ∨ w.reason = 7 then s.takeTrap c { cause := 0x0D, tval := 3 } else s)

/-- What follows a pickup: a pool entry is free, and other idle cores may take records. -/
def State.pickedUp (s : State) (d f : Nat) : State := s.freed d f

def execWispPickup (core : Nat) (s : State) : Res :=
  if (s.coreAt core).stage ≠ .idle then .next s
  else match s.pickFor core with
    | none => .next s
    | some k => if (s.wispAt k).started then .next (s.postOnce (.wispResume core))
        else .next ((s.startOn core k).pickedUp (dieOf core) (s.launchAt (s.wispAt k).launch).vdev)

def execWispResume (core : Nat) (s : State) : Res :=
  if (s.coreAt core).stage ≠ .idle then .next s
  else match s.pickFor core with
    | none => .next s
    | some k =>
      if !(s.wispAt k).started then .next (s.postOnce (.wispPickup core))
      else match s.resumeOn core k with
        | some t => .next (t.pickedUp (dieOf core) (s.launchAt (s.wispAt k).launch).vdev)
        | none => .next (s.post (.wispResume core))

/-- Effective priority rises by one for every 10 ms of waiting (R38). -/
def execPriorityAging (launch index : Nat) (s : State) : Res :=
  let k := wkey launch index
  let w := s.wispAt k
  if w.st = 0 ∧ w.eff < 7 ∧ w.loc.coreOf = none ∧ w.loc ≠ .ended ∧ w.readyAt + 10000000 ≤ s.time then
    let s := s.updWisp k (fun w => { w with eff := w.eff + 1, readyAt := w.readyAt + 10000000 })
    .next (match w.loc with | .pool d => s.offer d | _ => s)
  else .next s

/-! ## CLUSTER groups (R45, R329) -/

/-- The oldest ready work of die d at the highest effective priority, groups with a reservation left out. -/
def State.oldestReady (s : State) (d : Nat) : Option Wisp :=
  let l := s.wisps.filter (fun e => e.2.loc == .pool d && e.2.st == 0 && !e.2.pinned && (s.launchAt e.2.launch).dispensed
    && !(s.awaitsGroup e.2 && s.hasReservation d e.2))
  ((s.devOrder ((s.partOfDie d).getD 0)).findSome? (fun f =>
    bestOf (l.filter (fun e => (s.launchAt e.2.launch).vdev == f)))).map Prod.snd
/-- Most idle cores, then the lower physical cluster. -/
def State.bestCluster (s : State) : List Nat → Option Nat
  | [] => none
  | k :: l => match State.bestCluster s l with
    | some j => if (s.idleIn k).length < (s.idleIn j).length then some j else some k
    | none => some k

def execClusterReservation (die : Nat) (s : State) : Res :=
  match s.oldestReady die with
  | none => .next s
  | some w =>
    if !s.awaitsGroup w then .next s
    else
      let g := (s.launchAt w.launch).group
      let kept (k : Nat) : Bool := match w.cluster with | some j => j == k | none => true
      match s.bestCluster ((s.liveClusters die).filter (fun k =>
        (s.clusterCores k).length == g && !s.reservedCluster k && kept k)) with
      | none => .next s
      | some k =>
        let s := s.updDie die (fun x => { x with
          resv := Store.set 0 x.resv (k % 16) (w.group + 1), resvLaunch := Store.set 0 x.resvLaunch (k % 16) w.launch })
        .next (if s.groupCanStart k then s.postOnce (.groupStart k) else s)

/-- Every wisp of the group that is ready is taken in the same step, in ascending index against ascending core. -/
def State.groupOn (s : State) : List (Nat × Nat) → Option State
  | [] => some s
  | (c, k) :: l =>
    (if (s.wispAt k).started then s.resumeOn c k else some (s.startOn c k)).bind (fun s => State.groupOn s l)

def execGroupStart (cluster : Nat) (s : State) : Res :=
  match s.reservation cluster with
  | none => .next s
  | some (l, f) =>
    if !s.groupCanStart cluster then .next s
    else
      let ks := (s.groupReady (cluster / 16) l f).map Prod.fst
      match s.groupOn ((s.idleIn cluster).zip ks) with
      | none => .next (s.post (.groupStart cluster))
      | some s =>
        let s := s.updDie (cluster / 16) (fun x => { x with
          resv := Store.set 0 x.resv (cluster % 16) 0, resvLaunch := Store.set 0 x.resvLaunch (cluster % 16) 0 })
        let s := { s with wisps := Store.mapAll {} s.wisps (fun _ (w : Wisp) =>
          if w.launch == l && w.group == f && w.loc != Loc.ended then { w with cluster := some cluster } else w) }
        .next (s.freed (cluster / 16) (s.launchAt l).vdev)

/-! ## Queue registers (R31, R32) -/

/-- The doorbell. -/
def execQtailWrite (fn q : Nat) (v : BitVec 64) (s : State) : Res :=
  let x := s.queueAt fn q
  let new := v.toNat % 2 ^ 16
  let n := x.posted
  let m := (new + 2 ^ 16 * x.size - x.qhead) % x.size
  if x.size ≤ new then .next (s.updQueue fn q ({ · with ovf := true }))
  else if m < n then .next (s.updQueue fn q ({ · with back := true }))
  else
    let s := s.updQueue fn q ({ · with qtail := new })
    .next (match (s.vdevAt fn).part with
      | some p => s.postOnce (.launchSelection p)
      | none => s)

/-- Writes of a queue's other registers, and of its completion register block (off from 0x40). -/
def execQueueConfigWrite (fn q off : Nat) (v : BitVec 64) (s : State) : Res :=
  let w := v.toNat
  match off with
  | 0x00 => .next (s.updQueue fn q (fun x => if x.qen then x else { x with qbase := w / 128 * 128 % 2 ^ 44 }))
  | 0x08 =>
    let s := s.updQueue fn q (fun x => { x with
      qlog := if x.qen then x.qlog else if 4 ≤ w % 32 ∧ w % 32 ≤ 16 then w % 32 else 4
      qen := w / 256 % 2 == 1 })
    .next (match (s.vdevAt fn).part with
      | some p => s.postOnce (.launchSelection p)
      | none => s)
  | 0x20 => .next (s.updQueue fn q (fun x => { x with
      ovf := x.ovf && w % 2 == 0, back := x.back && w / 2 % 2 == 0, rej := x.rej && w / 4 % 2 == 0 }))
  | 0x48 => .next (s.updQueue fn q ({ · with qien := w % 2 == 1 }))
  | _ => .next s

end Sys2Proof.Machine
end

