-- ==== Sys2Proof/Machine/Reset.lean ====
section
/-! DEFINITION. The reset ladder (R352, R353), the cold boot (R374, R381, R384), and what they share with the eviction of
launches: the discard of a launch (R331), the end of a mailbox command (R354), and memory that Carr zeroes. -/

namespace Sys2Proof.Machine

/-! ## Ends of launches and of commands -/

/-- What an END code contributes to the launch's status (R362). -/
def endStatus (code rclass : Nat) : Nat :=
  match code with
  | 1 => 0
  | 2 => 0x20
  | 5 => 0x21
  | 3 => if rclass = 2 then 0x23 else 0x22
  | _ => 0x24

/-- Every wisp of the launch has ended, and every child launch has completed. -/
def State.launchOver (s : State) (id : Nat) : Bool :=
  let l := s.launchAt id
  s.launches.any (fun e => e.1 == id) && decide (l.nret + l.nkill = l.count)
    && !s.launches.any (fun e => e.2.parent == id) && !s.images.any (fun i => i.launch.parent == id)

/-- The wisps of a launch that are not yet placed are withdrawn from its join (R300, R360). -/
def State.withdrawUnplaced (s : State) (l : Launch) : State :=
  ((List.range 64).filter (fun ix => decide (l.next + (ix + 65536 - l.next % 65536) % 65536 < l.count))).foldl
    (fun s ix => s.withdraw (BitVec.ofNat 64 (l.joinWord + ix * 2 ^ 48))) s

/-- Granules harvested for an image that is given up are dirty again: they are in no image (R99). -/
def State.unharvest (s : State) (l : Launch) : State :=
  { s with dirtyMap := (l.saving.getD [] ++ l.saved.map Prod.fst).foldl (fun m g => Store.set false m g true) s.dirtyMap }

/-- A launch is discarded (code 3) or reset (code 4): every wisp is killed now, and those not yet placed are withdrawn from their
join and counted as killed (R331, R352, R360, R362). -/
def State.discardLaunch (s : State) (id code : Nat) : State :=
  let l := s.launchAt id
  let s := (s.unharvest l).updLaunch id (fun l => { l with
    decision := .discard, resv := 0, paused := false, saving := none, saved := [], savedPois := [] })
  let s := (s.wisps.filter (fun e => e.2.launch == id && e.2.loc != Loc.ended)).foldl (fun s e => s.killNow e.1 code) s
  let s := (s.withdrawUnplaced l).updLaunch id (fun l => { l with
    nkill := l.nkill + (l.count - l.next), next := max l.next l.count
    status := if l.next < l.count then max l.status (endStatus code l.rclass) else l.status })
  let s := s.joinFreePending (l.joinWord % 2 ^ 32)
  let s := if code = 3 && l.rclass == 2 then { s.logAdd 6 l.vdev l.part id with losses := s.losses + 1 } else s
  let s := s.post (.launchSelection l.part)
  if s.launchOver id then s.post (.launchCompletion id) else s

/-- RESULT, RTAG, DONE and the vector of a completed command (R354); res: offset, bytes and value of each result. -/
def State.mboxDone (s : State) (fn result : Nat) (res : List (Nat × Nat × Nat)) : State :=
  let s := s.updMbox fn (fun m => { m with
    busy := false, done := true, result := result, rtag := m.ctag, cseq := (m.cseq + 1) % 2 ^ 32
    res := res.foldl (fun b e => memPut b e.1 e.2.2 e.2.1) [] })
  s.emit (.msix fn 0)

/-! ## Memory that Carr zeroes -/

/-- The n bytes at pa become zero; each granule is dirty (R99), and a waiter on a word that changes wakes (R294). -/
def State.zeroSpan (s : State) (pa n : Nat) : State :=
  let s : State := { s with
    mem := s.mem.filter (fun e => !(decide (pa ≤ e.1) && decide (e.1 < pa + n)))
    pois := s.pois.filter (fun e => !(decide (pa ≤ 4 * e.1) && decide (4 * e.1 < pa + n)))
    dirtyMap := if s.ownPa pa
      then (List.range (n / 4096 + 1)).foldl (fun m i => Store.set false m (paLocal pa / 4096 + i) true) s.dirtyMap
      else s.dirtyMap }
  s.wakeWaiters pa n
/-- The stack memory of every entry of partition p becomes zero (R377). -/
def State.zeroPart (s : State) (p : Nat) : State := { s with
  mem := s.mem.filter (fun e => !s.backedFor e.1 p)
  pois := s.pois.filter (fun e => !s.backedFor (4 * e.1) p) }
/-- A barrier table: 16,384 barriers of 16 bytes (R288, R357). -/
def barTableBytes : Nat := 262144

/-! ## Cold boot (R374, R384) -/

/-- Steps that come from outside the part, and are still to come after a boot. -/
def Event.external : Event → Bool
  | .qtailWrite _ _ _ | .queueConfigWrite _ _ _ _ | .registerWrite _ _ _ _ | .firmwareImageWrite _ _ | .hostWrite _ _ _
  | .hostRead _ _ _ | .peerTransaction _ _ _ _ _ | .podRelayForward _ _ _ _ _ | .coldBoot | .powerDown
  | .functionLevelReset _ | .eccError _ _ | .thermalThrottle _ | .clockRestore _ | .overtempShutdown _
  | .linkOutOfService _ _ _ | .ideIntegrityFailure _ _ _ | .ideKm _ _ _ _ | .foreignFlitDrop _ _ => true
  | _ => false

/-- The image that a boot loads, and the floor that it leaves (R374, step 3). -/
def Firmware.boot (f : Firmware) : Firmware :=
  let ver (m : Store Byte) : Nat := Config.imageVersion m % 64
  let ok (m : Store Byte) : Bool := Config.imageVerifies m && decide (f.floor ≤ ver m)
  if ok f.slotA && (!ok f.slotB || decide (ver f.slotB ≤ ver f.slotA)) then
    { f with loaded := some false, version := ver f.slotA, floor := max f.floor (ver f.slotA) }
  else if ok f.slotB then
    { f with loaded := some true, version := ver f.slotB, floor := max f.floor (ver f.slotB) }
  else { f with loaded := none, version := 0 }

/-- The live units as this boot's self-test finds them: none that was not live before. -/
def Fuse.selfTest (f : Fuse) (draw : Nat) : Fuse := { f with
  dead := (List.range 160).foldl (fun m d => Store.upd 0 m d (· ||| Config.failedCores draw d)) f.dead
  deadSlices := (List.range 160).foldl (fun m d => Store.upd 0 m d (· ||| Config.failedSlices draw d)) f.deadSlices }

/-- A die has fewer live cores or clusters than its grade guarantees. -/
def State.short (s : State) (d : Nat) : Bool :=
  decide ((s.liveCores d).length < s.mcore ∨ (s.liveClusters d).length < s.mclus)

/-- Everything is as State.reset has it but for what the part keeps: its number and its place among the pods, fuses and flash,
the memory of other packages, checkpoint images outside it, and the copy geometries that saved contexts name (R374, R381,
log 25). A boot is one step, so that no host request meets a part that is between its first and its last (R374, log 27). A
die that is short of live units is logged, with kind, device and partition 0 and the die as detail (R384; DESIGN CHOICE,
log 31). -/
def State.coldBootNow (s : State) : State :=
  let t : State := { State.reset with
    pkg := s.pkg, relays := s.relays, relay := s.relay, geos := s.geos
    fuse := s.fuse.selfTest s.draw, identity := identityOf s.fuse.entropy, fw := s.fw.boot, draw := s.draw + 1, out := s.out
    mem := s.mem.filter (fun e => paPkg e.1 != s.pkg), pois := s.pois.filter (fun e => paPkg (4 * e.1) != s.pkg)
    images := s.images.filter (fun i => i.host || paPkg i.safe != s.pkg)
    sched := s.sched.filter Event.external, evTurn := s.evTurn }
  let t := { t with
    parts := [(0, some { x0 := 0, y0 := 0, w := 16, h := t.rows })], measured := [0, 0, 0, 16, t.rows, 0, 0, 0, 0, 0] }
  ((List.range t.ndie).filter t.short).foldl (fun t d => t.logAdd 0 0 0 d) t

/-! ## The rungs (R352) -/

/-- Uncompleted launches of device f; q restricts them to those selected from a queue. -/
def State.launchesOf (s : State) (f : Nat) (q : Option Nat) : List Nat :=
  (s.launches.filter (fun e => e.2.vdev == f && (q.isNone || e.2.queue == q))).map Prod.fst
/-- Of those, the ones with wisps or children on the part: a launch that waits only for a child that a CHECKPOINT has saved
(R364) is not among them. -/
def State.liveLaunches (s : State) (f : Nat) (q : Option Nat) : List Nat :=
  (s.launchesOf f q).filter (fun id => let l := s.launchAt id; decide (l.nret + l.nkill < l.count) || s.launchOver id)
def State.killLaunches (s : State) (ids : List Nat) : State := ids.foldl (fun s id => s.discardLaunch id 4) s
def State.stopQueue (s : State) (f q : Nat) : State := s.updQueue f q (fun x => { x with qen := false, qhead := x.qtail })

def State.queueReset (s : State) (f q : Nat) : State := (s.stopQueue f q).killLaunches (s.launchesOf f (some q))

/-- The interface of a locked or running VF goes to ERROR (R377). -/
def State.tdispOf (s : State) (f : Nat) : Tdisp := Store.get .unlocked s.tdisp f
def State.setTdisp (s : State) (f : Nat) (t : Tdisp) : State := { s with tdisp := Store.set .unlocked s.tdisp f t }
def State.locked (s : State) (f : Nat) : Bool := s.tdispOf f == .locked || s.tdispOf f == .run
def State.tdispError (s : State) (f : Nat) : State := if s.locked f then s.setTdisp f .error else s

/-- The device whose tag a queued flit of the REQ class carries (R250, R353): that of the wisp of the core that sent it; for
a stream's flit, the sender's. -/
def State.reqDevice (s : State) : Event → Option Nat
  | .fill c _ | .ownreq c _ _ _ _ | .evict c _ _ _ | .disownreq c _ _ _ => (s.coreAt c).lastVdev
  | .ringProducedUpdate pa _ => match Store.get 0 s.ringDev pa with | 0 => none | d + 1 => some d
  | _ => none
/-- The function-level drain (R353): requests of the device, and pieces of its transfers, that are still queued are discarded,
and so no reply to them comes; those of other devices, replies and forwards are not touched. -/
def State.drainDevice (s : State) (f : Nat) : State :=
  let mine (c : Nat) : Bool := (s.coreAt c).lastVdev == some f
  let s := { s with sched := s.sched.filter (fun e => s.reqDevice e != some f) }
  { s with dies := Store.mapAll {} s.dies (fun _ d => { d with
    waiting := d.waiting.filter (fun p => !mine p.core), flying := d.flying.filter (fun p => !mine p.core) }) }

/-- Rung 1. -/
def State.contextReset (s : State) (f : Nat) : State :=
  let v := s.vdevAt f
  let s := s.tdispError f
  let s := (List.range 16).foldl (fun s q => s.stopQueue f q) s
  let s := (s.killLaunches (s.launchesOf f none)).drainDevice f
  let s := if v.live then (s.zeroSpan v.pbt barTableBytes).zeroSpan v.sbt barTableBytes else s
  (s.joins.filter (fun e => e.2.st == .opened && e.2.vdev == f)).foldl (fun s e => s.joinEvent (.settle e.1 false false)) s

/-- Rung 2. -/
def State.engineReset (s : State) (f : Nat) : State :=
  let s := s.contextReset f
  ((s.cores.filter (fun e => e.2.lastVdev == some f)).map Prod.fst).foldl (fun s c =>
    ((s.dropEngines c).updCore c ({ · with typed := {} })).updCluster (clusterOf c) (fun y =>
      { y with bank0 := { y.bank0 with valid := false }, bank1 := { y.bank1 with valid := false } })) s

/-- The words of a cache that are not dirty. -/
def dropDirty (m : Store Line) : Store Line :=
  Store.mapAll {} m (fun _ l => if l.valid &&& ~~~ l.dirty = 0 then {} else { l with valid := l.valid &&& ~~~ l.dirty, dirty := 0 })
/-- Devices of partition p. -/
def State.partVdevs (s : State) (p : Nat) : List Nat :=
  (s.vdevs.filter (fun e => e.2.live && e.2.part == some p)).map Prod.fst

/-- Rung 3: every core of the partition's dies is idled; a wisp that is held there at its end (R36) has ended. -/
def State.partitionReset (s : State) (p : Nat) : State :=
  let s := (s.partVdevs p).foldl (fun s f => s.engineReset f) s
  let s := (s.partDies p).foldl (fun s d =>
    let s := (s.liveCores d).foldl (fun s c =>
      ((if (s.coreAt c).kill.isSome then s.leaveHeld c none else s).vacate c).updCore c ({ · with l1 := [], owned := [] })) s
    let s := (s.liveClusters d).foldl (fun s k => s.updCluster k (fun x => { x with cache := dropDirty x.cache })) s
    s.updDie d (fun x => { x with cache := dropDirty x.cache })) s
  { s with
    reg := s.reg.filter (fun e => !s.backedFor (64 * e.1) p)
    pending := s.pending.filter (fun e => !s.backedFor (64 * (e.1 / 16384)) p) }

/-- What a rung does at once. -/
def State.rungActs (s : State) (r : ResetReq) : State :=
  match r.rung with
  | 0 => s.queueReset r.target r.queue
  | 1 => s.contextReset r.target
  | 2 => s.engineReset r.target
  | 3 => s.partitionReset r.target
  | _ => s.coldBootNow

/-- The rung has completed: every launch it killed has, or waits only for a child that was saved. -/
def State.rungOver (s : State) (r : ResetReq) : Bool :=
  match r.rung with
  | 0 => s.liveLaunches r.target (some r.queue) == []
  | 1 | 2 => s.liveLaunches r.target none == []
  | _ => (s.partVdevs r.target).all (fun f => s.liveLaunches f none == [])

/-- DESTROY_VDEV, once the device has no launch: its generations go up (R93), and its blocks and registers are freed. -/
def State.destroyNow (s : State) (f : Nat) : State :=
  let v := s.vdevAt f
  let s := match v.part with
    | some p => (List.range v.asnCnt).foldl (fun (s : State) i => (s.genBump p (v.asnBase + i)).2) s
    | none => s
  { s with
    binds := Store.mapAll {} s.binds (fun _ b => if b.vdev == f && b.valid then { bgen := b.bgen + 1 } else b)
    queues := s.queues.filter (fun e => e.1 / 16 != f)
    turn := s.turn.filter (fun e => e.2 != f + 1)
    vdevs := Store.set {} s.vdevs f {} }

/-- A response message: 256 bytes that the manual does not give (R376, R377). -/
def State.freeMessage (s : State) : Nat × State :=
  ((List.range 256).foldr (fun i n => (Config.responseByte s.draw i).toNat + 256 * n) 0, { s with draw := s.draw + 1 })

/-- The end of a reset: its log entry, and the command or request that waits for it, which names the device of the request
though the rung may have widened to its partition. -/
def State.finishReset (s : State) (r : ResetReq) : State :=
  let s : State := { s with resets := s.resets.erase r }
  let s := s.logAdd 7 (if r.rung = 3 then 0 else r.target) (if r.rung = 3 then r.target else ((s.vdevAt r.target).part).getD 63) r.rung
  let s := if r.stop then
      (match (s.vdevAt r.vdev).part with | some p => s.zeroPart p | none => s).setTdisp r.vdev .unlocked
    else s
  let s := if r.destroy then s.destroyNow r.vdev else s
  r.fns.foldl (fun s fn =>
    if (s.mboxAt fn).opc = 0x08 then s.mboxDone fn 0 [(0, 8, r.rung), (8, 8, s.time - r.t0)]
    else if (s.mboxAt fn).opc = 0x0C then
      let (n, s) := s.freeMessage
      s.mboxDone fn 0 [(0, 256, n)]
    else s.mboxDone fn 0 []) s
def State.checkResets (s : State) : State :=
  s.resets.foldl (fun s r => if s.rungOver r then s.finishReset r else s) s

/-- A reset begins. Rung 4 leaves nothing that could complete. -/
def State.startReset (s : State) (r : ResetReq) : State :=
  if 4 ≤ r.rung then (s.coldBootNow).logAdd 7 0 0 4
  else
    let r := { r with t0 := s.time, since := s.time, vdev := r.target }
    (({ s with resets := s.resets ++ [r] } : State).rungActs r).checkResets

/-- A rung that is not complete in time: the next rung, on the same target widened. -/
def execResetEscalation (rung target queue : Nat) (s : State) : Res :=
  match s.resets.find? (fun r => r.rung == rung && r.target == target && r.queue == queue) with
  | none => .next s
  | some r =>
    if s.time < r.since + rungTimeout rung then .next s
    else if rung = 3 then .next (s.startReset { r with rung := 4 })
    else
      let next : ResetReq := match rung, (s.vdevAt target).part with
        | 2, some p => { r with rung := 3, target := p, since := s.time }
        | _, _ => { r with rung := rung + 1, since := s.time }
      let s : State := { s with resets := s.resets.map (fun x => if x = r then next else x) }
      .next ((s.rungActs next).checkResets)

/-! ## Boot, standby and function-level reset -/

def execColdBoot (s : State) : Res := .next s.coldBootNow
/-- Standby: nothing runs until the next cold boot (R381). -/
def execPowerDown (s : State) : Res := .next { s with on := false, sched := s.sched.filter (· == .coldBoot) }

/-- The virtual functions of a physical function (R349). -/
def vfsOf (pf : Nat) : List Nat :=
  (List.range 96).filterMap (fun i => if (i < Config.vfSplit % 97) = (pf = 0) then some (2 + i) else none)
def execFunctionLevelReset (fn : Nat) (s : State) : Res :=
  if 2 ≤ fn then
    .next (if (s.vdevAt fn).live then s.startReset { rung := 1, target := fn } else s)
  else
    let ps := ((fn :: vfsOf fn).filterMap (fun f => if (s.vdevAt f).live then (s.vdevAt f).part else none)).eraseDups
    .next (ps.foldl (fun s p => s.startReset { rung := 3, target := p }) s)

/-- At 115 °C the event is logged, and the part is reset at rung 4 (R380). -/
def execOvertempShutdown (die : Nat) (s : State) : Res := .next ((s.coldBootNow).logAdd 7 0 0 (4 + 256 * die))

end Sys2Proof.Machine
end

