-- ==== Sys2Proof/Machine/Evict.lean ====
section
/-! DEFINITION. Kills (R300, R321), pre-emption postings (R324 to R326, R329), eviction deadlines and the checkpoint engine
(R331 to R335), the ends of wisps and launches (R362 to R365), and the end of a debugger's halt (R338). -/

namespace Sys2Proof.Machine

/-! ## The end of a halt (R338) -/

/-- The engines of a core that was halted go on from the step at which they stopped. -/
def State.wakeEngines (s : State) (c : Nat) : State :=
  let s := (s.kickM c).kickC c
  let s := if (s.coreAt c).e.cq.any (·.started) then (s.postOnce (.copyCompletion c)).postOnce (.publicationSwap c) else s
  (s.liveBinds c).foldl (fun s i => if (s.bindAt c i).kind = 0 then s.postOnce (.streamPrefetch c i) else s.askMove c i) s
def State.endHalt (s : State) (c : Nat) (killed evicted : Bool) : State :=
  if (s.coreAt c).stage ≠ .halted then s
  else (s.updCore c (fun x => { x with
    stage := .run, dbgKilled := x.dbgKilled || killed, dbgEvicted := x.dbgEvicted || evicted })).wakeEngines c

def execDebugHaltRelease (core : Nat) (s : State) : Res := .next (s.endHalt core false false)

/-! ## Kills (R300, R321) -/

/-- A kill signalled to a wisp: one that runs, or whose handler waits, keeps it until a kill point, ERET, HALTC or the end
of KGRACE; any other is killed at once. -/
def State.signalKill (s : State) (k code : Nat) : State :=
  match (s.wispAt k).loc with
  | .ended => s
  | .moving _ => s                       -- its record does not exist yet: killed when it is created
  | .core c =>
    let x := s.coreAt c
    let waits := match x.waitOn with | .wfi _ _ _ _ => false | _ => x.stage == .wait && !x.s.inh
    if waits || x.stage == .held then s.killLeave c code
    else (s.updCore c (fun x => { x with kill := x.kill.orElse (fun _ => some (s.time + 1000 * x.u.kgrace.toNat, code)) })).wfiWake c
  | _ => s.killParked k code

def execKillSignal (launch index : Nat) (s : State) : Res := .next (s.signalKill (wkey launch index) 2)

/-- KGRACE has run out: the wisp is killed on its core, INH or not; an RDTIME or a GENBUMP completes first (R137). -/
def execKgraceExpiry (core : Nat) (s : State) : Res :=
  let x := s.coreAt core
  match x.kill with
  | none => .next s
  | some (t, code) =>
    let busy := x.bump.isSome || x.hold == .firm || (match x.waitOn with | .time _ => true | _ => false)
    if s.time < t ∨ busy = true ∨ x.stage = .held then .next s
    else .next ((s.endHalt core true false).killLeave core code)

/-! ## Postings (R324 to R326, R329) -/

/-- FORCE is set: a core that is halted for an eviction leaves its halt. -/
def State.setForce (s : State) (c : Nat) : State :=
  let s := (s.updCore c (fun x => x.updS (fun r => { r with force := true }))).wfiWake c
  if (s.coreAt c).preKind = some .eviction then s.endHalt c false true else s

/-- A posting to core c; to an idle core it has no effect. -/
def State.postPreempt (s : State) (c : Nat) (kind : PreemptKind) (deadline : Nat) : State :=
  let x := s.coreAt c
  if x.wisp.isNone then s
  else
    let dl := if x.s.pend then min x.s.deadline.toNat deadline else deadline
    let s := s.updCore c (fun x => { x with
      preKind := if kind = .eviction then some .eviction else some (x.preKind.getD kind)
      s := { x.s with pend := true, deadline := BitVec.ofNat 64 dl } })
    let s := s.wfiWake c
    if x.s.force || (s.wispAt (s.wispKey c)).pinned || decide (dl < s.time + 40000) then s.setForce c else s

/-- The cores that hold members of the CLUSTER group, and so of the gang, of the wisp on core c. -/
def State.groupCores (s : State) (c : Nat) : List Nat :=
  let w := s.wispAt (s.wispKey c)
  if (s.launchAt w.launch).pmode = 3 then
    (s.wisps.filter (fun e => e.2.launch == w.launch && e.2.group == w.group)).filterMap (fun e => e.2.loc.coreOf)
  else [c]
/-- A group receives one posting, at one DEADLINE (R329). -/
def execPreemptPosting (core : Nat) (kind : PreemptKind) (deadline : Nat) (s : State) : Res :=
  if (s.coreAt core).wisp.isNone then .next s
  else .next ((s.groupCores core).foldl (fun s c => s.postPreempt c kind deadline) s)

def execForceSet (core : Nat) (s : State) : Res :=
  let x := s.coreAt core
  if x.wisp.isSome && x.s.pend && !x.s.force && decide (x.s.deadline.toNat ≤ s.time + 40000) then .next (s.setForce core)
  else .next s

/-- The wait of a core is abandoned: an AMOWAIT leaves its queue, a SUSPEND is remembered (R326). -/
def State.abandonWait (s : State) (c : Nat) : State :=
  let w := s.wispOn c
  let k := s.wispKey c
  match (s.coreAt c).waitOn with
  | .none | .woken _ _ _ | .passed _ _ _ | .time _ => s
  | .suspend _ => s.updWisp k ({ · with st := 0, aband := true })
  | .word _ _ _ _ _ _ =>
    { s with waiters := s.waiters.filter (fun q => !(q.launch == w.1 && q.index == w.2)) }.updWisp k ({ · with st := 0 })
  | .barrier _ _ _ _ | .join _ _ | .wfi _ _ _ _ => s.updWisp k ({ · with st := 0 })

/-- Trap 0x0D at an instruction boundary, or out of a wait; a halt for a time-share posting goes on. -/
def execForcedPreemptionTrap (core : Nat) (s : State) : Res :=
  let x := s.coreAt core
  let free := match x.waitOn with | .woken _ _ _ | .passed _ _ _ => false | _ => true
  if !x.forced || x.wisp.isNone || !free || x.stage == .held || x.stage == .idle
      || (x.stage == .halted && x.preKind != some .eviction) then .next s
  else .next (((s.endHalt core false true).abandonWait core).preemptTrap core)

/-- The end of a turn: a time-share posting to every core that holds a wisp of the device, and the next turn; with no other
device at work, the device is credited again (R351). -/
def execQuantumEnd (part : Nat) (s : State) : Res :=
  let s := s.idleDeficits part
  match s.turnOf part with
  | 0 =>
    let s := (State.passTurn 4096 s part 0).postOnce (.launchSelection part)
    .next ((s.partDies part).foldl (fun s d => s.offer d) s)
  | t + 1 =>
    if 0 < (s.vdevAt t).deficit then .next s
    else if s.othersWork part t then
      let s := (s.cores.filter (fun e => e.2.wisp.isSome && s.vdevOn e.1 == t)).foldl
        (fun s e => s.postPreempt e.1 .timeShare (s.time + 50000)) s
      let s := s.updVdev t ({ · with rot := false })
      let s := (State.passTurn 4096 s part t).postOnce (.launchSelection part)
      .next ((s.partDies part).foldl (fun s d => s.offer d) s)
    else .next (if s.hasWork t || s.onAnyCore t then s.credit part t else s)

/-! ## Deadlines (R331 to R335) -/

/-- The devices that a deadline is in force for. -/
def State.deadlineVdevs (s : State) (d : Deadline) : List Nat :=
  if d.isPart then (s.vdevs.filter (fun e => e.2.live && e.2.part == some d.target)).map Prod.fst else [d.target]
def State.affects (s : State) (d : Deadline) (f : Nat) : Bool := (s.deadlineVdevs d).contains f

/-- Partitions that a new layout removes or whose rectangle it changes (R348). -/
def State.affected (s : State) (l : List (Nat × Part)) : List Nat :=
  s.parts.filterMap (fun e => match e.2 with
    | none => none
    | some p => match l.find? (fun n => n.1 == e.1) with
      | some n => if n.2.x0 = p.x0 ∧ n.2.y0 = p.y0 ∧ n.2.w = p.w ∧ n.2.h = p.h then none else some e.1
      | none => some e.1)

/-- A layout takes effect: the stack memory of every entry whose PART changes is zeroed, and the home map, the slot shares,
the handlers and the generation tables are those of the new layout (R348). Cores of a changed partition hold no wisp. -/
def State.applyLayout (s : State) (l : List (Nat × Part)) : State :=
  let new : Store (Option Part) := l.foldl (fun m e => Store.set none m e.1 (some e.2)) []
  let t := { s with parts := new }
  let stays (p : Nat) : Bool := (s.partAt p).isSome && !(s.affected l).contains p
  let kept (pa : Nat) : Bool := s.backing pa == t.backing pa && (s.backing pa).all stays
  let same (d : Nat) : Bool := s.partOfDie d == t.partOfDie d && (s.partOfDie d).all stays
  let entryKept (pa : Nat) : Bool := !s.ownPa pa || s.backing pa == t.backing pa
  let u := { t with
    measured := l.flatMap (fun e => [e.1, e.2.x0, e.2.y0, e.2.w, e.2.h, e.2.slots, e.2.gran, e.2.handler.toNat, e.2.hlen,
      s.spanRead (s.localPa e.2.himg) e.2.hlen])
    mem := t.mem.filter (fun e => entryKept e.1)
    pois := t.pois.filter (fun e => entryKept (4 * e.1))
    reg := t.reg.filter (fun e => kept (64 * e.1))
    gens := t.gens.filter (fun e => stays (e.1 / 65536))
    turn := t.turn.filter (fun e => stays e.1)
    slotUse := t.slotUse.filter (fun e => (t.partAt e.1).isSome)
    joins := t.joins.filter (fun e => (s.partOfSite (e.1 / 1024)).all stays)
    vdevs := Store.mapAll {} t.vdevs (fun _ v => match v.part with
      | some p => if stays p then v else { v with part := none, rot := false, deficit := min v.deficit 0 }
      | none => v) }
  (List.range u.ndie).foldl (fun s d =>
    let tvec : Word := match (s.partOfDie d).bind s.partAt with | some p => p.handler &&& ~~~ 3 | none => 0
    if same d then (s.liveCores d).foldl (fun s c => s.updCore c (·.updS ({ · with tvec := tvec }))) s
    else
      let s := s.updDie d (fun x => { x with cache := [], waiting := [], flying := [], resv := [], resvLaunch := [] })
      let s := (s.liveClusters d).foldl (fun s k => s.updCluster k ({ · with cache := [], icache := [] })) s
      (s.liveCores d).foldl (fun s c => s.updCore c (fun x => { x with
        l1 := [], slots := [], age := [], s := { x.s with tvec := tvec, asgen := 0 } })) s) u

/-- The commands that wait for a deadline complete (R354, R356). -/
def State.endDeadline (s : State) (d : Deadline) : State :=
  let s : State := { s with deadlines := s.deadlines.erase d }
  let n (i : Nat) : Nat := d.counts.getD i 0
  let fs := s.deadlineVdevs d
  let images := s.images.filter (fun i => fs.contains i.launch.vdev && i.launch.dlt0 == d.t0)
  d.fns.foldl (fun s e =>
    if (s.mboxAt e.1).opc = 0x09 then
      s.mboxDone e.1 0 [(0, 8, (images.map Image.offset).foldl min ((images.map Image.offset).headD 0)),
        (8, 8, (images.map Image.length).foldl (· + ·) 0), (16, 8, images.length), (24, 8, n 2)]
    else s.mboxDone e.1 0 [(0, 8, d.t), (8, 8, e.2.toNat), (16, 8, n 0 + n 1 * 2 ^ 16 + n 2 * 2 ^ 32 + n 3 * 2 ^ 48)]) s

/-- Device f is vacated (R334): none of its wisps is left, and none of its launches is still to be saved. -/
def State.vacated (s : State) (f : Nat) : Bool := s.liveLaunches f none == []
/-- Deadlines whose devices are vacated end (R334). Those of the partitions that a PARTITION_MODE affects end together,
when all of them are vacated and the layout has taken effect (R348). -/
def State.checkVacancy (s : State) : State :=
  let vacated (d : Deadline) : Bool := (s.deadlineVdevs d).all s.vacated
  let held : List Nat := match s.layout with | some l => s.affected l | none => []
  let mine (d : Deadline) : Bool := d.isPart && held.contains d.target
  let t := (s.deadlines.filter (fun d => vacated d && !mine d)).foldl (fun s d => s.endDeadline d) s
  match s.layout with
  | none => t
  | some l =>
    if held.all (fun p => (s.partVdevs p).all s.vacated) then
      let t := (s.deadlines.filter mine).foldl (fun s d => s.endDeadline d) t
      ({ t with layout := none }.applyLayout l).mboxDone 0 0 []
    else t

/-! ## Ends are counted (R363, R364) -/

/-- An end is counted once its completion record is written or refused. -/
def execWispEndCount (launch index : Nat) (s : State) : Res :=
  let k := wkey launch index
  let w := s.wispAt k
  if w.loc ≠ .ended ∨ w.endCode = 0 ∨ w.counted = true then .next s
  else
    let s := if w.compDone then s else s.writeCompletion k none w.lastDie
    if (s.wispAt k).compDone = false then .next (s.post (.wispEndCount launch index))
    else
      let s := s.updWisp k ({ · with counted := true })
      let s := s.updLaunch launch (fun l => { l with
        nret := l.nret + (w.endCode == 1).toNat, nkill := l.nkill + (w.endCode != 1).toNat
        status := max l.status (endStatus w.endCode l.rclass), cycles := l.cycles + w.cycles })
      .next (if s.launchOver launch then s.post (.launchCompletion launch) else (s.checkResets).checkVacancy)

/-- A child of launch id has completed: NCHILD, also of a launch that is saved in an image (R362, R364). -/
def State.countChild (s : State) (id : Nat) : State :=
  if s.launches.any (fun e => e.1 == id) then s.updLaunch id (fun p => { p with nchild := p.nchild + 1 })
  else { s with images := s.images.map (fun i =>
    if i.id = id then { i with launch := { i.launch with nchild := i.launch.nchild + 1 } } else i) }

/-- The completion record, QDONE, the parent's count (R362 to R365). -/
def execLaunchCompletion (launch : Nat) (s : State) : Res :=
  if !s.launchOver launch then .next s
  else
    let l := s.launchAt launch
    let s := s.writeLaunchRecord l launch l.status
    let s := { s with
      launches := s.launches.filter (fun e => e.1 != launch)
      wisps := s.wisps.filter (fun e => e.2.launch != launch) }
    let s := match l.queue with | some q => s.queueDone l.vdev q | none => s
    let s := if l.parent = 0 then s else s.countChild l.parent
    let s := if l.parent != 0 && s.launchOver l.parent then s.post (.launchCompletion l.parent) else s
    .next s.checkResets.checkVacancy

/-- Bytes of the context buffer that a handler saves for core c now, up to its last part (R330, R332). -/
def State.ctxBytes (s : State) (c : Nat) : Nat :=
  if (s.wispAt (s.wispKey c)).pinned then 0x171000 else if (s.coreAt c).holdsEngine then 0xA800 else 0x2400
/-- An entry's span of physical addresses meets the n bytes at q; under an interleave override, when its span meets the
interleave group of q's home (log 26). -/
def State.entryMaps (s : State) (e : BitVec 512) (q n : Nat) : Bool :=
  let lo := entPA e (entBase e)
  let hi := lo + (entLimit e - entBase e)
  if !entV e || entMalformed e then false
  else if entIOV e = 0 then decide (lo < q + n ∧ q < hi)
  else
    let m := s.homeSite q
    match s.partOfSite m with
    | some p => (siteGroup 16 (s.partSites p) m).any (fun k =>
        decide (lo < s.pkg * 2 ^ 44 + (36 * k + 36) * 2 ^ 30 ∧ s.pkg * 2 ^ 44 + 36 * k * 2 ^ 30 < hi))
    | none => false
/-- The bytes at q are memory of device f: its directories map them, or they hold its tables or its overflow queue. With no
other device in the partition, all of the partition's memory is f's (R335, log 26). -/
def State.deviceOwns (s : State) (f q n : Nat) : Bool :=
  let v := s.vdevAt f
  let meets (a len : Nat) : Bool := decide (a < q + n ∧ q < a + len)
  !(s.vdevs.any (fun e => e.1 != f && e.2.live && e.2.part == v.part))
    || meets v.ovfBase (64 * v.ovfCap) || meets v.pbt barTableBytes || meets v.sbt barTableBytes || meets v.dirTab (8 * v.asnCnt)
    || (List.range v.asnCnt).any (fun i =>
      let rdir := s.homeRead (v.dirTab + 8 * i) 8 / 64 * 64 % 2 ^ 56
      meets rdir (64 + 64 * s.dirCount rdir)
        || (List.range (s.dirCount rdir)).any (fun j => s.entryMaps (s.dirEntry rdir j) q n))
/-- 4 KiB granules of device f's memory whose dirty bit is set (R99). -/
def State.dirtyGranules (s : State) (f : Nat) : List Nat :=
  (s.dirtyMap.filter (fun e =>
    let q := s.pkg * 2 ^ 44 + e.1 * 4096
    e.2 && s.backing q == (s.vdevAt f).part && s.deviceOwns f q 4096)).map Prod.fst
/-- The safe tier of device f: 0 for host memory, else the package that holds it, + 1 (R335). -/
def State.tierOf (s : State) (f : Nat) : Nat :=
  if (s.vdevAt f).safeKind then 0 else paPkg (s.vdevAt f).safe + 1
/-- A of R332: what is not reserved of the tier's rate, and of the 4.0 TB/s of the one engine (R335). -/
def State.engineRate (s : State) (f : Nat) : Nat :=
  let taken (ok : Launch → Bool) : Nat := ((s.launches.filter (fun e => ok e.2)).map (fun e => e.2.resv)).foldl (· + ·) 0
  min (Config.tierRate (s.tierOf f) - taken (fun l => s.tierOf l.vdev == s.tierOf f)) (4000 - taken (fun _ => true))
def ceilDiv (a b : Nat) : Nat := (a + b - 1) / b

/-- F of R332, in ns; cores: those that run wisps of the launch. -/
def State.projected (s : State) (l : Launch) (id : Nat) (cores : List Nat) (t0 : Nat) : Nat :=
  let charged := ((s.wisps.filter (fun e => e.2.launch == id && e.2.loc != .ended)).map (fun e => e.2.cycles)).foldl (· + ·) 0
    + (cores.map (fun c => (s.coreAt c).cycles)).foldl (· + ·) 0
  let u := l.count - l.nret - l.nkill
  let f := (cores.map (fun c => s.dieFreq (dieOf c))).foldl (· + ·) 0
  t0 + ceilDiv ((u * l.hint - charged) * 100000) (if f = 0 then 240000 else f)

/-- R333 for one launch: RUN, CHECKPOINT or DISCARD at time t0; noRun leaves RUN out. -/
def State.decideLaunch (s : State) (d : Deadline) (id : Nat) (t0 : Nat) (noRun : Bool) : State :=
  let l := s.launchAt id
  let f := l.vdev
  let cores := (s.wisps.filterMap (fun e => if e.2.launch == id then e.2.loc.coreOf else none))
  let a := s.engineRate f
  let first := !d.granted.contains f
  let bytes := (cores.map s.ctxBytes).foldl (· + ·) 0 + 64 * (l.count - l.nret - l.nkill)
    + (if first then 4096 * (s.dirtyGranules f).length else 0)
  let bump (s : State) (i : Nat) (loss : Bool) (g : Bool) : State :=
    { s with deadlines := s.deadlines.map (fun e =>
        if e.isPart = d.isPart ∧ e.target = d.target then { e with
          counts := (e.counts.zipIdx).map (fun x => x.1 + (x.2 == i).toNat + (loss && x.2 == 3).toNat)
          granted := if g then e.granted ++ [f] else e.granted } else e) }
  if !noRun && l.hint != 0 && decide (s.projected l id cores t0 + 250000 ≤ d.t) then
    (bump s 0 false false).updLaunch id ({ · with decision := .run })
  else if l.rclass = 1 ∧ 0 < a ∧ t0 + 50000 + ceilDiv bytes a ≤ d.t then
    let s := (bump s 1 false first).updLaunch id ({ · with
      decision := .checkpoint, dlt0 := d.t0, vacateBy := t0 + 50000, resv := ceilDiv bytes (d.t - t0 - 50000) })
    let s := (s.partDies l.part).foldl (fun s d => s.pruneResv d) s
    cores.foldl (fun s c => s.postPreempt c .eviction (t0 + 50000)) s
  else (bump s 2 (l.rclass == 2) false).discardLaunch id 3

/-- The deadline that stands for a target. -/
def State.deadlineAt (s : State) (isPart : Bool) (target : Nat) : Option Deadline :=
  s.deadlines.find? (fun d => d.isPart == isPart && d.target == target)
/-- Launches of a deadline's devices that await a decision, ascending: at T - M, those that still have unretired wisps. -/
def State.undecided (s : State) (d : Deadline) (which : Decision) : List Nat :=
  (s.launches.filter (fun e => s.affects d e.2.vdev && e.2.decision == which
    && (which != .run || decide (e.2.nret + e.2.nkill < e.2.count)))).map Prod.fst
def State.decideAll (s : State) (isPart : Bool) (target t0 : Nat) (which : Decision) (noRun : Bool) : State :=
  match s.deadlineAt isPart target with
  | none => s
  | some d => (s.undecided d which).foldl (fun s id =>
      match s.deadlineAt isPart target with
      | some d => s.decideLaunch d id t0 noRun
      | none => s) s

/-- A deadline comes into force: the bind records are cleared, and every launch is decided (R331). -/
def State.forceDeadline (s : State) (d : Deadline) : State :=
  let fs := s.deadlineVdevs d
  let s := { s with
    deadlines := s.deadlines ++ [d]
    binds := Store.mapAll {} s.binds (fun _ b => if fs.contains b.vdev && b.valid then { bgen := b.bgen + 1 } else b) }
  s.decideAll d.isPart d.target d.t0 .none d.noRun
def State.startDeadline (s : State) (d : Deadline) : State := (s.forceDeadline d).checkVacancy

/-- At T - M every RUN launch that goes on is decided again, with H taken as 0 (R334). -/
def execDeadlineRecheck (isPart : Bool) (target : Nat) (s : State) : Res :=
  match s.deadlineAt isPart target with
  | none => .next s
  | some d =>
    if s.time + 250000 < d.t then .next s
    else .next ((s.decideAll isPart target s.time .run true).checkVacancy)

/-- A launch that was decided CHECKPOINT is discarded after all (R333, R335): the deadline counts a DISCARD more. -/
def State.loseCheckpoint (s : State) (id : Nat) : State :=
  let l := s.launchAt id
  let s : State := { s with deadlines := s.deadlines.map (fun d =>
    if s.affects d l.vdev && d.t0 == l.dlt0 then { d with counts := d.counts.zipIdx.map (fun x => x.1 + (x.2 == 2).toNat) } else d) }
  (s.discardLaunch id 3).checkVacancy

/-- A wisp still on a core at t0 + Q: the whole launch is discarded (R333). -/
def execCheckpointVacateTimeout (launch : Nat) (s : State) : Res :=
  let l := s.launchAt launch
  if l.decision ≠ .checkpoint ∨ s.time < l.vacateBy ∨ s.onCores launch = [] then .next s
  else .next (s.loseCheckpoint launch)

/-- Bytes of a granule, read at their homes, and the package-local addresses of its words that are poisoned there, or lost
because a link is out of service (R256, R336). -/
def State.granuleBytes (s : State) (g : Nat) : List Byte :=
  (List.range 4096).map (fun i => s.byteAt (s.pkg * 2 ^ 44 + g * 4096 + i))
def State.granulePois (s : State) (g : Nat) : List Nat :=
  ((List.range 1024).map (fun i => g * 4096 + 4 * i)).filter (fun a =>
    s.homePois (s.pkg * 2 ^ 44 + a) 4 || s.routeDown (s.homeNode (s.pkg * 2 ^ 44 + a)) (.io 0))

/-- The records of a launch's wisps. -/
def State.recordsOf (s : State) (id : Nat) : List Wisp := (s.wisps.filter (fun e => e.2.launch == id)).map Prod.snd
/-- The place in its safe tier at which the next image of device f begins. -/
def State.tierEnd (s : State) (f : Nat) : Nat :=
  let v := s.vdevAt f
  (s.images.filter (fun i => i.safe == v.safe && i.host == v.safeKind)).foldl (fun m i => max m (i.offset + i.length)) 0
/-- An image's bytes: its granules, its wisp records and the Wader's state. -/
def imageBytes (granules records : Nat) : Nat := 64 * records + 4096 * granules + 128

/-- The image of a launch is complete: the wisp records and the Wader's state of the launch are in it, and the launch is off the
device (R335). -/
def State.putImage (s : State) (id : Nat) : State :=
  let l := s.launchAt id
  let v := s.vdevAt l.vdev
  let ws := s.recordsOf id
  let s : State := { s with
    images := s.images ++ [{
      safe := v.safe, host := v.safeKind, offset := s.tierEnd l.vdev, id := id, wisps := ws
      launch := { l with saving := none, saved := [], savedPois := [] }
      length := imageBytes l.saved.length ws.length, pages := l.saved, pois := l.savedPois
      grade := s.fuse.grade, dies := (s.partDies l.part).map (fun d => (s.liveCores d).length) }]
    waiters := s.waiters.filter (fun q => q.launch != id)
    launches := s.launches.filter (fun e => e.1 != id)
    wisps := s.wisps.filter (fun e => e.2.launch != id) }
  let s := (s.partDies l.part).foldl (fun s d => s.freed d l.vdev) s
  (s.post (.launchSelection l.part)).checkResets.checkVacancy

/-- The checkpoint engine goes on (R335): it harvests the dirty-granule maps, then copies the granules, each a piece that is
admitted (R254), then the wisp records and the Wader's state. An image that the tier has no room for is a discard. -/
def execCheckpointEngineCopy (launch : Nat) (s : State) : Res :=
  let l := s.launchAt launch
  let ev : Event := .checkpointEngineCopy launch
  if l.decision ≠ .checkpoint ∨ s.onCores launch ≠ [] ∨ l.nret + l.nkill = l.count then .next s
  else match l.saving with
    | none =>
      let gs := s.dirtyGranules l.vdev
      if (s.vdevAt l.vdev).safeLen < s.tierEnd l.vdev + imageBytes gs.length (s.recordsOf launch).length
      then .next (s.loseCheckpoint launch)
      else .next (({ s with dirtyMap := s.dirtyMap.filter (fun e => !gs.contains e.1) } : State).updLaunch launch
        ({ · with saving := some gs }))
    | some (g :: gs) =>
      match s.admission leadIo leadUnit [64] (s.routeLinks (s.homeNode (s.pkg * 2 ^ 44 + g * 4096)) (.io 0)) ev with
      | (false, s) => .next s
      | (true, s) => .next (s.updLaunch launch (fun l => { l with
          saving := some gs, saved := l.saved ++ [(g, s.granuleBytes g)], savedPois := l.savedPois ++ s.granulePois g }))
    | some [] => .next (s.putImage launch)

/-! ## Other wakes -/

def execWfiTimeReached (core : Nat) (s : State) : Res := .next (s.wfiWake core)
/-- Carr posts the resume of a wisp that waits at SUSPEND (R129, R326). -/
def execResumeFromCarr (launch index : Nat) (s : State) : Res := .next (s.resumePosted (wkey launch index)).2

end Sys2Proof.Machine
end

