-- ==== Sys2Proof/Machine/Carr.lean ====
section
/-! DEFINITION. The commands of Carr's mailboxes (R354 to R358) but for those that carry security messages: what each
reads from ARG, the checks in order, what it does and what it answers in RES. A command of function fn is performed while
the mailbox of fn is busy with it. -/

namespace Sys2Proof.Machine

/-! ## Arguments and results -/

/-- ARG as the command found it: n bytes at an offset. -/
def Mbox.argN (m : Mbox) (off n : Nat) : Nat := byteRun m.cmd off n
/-- Bits of the 8 bytes of ARG at an offset. -/
def Mbox.argBits (m : Mbox) (off hi lo : Nat) : Nat := bits (m.argN off 8) hi lo
/-- The mailbox of fn is busy with a command of this OPC. -/
def onCommand (fn opc : Nat) (s : State) (k : Mbox → State) : Res :=
  let m := s.mboxAt fn
  if m.busy && m.opc == opc then .next (k m) else .next s
/-- A command that ends without results. -/
def State.answer (s : State) (fn code : Nat) : State := s.mboxDone fn code []
def isPF (fn : Nat) : Bool := decide (fn < 2)

/-- The n bytes at a package-local address lie in device memory: every home-map entry they touch is backed. -/
def State.localSpan (s : State) (a n : Nat) : Bool :=
  decide (a + n ≤ 2 ^ 44) && (List.range ((a + max n 1 - 1) / 2 ^ 30 + 1 - a / 2 ^ 30)).all (fun i =>
    (s.backing (s.localPa ((a / 2 ^ 30 + i) * 2 ^ 30))).isSome)
/-- The same for a span that a command names, at a 64-byte aligned address (R356). -/
def State.argSpan (s : State) (a n : Nat) : Bool := a % 64 == 0 && s.localSpan a n

/-- Registered writes of a run of bytes, 64 at a time; the first argument bounds their number. -/
def State.writeBytesN : Nat → State → Nat → List Byte → State
  | 0, s, _, _ => s
  | k + 1, s, pa, l =>
    let h := l.take 64
    if h = [] then s else State.writeBytesN k (s.homeWrite none none pa h.length (leBytes h)) (pa + 64) (l.drop 64)
def State.writeBytes (s : State) (pa : Nat) (l : List Byte) : State := State.writeBytesN (l.length / 64 + 1) s pa l

/-! ## QUERY_ENUM (R46, R47, R39, R356) -/

def sumOf (l : List Nat) : Nat := l.foldl (· + ·) 0
def State.enumHeader (s : State) : Nat :=
  let ds := List.range s.ndie
  let site := 0x40 + 32 * s.ndie
  let hop := site + 16 * s.ndie
  packFields [(16, 1), (16, s.fuse.grade), (8, 16), (8, s.rows), (8, s.ndie), (8, s.nio),
    (16, sumOf (ds.map (fun d => (s.liveCores d).length))), (16, sumOf (ds.map (fun d => (s.liveClusters d).length))),
    (16, sumOf (ds.map s.liveSlices)), (16, s.ndie), (8, s.mcore), (8, s.mclus), (8, s.mslice), (8, 5 * s.nio), (32, 0),
    (32, 0x40), (32, site), (32, hop), (32, hop + s.ndie * s.ndie)]
def State.enumDie (s : State) (d : Nat) : Nat :=
  let xy := dieXY d
  let cores := fun d => (s.liveCores d).length
  let clus := fun d => (s.liveClusters d).length
  packFields [(4, xy.1), (5, xy.2), (7, 0), (16, s.firstExtra cores s.mcore d), (16, s.firstExtra clus s.mclus d), (16, 0),
    (64, (s.coreLiveMask d).toNat), (16, sumOf ((s.liveClusters d).map (fun k => 2 ^ (k % 16)))),
    (16, (s.sliceLiveMask d).toNat), (4, s.linkLive xy), (28, 0), (32, (Config.laneRepair d).toNat)]
def State.enumSite (s : State) (m : Nat) : Nat :=
  let xy := siteXY m
  packFields [(4, xy.1), (5, xy.2), (4, s.linkLive xy), (27, 0), (8, 36), (16, 0), (32, (Config.laneRepair (256 + m)).toNat)]
def Bind.image (b : Bind) : Nat :=
  packFields [(1, b.valid.toNat), (7, 0), (8, b.vdev), (16, b.qmask.toNat), (6, b.part), (2, 0), (8, b.share), (3, b.pfloor),
    (13, 0), (32, b.bgen)]
/-- The enumeration table. It depends on fuses and the self-test alone, so it does not change until a boot. -/
def State.enumTable (s : State) : List Byte :=
  let ds := List.range s.ndie
  toBytes 64 s.enumHeader ++ ds.flatMap (fun d => toBytes 32 (s.enumDie d)) ++ ds.flatMap (fun m => toBytes 16 (s.enumSite m))
    ++ ds.flatMap (fun a => ds.map (fun b => BitVec.ofNat 8 (hopsXY (dieXY a) (dieXY b))))
/-- The bind records as function fn sees them. -/
def State.bindTable (s : State) (fn : Nat) : List Byte :=
  (List.range 256).flatMap (fun i =>
    let b : Bind := Store.get {} s.binds i
    toBytes 32 (if isPF fn || (b.valid && b.vdev == fn) then b.image else 0))

def execQueryEnum (fn : Nat) (s : State) : Res :=
  onCommand fn 0x01 s fun m =>
    let a := m.argN 0 8
    let l := (s.enumTable ++ s.bindTable fn).take (m.argN 8 8)
    if !s.argSpan a l.length then s.answer fn 3
    else (s.writeBytes (s.localPa a) l).mboxDone fn 0 [(0, 8, l.length)]

/-! ## CREATE_VDEV, DESTROY_VDEV (R349, R357) -/

/-- The ASN block of a new member of partition p meets no other's there. -/
def State.asnFree (s : State) (f p base cnt : Nat) : Bool :=
  !(s.partVdevs p).any (fun e => e != f && overlap base cnt (s.vdevAt e).asnBase (s.vdevAt e).asnCnt)

/-- A field of CREATE_VDEV is out of its range, or a reserved one is not zero. -/
def State.badVdev (s : State) (m : Mbox) : Bool :=
  let a := m.argBits
  decide (97 < a 0 6 0 ∨ a 0 7 7 ≠ 0 ∨ a 0 15 14 ≠ 0 ∨ a 0 31 24 ≠ 0 ∨ a 0 23 16 = 0)
    || (a 0 13 8 != 63 && (s.partAt (a 0 13 8)).isNone)
    || decide (65536 < a 0 47 32 + a 0 63 48)
    || decide (a 0x10 31 0 < 256 ∨ 16777216 < a 0x10 31 0 ∨ 32 < a 0x10 39 32 ∨ a 0x10 63 40 ≠ 0)
    || decide (a 8 63 44 ≠ 0 ∨ a 0x18 63 56 ≠ 0 ∨ a 0x20 63 56 ≠ 0 ∨ a 0x38 63 1 ≠ 0 ∨ a 0x40 63 56 ≠ 0 ∨ a 0x48 63 56 ≠ 0)
    || [8, 0x18, 0x20, 0x40, 0x48].any (fun o => a o 5 0 != 0)
    || a 0x48 63 0 == 0 || m.argN 0x50 0xB0 != 0

def execCreateVdev (fn : Nat) (s : State) : Res :=
  onCommand fn 0x02 s fun m =>
    let a := m.argBits
    let f := a 0 6 0
    let p := a 0 13 8
    if !isPF fn then s.answer fn 2
    else if s.badVdev m then s.answer fn 3
    else if (s.vdevAt f).live then s.answer fn 5
    else if p ≠ 63 ∧ s.asnFree f p (a 0 47 32) (a 0 63 48) = false then s.answer fn 4
    else
      let v : VDev := {
        live := true, part := if p = 63 then none else some p, share := a 0 23 16
        asnBase := a 0 47 32, asnCnt := a 0 63 48, ovfBase := s.localPa (a 8 43 0), ovfCap := a 0x10 31 0
        occLim := a 0x10 39 32, pbt := a 0x18 55 0, sbt := a 0x20 55 0, safe := a 0x28 63 0, safeLen := a 0x30 63 0
        safeKind := a 0x38 0 0 == 1, backTab := a 0x40 55 0, dirTab := a 0x48 55 0 }
      let s := s.updVdev f (fun _ => v)
      ((s.zeroSpan v.pbt barTableBytes).zeroSpan v.sbt barTableBytes).mboxDone fn 0 [(0, 8, f)]

def execDestroyVdev (fn : Nat) (s : State) : Res :=
  onCommand fn 0x03 s fun m =>
    let f := m.argBits 0 7 0
    if !isPF fn then s.answer fn 2
    else if m.argBits 0 63 8 ≠ 0 ∨ (s.vdevAt f).live = false then s.answer fn 3
    else if s.underDeadline f then s.answer fn 5
    else if s.launchesOf f none != [] || s.locked f then s.startReset { rung := 1, target := f, fns := [fn], destroy := true }
    else (s.destroyNow f).answer fn 0

/-! ## BIND, SET_WEIGHT (R39, R41, R355) -/

/-- A locked or running interface goes to ERROR before a PF command changes its device, and its launches end as reset. -/
def State.touch (s : State) (f : Nat) : State := if s.locked f then s.startReset { rung := 1, target := f } else s

/-- Every valid record of device f takes SHARE. A record whose SHARE changes is rewritten and counts up; one whose SHARE is the
same already is not (R39; DESIGN CHOICE, log 45). -/
def State.setShare (s : State) (f w : Nat) : State :=
  { s with binds := Store.mapAll {} s.binds (fun _ b =>
      if b.valid && b.vdev == f && b.share != w then { b with share := w, bgen := (b.bgen + 1) % 2 ^ 32 } else b) }.updVdev f
    ({ · with share := w })

def execBind (fn : Nat) (s : State) : Res :=
  onCommand fn 0x04 s fun m =>
    let i := m.argBits 0 7 0
    let a := m.argBits 8
    let old : Bind := Store.get {} s.binds i
    let f := a 15 8
    let v := s.vdevAt f
    let q : BitVec 16 := BitVec.ofNat 16 (a 31 16)
    let reserved := m.argBits 0 63 8 != 0 || a 7 1 != 0 || a 39 38 != 0 || a 63 51 != 0 || m.argBits 0x10 63 32 != 0
      || m.argN 0x18 16 != 0
    let put (s : State) (b : Bind) : State :=
      { s with binds := Store.set {} s.binds i { b with bgen := ((Store.get {} s.binds i).bgen + 1) % 2 ^ 32 } }
    if !isPF fn then s.answer fn 2
    else if reserved then s.answer fn 3
    else if old.valid && s.underDeadline old.vdev then s.answer fn 5
    else if a 0 0 = 0 then
      ((put (if old.valid then s.touch old.vdev else s) {})).answer fn 0
    else if !v.live || (s.partAt (a 37 32)).isNone || a 47 40 == 0 || (v.part.isSome && v.part != some (a 37 32))
        || s.binds.any (fun e => e.1 != i && e.2.valid && e.2.vdev == f && e.2.qmask &&& q != 0) then s.answer fn 3
    else if s.underDeadline f then s.answer fn 5
    else if v.part.isNone && !s.asnFree f (a 37 32) v.asnBase v.asnCnt then s.answer fn 4
    else
      let s := (if old.valid && old.vdev != f then s.touch old.vdev else s).touch f
      let s := put s { valid := true, vdev := f, qmask := q, part := a 37 32, share := a 47 40, pfloor := a 50 48 }
      let s := (s.setShare f (a 47 40)).updVdev f (fun v => { v with part := some (a 37 32), rot := true })
      (s.post (.launchSelection (a 37 32))).answer fn 0

def execSetWeight (fn : Nat) (s : State) : Res :=
  onCommand fn 0x05 s fun m =>
    let f := m.argBits 0 7 0
    let w := m.argBits 0 15 8
    if !isPF fn then s.answer fn 2
    else if m.argBits 0 63 16 ≠ 0 ∨ w = 0 ∨ (s.vdevAt f).live = false then s.answer fn 3
    else ((s.touch f).setShare f w).answer fn 0

/-! ## POST_DEADLINE, CHECKPOINT, PARTITION_MODE (R331, R348, R355) -/

/-- A new deadline of function fn at the current TIME, T raised where it is too near (R331). -/
def State.newDeadline (s : State) (isPart : Bool) (target t : Nat) (fns : List Nat) (noRun : Bool) : Deadline :=
  { isPart := isPart, target := target, t := max t (s.time + 1000000), t0 := s.time
    fns := fns.map (fun fn => (fn, decide (t < s.time + 1000000))), noRun := noRun }

def execPostDeadline (fn : Nat) (s : State) : Res :=
  onCommand fn 0x06 s fun m =>
    let kind := m.argBits 0 0 0
    let id := m.argBits 0 15 8
    let t := m.argN 8 8
    if !isPF fn && (kind == 1 || id != fn) then s.answer fn 2
    else if m.argBits 0 7 1 ≠ 0 ∨ m.argBits 0 63 16 ≠ 0
        ∨ (if kind = 1 then (s.partAt id).isNone else !(s.vdevAt id).live) = true then s.answer fn 3
    else
      let d := s.newDeadline (kind == 1) id t [fn] false
      match s.deadlineAt (kind == 1) id with
      | some _ => { s with deadlines := s.deadlines.map (fun e =>
          if e.isPart == d.isPart && e.target == id then { e with t := min e.t d.t, fns := e.fns ++ d.fns } else e) }
      | none => s.startDeadline d

def execCheckpoint (fn : Nat) (s : State) : Res :=
  onCommand fn 0x09 s fun m =>
    let f := m.argBits 0 7 0
    if !isPF fn && f != fn then s.answer fn 2
    else if m.argBits 0 63 8 ≠ 0 ∨ (s.vdevAt f).live = false then s.answer fn 3
    else if s.underDeadline f then s.answer fn 5
    else s.startDeadline (s.newDeadline false f (m.argN 8 8) [fn] true)

/-- Descriptor i of the array at a package-local address (R356). -/
def State.descriptor (s : State) (a i : Nat) : Part × Bool :=
  let w (o : Nat) : Nat := s.homeRead (s.localPa (a + 32 * i + o)) 8
  ({ x0 := bits (w 0) 3 0, y0 := bits (w 0) 8 4, w := bits (w 0) 13 9, h := bits (w 0) 18 14, slots := bits (w 0) 27 19
     gran := bits (w 0) 30 28, handler := BitVec.ofNat 64 (w 0x18), himg := w 8, hlen := w 0x10 }, bits (w 0) 63 31 == 0)
/-- A layout that R347 allows, with slot shares that sum to at most 256. -/
def State.layoutOk (s : State) (l : List (Nat × Part)) : Bool :=
  l.all (fun e => decide (2 ≤ e.2.w ∧ 4 ≤ e.2.h ∧ e.2.w * e.2.h % 2 = 0 ∧ e.2.x0 + e.2.w ≤ 16 ∧ e.2.y0 + e.2.h ≤ s.rows
      ∧ e.2.gran ≤ 4))
    && l.all (fun e => l.all (fun g => e.1 == g.1 || !(overlap e.2.x0 e.2.w g.2.x0 g.2.w && overlap e.2.y0 e.2.h g.2.y0 g.2.h)))
    && decide (sumOf (l.map (fun e => e.2.slots)) ≤ 256)

def execPartitionMode (fn : Nat) (s : State) : Res :=
  onCommand fn 0x07 s fun m =>
    let n := m.argBits 0 5 0
    let a := m.argN 8 8
    let t := m.argN 0x10 8
    if fn ≠ 0 then s.answer fn 2
    else if m.argBits 0 63 6 ≠ 0 ∨ n = 0 ∨ 40 < n ∨ s.argSpan a (32 * n) = false then s.answer fn 3
    else
      let ds := (List.range n).map (fun i => (i, s.descriptor a i))
      let l := ds.map (fun e => (e.1, e.2.1))
      let ps := s.affected l
      let fs := ps.flatMap s.partVdevs
      if !ds.all (fun e => e.2.2) || !s.layoutOk l then s.answer fn 3
      else if s.layout.isSome || fs.any s.underDeadline || ps.any (fun p => (s.deadlineAt true p).isSome) then s.answer fn 5
      else
        let s := fs.foldl (fun s f => s.touch f) s
        let s := ps.foldl (fun s p => s.forceDeadline (s.newDeadline true p t [] false)) s
        ({ s with layout := some l } : State).checkVacancy

/-! ## RESET (R352) -/

def execReset (fn : Nat) (s : State) : Res :=
  onCommand fn 0x08 s fun m =>
    let rung := m.argBits 0 2 0
    let id := m.argBits 0 15 8
    let known := if rung = 4 then true else if rung = 3 then (s.partAt id).isSome else (s.vdevAt id).live
    if !isPF fn && (decide (3 ≤ rung) || id != fn) then s.answer fn 2
    else if m.argBits 0 7 3 ≠ 0 ∨ m.argBits 0 63 20 ≠ 0 ∨ 4 < rung ∨ known = false then s.answer fn 3
    else s.startReset { rung := rung, target := id, queue := m.argBits 0 19 16, fns := [fn] }

/-! ## RESTORE (R335, R128) -/

/-- Images of the device's safe tier that were saved by the command whose image lies at an offset. -/
def State.batchAt (s : State) (f off : Nat) : List Image :=
  let v := s.vdevAt f
  let tier := s.images.filter (fun i => i.safe == v.safe && i.host == v.safeKind)
  match tier.find? (fun i => i.offset == off) with
  | some i => tier.filter (fun j => j.launch.dlt0 == i.launch.dlt0 && j.launch.vdev == i.launch.vdev)
  | none => []

/-- A wait that ended while the wisp was saved ends now; a wisp that still waits for a word joins its queue. -/
def State.resumeWait (s : State) (k : Nat) : State :=
  let w := s.wispAt k
  if w.st = 0 then s.markReady k
  else match w.waitOn with
    | .word pa y wide _ _ _ => s.enqueue ⟨pa, wide, y, w.launch, w.index, none⟩
    | .barrier key _ _ _ => s.wakeBarrier key
    | .join id d => match s.joinNamed id with
      | some j => if j.st = .opened then s else s.wakeParked k j.word d (some 2)
      | none => s.wakeParked k goneWord d (some 2)
    | _ => s

/-- Records that are placed together go to one allowed die, or else to the overflow queue. There the lowest allowed die counts as
the one they left (DESIGN CHOICE, log 47). -/
def State.restoreGroup (s : State) (l : Launch) (ws : List Wisp) : State :=
  let n := ws.length
  let ds := s.allowedDies l
  let need := if l.pmode = 3 then 256 + n else n
  let s := match s.bestDie (ds.filter (fun d => decide (need ≤ s.poolFree d))) with
    | some d => ws.foldl (fun s w =>
        s.updWisp w.key (fun _ => { w with loc := .pool d, addr := s.poolAddr d })) (s.sendTo d n)
    | none => ws.foldl (fun s w => { s.updWisp w.key (fun _ =>
        { w with loc := .ovfBack (ds.headD 0), addr := s.ovfAddr l.vdev, entered := s.seq }) with seq := s.seq + 1 }) s
  ws.foldl (fun s w => (s.writeRecord w.key).resumeWait w.key) s

/-- One saved launch comes back under its own id, with its granules and its wisps. -/
def State.restoreImage (s : State) (f : Nat) (i : Image) : State :=
  let p := ((s.vdevAt f).part).getD 0
  let l : Launch := { i.launch with vdev := f, part := p, decision := .none, vacateBy := 0, resv := 0, paused := false }
  let s := i.pages.foldl (fun s g => s.writeBytes (s.pkg * 2 ^ 44 + g.1 * 4096) g.2) s
  let s := i.pois.foldl (fun s a => s.homePoison ((s.pkg * 2 ^ 44 + a) / 64) (wordsTouched a 4)) s
  let s : State := { s with launches := Store.set {} s.launches i.id l, images := s.images.filter (fun j => j.id != i.id) }
  let ended := i.wisps.filter (fun w => w.loc == Loc.ended)
  let living : List Wisp := (i.wisps.filter (fun w => w.loc != Loc.ended)).map (fun w => { w with
    cluster := none, viaOvf := true, st := if w.reason = 7 then 0 else w.st })
  let s := ended.foldl (fun s w =>
    let s := s.updWisp w.key (fun _ => w)
    if w.counted || w.endCode = 0 then s else s.post (.wispEndCount w.launch w.index)) s
  let groupOf (w : Wisp) : Nat := if l.pmode = 3 then w.group else w.index
  let groups := (living.map groupOf).eraseDups
  let s := groups.foldl (fun s g =>
    s.restoreGroup l (living.filter (fun w => groupOf w == g))) s
  let s := if l.next < l.count then s.post (.wispPlacement i.id) else s
  if s.launchOver i.id then s.post (.launchCompletion i.id) else s

def execRestore (fn : Nat) (s : State) : Res :=
  onCommand fn 0x0A s fun m =>
    let f := m.argBits 0 7 0
    let v := s.vdevAt f
    let is := s.batchAt f (m.argN 8 8)
    let room := sumOf ((s.partDies (v.part.getD 0)).map s.poolFree) + v.ovfCap
    let dies := (s.partDies (v.part.getD 0)).map (fun d => (s.liveCores d).length)
    if !isPF fn && f != fn then s.answer fn 2
    else if m.argBits 0 63 8 ≠ 0 ∨ v.live = false ∨ v.part = none ∨ is = [] then s.answer fn 3
    else if s.launchesOf f none != [] || s.underDeadline f then s.answer fn 5
    else if is.any (fun i => i.grade != s.fuse.grade || i.dies != dies) then s.answer fn 3
    else if room < sumOf (is.map (fun i => i.wisps.length)) then s.answer fn 4
    else
      let t := is.foldl (fun s i => s.restoreImage f i) s
      if v.ovfCap < t.ovfUsed f then s.answer fn 4 else t.answer fn 0

/-! ## LOG_READ, RESYNC (R356, R358) -/

def LogEntry.image (e : LogEntry) : Nat :=
  packFields [(64, e.seq), (64, e.time), (8, e.kind), (8, e.device), (6, e.part), (42, 0), (64, e.detail)]
/-- The log as function fn sees it. -/
def State.logOf (s : State) (fn : Nat) : List LogEntry := s.log.filter (fun e => isPF fn || e.device == fn)

def execLogRead (fn : Nat) (s : State) : Res :=
  onCommand fn 0x0E s fun m =>
    let l := ((s.logOf fn).filter (fun e => decide (m.argN 0 8 ≤ e.seq))).take (m.argBits 8 15 0)
    let a := m.argN 0x10 8
    if m.argBits 8 63 16 ≠ 0 ∨ s.argSpan a (32 * l.length) = false then s.answer fn 3
    else
      let next := match l.getLast? with | some e => e.seq + 1 | none => s.logSeq
      (s.writeBytes (s.localPa a) (l.flatMap (fun e => toBytes 32 e.image))).mboxDone fn 0 [(0, 8, l.length), (8, 8, next)]

def Tdisp.code : Tdisp → Nat
  | .unlocked => 0
  | .locked => 1
  | .run => 2
  | .error => 3
def Decision.code : Decision → Nat
  | .none => 0
  | .run => 1
  | .checkpoint => 2
  | .discard => 3

/-- The eight sections for function fn: entry size, and entries; a VF receives only what is its own device's. -/
def State.sections (s : State) (fn : Nat) : List (Nat × List Nat) :=
  let own (f : Nat) : Bool := isPF fn || f == fn
  let ownPart (p : Nat) : Bool := isPF fn || (s.vdevAt fn).part == some p
  let waiting (p : Nat) : Nat := ((s.deadlineAt true p).isSome || (match s.layout with | some l => (s.affected l).contains p | none => false)).toNat
  let ps := s.parts.filterMap (fun e => if ownPart e.1 then e.2.map (fun r => (e.1, r)) else none)
  let vs := s.vdevs.filter (fun e => e.2.live && own e.1)
  let entry (k : Nat) (l : List Int) : Nat := Config.resyncEntry k l
  [(16, ps.map (fun e => entry 0 [e.2.x0, e.2.y0, e.2.w, e.2.h, e.2.slots, e.2.gran, waiting e.1])),
   (32, vs.map (fun e => entry 1 [e.1, e.1, (e.2.part.map (fun (p : Nat) => (p : Int))).getD (-1), e.2.share, e.2.deficit, e.2.asnBase, e.2.asnCnt,
      (s.tdispOf e.1).code])),
   (16, vs.flatMap (fun e => (List.range 16).map (fun q =>
      let x := s.queueAt e.1 q
      let slot := s.binds.find? (fun b => b.2.valid && b.2.vdev == e.1 && b.2.qmask.getLsbD q)
      entry 2 [e.1, q, x.qen.toNat, x.qhead, x.qtail, (slot.map (fun b => (b.1 : Int))).getD (-1)]))),
   (16, (s.launches.filter (fun e => own e.2.vdev)).map (fun e =>
      entry 3 [e.1, e.2.vdev, (e.2.count - e.2.nret : Nat), e.2.decision.code])),
   (16, (s.deadlines.filter (fun d => if d.isPart then ownPart d.target else own d.target)).map (fun d =>
      entry 4 [d.isPart.toNat, d.target, d.t])),
   (8, (s.joins.filter (fun e => e.2.st != .free && own e.2.vdev)).map (fun e => entry 5 [joinId e.1 e.2.gen, e.2.vdev])),
   (32, ((s.logOf fn).drop ((s.logOf fn).length - 64)).map LogEntry.image),
   (16, ps.map (fun e => entry 7 [e.1, e.2.slots, (Store.get 0 s.slotUse e.1 : Nat)]))]

/-- The header, with each section's place, number of entries and entry size. -/
def State.resyncHeader (s : State) (l : List (Nat × List Nat)) : Nat :=
  let offs := (l.foldl (fun (a : Nat × List Nat) e => (a.1 + e.1 * e.2.length, a.2 ++ [a.1])) (0x60, [])).2
  packFields ([(32, Config.firmwareVersion.toNat), (16, 1), (16, 0), (64, s.time)]
    ++ (l.zip offs).flatMap (fun e => [(32, e.2), (16, e.1.2.length), (8, e.1.1), (8, 0)])
    ++ [(64, s.logSeq), (64, s.losses)])
def State.summary (s : State) (fn : Nat) : List Byte :=
  let l := s.sections fn
  toBytes 0x60 (s.resyncHeader l) ++ l.flatMap (fun e => e.2.flatMap (toBytes e.1))

def execResync (fn : Nat) (s : State) : Res :=
  onCommand fn 0x0D s fun m =>
    let a := m.argN 0 8
    let l := (s.summary fn).take (m.argN 8 8)
    if !s.argSpan a l.length then s.answer fn 3 else (s.writeBytes (s.localPa a) l).answer fn 0

end Sys2Proof.Machine
end

