-- ==== Sys2Proof/Machine/Gang.lean ====
section
/-! DEFINITION. Gangs (R188 to R193): GANG, DISBAND, and how a collective instruction waits for every member and then runs
once for all of them. -/

namespace Sys2Proof.Machine

/-- TVAL of trap 0x10: reason, member concerned, and that member's cause (R193). -/
def gangTval (reason member cause : Nat) : Word := BitVec.ofNat 64 (reason + member * 2 ^ 8 + cause * 2 ^ 16)
def gangTrap (reason member cause : Nat) : Trap := { cause := 0x10, tval := gangTval reason member cause }

def State.gangSize (s : State) (c : Nat) : Nat := s.gangWidth (s.wispOn c).1
/-- The member index of the wisp on core c. -/
def State.memberOf (s : State) (c : Nat) : Nat := (s.wispOn c).2 % s.gangSize c

/-- Each core takes its trap. -/
def State.trapAll (s : State) (cores : List Nat) (t : Nat → Trap) : State := cores.foldl (fun s c => s.takeTrap c (t c)) s

/-- A collective instruction with word w: outside a gang it runs on its core alone; in a gang it waits until every member
has issued it, and then go runs for all of them, on the member of the running core (R190, R191, R193). -/
def collective (w : BitVec 32) (s : State) (go : List Nat → State → Res) : Res :=
  match s.me.gang with
  | none => go [s.cur] s
  | some g =>
    match g.failed with
    | some t =>
      .next ((s.updMe (fun x => { x with gang := x.gang.map ({ · with failed := none }) })).trap { cause := 0x10, tval := t })
    | none =>
      let s := s.updMe (fun x => { x with gang := x.gang.map ({ · with issued := some w }) })
      let cores := s.gangCores s.cur
      let word (c : Nat) : Option (BitVec 32) :=
        if (s.coreAt c).stage == .run then (s.coreAt c).gang.bind (·.issued) else none
      if cores.length == s.gangSize s.cur && cores.all (fun c => (word c).isSome) then
        if cores.all (fun c => word c == some w) then go cores s
        else .next (s.trapAll cores (fun _ => gangTrap 1 0xFF 0))
      else .next s.stall

/-- VL and VSTART become 0 on entering and on leaving gang mode. -/
def Core.clearVl (x : Core) : Core := x.updU (fun u => { u with vl := 0, vstart := 0 })

/-- GANG (R188). -/
def execGang (d : BitVec 5) (s : State) : Res :=
  let c := s.cur
  let n := s.gangSize c
  if s.me.gang.isSome then .next (s.trap (gangTrap 4 (s.memberOf c) 0))
  else if n = 1 then setG d 0x100 s
  else
    let w := rrWord 0x9800000C d 0 0 0
    let s := s.updMe ({ · with gangWait := some w })
    let cores := s.gangCores c
    let word (c : Nat) : Option (BitVec 32) := if (s.coreAt c).stage == .run then (s.coreAt c).gangWait else none
    if cores.length == n && cores.all (fun c => (word c).isSome) then
      if cores.all (fun c => word c == some w) then
        .next ((cores.foldl (fun s c => s.updCore c (fun x =>
          let m := s.memberOf c
          { x.clearVl.gWrite d.toNat (BitVec.ofNat 64 (n * 256 + m)) with gang := some { member := m }, gangWait := none })) s).stepAll cores)
      else .next (s.trapAll cores (fun _ => gangTrap 1 0xFF 0))
    else .next s.stall

def execDisband (s : State) : Res :=
  if s.me.gang.isNone then .next s.nextPc
  else collective 0x9800000D s (fun cores s =>
    .next ((cores.foldl (fun s c => s.updCore c (fun x => { x.clearVl with gang := none })) s).stepAll cores))

/-- The last member has issued: the core's turn comes now, and its instruction finds every member waiting (R191). -/
def execGangCollectivePairing (core : Nat) (s : State) : Res :=
  let cores := s.gangCores core
  if (s.coreAt core).stage == .run && cores.length == s.gangSize core
      && cores.all (fun c => match (s.coreAt c).gang with | some g => g.issued.isSome | none => false)
  then .next { s with cur := core, evTurn := true } else .next s

end Sys2Proof.Machine
end

