-- ==== Sys2Proof/Machine/Identity.lean ====
section
/-! DEFINITION. The identity of the part and its secure interfaces: measurements (R375), SPDM (R376), TDISP (R377) and IDE
(R378). The manual gives the message set and what each request does; the bytes of a response are free but for what is
said below (log 28). -/

namespace Sys2Proof.Machine

/-! ## Messages -/

/-- The value of a 256-byte message with n bytes at an offset replaced. -/
def msgPut (m off n v : Nat) : Nat :=
  m % 2 ^ (8 * off) + 2 ^ (8 * off) * (v % 2 ^ (8 * n) + 2 ^ (8 * n) * (m / 2 ^ (8 * (off + n))))

/-- Request codes: byte 1 of a message (log 28). -/
def spdmReqOf (code : Nat) : SpdmReq :=
  match code with
  | 0x84 => .getVersion
  | 0xE1 => .getCapabilities
  | 0xE3 => .negotiateAlgorithms
  | 0x81 => .getDigests
  | 0x82 => .getCertificate
  | 0x83 => .challenge
  | 0xE0 => .getMeasurements
  | 0xE4 => .keyExchange
  | 0xE5 => .finish
  | _ => .other
def tdispReqOf (code : Nat) : TdispReq :=
  match code with
  | 0x83 => .lock
  | 0x86 => .start
  | 0x87 => .stop
  | _ => .other

/-! ## Measurements (R375) -/

/-- What measurement i covers, as numbers from which it can be told; none: 64 zero bytes. -/
def State.measuredContent (s : State) (i : Nat) : Option (List Nat) :=
  let slot (m : Store Byte) : List Nat := m.flatMap (fun e => [e.1, e.2.toNat])
  match i with
  | 1 => some []
  | 2 => s.fw.loaded.map (fun b => slot (if b then s.fw.slotB else s.fw.slotA))
  | 3 => some (s.fuse.grade :: (List.range s.ndie).flatMap (fun d =>
      [(~~~ (Store.get 0 s.fuse.fusedDead d)).toNat, (~~~ (Store.get 0 s.fuse.fusedSlices d)).toNat]))
  | 4 => some (s.enumTable.map BitVec.toNat)
  | _ => some s.measured
def State.measurement (s : State) (i : Nat) : List Byte :=
  match s.measuredContent i with
  | none => List.replicate 64 0
  | some l => (List.range 64).map (Config.shake256 (i :: l))

/-! ## SPDM (R376) -/

/-- The certificate that flash holds for the identity key, n bytes from an offset, and its digest: the same for every function. -/
def State.certBytes (s : State) (off n : Nat) : Nat := byteRun s.fw.cert off n
def State.certDigest (s : State) : List Byte :=
  (List.range 64).map (Config.shake256 (s.fw.cert.flatMap (fun e => [e.1, e.2.toNat])))
/-- An answer that selects no algorithm of the base lists, and one extended algorithm each for signatures and hashing: ML-DSA-65
and SHAKE256, the same in every answer (places: log 28). -/
def onlyExtended (n : Nat) : Nat :=
  msgPut (msgPut (msgPut n 12 8 0) 32 2 0x0101) 36 8 ((Config.extAlgorithm 0).toNat + (Config.extAlgorithm 1).toNat * 2 ^ 32)

/-- The answer to a request, as the number its 256 bytes make: GET_MEASUREMENTS for index i holds its value, and a request
outside the list is answered with ERROR, UnsupportedRequest. KEY_EXCHANGE and then FINISH make a session. -/
def State.spdmAnswer (s : State) (fn : Nat) (req : SpdmReq) : Nat × State :=
  let (n, s) := s.freeMessage
  let i := (s.mboxAt fn).argN 3 1
  match req with
  | .other => (msgPut n 1 2 0x077F, s)
  | .getMeasurements => (if 1 ≤ i ∧ i ≤ 5 then msgPut n 15 64 (leBytes (s.measurement i)) else n, s)
  | .keyExchange => (n, { s with spdmSession := Store.set 0 s.spdmSession fn 1 })
  | .finish => (n, if Store.get 0 s.spdmSession fn = 1 then { s with spdmSession := Store.set 0 s.spdmSession fn 2 } else s)
  | .negotiateAlgorithms => (onlyExtended n, s)
  | .getDigests | .challenge => (msgPut n 4 64 (leBytes s.certDigest), s)
  | .getCertificate => (msgPut n 8 248 (s.certBytes ((s.mboxAt fn).argN 4 2) 248), s)
  | .getVersion | .getCapabilities => (n, s)

def execAttest (fn : Nat) (req : SpdmReq) (s : State) : Res :=
  onCommand fn 0x0B s fun _ =>
    let (n, s) := s.spdmAnswer fn req
    s.mboxDone fn 0 [(0, 256, n)]

/-- A request that reaches Carr on its own: the response leaves the part. -/
def spdmStep (fn : Nat) (req : SpdmReq) (s : State) : Res :=
  let (n, s) := s.spdmAnswer fn req
  .next (s.emit (.spdm fn req (toBytes 256 n)))
def execGetVersion (fn : Nat) (s : State) : Res := spdmStep fn .getVersion s
def execGetCapabilities (fn : Nat) (s : State) : Res := spdmStep fn .getCapabilities s
def execNegotiateAlgorithms (fn : Nat) (s : State) : Res := spdmStep fn .negotiateAlgorithms s
def execGetDigests (fn : Nat) (s : State) : Res := spdmStep fn .getDigests s
def execGetCertificate (fn : Nat) (s : State) : Res := spdmStep fn .getCertificate s
def execChallenge (fn : Nat) (s : State) : Res := spdmStep fn .challenge s
def execGetMeasurements (fn : Nat) (s : State) : Res := spdmStep fn .getMeasurements s
def execKeyExchange (fn : Nat) (s : State) : Res := spdmStep fn .keyExchange s
def execFinish (fn : Nat) (s : State) : Res := spdmStep fn .finish s

/-! ## IDE (R378) -/

/-- A key reaches a stream of a port within a session: the link stream 0, or one of eight selective streams. -/
def execIdeKm (fn port stream : Nat) (key : BitVec 256) (s : State) : Res :=
  .next (if Store.get 0 s.spdmSession fn = 2 ∧ port < 2 ∧ stream ≤ 8 then
    { s with ide := Store.set 0 s.ide (port * 16 + stream) key } else s)

/-- A stream that fails its check is dropped and logged, and the interface it serves goes to ERROR. -/
def execIdeIntegrityFailure (fn port stream : Nat) (s : State) : Res :=
  let s : State := { s with ide := Store.set 0 s.ide (port * 16 + stream) 0 }
  .next ((s.logAdd 5 fn (((s.vdevAt fn).part).getD 63) (port * 16 + stream)).touch fn)

/-! ## TDISP (R377) -/

/-- The device is the only one of its partition. -/
def State.lockable (s : State) (f : Nat) : Bool :=
  decide (2 ≤ f) && (s.vdevAt f).live && s.tdispOf f == .unlocked
    && (match (s.vdevAt f).part with | some p => s.partVdevs p == [f] | none => false)
def State.lockIface (s : State) (f : Nat) : State := if s.lockable f then s.setTdisp f .locked else s
def State.startIface (s : State) (f : Nat) : State := if s.tdispOf f = .locked then s.setTdisp f .run else s
/-- Rung 2 on the device, then its partition's memory is zeroed and the interface is unlocked; the request completes then. -/
def State.stopIface (s : State) (f : Nat) (fns : List Nat) : State :=
  s.startReset { rung := 2, target := f, fns := fns, stop := true }

def execLockInterfaceRequest (fn : Nat) (s : State) : Res := .next (s.lockIface fn)
def execStartInterfaceRequest (fn : Nat) (s : State) : Res := .next (s.startIface fn)
def execStopInterfaceRequest (fn : Nat) (s : State) : Res :=
  .next (if s.tdispOf fn = .unlocked then s else s.stopIface fn [])

def execTdispOp (fn : Nat) (req : TdispReq) (s : State) : Res :=
  onCommand fn 0x0C s fun _ =>
    let reply (s : State) : State := let (n, s) := s.freeMessage; s.mboxDone fn 0 [(0, 256, n)]
    match req with
    | .lock => reply (s.lockIface fn)
    | .start => reply (s.startIface fn)
    | .stop => if s.tdispOf fn = .unlocked then reply s else s.stopIface fn [fn]
    | .other => reply s

end Sys2Proof.Machine
end

