-- ==== Sys2Proof/Machine/Imm.lean ====
section
/-! DEFINITION. Immediates and constants (R113 to R116). -/

namespace Sys2Proof.Machine

def execAddi (d a : BitVec 5) (imm : BitVec 16) (s : State) : Res := setG d (s.rg a + immW imm) s
def execAndi (d a : BitVec 5) (imm : BitVec 16) (s : State) : Res := setG d (s.rg a &&& immW imm) s
def execOri (d a : BitVec 5) (imm : BitVec 16) (s : State) : Res := setG d (s.rg a ||| immW imm) s
def execXori (d a : BitVec 5) (imm : BitVec 16) (s : State) : Res := setG d (s.rg a ^^^ immW imm) s
def execSlti (d a : BitVec 5) (imm : BitVec 16) (s : State) : Res := setG d (ofBool ((s.rg a).slt (immW imm))) s
def execSltiu (d a : BitVec 5) (imm : BitVec 16) (s : State) : Res := setG d (ofBool ((s.rg a).ult (immW imm))) s
def execSlli (d a : BitVec 5) (amt : BitVec 6) (s : State) : Res := setG d (s.rg a <<< amt.toNat) s
def execSrli (d a : BitVec 5) (amt : BitVec 6) (s : State) : Res := setG d (s.rg a >>> amt.toNat) s
def execSrai (d a : BitVec 5) (amt : BitVec 6) (s : State) : Res := setG d ((s.rg a).sshiftRight amt.toNat) s
def execRori (d a : BitVec 5) (amt : BitVec 6) (s : State) : Res := setG d ((s.rg a).rotateRight amt.toNat) s
def execMovz (d : BitVec 5) (hw : BitVec 2) (v : BitVec 16) (s : State) : Res :=
  setG d (v.setWidth 64 <<< (16 * hw.toNat)) s
def execMovk (d : BitVec 5) (hw : BitVec 2) (v : BitVec 16) (s : State) : Res :=
  setG d (bfInsert (s.rg d) (v.setWidth 64) (16 * hw.toNat) 16) s
def execLapc (d : BitVec 5) (imm : BitVec 21) (s : State) : Res := setG d (s.target imm) s

end Sys2Proof.Machine
end

