-- ==== Sys2Proof/Machine/Int.lean ====
section
/-! DEFINITION. The INT group (R109), one meaning per function. -/

namespace Sys2Proof.Machine

def execAdd (d a b : BitVec 5) (s : State) : Res := setG d (s.rg a + s.rg b) s
def execSub (d a b : BitVec 5) (s : State) : Res := setG d (s.rg a - s.rg b) s
def execAnd (d a b : BitVec 5) (s : State) : Res := setG d (s.rg a &&& s.rg b) s
def execOr (d a b : BitVec 5) (s : State) : Res := setG d (s.rg a ||| s.rg b) s
def execXor (d a b : BitVec 5) (s : State) : Res := setG d (s.rg a ^^^ s.rg b) s
def execAndn (d a b : BitVec 5) (s : State) : Res := setG d (s.rg a &&& ~~~ s.rg b) s
def execOrn (d a b : BitVec 5) (s : State) : Res := setG d (s.rg a ||| ~~~ s.rg b) s
def execSll (d a b : BitVec 5) (s : State) : Res := setG d (s.rg a <<< ((s.rg b).toNat % 64)) s
def execSrl (d a b : BitVec 5) (s : State) : Res := setG d (s.rg a >>> ((s.rg b).toNat % 64)) s
def execSra (d a b : BitVec 5) (s : State) : Res := setG d ((s.rg a).sshiftRight ((s.rg b).toNat % 64)) s
def execRol (d a b : BitVec 5) (s : State) : Res := setG d ((s.rg a).rotateLeft ((s.rg b).toNat % 64)) s
def execRor (d a b : BitVec 5) (s : State) : Res := setG d ((s.rg a).rotateRight ((s.rg b).toNat % 64)) s
def execSlt (d a b : BitVec 5) (s : State) : Res := setG d (ofBool ((s.rg a).slt (s.rg b))) s
def execSltu (d a b : BitVec 5) (s : State) : Res := setG d (ofBool ((s.rg a).ult (s.rg b))) s
def execMin (d a b : BitVec 5) (s : State) : Res := setG d (if (s.rg a).sle (s.rg b) then s.rg a else s.rg b) s
def execMax (d a b : BitVec 5) (s : State) : Res := setG d (if (s.rg a).sle (s.rg b) then s.rg b else s.rg a) s
def execMinu (d a b : BitVec 5) (s : State) : Res := setG d (if (s.rg a).ule (s.rg b) then s.rg a else s.rg b) s
def execMaxu (d a b : BitVec 5) (s : State) : Res := setG d (if (s.rg a).ule (s.rg b) then s.rg b else s.rg a) s
def execAddw (d a b : BitVec 5) (s : State) : Res := setG d (sextN 32 (s.rg a + s.rg b)) s
def execSubw (d a b : BitVec 5) (s : State) : Res := setG d (sextN 32 (s.rg a - s.rg b)) s
def execClz (d a : BitVec 5) (s : State) : Res := setG d (BitVec.ofNat 64 (leadZeros (s.rg a) 64)) s
def execCtz (d a : BitVec 5) (s : State) : Res := setG d (BitVec.ofNat 64 (trailZeros (s.rg a) 0 64)) s
def execPopc (d a : BitVec 5) (s : State) : Res := setG d (BitVec.ofNat 64 (popcount (s.rg a))) s
def execBrev (d a : BitVec 5) (s : State) : Res := setG d (bitReverse (s.rg a)) s
def execBswap (d a : BitVec 5) (s : State) : Res := setG d (byteReverse (s.rg a)) s
def execSext (d a x : BitVec 5) (s : State) : Res := setG d (sextN (auxBits x) (s.rg a)) s
def execZext (d a x : BitVec 5) (s : State) : Res := setG d (zextN (auxBits x) (s.rg a)) s
def execBfxv (d a b : BitVec 5) (s : State) : Res :=
  setG d (bfExtract (s.rg a) (fieldPos (s.rg b)) (fieldWidth (s.rg b)) true) s
def execBfxzv (d a b : BitVec 5) (s : State) : Res :=
  setG d (bfExtract (s.rg a) (fieldPos (s.rg b)) (fieldWidth (s.rg b)) false) s
def execBfiv (d a b : BitVec 5) (s : State) : Res :=
  setG d (bfInsert (s.rg d) (s.rg a) (fieldPos (s.rg b)) (fieldWidth (s.rg b))) s
def execSelnz (d a b : BitVec 5) (s : State) : Res := setG d (if s.rg b = 0 then s.rg d else s.rg a) s
def execSelz (d a b : BitVec 5) (s : State) : Res := setG d (if s.rg b = 0 then s.rg a else s.rg d) s

end Sys2Proof.Machine
end

