-- ==== Sys2Proof/Machine/Join.lean ====
section
/-! DEFINITION. JINIT, JARRIVE, JWAIT, JKPT, JSTAT and JLEAVE (R295 to R306). -/

namespace Sys2Proof.Machine

def joinWord (fn : Nat) (d a b : BitVec 5) : BitVec 32 := rrWord (0x94000000 + fn) d a b 16

/-! ## Reading and writing at the homes, line by line -/

/-- Reads n words of 4 bytes at a DVA as core c does after a release and an acquire at package scope: what that scope's tier
holds, under the wisp's own tentative words. A poisoned word traps 0x0E (log 23). -/
def State.homeWords (s : State) (c : Nat) : Nat → Nat → Acc (List Nat)
  | _, 0 => .ok [] s
  | dva, n + 1 =>
    (s.xlat c dva .read true s.me.sup).bind fun t s =>
      let (v, bad, s) := s.engineRead c t 4 2
      if bad then .trap { cause := 0x0E, tval := BitVec.ofNat 64 dva } s
      else (State.homeWords s c (dva + 4) n).bind fun l s => .ok (v :: l) s

def wordsToNat : List Nat → Nat
  | [] => 0
  | w :: l => w + 2 ^ 32 * wordsToNat l

/-! ## JINIT -/

/-- The limits and reserved fields of R296, with those of R297. -/
def Join.legal (j : Join) : Bool :=
  decide (1 ≤ j.n ∧ j.n ≤ 64 ∧ 1 ≤ j.q ∧ j.q ≤ j.n ∧ j.qmin ≤ j.q ∧ j.fillKind ≠ 3 ∧ j.grid ≤ 254 ∧ j.accfmt = 0x0A
    ∧ j.alen ≤ 4096 ∧ j.accaddr % 64 = 0 ∧ j.subaddr % 64 = 0)
  && j.field 0 7 7 == 0 && j.field 0 15 15 == 0 && j.field 0 23 23 == 0 && j.field 0 31 26 == 0
  && j.field 0x30 63 0 == 0 && j.field 0x38 63 0 == 0
  && !(j.fillKind == 1 && j.wtotal == 0) && !(j.fillKind == 2 && decide (0 < j.alen) && j.subaddr == 0)

def State.parentOk (s : State) (j : Join) : Bool :=
  j.parent == 0 || (match s.joinNamed j.parent with
    | some p => p.isOpen && p.alen == j.alen && p.grid == j.grid && decide (j.pindex < p.n)
    | none => false)

def State.freeSlot (s : State) (site : Nat) : Option Nat :=
  ((List.range 1024).map (site * 1024 + ·)).find? (fun k => (s.joinAt k).st == .free)

def execJinit (d a : BitVec 5) (s : State) : Res :=
  let c := s.cur
  let i := s.rg a
  if i.toNat % 64 ≠ 0 then .next (s.trap (misaligned i))
  else finish ((s.release c 255 2).bind fun _ s =>
    (s.homeWords c i.toNat 16).bind fun ws s =>
      let j : Join := { img := BitVec.ofNat 512 (wordsToNat ws) }
      (s.xlat c j.accaddr .write true s.me.sup).bind fun t s =>
        if !j.legal then .ok () (s.wg d (status 2))
        else if !t.own then .ok () (s.wg d (status 4))
        else if s.cutOff c t.pa || (j.parent != 0 && s.joinCut c j.parent) then .trap { cause := 0x0E, tval := i } s
        else if !s.parentOk j then .ok () (s.wg d (status 3))
        else match s.freeSlot (s.homeSite t.pa) with
          | none => .ok () (s.wg d (status 1))
          | some key =>
            let g := (s.joinAt key).gen
            let s := { s with joins := Store.set {} s.joins key { j with
              st := .opened, gen := g, accPa := t.raw, accIov := t.iov, vdev := s.vdevOn c
              part := (s.partOfCore c).getD 0, asn := s.me.s.asn, rdir := s.me.s.rdir } }
            let s := if j.deadline ≠ 0 ∧ j.deadline ≤ s.time then s.joinEvent (.settle key (j.qmin == 0) true) else s
            .ok () (s.wg d (BitVec.ofNat 64 (joinId key g))))

/-! ## JARRIVE and JLEAVE (R305) -/

/-- The end of an arrival: the status, once every home has acknowledged the commit (R303). -/
def arriveEnd (d : BitVec 5) (v : Word) (s : State) : Res :=
  if s.awaitsAnswer s.cur then .next (s.updMe ({ · with waitOn := .woken v d.toNat none, hold := .firm }))
  else setG d v s

/-- Range checks of the contribution: both ends translate, in one entry. -/
def State.contribution (s : State) (c : Nat) (a : Word) (alen : Nat) : Acc Bool :=
  if alen = 0 then .ok true s
  else if a.toNat % 64 ≠ 0 then .trap (misaligned a) s
  else (s.xlat c a.toNat .read true s.me.sup).bind fun t s =>
    (s.xlat c ((a.toNat + 4 * alen - 1) % 2 ^ 64) .read true s.me.sup).bind fun u s => .ok (t.base == u.base) s

def execJarrive (d a : BitVec 5) (s : State) : Res :=
  let c := s.cur
  let ctx := s.me.u.joinctx
  let id := ctxId ctx
  let ix := ctxIndex ctx
  if s.joinCut c id then .next (s.trap poisonReply)
  else match s.joinNamed id with
  | none => setG d 1 s
  | some j =>
    match s.contribution c (s.rg a) j.alen with
    | .trap t s => .next (s.trap t)
    | .wait s => .next s.block
    | .ok false s => setG d 6 s
    | .ok true s =>
      match s.release c 255 2 with
      | .trap t s => .next (s.trap t)
      | .wait s => .next s.block
      | .ok _ s =>
        let st := j.status ix
        if st ≠ 0 then
          let s := if st = 4 then s.joinEvent (.arrive (joinSlotKey id) ix 0 [] none none) else s
          setG d (BitVec.ofNat 64 st) s
        else match s.homeWords c (s.rg a).toNat j.alen with
          | .trap t s => .next (s.trap t)
          | .wait s => .next s.block
          | .ok xs s => arriveEnd d 0 (s.joinEvent (.arrive (joinSlotKey id) ix (ctxWeight ctx) xs none (some (.core c))))

def execJleave (d : BitVec 5) (s : State) : Res :=
  let ctx := s.me.u.joinctx
  let id := ctxId ctx
  let ix := ctxIndex ctx
  if s.joinCut s.cur id then .next (s.trap poisonReply)
  else match s.joinNamed id with
  | none => setG d 1 s
  | some j =>
    let st := j.status ix
    let s := if st = 0 ∨ st = 4 then s.joinEvent (.leave (joinSlotKey id) ix) else s
    setG d (BitVec.ofNat 64 st) s

/-! ## JWAIT, JKPT, JSTAT -/

def execJwait (d a : BitVec 5) (s : State) : Res :=
  let c := s.cur
  let v := (s.rg a).toNat
  if v / 2 ^ 32 ≠ 0 then .next (s.trap (illegal (joinWord 11 d a 0)))
  else killPoint s <|
    if s.joinCut c v then .next (s.trap poisonReply)
    else match s.joinNamed v with
    | none => setG d goneWord (s.acquire c 255 2)
    | some j =>
      if j.st ≠ .opened then setG d j.word (s.acquire c 255 2)
      else finishAt ((s.suspendAt 2 (.join v d.toNat)).bind fun _ s =>
        -- what the wisp's bindings did as it left may have settled the join
        .ok () (match s.joinNamed v with
          | some j => if j.st = .opened then s else s.wakeJoin v j.word
          | none => s.wakeJoin v goneWord))

def execJkpt (s : State) : Res := killPoint s (.next s.nextPc)

/-- Selector 15 frees a settled record, at once or when its pending kills have taken effect (R299). -/
def execJstat (d a b : BitVec 5) (s : State) : Res :=
  let v := (s.rg a).toNat
  let sel := (s.rg b).toNat
  if v / 2 ^ 32 ≠ 0 ∨ ¬ (sel ≤ 3 ∨ sel = 15) then .next (s.trap (illegal (joinWord 13 d a b)))
  else if s.joinCut s.cur v then .next (s.trap poisonReply)
  else match s.joinNamed v with
    | none => setG d (if sel ≤ 2 then 0 else goneWord) s
    | some j =>
      match sel with
      | 0 => setG d j.arrived s
      | 1 => setG d j.left s
      | 2 => setG d j.killed s
      | 3 => setG d (j.stateWord false false) s
      | _ =>
        let key := joinSlotKey v
        if j.st = .opened then setG d (j.stateWord false false) s
        else if s.killsPending key then setG d (j.stateWord false true) (s.updJoin key ({ · with fpend := true }))
        else setG d (j.stateWord true false) (s.freeJoin key)

/-! ## The steps of the table -/

/-- TIME has reached a join's deadline: released when QMIN contributors have arrived, and failed otherwise (R299). A
settlement that waits for a directory edit is tried again (R301). -/
def execJoinDeadline (site slot : Nat) (s : State) : Res :=
  let key := site * 1024 + slot
  let j := s.joinAt key
  match j.settling with
  | some (rel, dline) => .next (s.joinEvent (.settle key rel dline))
  | none =>
  if j.st = .opened ∧ j.deadline ≠ 0 ∧ j.deadline ≤ s.time
  then .next (s.joinEvent (.settle key (decide (j.qmin ≤ countBits j.arrived)) true)) else .next s

end Sys2Proof.Machine
end

