-- ==== Sys2Proof/Machine/LoadStore.lean ====
section
/-! DEFINITION. Scalar loads and stores (R122 to R124). -/

namespace Sys2Proof.Machine

def execLb (t base : BitVec 5) (off : BitVec 16) (s : State) : Res := loadG t (s.addrM base off) 1 true s
def execLbz (t base : BitVec 5) (off : BitVec 16) (s : State) : Res := loadG t (s.addrM base off) 1 false s
def execLh (t base : BitVec 5) (off : BitVec 16) (s : State) : Res := loadG t (s.addrM base off) 2 true s
def execLhz (t base : BitVec 5) (off : BitVec 16) (s : State) : Res := loadG t (s.addrM base off) 2 false s
def execLw (t base : BitVec 5) (off : BitVec 16) (s : State) : Res := loadG t (s.addrM base off) 4 true s
def execLwz (t base : BitVec 5) (off : BitVec 16) (s : State) : Res := loadG t (s.addrM base off) 4 false s
def execLd (t base : BitVec 5) (off : BitVec 16) (s : State) : Res := loadG t (s.addrM base off) 8 false s
def execSb (t base : BitVec 5) (off : BitVec 16) (s : State) : Res := storeG (s.addrM base off) 1 (s.rg t) s
def execSh (t base : BitVec 5) (off : BitVec 16) (s : State) : Res := storeG (s.addrM base off) 2 (s.rg t) s
def execSw (t base : BitVec 5) (off : BitVec 16) (s : State) : Res := storeG (s.addrM base off) 4 (s.rg t) s
def execSd (t base : BitVec 5) (off : BitVec 16) (s : State) : Res := storeG (s.addrM base off) 8 (s.rg t) s

end Sys2Proof.Machine
end

