-- ==== Sys2Proof/Machine/MulDiv.lean ====
section
/-! DEFINITION. The MULDIV group (R110). -/

namespace Sys2Proof.Machine

def execMul (d a b : BitVec 5) (s : State) : Res := setG d (s.rg a * s.rg b) s
def execMulh (d a b : BitVec 5) (s : State) : Res := setG d (highHalf ((s.rg a).toInt * (s.rg b).toInt)) s
def execMulhu (d a b : BitVec 5) (s : State) : Res := setG d (highHalf (((s.rg a).toNat : Int) * (s.rg b).toNat)) s
def execMulhsu (d a b : BitVec 5) (s : State) : Res := setG d (highHalf ((s.rg a).toInt * (s.rg b).toNat)) s
def execMulw (d a b : BitVec 5) (s : State) : Res := setG d (sextN 32 (s.rg a * s.rg b)) s
def execDiv (d a b : BitVec 5) (s : State) : Res := setG d (divS (s.rg a) (s.rg b)) s
def execDivu (d a b : BitVec 5) (s : State) : Res := setG d (divU (s.rg a) (s.rg b)) s
def execRem (d a b : BitVec 5) (s : State) : Res := setG d (remS (s.rg a) (s.rg b)) s
def execRemu (d a b : BitVec 5) (s : State) : Res := setG d (remU (s.rg a) (s.rg b)) s
def execDivw (d a b : BitVec 5) (s : State) : Res := setG d (divW (s.rg a) (s.rg b)) s

end Sys2Proof.Machine
end

