-- ==== Sys2Proof/Machine/Part.lean ====
section
/-! DEFINITION. What reaches the part from outside and what happens to it: the registers of a function's BARs (R31, R316,
R339, R354, R365), host and peer accesses (R98, R260 to R263, R280), firmware images (R374), dropped flits and links (R251,
R256), soft errors and their repair (R336, R337), and the clock of a die (R380). -/

namespace Sys2Proof.Machine

/-! ## BAR registers -/

def Queue.reg (x : Queue) (off : Nat) : Nat :=
  match off with
  | 0x00 => x.qbase
  | 0x08 => x.qlog + x.qen.toNat * 2 ^ 8
  | 0x10 => x.qhead
  | 0x18 => x.qtail
  | 0x20 => x.ovf.toNat + x.back.toNat * 2 + x.rej.toNat * 4 + x.lastrej * 2 ^ 8
  | _ => 0
def Mbox.reg (m : Mbox) (off : Nat) : Nat :=
  match off with
  | 0x00 => m.opc + m.ctag * 2 ^ 16
  | 0x08 => m.busy.toNat + m.done.toNat * 2 + m.ovl.toNat * 4 + m.result * 2 ^ 8 + m.rtag * 2 ^ 16 + m.cseq * 2 ^ 32
  | _ => if 0x100 ≤ off ∧ off < 0x200 then byteRun m.arg (off - 0x100) 8
    else if 0x200 ≤ off ∧ off < 0x300 then byteRun m.res (off - 0x200) 8 else 0

/-- A debug window of a halted core (R339); of a core that is not halted it reads 0. -/
def State.windowRead (s : State) (c off : Nat) : Nat :=
  let x := s.coreAt c
  let w := s.wispOn c
  let bar (i : Nat) : Barrier := if i < 4 then Store.get {} (s.clusterAt (clusterOf c)).bars i
    else Store.get {} (s.dieAt (dieOf c)).bars (i - 4)
  if x.stage ≠ .halted then 0
  else if off = 0 then 1 + x.dbgKilled.toNat * 2 + x.dbgEvicted.toNat * 4
  else if off = 8 then x.pc.toNat
  else if off = 0x10 then w.2 + w.1 * 2 ^ 32
  else if 0x40 ≤ off ∧ off < 0x140 then (Store.get 0 x.g ((off - 0x40) / 8)).toNat
  else if off = 0x200 then (x.e.mq.head?.map MCmd.next).getD 0 % 2 ^ 12 + x.e.mq.length * 2 ^ 12
  else if off = 0x208 then x.e.cq.length + (match x.e.cq.find? (·.started) with
    | some m => if m.fin then m.geo.len * m.geo.n1 * m.geo.n2 % 2 ^ 32 * 2 ^ 32 else 0
    | none => 0)
  else if 0x210 ≤ off ∧ off < 0x230 then (Store.get {} x.e.bind ((off - 0x210) / 8)).count % 2 ^ 64
  else if 0x240 ≤ off ∧ off < 0x480 then
    let b := bar ((off - 0x240) / 16)
    if (off - 0x240) % 16 = 0 then b.low else b.phase
  else if off = 0x1000 then x.csel.toNat
  else if 0x2000 ≤ off ∧ off < 0x3000 then byteRun x.typed.c (x.csel.toNat * 4096 + (off - 0x2000)) 8
  else 0
def State.windowWrite (s : State) (c off : Nat) (v : Word) : State :=
  if (s.coreAt c).stage ≠ .halted then s
  else if off = 0 then (if v.getLsbD 0 then s.post (.debugHaltRelease c) else s)
  else if off = 8 then s.updCore c ({ · with pc := v &&& ~~~ 3 })
  else if 0x48 ≤ off ∧ off < 0x140 then s.updCore c (fun x => { x with g := Store.set 0 x.g ((off - 0x40) / 8) v })
  else if off = 0x1000 then s.updCore c ({ · with csel := v.setWidth 6 })
  else s

/-- Eight bytes of a BAR, at the 8-byte boundary at or below an offset; the registers of queues, completions and counters
are those of the function's virtual device (R31, R316, R365). -/
def State.barRead (s : State) (fn bar off : Nat) : Nat :=
  let off := off / 8 * 8
  if bar = 0 ∧ off < 0x2000 ∧ (s.vdevAt fn).live = false then 0
  else if bar = 0 then
    if 0x1000 ≤ off ∧ off < 0x1400 then (s.queueAt fn ((off - 0x1000) / 0x40)).reg (off % 0x40)
    else if 0x1400 ≤ off ∧ off < 0x1500 then
      let x := s.queueAt fn ((off - 0x1400) / 0x10)
      if off % 0x10 = 0 then x.qdone else x.qien.toNat
    else if 0x1800 ≤ off ∧ off < 0x1840 then Store.get 0 (s.vdevAt fn).counters ((off - 0x1800) / 8)
    else if 0x2000 ≤ off ∧ off < 0x2300 then (s.mboxAt fn).reg (off - 0x2000)
    else 0
  else if bar = 2 ∧ fn < 2 then
    match s.pkgCore (off / 0x4000) with
    | some c => s.windowRead c (off % 0x4000)
    | none => 0
  else 0

/-- The step that a written OPC starts; none: no command has this OPC. -/
def commandOf (fn opc code : Nat) : Option Event :=
  match opc with
  | 0x01 => some (.queryEnum fn)
  | 0x02 => some (.createVdev fn)
  | 0x03 => some (.destroyVdev fn)
  | 0x04 => some (.bind fn)
  | 0x05 => some (.setWeight fn)
  | 0x06 => some (.postDeadline fn)
  | 0x07 => some (.partitionMode fn)
  | 0x08 => some (.reset fn)
  | 0x09 => some (.checkpoint fn)
  | 0x0A => some (.restore fn)
  | 0x0B => some (.attest fn (spdmReqOf code))
  | 0x0C => some (.tdispOp fn (tdispReqOf code))
  | 0x0D => some (.resync fn)
  | 0x0E => some (.logRead fn)
  | _ => none

/-- The function whose command a step takes. -/
def Event.commandFn : Event → Option Nat
  | .queryEnum fn | .createVdev fn | .destroyVdev fn | .bind fn | .setWeight fn | .postDeadline fn | .partitionMode fn | .reset fn
  | .checkpoint fn | .restore fn | .attest fn _ | .tdispOp fn _ | .resync fn | .logRead fn => some fn
  | _ => none
/-- Commands are taken in the order of their OPC writes; those of one cycle in ascending function number (R355). Writes at one
TIME count as of one cycle (DESIGN CHOICE, log 47). -/
def State.queueCommand (s : State) (fn : Nat) (e : Event) : State :=
  let before (x : Event) : Bool := match x.commandFn with
    | some g => !(decide (fn < g) && (s.mboxAt g).since == s.time)
    | none => true
  { s with sched := s.sched.takeWhile before ++ e :: s.sched.dropWhile before }

/-- A write of OPC and CTAG: ignored, with OVL set, while a command is in progress (R354). -/
def State.startCommand (s : State) (fn v : Nat) : State :=
  let m := s.mboxAt fn
  if m.busy then s.updMbox fn ({ · with ovl := true })
  else
    let s := s.updMbox fn (fun m => { m with
      opc := v % 256, ctag := v / 2 ^ 16 % 2 ^ 16, busy := true, cmd := m.arg, since := s.time })
    match commandOf fn (v % 256) (byteRun m.arg 1 1) with
    | some e => s.queueCommand fn e
    | none => s.answer fn 1

/-- A host's write of eight bytes to a BAR. -/
def execRegisterWrite (fn bar off : Nat) (v : BitVec 64) (s : State) : Res :=
  let off := off / 8 * 8
  let w := v.toNat
  .next (if bar = 0 ∧ off < 0x2000 ∧ (s.vdevAt fn).live = false then s
    else if bar = 0 then
      if 0x1000 ≤ off ∧ off < 0x1400 then
        let q := (off - 0x1000) / 0x40
        if off % 0x40 = 0x18 then s.post (.qtailWrite fn q v) else s.post (.queueConfigWrite fn q (off % 0x40) v)
      else if 0x1400 ≤ off ∧ off < 0x1500 then
        (if off % 0x10 = 8 then s.post (.queueConfigWrite fn ((off - 0x1400) / 0x10) 0x48 v) else s)
      else if off = 0x2000 then s.startCommand fn w
      else if off = 0x2008 then s.updMbox fn (fun m => { m with
        done := m.done && w / 2 % 2 == 0, ovl := m.ovl && w / 4 % 2 == 0 })
      else if 0x2100 ≤ off ∧ off < 0x2200 then s.updMbox fn (fun m => { m with arg := memPut m.arg (off - 0x2100) w 8 })
      else s
    else if bar = 2 ∧ fn < 2 then
      match s.pkgCore (off / 0x4000) with
      | some c => s.windowWrite c (off % 0x4000) v
      | none => s
    else if bar = 4 ∧ fn = 0 then s.post (.firmwareImageWrite off v)
    else s)

/-- The 64 MiB window onto the slot that is not loaded (R374; slot A when neither is, log 27). -/
def execFirmwareImageWrite (off : Nat) (v : BitVec 64) (s : State) : Res :=
  if 2 ^ 26 ≤ off then .next s
  else .next { s with fw := if s.fw.loaded = some false then { s.fw with slotB := memPut s.fw.slotB (off / 8 * 8) v.toNat 8 }
    else { s.fw with slotA := memPut s.fw.slotA (off / 8 * 8) v.toNat 8 } }

/-! ## Host accesses (R260, R261, R280) -/

/-- The package-local address that a host access names: from 2^62 on, the rest is a host address, which the HDM decoders of the
port map (R261); below, it is package-local itself. none: no decoder maps it. -/
def State.hostLocal (s : State) (port pa : Nat) : Option Nat :=
  if pa < 2 ^ 62 then some pa
  else
    let h := pa - 2 ^ 62
    ((List.range 8).map (fun i => Store.get ({} : Hdm) s.hdm (port * 8 + i))).findSome?
      (fun d => if d.base ≤ h ∧ h < d.base + d.len then some (d.loc + (h - d.base)) else none)
/-- The I/O die of a host port (R14, R260). -/
def portNode (port : Nat) : Node := .io (4 * port)
def State.lineNode (s : State) (a : Nat) : Node := .site (siteXY (s.homeSite (s.localPa a)))

/-- A host's write, line by line at its home; a line whose route is out of service is dropped (R256). The first argument bounds
the lines. -/
def State.hostPut : Nat → State → Nat → Nat → List Byte → State
  | 0, s, _, _, _ => s
  | k + 1, s, port, a, l =>
    if l = [] then s
    else
      let m := 64 - a % 64
      let s' := if s.routeDown (portNode port) (s.lineNode a) then s
        else s.homeWrite none (some .port) (s.localPa a) (min m l.length) (leBytes (l.take m))
      State.hostPut k s' port (a + m) (l.drop m)
/-- A line of a host's read meets a link out of service, on its way or back. -/
def State.hostDown (s : State) (port a n : Nat) : Bool :=
  s.linksDown != [] && (List.range (n / 64 + 2)).any (fun i =>
    let h := s.lineNode (a + 64 * i)
    s.routeDown (portNode port) h || s.routeDown h (portNode port))

/-- A write lands at its home; one outside device memory is dropped (log 29). -/
def execHostWrite (port pa : Nat) (bytes : List (BitVec 8)) (s : State) : Res :=
  match s.hostLocal port pa with
  | some a => .next (if s.localSpan a bytes.length then s.hostPut (bytes.length / 64 + 2) port a bytes else s)
  | none => .next s

/-- A read is answered from the home; from 2^63 on, pa names a register: bits [47:40] the function, [39:36] the BAR and
[35:0] the offset (log 30). -/
def execHostRead (port pa n : Nat) (s : State) : Res :=
  if 2 ^ 63 ≤ pa then
    .next (s.emit (.hostData port (toBytes 8 (s.barRead (bits pa 47 40) (bits pa 39 36) (bits pa 35 0))) false))
  else match s.hostLocal port pa with
    | none => .next (s.emit (.hostData port [] true))
    | some a =>
      if s.localSpan a n then
        .next (s.emit (.hostData port (toBytes n (s.spanRead (s.localPa a) n))
          (s.spanPois (s.localPa a) n || s.hostDown port a n)))
      else .next (s.emit (.hostData port [] true))

/-! ## UALink (R262, R263) -/

/-- What an atomic leaves in memory (R292). -/
def peerResult (op : PeerOp) (n old v : Nat) : Nat :=
  match op with
  | .read => old
  | .write | .swap => v
  | .add => old + v
  | .and => old &&& v
  | .or => old ||| v
  | .xor => old ^^^ v
  | .min => if signedLess n v old then v else old
  | .max => if signedLess n old v then v else old
  | .minu => min old v
  | .maxu => max old v
  | .cas x => if old = x.toNat % 2 ^ n then v else old

/-- The I/O die between this package and another: that of the path to it (R262). -/
def State.peerNode (s : State) (src : Nat) : Node := .io (s.ualinkExit (s.firstHop src)).1
/-- A line of a peer's access meets a link out of service on its way. -/
def State.peerDown (s : State) (src a n : Nat) (reply : Bool) : Bool :=
  s.linksDown != [] && (List.range (n / 64 + 2)).any (fun i =>
    let h := s.lineNode (min (a + 64 * i) (a + n))
    if reply then s.routeDown h (s.peerNode src) else s.routeDown (s.peerNode src) h)
/-- A read, write or atomic of another package, performed at the home. Over a link out of service it is lost, and the reply is
poison (R256). -/
def execPeerTransaction (src : Nat) (op : PeerOp) (pa n : Nat) (v : BitVec 64) (s : State) : Res :=
  let a := s.localPa pa
  if !s.localSpan (pa % 2 ^ 44) n || s.peerDown src pa n false then
    .next (if op = .write then s else s.emit (.peerData src 0 true))
  else
    let old := s.spanRead a n
    let bad := s.spanPois a n
    let reply (bad : Bool) (s : State) : Res := .next (s.emit (.peerData src old (bad || s.peerDown src pa n true)))
    match op with
    | .read => reply bad s
    | .write => .next (s.homeWrite none (some .port) a n v.toNat)
    | _ =>
      if bad then reply true s
      else
        let new := peerResult op (8 * n) old (v.toNat % 2 ^ (8 * n)) % 2 ^ (8 * n)
        reply false (s.homeWrite none (some .port) a n new)

/-- Packages of two pods, between which this package is the relay (R263). -/
def State.relaysBetween (s : State) (src dst : Nat) : Bool :=
  match s.relay with
  | some (p, q) => p != q && ((src / 1024 == p && dst / 1024 == q) || (src / 1024 == q && dst / 1024 == p))
  | none => false
/-- The pod relay, on the lead I/O die, reissues a transaction in the target pod: it leaves through the I/O die and port of the
target's accelerator (R262, R263). A way between the two I/O dies that is out of service loses it (R256). -/
def execPodRelayForward (src : Nat) (op : PeerOp) (pa n : Nat) (v : BitVec 64) (s : State) : Res :=
  let x := s.ualinkExit (paPkg pa % 1024)
  .next (if !s.relaysBetween src (paPkg pa) then s
    else if s.routeDown (.io 0) (.io x.1) then (if op = .write then s else s.emit (.peerData src 0 true))
    else s.emit (.forwarded src x.1 x.2 op pa n v))

/-- The transaction that core's wisp or its engines make for the line at a DVA of another package receives no reply in time: it
ends with a poisoned reply, which the core's access that awaits it takes as R336 says (log 29). -/
def execUalinkReplyTimeout (core : Nat) (dva : BitVec 64) (s : State) : Res :=
  .next (match [AKind.read, .write, .fetch].findSome? (fun k => match s.xlat core dva.toNat k true (s.coreAt core).sup with
      | .ok t _ => some t.pa
      | _ => none) with
    | some pa => if s.ownPa pa || s.mute.contains (core, pa / 64) then s else { s with mute := s.mute ++ [(core, pa / 64)] }
    | none => s)

/-! ## Dropped flits, links (R251, R256) -/

/-- The partition of a unit that a flit reaches: a compute die, or from 160 on a memory site's homes. -/
def State.partOfUnit (s : State) (unit : Nat) : Option Nat :=
  if unit < 160 then s.partOfDie unit else s.partOfSite (unit - 160)
/-- A flit that carries another partition's number than the unit's own is dropped, and logged with the unit as detail (log 47). -/
def execForeignFlitDrop (part unit : Nat) (s : State) : Res :=
  .next (if s.partOfUnit unit = some part then s else s.logAdd 5 0 part unit)

/-- A link leaves service until the next reset: what still takes it is replaced by poison. -/
def execLinkOutOfService (x y dir : Nat) (s : State) : Res :=
  if s.linkLive (x, y) / 2 ^ dir % 2 = 0 ∨ 4 ≤ dir ∨ s.linkDown (x, y, dir) = true then .next s
  else .next (({ s with linksDown := s.linksDown ++ [(x, y, dir)] } : State).logAdd 3 0 ((s.partOfXY (x, y)).getD 63)
    (x + y * 16 + dir * 512))

/-! ## Soft errors (R197, R336, R337) -/

/-- Words of a line that a cache holds become poisoned; a line that it does not hold has no word there. -/
def Line.hurt (l : Line) (pa : Nat) : Line :=
  if l.valid = 0 then l else { l with pois := l.pois ||| (wordsTouched pa 4 &&& l.valid) }
/-- An uncorrectable error in a cache array: 0 an L1, 1 a cluster cache, 2 a die cache, 3 an instruction cache; its core, cluster
or die, and the address of the word (R336). -/
def State.hurtCache (s : State) (kind unit pa : Nat) : State :=
  let line := pa / 64
  match kind with
  | 0 => if (s.l1Line unit line).valid = 0 then s else s.setL1 unit line ((s.l1Line unit line).hurt pa)
  | 1 => s.setCluLine unit line ((s.cluLine unit line).hurt pa)
  | 2 => s.setDieLine unit line ((s.dieLine unit line).hurt pa)
  | _ => s.updCluster unit (fun y => { y with icache := Store.upd {} y.icache line (·.hurt pa) })

/-- An error in an array. pa is a physical address, for the word at its home; from 2^60 on, a word of a core's typed
buffers (core * 2^32 + the key of Typed.pois); from 2^61 on, an element of a bank ((cluster * 2 + bank) * 2^16 + its key); and
from 2^80 on, a word of a cache (kind * 2^80 + unit * 2^56 + the address, kind from 1) (log 30). -/
def execEccError (pa : Nat) (correctable : Bool) (s : State) : Res :=
  if correctable then .next (s.logAdd 1 0 ((s.backing pa).getD 63) pa)
  else
    let s := s.logAdd 2 0 ((s.backing pa).getD 63) pa
    if 2 ^ 80 ≤ pa then .next (s.hurtCache (pa / 2 ^ 80 - 1) (pa / 2 ^ 56 % 2 ^ 24) (pa % 2 ^ 56))
    else if 2 ^ 61 ≤ pa then
      let k := (pa - 2 ^ 61) / 2 ^ 16
      let hurt (b : Bank) : Bank := { b with pois := Store.set false b.pois (pa % 2 ^ 16) true }
      .next (s.updCluster (k / 2) (fun x => if k % 2 = 1 then { x with bank1 := hurt x.bank1 } else { x with bank0 := hurt x.bank0 }))
    else if 2 ^ 60 ≤ pa then
      .next (s.updCore ((pa - 2 ^ 60) / 2 ^ 32) (fun x => { x with
        typed := { x.typed with pois := Store.set false x.typed.pois (pa % 2 ^ 32) true } }))
    else .next { s with pois := Store.set false s.pois (pa / 4) true }

/-- A visit of the scrubbers: the words keep their values. -/
def execScrub (s : State) : Res := .next s

/-- A poisoned line is rewritten whole from its backing copy, in one step at its home; every core that took a machine check
on it receives a refill notice. -/
def execBackingRewrite (pa : Nat) (s : State) : Res :=
  let line := pa / 64
  match s.backingOf (64 * line) with
  | none => .next s
  | some b =>
    if s.homePois b 64 then .next s
    else
      let s := s.homeWrite none none (64 * line) 64 (s.homeRead b 64)
      let cs := (s.cores.filter (fun e => e.2.mc.contains line)).map Prod.fst
      .next (cs.foldl (fun s c =>
        (s.updCore c (fun x => { x with refill := true, mc := x.mc.filter (· != line) })).wfiWake c) s)

/-! ## Clocks (R258, R380) -/

/-- The die changes its clock step: CYCLE goes on from its value, and an outstanding RDTIME of a core of the die is requested
again. -/
def State.setClock (s : State) (die step : Nat) : State :=
  let n := s.cycleOf die s.nowPs
  let t := s.nowPs
  let s := s.updDie die (fun x => { x with clockStep := step, clock := some (n, t) })
  let cs := (s.cores.filter (fun e => dieOf e.1 == die && e.2.waitOn == .time none)).map Prod.fst
  let s : State := { s with sched := s.sched.filter (fun e => match e with
    | .timeRequest c => !cs.contains c
    | .timeReply c _ => !cs.contains c
    | _ => true) }
  cs.foldl (fun s c => (s.updCore c (fun x => { x with timeC0 := n })).post (.timeRequest c)) s

/-- The condition holds: one step of 3 % down, to at most 70 % of nominal. -/
def execThermalThrottle (die : Nat) (s : State) : Res :=
  let k := (s.dieAt die).clockStep
  let s := s.updDie die (fun x => { x with hotAt := s.time })
  .next (if k < 10 then s.setClock die (k + 1) else s)
/-- One step up, once the condition has been clear for 1 ms. -/
def execClockRestore (die : Nat) (s : State) : Res :=
  let d := s.dieAt die
  .next (if 0 < d.clockStep ∧ d.hotAt + 1000000 ≤ s.time then s.setClock die (d.clockStep - 1) else s)

end Sys2Proof.Machine
end

