-- ==== Sys2Proof/Machine/Sync.lean ====
section
/-! DEFINITION. ACQ, REL, FENCE, OWN, DISOWN and IFENCE (R282 to R287). -/

namespace Sys2Proof.Machine

/-- g[ga] names a region, 1 to 255 (R283, R287). -/
def regionOk (r : Word) : Bool := decide (1 ≤ r.toNat ∧ r.toNat ≤ 255)
def syncWord (fn : Nat) (d a b : BitVec 5) (scope : BitVec 2) : BitVec 32 := rrWord (0x94000000 + fn) d a b (8 * scope.toNat)

def execAcq (a : BitVec 5) (scope : BitVec 2) (s : State) : Res :=
  let r := s.rg a
  if !regionOk r then .next (s.trap (illegal (syncWord 0 0 a 0 scope)))
  else .next (s.acquire s.cur r.toNat scope.toNat).nextPc

def execRel (a : BitVec 5) (scope : BitVec 2) (s : State) : Res :=
  let r := s.rg a
  if !regionOk r then .next (s.trap (illegal (syncWord 1 0 a 0 scope)))
  else finish (s.release s.cur r.toNat scope.toNat)

/-- Loads, stores and atomics are performed when they issue; what can still be outstanding are the answers that written
words await (R273) and the acknowledgements of RTINVs no wider than the fence (R96, R284). -/
def State.fenceReady (s : State) (c sc : Nat) : Bool :=
  !s.awaitsAnswer c && !(s.coreAt c).inval.any (fun q => decide (q.scope ≤ sc))

/-- What the core has sent is performed first (R275). -/
def execFence (scope : BitVec 2) (s : State) : Res :=
  let s := s.performSent s.cur
  if s.fenceReady s.cur scope.toNat then .next s.nextPc else .next s.block

/-! ## OWN (R285) -/

def ownStride (v : Word) : Nat := bits v.toNat 31 0
def ownCount (v : Word) : Nat := bits v.toNat 47 32
def ownWidth (v : Word) : Nat := bits v.toNat 50 48
/-- The limits on the descriptor and the base. -/
def ownLegal (b v : Word) : Bool :=
  let w := 2 ^ ownWidth v
  decide (v.toNat / 2 ^ 51 = 0 ∧ 2 ≤ ownWidth v ∧ ownWidth v ≤ 6 ∧ 1 ≤ ownCount v ∧ ownStride v % w = 0
    ∧ (ownCount v = 1 ∨ w ≤ ownStride v) ∧ b.toNat % w = 0)

/-- The words of the elements by line, at the places where the entry's interleave puts them. -/
def State.ownCells (s : State) (raw iov stride count width : Nat) : Store (BitVec 16) :=
  (List.range count).foldl (fun m k =>
    (List.range (width / 4)).foldl (fun m i =>
      let pa := s.placeAt (raw + k * stride + 4 * i) iov
      Store.upd 0 m (pa / 64) (fun w => w ||| BitVec.ofNat 16 (2 ^ (pa % 64 / 4)))) m) []

/-- The lowest free slot of 8. -/
def Core.freeOwnSlot (x : Core) : Option Nat :=
  (List.range 8).find? (fun i => (Store.get ({} : OwnRange) x.owned i).count == 0)

/-- OWNREQ for each line touched: a V line goes to IO with its dirty words, an I line is registered with no copy. A line that is O
already goes to IO as a V line does, so that the words come as their home has them (DEDUCED, log 32). -/
def State.sendOwnreqs (s : State) (c : Nat) (r : OwnRange) : State :=
  r.cells.foldl (fun s e =>
    let l := s.l1Line c e.1
    if (l.st == .v || l.st == .o) && l.valid != 0 then
      s.sendDirty c e.1 .io (fun data dirty => .ownreq c e.1 e.2 data dirty)
    else s.request c (.ownreq c e.1 e.2 0 0)) s

def execOwn (d a b : BitVec 5) (s : State) : Res :=
  let c := s.cur
  let base := s.rg a
  let v := s.rg b
  let n := 2 ^ ownWidth v
  if !ownLegal base v then .next (s.trap (illegal (syncWord 3 d a b 2)))
  else
    let last := (base.toNat + (ownCount v - 1) * ownStride v + n - 1) % 2 ^ 64
    finish ((s.xlat c base.toNat .write true s.me.sup).bind fun t s =>
      (s.xlat c last .write true s.me.sup).bind fun u s =>
        match s.me.freeOwnSlot with
        | none => .ok () (s.wg d (status 1))
        | some i =>
          if t.base ≠ u.base then .ok () (s.wg d (status 2))
          else if !t.ca || !t.own then .ok () (s.wg d (status 3))
          else if (s.tentTag c t.rid).isSome then .ok () (s.wg d (status 4))
          else
            let r : OwnRange := { base := t.pa, stride := ownStride v, count := ownCount v, width := n,
                                  cells := s.ownCells t.raw t.iov (ownStride v) (ownCount v) n }
            if r.cells.any (fun e => (s.l1Line c e.1).st == .io || (s.l1Line c e.1).st == .oi || (s.l1Line c e.1).st == .ov)
            then .wait s
            else
              let s := s.updCore c (fun x => { x with owned := Store.set {} x.owned i r })
              .ok () ((s.sendOwnreqs c r).wg d (BitVec.ofNat 64 i)))

/-- DISOWN waits until every acknowledgement has arrived, and then frees its slot (R286). -/
def execDisown (d a : BitVec 5) (s : State) : Res :=
  let c := s.cur
  let i := s.rg a
  let r : OwnRange := Store.get {} s.me.owned i.toNat
  if i.toNat / 8 ≠ 0 then .next (s.trap (illegal (syncWord 4 d a 0 2)))
  else if r.count = 0 then setG d 1 s
  else
    let s := if r.leaving then s else s.beginDisown c i.toNat
    if s.disownWaits c i.toNat then .next s.block
    else setG d 0 (s.endDisown c i.toNat)

def execIfence (a : BitVec 5) (scope : BitVec 2) (s : State) : Res :=
  let c := s.cur
  let r := s.rg a
  if !regionOk r then .next (s.trap (illegal (syncWord 5 0 a 0 scope)))
  else finish ((s.release c r.toNat scope.toNat).bind fun _ s => .ok () (s.dropCode c r.toNat))

end Sys2Proof.Machine
end

