-- ==== Sys2Proof/Machine/Vec.lean ====
section
/-! DEFINITION. What the vector instructions share (R154 to R158, R189, R190): element positions over one core or over a
gang, masks, the pops and pushes of stream-bound registers (R231, R232, R237), VSTART, and the end of the instruction. -/

namespace Sys2Proof.Machine

/-! ## Positions (R154, R189) -/

/-- The positions an instruction processes: those from lo up to hi, where position j is held by core j div M of the list as
its element j mod M; off is added to give the position of the ganged vector. -/
structure Span where
  cores : List Nat
  off : Nat := 0
  ew : Nat
  lo : Nat
  hi : Nat
deriving DecidableEq, Repr

/-- M = 2048 / EW, and the VLMAX of the span's cores. -/
def Span.m (p : Span) : Nat := 2048 / p.ew
def Span.all (p : Span) : Nat := p.cores.length * p.m
def Span.n (p : Span) : Nat := p.hi - p.lo
def Span.to (p : Span) (hi : Nat) : List Nat := (List.range (hi - p.lo)).map (· + p.lo)
def Span.core (p : Span) (j : Nat) : Nat := p.cores.getD (j / p.m) 0

def UReg.ewBits (u : UReg) : Nat := 8 * 2 ^ u.ew
/-- The span of a collective instruction: the leader's VL and VSTART. -/
def State.leaderSpan (s : State) (cores : List Nat) : Span :=
  let u := (s.coreAt (cores.headD s.cur)).u
  { cores := cores, ew := u.ewBits, lo := u.vstart.toNat, hi := u.vl.toNat }
/-- The span of a member-local instruction: its own positions. -/
def State.memberSpan (s : State) : Span :=
  let u := s.me.u
  let m := 2048 / u.ewBits
  let off := match s.me.gang with | some g => g.member * m | none => 0
  { cores := [s.cur], off := off, ew := u.ewBits, lo := max u.vstart.toNat off - off, hi := min u.vl.toNat (off + m) - off }

/-! ## Elements and mask bits of a span -/

def vElem (ew : Nat) (g : List VReg) (j : Nat) : Nat :=
  (g.getD (j / (2048 / ew)) 0).toNat / 2 ^ (ew * (j % (2048 / ew))) % 2 ^ ew
def regSet (ew : Nat) (v : VReg) (l x : Nat) : VReg :=
  let m : VReg := BitVec.ofNat 2048 ((2 ^ ew - 1) * 2 ^ (ew * l))
  (v &&& ~~~ m) ||| BitVec.ofNat 2048 (x % 2 ^ ew * 2 ^ (ew * l))
def vSet (ew : Nat) (g : List VReg) (j x : Nat) : List VReg :=
  g.modify (j / (2048 / ew)) (fun v => regSet ew v (j % (2048 / ew)) x)
def vPutAll (ew : Nat) (g : List VReg) (l : List (Nat × Nat)) : List VReg := l.foldl (fun g e => vSet ew g e.1 e.2) g

def State.vGroup (s : State) (cores : List Nat) (r : Nat) : List VReg := cores.map (fun c => (s.coreAt c).vRead r)
def State.setVGroup (s : State) (cores : List Nat) (r : Nat) (g : List VReg) : State :=
  (cores.zip g).foldl (fun s e => s.updCore e.1 (·.vWrite r e.2)) s
def State.vPut (s : State) (p : Span) (r : Nat) (l : List (Nat × Nat)) : State :=
  s.setVGroup p.cores r (vPutAll p.ew (s.vGroup p.cores r) l)

def kBit (m : Nat) (g : List KReg) (j : Nat) : Bool := (g.getD (j / m) 0).getLsbD (j % m)
def bitSet (v : KReg) (l : Nat) (b : Bool) : KReg :=
  let m : KReg := BitVec.ofNat 256 (2 ^ l)
  if b then v ||| m else v &&& ~~~ m
def State.kGroup (s : State) (cores : List Nat) (r : Nat) : List KReg := cores.map (fun c => (s.coreAt c).kRead r)
def State.kPut (s : State) (p : Span) (r : Nat) (l : List (Nat × Bool)) : State :=
  let g := l.foldl (fun (g : List KReg) e => g.modify (e.1 / p.m) (fun v => bitSet v (e.1 % p.m) e.2)) (s.kGroup p.cores r)
  (p.cores.zip g).foldl (fun s e => s.updCore e.1 (·.kWrite r e.2)) s

/-- msk = 0, or the position's bit of k[msk - 1] (R71). -/
def State.active (s : State) (p : Span) (msk : BitVec 4) : Nat → Bool :=
  if msk = 0 then fun _ => true else kBit p.m (s.kGroup p.cores (msk.toNat - 1))

/-- A g result, and flags, go to every core of the span (R190). -/
def State.gAll (s : State) (p : Span) (d : BitVec 5) (v : Word) : State :=
  p.cores.foldl (fun s c => s.updCore c (·.gWrite d.toNat v)) s
def State.raiseAll (s : State) (p : Span) (f : Flags) : State := p.cores.foldl (fun s c => s.raise c f) s
def State.uAll (s : State) (p : Span) (f : UReg → UReg) : State := p.cores.foldl (fun s c => s.updCore c (·.updU f)) s

/-! ## What a vector instruction does below a bound -/

inductive VStop where
  | done
  | wait                                 -- an access waits; the positions below are done
  | retry                                -- an access waits; nothing is done
  | trap (core : Nat) (t : Trap)         -- VSTART is set (R174)
  | abort (core : Nat) (t : Trap)        -- nothing is done and VSTART stays (R175, R180)
  | trunc                                -- VL is cut (R175)
deriving DecidableEq, Repr

/-- What is done: the state, the position reached, why no further, and DIX of the position where it stopped (R176). -/
structure VOut where
  s : State
  upto : Nat
  stop : VStop := .done
  dix : Option (BitVec 48) := none

/-- The elementwise loop of R157 over [lo, hi). -/
def elemBody (p : Span) (d : Nat) (msk : BitVec 4) (val : State → Nat → Nat × Flags) (hi : Nat) (s : State) : VOut :=
  let act := s.active p msk
  let res := ((p.to hi).filter act).map (fun j => (j, val s j))
  { s := (s.vPut p d (res.map (fun e => (e.1, e.2.1)))).raiseAll p (unionFlags (res.map Prod.snd)), upto := hi }

/-! ## Stream-bound registers (R231) -/

/-- The cases of R231 that trap 0x01. -/
def Core.streamIllegal (x : Core) (srcs : List Nat) (dst : List Nat) : Bool :=
  (srcs ++ dst).any (fun r => match x.bindOf r with
    | some (_, b) => x.gang.isSome || b.format != x.u.vtype.toNat
    | none => false)
  || srcs.any (fun r => match x.bindOf r with | some (_, b) => !b.reads | none => false)
  || dst.any (fun r => match x.bindOf r with | some (_, b) => !b.writes | none => false)

structure Pops where
  k : Nat                                -- positions that every source can deliver
  why : PopEnd := .all
  ix : Nat := 0                          -- the binding that delivers fewest
  got : List (Nat × Nat × List Nat) := []   -- register, binding, elements
  s : State

/-- What the bound sources can deliver for n positions. -/
def State.peekAll (s : State) (c n : Nat) (l : List (Nat × Nat)) : Pops :=
  l.foldl (fun (q : Pops) e =>
    let (vals, why, s) := q.s.popPeek c e.2 n
    let got := q.got ++ [(e.1, e.2, vals)]
    if vals.length < q.k then ⟨vals.length, why, e.2, got, s⟩ else { q with got := got, s := s }) { k := n, s := s }

/-- The first k popped elements stand in their registers. -/
def Pops.place (q : Pops) (p : Span) (k : Nat) : State :=
  q.got.foldl (fun s e => s.vPut p e.1 (((e.2.2.take k).zipIdx).map (fun v => (p.lo + v.2, v.1)))) q.s
def Pops.commit (q : Pops) (s : State) (c k : Nat) : State := q.got.foldl (fun s e => s.popCommit c e.2.1 k) s

/-! ## Ends -/

/-- A fault of a collective access: the member that holds the position takes its own trap, the others 0x10 (R193). -/
def State.memberTrap (s : State) (p : Span) (core : Nat) (t : Trap) : State :=
  let h := p.cores.idxOf core
  s.trapAll p.cores (fun c => if c = core then t else gangTrap 3 h t.cause)

def State.setDix (s : State) (p : Span) (x : Option (BitVec 48)) : State :=
  match x with
  | some v => s.uAll p ({ · with dix := v })
  | none => s
def State.setVstart (s : State) (p : Span) (j : Nat) : State :=
  s.uAll p ({ · with vstart := BitVec.ofNat 16 (p.off + j) })

/-- A pop found a bad element (R238): the fault is reported, which resets the graph (R246). -/
def State.popFault (s : State) (c i : Nat) (t : Trap) : State :=
  let s := ((s.dropBad c i).countFault c (t.tval.toNat / 256 % 256)).updCore c (·.updE Eng.resetGraph)
  ((s.kickCluster c).kickC c).trap t

/-- The waiting instruction has taken k more positions from its sources. -/
def Core.tookPops (x : Core) (k : Nat) : Core := { x with popped := x.popped + k }

/-- Runs a vector instruction: pops, body, pushes, VSTART. With split, the positions below the one where it stops or waits
are done and VSTART says so. Without, what its sources deliver is popped into the registers as it comes, the body follows when
all of it is there, and its results are pushed as the stream takes them; a trap meanwhile adds to VSTART what has been
delivered (R237). An instruction that both pops and pushes, or that may give back what it popped (whole), delivers all of its
positions at once instead (log 24); where a pop faults, one that also pushes delivers and pushes the positions below it (R232,
R238), their results taken from its registers as they then stand (log 24). Flags of delivered positions are set at the trap or
wait (DESIGN CHOICE, log 47). -/
def vRun (p : Span) (srcs : List Nat) (dst : Option Nat) (split whole : Bool) (body : Nat → State → VOut) (s : State) : Res :=
  let c := s.cur
  let x := s.me
  let bound := srcs.eraseDups.filterMap (fun r => (x.bindOf r).map (fun b => (r, b.1)))
  let p' : Span := { p with lo := p.lo + if bound.isEmpty then 0 else x.popped }
  let n := p'.n
  let q := s.peekAll c n bound
  let dstB := dst.bind (fun r => (x.bindOf r).map (fun b => (r, b.1)))
  let both := q.got != [] && dstB.isSome
  let faulty := match q.why with | .fault _ => true | _ => false
  if !split && decide (q.k < n) && !(both && faulty) then
    let took : State := (q.commit (q.place p' q.k) c q.k).updMe (·.tookPops q.k)
    match q.why with
    | .fault t => .next (took.popFault c q.ix t)
    | _ =>
      match q.s.stallTrap c q.ix with
      | some t => .next (took.trap t)
      | none => .next ((if both || whole then q.s else took).stallMark c q.ix).stall
  else
    let out := body (p'.lo + q.k) (q.place p' q.k)
    let undo (s : State) : State := q.got.foldl (fun s e => s.updCore c (·.vWrite e.1 (x.vRead e.1))) s
    match out.stop with
    | .retry => .next (undo out.s).block
    | .abort core t => .next (((undo out.s).setDix p out.dix).memberTrap p core t)
    | _ =>
      let k2 := out.upto - p.lo
      let (t, sp) := match dstB with
        | none => (k2, out.s)
        | some (r, i) =>
          out.s.pushMany c i (((p.to out.upto).drop x.pushed).map (vElem p.ew (out.s.vGroup p.cores r))) x.pushed
      if !split && decide (t < k2) then
        let i := (dstB.map Prod.snd).getD 0
        let gave : State := sp.updMe (fun y => { y with pushed := t })
        if both then
          match q.s.stallTrap c i with
          | some tr => .next ((q.commit gave c t).trap tr)
          | none => .next (q.s.stallMark c i).stall
        else stallOr c i gave
      else
        let s := if t = k2 then sp
          else
            let o := body (p.lo + t) (q.place p t)
            (match dstB with
              | none => o.s
              | some (r, i) => (o.s.pushMany c i ((p.to (p.lo + t)).map (vElem p.ew (o.s.vGroup p.cores r))) 0).2)
        let s := q.commit s c (if out.stop = .trunc ∨ (!split && q.k = n) then n else t)
        let bound := q.got.map (fun e => e.2.1) ++ (dstB.map Prod.snd).toList
        if out.stop = .trunc ∨ t = p.n then
          let s := if out.stop = .trunc then s.uAll p ({ · with vl := BitVec.ofNat 16 out.upto }) else s
          let s := (s.setDix p (if out.stop = .trunc then out.dix else none)).uAll p ({ · with vstart := 0 })
          .next ((bound.foldl (fun s i => s.stallClear c i) s).stepAll p.cores)
        else
          let s := s.setVstart p (p.lo + t)
          if t < k2 then stallOr c ((dstB.map Prod.snd).getD 0) s
          else match out.stop with
            | .trap core tr => .next ((s.setDix p out.dix).memberTrap p core tr)
            | .wait => .next s.block
            | _ =>
              match q.why with
              | .fault tr => .next (s.popFault c q.ix tr)
              | _ => stallOr c q.ix s

/-- A member-local instruction (R190); bad: its own illegal cases. -/
def vLocal (w : BitVec 32) (srcs : List Nat) (dst : Option Nat) (split bad : Bool) (body : Span → Nat → State → VOut)
    (s : State) : Res :=
  if bad || s.me.streamIllegal srcs dst.toList then .next (s.trap (illegal w))
  else vRun s.memberSpan srcs dst split false (body s.memberSpan) s

/-- A collective instruction (R190); bad: its illegal cases, by the leader's registers. -/
def vAll (w : BitVec 32) (srcs : List Nat) (dst : Option Nat) (split : Bool) (bad : Core → Bool)
    (body : Span → Nat → State → VOut) (s : State) (whole : Bool := false) : Res :=
  if s.me.streamIllegal srcs dst.toList then .next (s.trap (illegal w))
  else collective w s (fun cores s =>
    if bad (s.coreAt (cores.headD s.cur)) then .next (s.trapAll cores (fun _ => illegal w))
    else vRun (s.leaderSpan cores) srcs dst split whole (body (s.leaderSpan cores)) s)

/-- The core whose scalar operands an instruction on a span uses. -/
def State.lead (s : State) (p : Span) : Core := s.coreAt (p.cores.headD s.cur)

/-! ## Formats under VTYPE -/

/-- An integer modulo 2^n. -/
def ofI (n : Nat) (v : Int) : Nat := (v % 2 ^ n).toNat

def UReg.float (u : UReg) : Option FFmt := floatOf (u.vtype.toNat % 32)
/-- A subnormal source becomes a zero of its sign when FZ = 1 (R148). -/
def FFmt.flush (f : FFmt) (fz : Bool) (code : Nat) : Nat :=
  if fz && code % f.signBit / 2 ^ f.fb == 0 then code / f.signBit % 2 * f.signBit else code
/-- The second source of a vector instruction: a register, or a scalar read as an element. -/
inductive VSrc where
  | reg (r : BitVec 5)
  | sca (r : BitVec 5)
deriving DecidableEq, Repr

def VSrc.regs : VSrc → List Nat
  | .reg r => [r.toNat]
  | .sca _ => []
def VSrc.elem (b : VSrc) (s : State) (p : Span) : Nat → Nat :=
  match b with
  | .reg r => vElem p.ew (s.vGroup p.cores r.toNat)
  | .sca r => fun _ => ((s.lead p).gRead r.toNat).toNat % 2 ^ p.ew
def VSrc.field : VSrc → BitVec 5
  | .reg r => r
  | .sca r => r
/-- The vector-scalar majors are one above the vector-vector ones. -/
def VSrc.major : VSrc → Nat
  | .reg _ => 0
  | .sca _ => 0x04000000

end Sys2Proof.Machine
end

