-- ==== Sys2Proof/Machine/Vflt.lean ====
section
/-! DEFINITION. VFLT (R164 to R166): floating-point arithmetic on vectors in f16, bf16, f32 and f64. -/

namespace Sys2Proof.Machine

/-- What a VFLT function is given: format, FZ, RM, and the codes of a, b and the old d, subnormal sources flushed. -/
abbrev FOp := FFmt → Bool → Nat → Nat → Nat → Nat → Nat × Flags

/-- FMT 2 or 3; f64 and RM only where the function allows them (R164). -/
def UReg.fltBad (u : UReg) (useRm noF64 : Bool) : Bool :=
  u.float.isNone || (useRm && decide (5 ≤ u.rm)) || (noF64 && u.ew == 3)

/-- The shape of VFLT. -/
def vflt (fn : Nat) (d a : BitVec 5) (b : VSrc) (srcB readsD useRm noF64 : Bool) (msk : BitVec 4) (ca cb : Bool)
    (op : FOp) (s : State) : Res :=
  let u := s.me.u
  let f := u.float.getD f32
  vLocal (vWord (0xB0000000 + b.major + fn) d a b.field msk ca cb)
    (a.toNat :: (if srcB then b.regs else []) ++ (if readsD then [d.toNat] else [])) (some d.toNat) true
    (u.fltBad useRm noF64)
    (fun p => elemBody p d.toNat msk (fun s j =>
      op f u.fz u.rm (f.flush u.fz (vElem p.ew (s.vGroup p.cores a.toNat) j)) (f.flush u.fz (b.elem s p j))
        (f.flush u.fz (vElem p.ew (s.vGroup p.cores d.toNat) j)))) s

/-- A function of two sources that rounds, and a unary one. -/
def f2 (g : FFmt → Bool → Nat → FVal → FVal → Nat × Flags) : FOp := fun f fz rm a b _ => g f fz rm (f.decode a) (f.decode b)
def f1 (g : FFmt → Bool → Nat → FVal → Nat × Flags) : FOp := fun f fz rm a _ _ => g f fz rm (f.decode a)
/-- a × b + d with signs. -/
def fmaOp (negP negD : Bool) : FOp := fun f fz rm a b d =>
  f.fma fz rm negP (f.decode a) (f.decode b) (if negD then (f.decode d).negate else f.decode d)
def minmaxOp (wantMax : Bool) : FOp := fun f _ _ a b _ => f.minmax wantMax a b (f.decode a) (f.decode b)
def fsub (f : FFmt) (fz : Bool) (rm : Nat) (a b : FVal) : Nat × Flags := f.add fz rm a b.negate

def execVfaddVv (d a b : BitVec 5) (msk : BitVec 4) (ca cb : Bool) (s : State) : Res :=
  vflt 0 d a (.reg b) true false true false msk ca cb (f2 FFmt.add) s
def execVfaddVs (d a b : BitVec 5) (msk : BitVec 4) (ca : Bool) (s : State) : Res :=
  vflt 0 d a (.sca b) true false true false msk ca false (f2 FFmt.add) s
def execVfsubVv (d a b : BitVec 5) (msk : BitVec 4) (ca cb : Bool) (s : State) : Res :=
  vflt 1 d a (.reg b) true false true false msk ca cb (f2 fsub) s
def execVfsubVs (d a b : BitVec 5) (msk : BitVec 4) (ca : Bool) (s : State) : Res :=
  vflt 1 d a (.sca b) true false true false msk ca false (f2 fsub) s
def execVfmulVv (d a b : BitVec 5) (msk : BitVec 4) (ca cb : Bool) (s : State) : Res :=
  vflt 2 d a (.reg b) true false true false msk ca cb (f2 FFmt.mul) s
def execVfmulVs (d a b : BitVec 5) (msk : BitVec 4) (ca : Bool) (s : State) : Res :=
  vflt 2 d a (.sca b) true false true false msk ca false (f2 FFmt.mul) s
def execVfdivVv (d a b : BitVec 5) (msk : BitVec 4) (ca cb : Bool) (s : State) : Res :=
  vflt 3 d a (.reg b) true false true false msk ca cb (f2 FFmt.div) s
def execVfdivVs (d a b : BitVec 5) (msk : BitVec 4) (ca : Bool) (s : State) : Res :=
  vflt 3 d a (.sca b) true false true false msk ca false (f2 FFmt.div) s
def execVfmaVv (d a b : BitVec 5) (msk : BitVec 4) (ca cb : Bool) (s : State) : Res :=
  vflt 4 d a (.reg b) true true true false msk ca cb (fmaOp false false) s
def execVfmaVs (d a b : BitVec 5) (msk : BitVec 4) (ca : Bool) (s : State) : Res :=
  vflt 4 d a (.sca b) true true true false msk ca false (fmaOp false false) s
def execVfmsVv (d a b : BitVec 5) (msk : BitVec 4) (ca cb : Bool) (s : State) : Res :=
  vflt 5 d a (.reg b) true true true false msk ca cb (fmaOp false true) s
def execVfmsVs (d a b : BitVec 5) (msk : BitVec 4) (ca : Bool) (s : State) : Res :=
  vflt 5 d a (.sca b) true true true false msk ca false (fmaOp false true) s
def execVfnmaVv (d a b : BitVec 5) (msk : BitVec 4) (ca cb : Bool) (s : State) : Res :=
  vflt 6 d a (.reg b) true true true false msk ca cb (fmaOp true false) s
def execVfnmaVs (d a b : BitVec 5) (msk : BitVec 4) (ca : Bool) (s : State) : Res :=
  vflt 6 d a (.sca b) true true true false msk ca false (fmaOp true false) s
def execVfminVv (d a b : BitVec 5) (msk : BitVec 4) (ca cb : Bool) (s : State) : Res :=
  vflt 7 d a (.reg b) true false false false msk ca cb (minmaxOp false) s
def execVfminVs (d a b : BitVec 5) (msk : BitVec 4) (ca : Bool) (s : State) : Res :=
  vflt 7 d a (.sca b) true false false false msk ca false (minmaxOp false) s
def execVfmaxVv (d a b : BitVec 5) (msk : BitVec 4) (ca cb : Bool) (s : State) : Res :=
  vflt 8 d a (.reg b) true false false false msk ca cb (minmaxOp true) s
def execVfmaxVs (d a b : BitVec 5) (msk : BitVec 4) (ca : Bool) (s : State) : Res :=
  vflt 8 d a (.sca b) true false false false msk ca false (minmaxOp true) s
def execVfsqrtVv (d a : BitVec 5) (msk : BitVec 4) (ca : Bool) (s : State) : Res :=
  vflt 9 d a (.reg 0) false false true false msk ca false (f1 FFmt.sqrt) s
def execVfsqrtVs (d a : BitVec 5) (msk : BitVec 4) (ca : Bool) (s : State) : Res :=
  vflt 9 d a (.sca 0) false false true false msk ca false (f1 FFmt.sqrt) s
def execVfrcpVv (d a : BitVec 5) (msk : BitVec 4) (ca : Bool) (s : State) : Res :=
  vflt 10 d a (.reg 0) false false true false msk ca false (f1 FFmt.rcp) s
def execVfrcpVs (d a : BitVec 5) (msk : BitVec 4) (ca : Bool) (s : State) : Res :=
  vflt 10 d a (.sca 0) false false true false msk ca false (f1 FFmt.rcp) s
def execVfrsqVv (d a : BitVec 5) (msk : BitVec 4) (ca : Bool) (s : State) : Res :=
  vflt 11 d a (.reg 0) false false true false msk ca false (f1 FFmt.rsq) s
def execVfrsqVs (d a : BitVec 5) (msk : BitVec 4) (ca : Bool) (s : State) : Res :=
  vflt 11 d a (.sca 0) false false true false msk ca false (f1 FFmt.rsq) s
def execVfexp2Vv (d a : BitVec 5) (msk : BitVec 4) (ca : Bool) (s : State) : Res :=
  vflt 12 d a (.reg 0) false false true true msk ca false (f1 FFmt.exp2) s
def execVfexp2Vs (d a : BitVec 5) (msk : BitVec 4) (ca : Bool) (s : State) : Res :=
  vflt 12 d a (.sca 0) false false true true msk ca false (f1 FFmt.exp2) s
def execVflog2Vv (d a : BitVec 5) (msk : BitVec 4) (ca : Bool) (s : State) : Res :=
  vflt 13 d a (.reg 0) false false true true msk ca false (f1 FFmt.log2) s
def execVflog2Vs (d a : BitVec 5) (msk : BitVec 4) (ca : Bool) (s : State) : Res :=
  vflt 13 d a (.sca 0) false false true true msk ca false (f1 FFmt.log2) s
def execVftanhVv (d a : BitVec 5) (msk : BitVec 4) (ca : Bool) (s : State) : Res :=
  vflt 14 d a (.reg 0) false false true true msk ca false (f1 FFmt.tanh) s
def execVftanhVs (d a : BitVec 5) (msk : BitVec 4) (ca : Bool) (s : State) : Res :=
  vflt 14 d a (.sca 0) false false true true msk ca false (f1 FFmt.tanh) s
def execVfabsVv (d a : BitVec 5) (msk : BitVec 4) (ca : Bool) (s : State) : Res :=
  vflt 15 d a (.reg 0) false false false false msk ca false (fun f _ _ a _ _ => (a % f.signBit, 0)) s
def execVfabsVs (d a : BitVec 5) (msk : BitVec 4) (ca : Bool) (s : State) : Res :=
  vflt 15 d a (.sca 0) false false false false msk ca false (fun f _ _ a _ _ => (a % f.signBit, 0)) s
def execVfnegVv (d a : BitVec 5) (msk : BitVec 4) (ca : Bool) (s : State) : Res :=
  vflt 16 d a (.reg 0) false false false false msk ca false (fun f _ _ a _ _ => ((a + f.signBit) % (2 * f.signBit), 0)) s
def execVfnegVs (d a : BitVec 5) (msk : BitVec 4) (ca : Bool) (s : State) : Res :=
  vflt 16 d a (.sca 0) false false false false msk ca false (fun f _ _ a _ _ => ((a + f.signBit) % (2 * f.signBit), 0)) s
def execVfsgnjVv (d a b : BitVec 5) (msk : BitVec 4) (ca cb : Bool) (s : State) : Res :=
  vflt 17 d a (.reg b) true false false false msk ca cb (fun f _ _ a b _ => (a % f.signBit + b / f.signBit % 2 * f.signBit, 0)) s
def execVfsgnjVs (d a b : BitVec 5) (msk : BitVec 4) (ca : Bool) (s : State) : Res :=
  vflt 17 d a (.sca b) true false false false msk ca false (fun f _ _ a b _ => (a % f.signBit + b / f.signBit % 2 * f.signBit, 0)) s
def execVfclassVv (d a : BitVec 5) (msk : BitVec 4) (ca : Bool) (s : State) : Res :=
  vflt 18 d a (.reg 0) false false false false msk ca false (fun f _ _ a _ _ => (f.classOf (f.decode a), 0)) s
def execVfclassVs (d a : BitVec 5) (msk : BitVec 4) (ca : Bool) (s : State) : Res :=
  vflt 18 d a (.sca 0) false false false false msk ca false (fun f _ _ a _ _ => (f.classOf (f.decode a), 0)) s

end Sys2Proof.Machine
end

