-- ==== Sys2Proof/Machine/Vint.lean ====
section
/-! DEFINITION. VINT (R162, R163): integer arithmetic on vectors, elements modulo 2^EW. -/

namespace Sys2Proof.Machine

/-- An integer clamped to [lo, hi] as n bits, with SAT if it was outside. -/
def satTo (signed : Bool) (n : Nat) (v : Int) : Nat × Flags := clampInt signed n v
/-- A function of two signed elements, and of two unsigned ones. -/
def sOp (f : Int → Int → Int) (n a b _d : Nat) : Nat × Flags := (ofI n (f (toSigned n a) (toSigned n b)), 0)
def uOp (f : Nat → Nat → Nat) (_n a b _d : Nat) : Nat × Flags := (f a b, 0)
def satOp (signed : Bool) (f : Int → Int → Int) (n a b _d : Nat) : Nat × Flags :=
  if signed then satTo true n (f (toSigned n a) (toSigned n b)) else satTo false n (f a b)
/-- VDIV and VREM: the rules of R110 at width n. -/
def vDiv (n a b _d : Nat) : Nat × Flags :=
  (if b = 0 then 2 ^ n - 1 else ofI n ((toSigned n a).tdiv (toSigned n b)), 0)
def vRem (n a b _d : Nat) : Nat × Flags :=
  (if b = 0 then a else ofI n ((toSigned n a).tmod (toSigned n b)), 0)

/-- The shape of VINT: op takes EW, a, b and the old element of vd; readsD: vd is a source (VMACC). -/
def vint (fn : Nat) (d a : BitVec 5) (b : VSrc) (msk : BitVec 4) (ca cb : Bool) (readsD : Bool)
    (op : Nat → Nat → Nat → Nat → Nat × Flags) (s : State) : Res :=
  vLocal (vWord (0xA8000000 + b.major + fn) d a b.field msk ca cb)
    (a.toNat :: b.regs ++ (if readsD then [d.toNat] else [])) (some d.toNat) true false
    (fun p => elemBody p d.toNat msk (fun s j =>
      op p.ew (vElem p.ew (s.vGroup p.cores a.toNat) j) (b.elem s p j) (vElem p.ew (s.vGroup p.cores d.toNat) j))) s

def execVaddVv (d a b : BitVec 5) (msk : BitVec 4) (ca cb : Bool) (s : State) : Res :=
  vint 0 d a (.reg b) msk ca cb false (uOp (fun a b => a + b)) s
def execVaddVs (d a b : BitVec 5) (msk : BitVec 4) (ca : Bool) (s : State) : Res :=
  vint 0 d a (.sca b) msk ca false false (uOp (fun a b => a + b)) s
def execVsubVv (d a b : BitVec 5) (msk : BitVec 4) (ca cb : Bool) (s : State) : Res :=
  vint 1 d a (.reg b) msk ca cb false (sOp (fun a b => a - b)) s
def execVsubVs (d a b : BitVec 5) (msk : BitVec 4) (ca : Bool) (s : State) : Res :=
  vint 1 d a (.sca b) msk ca false false (sOp (fun a b => a - b)) s
def execVrsubVv (d a b : BitVec 5) (msk : BitVec 4) (ca cb : Bool) (s : State) : Res :=
  vint 2 d a (.reg b) msk ca cb false (sOp (fun a b => b - a)) s
def execVrsubVs (d a b : BitVec 5) (msk : BitVec 4) (ca : Bool) (s : State) : Res :=
  vint 2 d a (.sca b) msk ca false false (sOp (fun a b => b - a)) s
def execVmulVv (d a b : BitVec 5) (msk : BitVec 4) (ca cb : Bool) (s : State) : Res :=
  vint 3 d a (.reg b) msk ca cb false (uOp (fun a b => a * b)) s
def execVmulVs (d a b : BitVec 5) (msk : BitVec 4) (ca : Bool) (s : State) : Res :=
  vint 3 d a (.sca b) msk ca false false (uOp (fun a b => a * b)) s
def execVmulhVv (d a b : BitVec 5) (msk : BitVec 4) (ca cb : Bool) (s : State) : Res :=
  vint 4 d a (.reg b) msk ca cb false (fun n a b _ => (ofI n (toSigned n a * toSigned n b / 2 ^ n), 0)) s
def execVmulhVs (d a b : BitVec 5) (msk : BitVec 4) (ca : Bool) (s : State) : Res :=
  vint 4 d a (.sca b) msk ca false false (fun n a b _ => (ofI n (toSigned n a * toSigned n b / 2 ^ n), 0)) s
def execVmulhuVv (d a b : BitVec 5) (msk : BitVec 4) (ca cb : Bool) (s : State) : Res :=
  vint 5 d a (.reg b) msk ca cb false (fun n a b _ => (a * b / 2 ^ n, 0)) s
def execVmulhuVs (d a b : BitVec 5) (msk : BitVec 4) (ca : Bool) (s : State) : Res :=
  vint 5 d a (.sca b) msk ca false false (fun n a b _ => (a * b / 2 ^ n, 0)) s
def execVminVv (d a b : BitVec 5) (msk : BitVec 4) (ca cb : Bool) (s : State) : Res :=
  vint 6 d a (.reg b) msk ca cb false (sOp min) s
def execVminVs (d a b : BitVec 5) (msk : BitVec 4) (ca : Bool) (s : State) : Res :=
  vint 6 d a (.sca b) msk ca false false (sOp min) s
def execVmaxVv (d a b : BitVec 5) (msk : BitVec 4) (ca cb : Bool) (s : State) : Res :=
  vint 7 d a (.reg b) msk ca cb false (sOp max) s
def execVmaxVs (d a b : BitVec 5) (msk : BitVec 4) (ca : Bool) (s : State) : Res :=
  vint 7 d a (.sca b) msk ca false false (sOp max) s
def execVminuVv (d a b : BitVec 5) (msk : BitVec 4) (ca cb : Bool) (s : State) : Res :=
  vint 8 d a (.reg b) msk ca cb false (uOp min) s
def execVminuVs (d a b : BitVec 5) (msk : BitVec 4) (ca : Bool) (s : State) : Res :=
  vint 8 d a (.sca b) msk ca false false (uOp min) s
def execVmaxuVv (d a b : BitVec 5) (msk : BitVec 4) (ca cb : Bool) (s : State) : Res :=
  vint 9 d a (.reg b) msk ca cb false (uOp max) s
def execVmaxuVs (d a b : BitVec 5) (msk : BitVec 4) (ca : Bool) (s : State) : Res :=
  vint 9 d a (.sca b) msk ca false false (uOp max) s
def execVandVv (d a b : BitVec 5) (msk : BitVec 4) (ca cb : Bool) (s : State) : Res :=
  vint 10 d a (.reg b) msk ca cb false (uOp (fun a b => a &&& b)) s
def execVandVs (d a b : BitVec 5) (msk : BitVec 4) (ca : Bool) (s : State) : Res :=
  vint 10 d a (.sca b) msk ca false false (uOp (fun a b => a &&& b)) s
def execVorVv (d a b : BitVec 5) (msk : BitVec 4) (ca cb : Bool) (s : State) : Res :=
  vint 11 d a (.reg b) msk ca cb false (uOp (fun a b => a ||| b)) s
def execVorVs (d a b : BitVec 5) (msk : BitVec 4) (ca : Bool) (s : State) : Res :=
  vint 11 d a (.sca b) msk ca false false (uOp (fun a b => a ||| b)) s
def execVxorVv (d a b : BitVec 5) (msk : BitVec 4) (ca cb : Bool) (s : State) : Res :=
  vint 12 d a (.reg b) msk ca cb false (uOp (fun a b => a ^^^ b)) s
def execVxorVs (d a b : BitVec 5) (msk : BitVec 4) (ca : Bool) (s : State) : Res :=
  vint 12 d a (.sca b) msk ca false false (uOp (fun a b => a ^^^ b)) s
def execVsllVv (d a b : BitVec 5) (msk : BitVec 4) (ca cb : Bool) (s : State) : Res :=
  vint 13 d a (.reg b) msk ca cb false (fun n a b _ => (a * 2 ^ (b % n), 0)) s
def execVsllVs (d a b : BitVec 5) (msk : BitVec 4) (ca : Bool) (s : State) : Res :=
  vint 13 d a (.sca b) msk ca false false (fun n a b _ => (a * 2 ^ (b % n), 0)) s
def execVsrlVv (d a b : BitVec 5) (msk : BitVec 4) (ca cb : Bool) (s : State) : Res :=
  vint 14 d a (.reg b) msk ca cb false (fun n a b _ => (a / 2 ^ (b % n), 0)) s
def execVsrlVs (d a b : BitVec 5) (msk : BitVec 4) (ca : Bool) (s : State) : Res :=
  vint 14 d a (.sca b) msk ca false false (fun n a b _ => (a / 2 ^ (b % n), 0)) s
def execVsraVv (d a b : BitVec 5) (msk : BitVec 4) (ca cb : Bool) (s : State) : Res :=
  vint 15 d a (.reg b) msk ca cb false (fun n a b _ => (ofI n (toSigned n a / 2 ^ (b % n)), 0)) s
def execVsraVs (d a b : BitVec 5) (msk : BitVec 4) (ca : Bool) (s : State) : Res :=
  vint 15 d a (.sca b) msk ca false false (fun n a b _ => (ofI n (toSigned n a / 2 ^ (b % n)), 0)) s
def execVaddsatVv (d a b : BitVec 5) (msk : BitVec 4) (ca cb : Bool) (s : State) : Res :=
  vint 16 d a (.reg b) msk ca cb false (satOp true (fun a b => a + b)) s
def execVaddsatVs (d a b : BitVec 5) (msk : BitVec 4) (ca : Bool) (s : State) : Res :=
  vint 16 d a (.sca b) msk ca false false (satOp true (fun a b => a + b)) s
def execVsubsatVv (d a b : BitVec 5) (msk : BitVec 4) (ca cb : Bool) (s : State) : Res :=
  vint 17 d a (.reg b) msk ca cb false (satOp true (fun a b => a - b)) s
def execVsubsatVs (d a b : BitVec 5) (msk : BitVec 4) (ca : Bool) (s : State) : Res :=
  vint 17 d a (.sca b) msk ca false false (satOp true (fun a b => a - b)) s
def execVaddsatuVv (d a b : BitVec 5) (msk : BitVec 4) (ca cb : Bool) (s : State) : Res :=
  vint 18 d a (.reg b) msk ca cb false (satOp false (fun a b => a + b)) s
def execVaddsatuVs (d a b : BitVec 5) (msk : BitVec 4) (ca : Bool) (s : State) : Res :=
  vint 18 d a (.sca b) msk ca false false (satOp false (fun a b => a + b)) s
def execVsubsatuVv (d a b : BitVec 5) (msk : BitVec 4) (ca cb : Bool) (s : State) : Res :=
  vint 19 d a (.reg b) msk ca cb false (satOp false (fun a b => a - b)) s
def execVsubsatuVs (d a b : BitVec 5) (msk : BitVec 4) (ca : Bool) (s : State) : Res :=
  vint 19 d a (.sca b) msk ca false false (satOp false (fun a b => a - b)) s
def execVabsdVv (d a b : BitVec 5) (msk : BitVec 4) (ca cb : Bool) (s : State) : Res :=
  vint 20 d a (.reg b) msk ca cb false (fun n a b _ => ((toSigned n a - toSigned n b).natAbs, 0)) s
def execVabsdVs (d a b : BitVec 5) (msk : BitVec 4) (ca : Bool) (s : State) : Res :=
  vint 20 d a (.sca b) msk ca false false (fun n a b _ => ((toSigned n a - toSigned n b).natAbs, 0)) s
def execVmaccVv (d a b : BitVec 5) (msk : BitVec 4) (ca cb : Bool) (s : State) : Res :=
  vint 21 d a (.reg b) msk ca cb true (fun _ a b d => (d + a * b, 0)) s
def execVmaccVs (d a b : BitVec 5) (msk : BitVec 4) (ca : Bool) (s : State) : Res :=
  vint 21 d a (.sca b) msk ca false true (fun _ a b d => (d + a * b, 0)) s
def execVdivVv (d a b : BitVec 5) (msk : BitVec 4) (ca cb : Bool) (s : State) : Res :=
  vint 22 d a (.reg b) msk ca cb false vDiv s
def execVdivVs (d a b : BitVec 5) (msk : BitVec 4) (ca : Bool) (s : State) : Res :=
  vint 22 d a (.sca b) msk ca false false vDiv s
def execVremVv (d a b : BitVec 5) (msk : BitVec 4) (ca cb : Bool) (s : State) : Res :=
  vint 23 d a (.reg b) msk ca cb false vRem s
def execVremVs (d a b : BitVec 5) (msk : BitVec 4) (ca : Bool) (s : State) : Res :=
  vint 23 d a (.sca b) msk ca false false vRem s

end Sys2Proof.Machine
end

