-- ==== Sys2Proof/Machine/Vl.lean ====
section
/-! DEFINITION. SETVL and its yield (R159, R160, R192), and SETD (R161). -/

namespace Sys2Proof.Machine

/-! ## The yield check -/

/-- How an operation over several cores ends. -/
inductive EachEnd where
  | ok (s : State)
  | trap (c : Nat) (t : Trap) (s : State)
  | wait (s : State)

def State.each (f : State → Nat → Acc Unit) : List Nat → State → EachEnd
  | [], s => .ok s
  | c :: l, s => match f s c with
    | .ok _ s => State.each f l s
    | .trap t s => .trap c t s
    | .wait s => .wait s

/-- Member c's trap leaves the SETVL done: TEPC is PC + 4, and the other members go on without a yield (R192, R386). -/
def State.yieldFails (s : State) (cores : List Nat) (c : Nat) (t : Trap) : State :=
  (s.stepAll (cores.filter (· != c))).takeTrap c { t with tepc := some ((s.coreAt c).pc + 4) }

/-- The yield waits: its SETVL stands if a pre-emption abandons the wait (R239, R386). -/
def State.yieldWait (s : State) (cores : List Nat) : State :=
  cores.foldl (fun s c => s.updCore c ({ · with hold := .yielding })) s

/-- The yield: a pending engine fault is reported instead (R204); bindings, spills, then every member leaves (R160). -/
def State.yieldNow (s : State) (cores : List Nat) : Res :=
  match cores.findSome? (fun c => (s.coreAt c).pendingFault.map (fun t => (c, t))) with
  | some (c, t) => .next ((s.stepAll (cores.filter (· != c))).report c t (some ((s.coreAt c).pc + 4)))
  | none =>
    match State.each State.leaveBinds cores s with
    | .trap c t s => .next (s.yieldFails cores c t)
    | .wait s => .next (s.yieldWait cores)
    | .ok s =>
      match State.each (fun s c => s.spill c true) cores s with
      | .trap c t s => .next (s.yieldFails cores c t)
      | .wait s => .next (s.yieldWait cores)
      | .ok s => .next (cores.foldl (fun s c => s.leave c 5 0 ((s.coreAt c).pc + 4) .none true) s)

/-- The check of a SETVL with y = 1, made once for a gang (R160, R192); with INH = 1 there is none (R323). -/
def State.yieldCheck (s : State) (cores : List Nat) : Res :=
  let open_ (c : Nat) : Bool := !(s.coreAt c).s.inh
  let dead := cores.filter (fun c => open_ c && (s.coreAt c).kill.isSome)
  if dead ≠ [] then
    .next (dead.foldl (fun s c => s.killLeave c ((s.killSignalled c).getD 2)) (s.stepAll cores))
  else if cores.any (fun c => (s.coreAt c).s.pend)
      && cores.all (fun c => open_ c && !(s.wispAt (s.wispKey c)).pinned) then s.yieldNow cores
  else .next (s.stepAll cores)

/-! ## SETVL -/

/-- The common effect: vl gives VL from the leader's core and VLMAX. -/
def setVl (w : BitVec 32) (d : BitVec 5) (vt : BitVec 8) (y : Bool) (vl : Core → Nat → Nat) (s : State) : Res :=
  if !vtypeLegal vt.toNat then .next (s.trap (illegal w))
  else collective w s (fun cores s =>
    let vlmax := cores.length * 2048 / (8 * 2 ^ (vt.toNat % 4))
    let n := vl (s.coreAt (cores.headD s.cur)) vlmax
    let s := cores.foldl (fun s c => s.updCore c (fun x =>
      (x.updU (fun u => { u with vtype := vt, vl := BitVec.ofNat 16 n, vstart := 0 })).gWrite d.toNat (BitVec.ofNat 64 n))) s
    if y then s.yieldCheck cores else .next (s.stepAll cores))

def setvlWord (mode : Nat) (d a : BitVec 5) (vt : BitVec 8) (y : Bool) : BitVec 32 :=
  BitVec.ofNat 32 (0xA0000000 + d.toNat * 2097152 + a.toNat * 65536 + vt.toNat * 256 + y.toNat * 128 + mode * 16)

def execSetvl (d a : BitVec 5) (vtype : BitVec 8) (y : Bool) (s : State) : Res :=
  setVl (setvlWord 0 d a vtype y) d vtype y (fun x m => min (x.gRead a.toNat).toNat m) s
def execSetvlMax (d : BitVec 5) (vtype : BitVec 8) (y : Bool) (s : State) : Res :=
  setVl (setvlWord 1 d 0 vtype y) d vtype y (fun _ m => m) s
def execSetvlType (d : BitVec 5) (vtype : BitVec 8) (y : Bool) (s : State) : Res :=
  setVl (setvlWord 2 d 0 vtype y) d vtype y (fun x m => min x.u.vl.toNat m) s

/-- SETD: DN[d] and DS[d]; a count above 65,535 traps 0x01. -/
def execSetd (a b : BitVec 5) (dim : BitVec 2) (s : State) : Res :=
  let n := s.rg a
  if 65535 < n.toNat then .next (s.trap (illegal (rrWord 0xA4000000 0 a b dim.toNat)))
  else .next (s.updMe (·.updU (fun u => { u with
    dn := Store.set 0 u.dn dim.toNat (n.setWidth 16), ds := Store.set 0 u.ds dim.toNat (s.rg b) }))).nextPc

end Sys2Proof.Machine
end

