-- ==== Sys2Proof/Machine/Vmask.lean ====
section
/-! DEFINITION. VCMP (R167), VMASK (R168, R169), VIOTA (R170) and VCVT (R147, R171). -/

namespace Sys2Proof.Machine

/-! ## VCMP -/

/-- A compare of two elements: FMT, FZ, bias and width from VTYPE and FCTL. -/
abbrev CmpOp := UReg → Nat → Nat → Bool × Flags

/-- The value of a float or m8 element. -/
def UReg.fval (u : UReg) (code : Nat) : FVal :=
  match u.float with
  | some f => f.decode (f.flush u.fz code)
  | none => m8Decode u.mbias code

/-- Every bit of [VSTART, VL) is written: the result where active, 0 where masked off. -/
def cmpBody (p : Span) (u : UReg) (d : BitVec 4) (a : BitVec 5) (b : VSrc) (msk : BitVec 4) (op : CmpOp) (hi : Nat)
    (s : State) : VOut :=
  let act := s.active p msk
  let res := (p.to hi).map (fun j =>
    if act j then (j, op u (vElem p.ew (s.vGroup p.cores a.toNat) j) (b.elem s p j)) else (j, (false, 0)))
  { s := (s.kPut p d.toNat (res.map (fun e => (e.1, e.2.1)))).raiseAll p (unionFlags (res.map Prod.snd)), upto := hi }

def vcmp (fn : Nat) (d : BitVec 4) (a : BitVec 5) (b : VSrc) (msk : BitVec 4) (ca cb isFloat : Bool) (op : CmpOp)
    (s : State) : Res :=
  let u := s.me.u
  let sca := match b with | .reg _ => 0 | .sca _ => 16
  vLocal (vWord (0xB8000000 + sca + fn) (d.setWidth 5) a b.field msk ca cb) (a.toNat :: b.regs) none true
    (isFloat && decide (u.fmt < 2)) (fun p => cmpBody p u d a b msk op) s

/-- The comparisons of EW-bit patterns, signed and unsigned: FZ flushes nothing of them (DESIGN CHOICE, log 47: R167 says both as
EW-bit patterns, and that R148 applies to IEEE and bf16 sources). -/
def cmpS (f : Int → Int → Bool) : CmpOp := fun u a b => (f (toSigned u.ewBits a) (toSigned u.ewBits b), 0)
def cmpU (f : Nat → Nat → Bool) : CmpOp := fun _ a b => (f a b, 0)
/-- quiet: only a signalling NaN sets NV; otherwise any unordered pair does. -/
def cmpF (quiet : Bool) (f : FVal → FVal → Bool) : CmpOp := fun u a b =>
  let x := u.fval a
  let y := u.fval b
  (f x y, if (if quiet then x.isSig || y.isSig else x.isNan || y.isNan) then fNV else 0)

def execVcmpeqVv (d : BitVec 4) (a b : BitVec 5) (msk : BitVec 4) (ca cb : Bool) (s : State) : Res :=
  vcmp 0 d a (.reg b) msk ca cb false (cmpU (fun a b => a == b)) s
def execVcmpeqVs (d : BitVec 4) (a b : BitVec 5) (msk : BitVec 4) (ca : Bool) (s : State) : Res :=
  vcmp 0 d a (.sca b) msk ca false false (cmpU (fun a b => a == b)) s
def execVcmpneVv (d : BitVec 4) (a b : BitVec 5) (msk : BitVec 4) (ca cb : Bool) (s : State) : Res :=
  vcmp 1 d a (.reg b) msk ca cb false (cmpU (fun a b => a != b)) s
def execVcmpneVs (d : BitVec 4) (a b : BitVec 5) (msk : BitVec 4) (ca : Bool) (s : State) : Res :=
  vcmp 1 d a (.sca b) msk ca false false (cmpU (fun a b => a != b)) s
def execVcmpltVv (d : BitVec 4) (a b : BitVec 5) (msk : BitVec 4) (ca cb : Bool) (s : State) : Res :=
  vcmp 2 d a (.reg b) msk ca cb false (cmpS (fun a b => decide (a < b))) s
def execVcmpltVs (d : BitVec 4) (a b : BitVec 5) (msk : BitVec 4) (ca : Bool) (s : State) : Res :=
  vcmp 2 d a (.sca b) msk ca false false (cmpS (fun a b => decide (a < b))) s
def execVcmpgeVv (d : BitVec 4) (a b : BitVec 5) (msk : BitVec 4) (ca cb : Bool) (s : State) : Res :=
  vcmp 3 d a (.reg b) msk ca cb false (cmpS (fun a b => decide (b ≤ a))) s
def execVcmpgeVs (d : BitVec 4) (a b : BitVec 5) (msk : BitVec 4) (ca : Bool) (s : State) : Res :=
  vcmp 3 d a (.sca b) msk ca false false (cmpS (fun a b => decide (b ≤ a))) s
def execVcmpltuVv (d : BitVec 4) (a b : BitVec 5) (msk : BitVec 4) (ca cb : Bool) (s : State) : Res :=
  vcmp 4 d a (.reg b) msk ca cb false (cmpU (fun a b => decide (a < b))) s
def execVcmpltuVs (d : BitVec 4) (a b : BitVec 5) (msk : BitVec 4) (ca : Bool) (s : State) : Res :=
  vcmp 4 d a (.sca b) msk ca false false (cmpU (fun a b => decide (a < b))) s
def execVcmpgeuVv (d : BitVec 4) (a b : BitVec 5) (msk : BitVec 4) (ca cb : Bool) (s : State) : Res :=
  vcmp 5 d a (.reg b) msk ca cb false (cmpU (fun a b => decide (b ≤ a))) s
def execVcmpgeuVs (d : BitVec 4) (a b : BitVec 5) (msk : BitVec 4) (ca : Bool) (s : State) : Res :=
  vcmp 5 d a (.sca b) msk ca false false (cmpU (fun a b => decide (b ≤ a))) s
def execVcmpfeqVv (d : BitVec 4) (a b : BitVec 5) (msk : BitVec 4) (ca cb : Bool) (s : State) : Res :=
  vcmp 6 d a (.reg b) msk ca cb true (cmpF true (fun x y => x.eqv y)) s
def execVcmpfeqVs (d : BitVec 4) (a b : BitVec 5) (msk : BitVec 4) (ca : Bool) (s : State) : Res :=
  vcmp 6 d a (.sca b) msk ca false true (cmpF true (fun x y => x.eqv y)) s
def execVcmpfltVv (d : BitVec 4) (a b : BitVec 5) (msk : BitVec 4) (ca cb : Bool) (s : State) : Res :=
  vcmp 7 d a (.reg b) msk ca cb true (cmpF false (fun x y => !x.isNan && !y.isNan && x.lt y)) s
def execVcmpfltVs (d : BitVec 4) (a b : BitVec 5) (msk : BitVec 4) (ca : Bool) (s : State) : Res :=
  vcmp 7 d a (.sca b) msk ca false true (cmpF false (fun x y => !x.isNan && !y.isNan && x.lt y)) s
def execVcmpfleVv (d : BitVec 4) (a b : BitVec 5) (msk : BitVec 4) (ca cb : Bool) (s : State) : Res :=
  vcmp 8 d a (.reg b) msk ca cb true (cmpF false (fun x y => !x.isNan && !y.isNan && !y.lt x)) s
def execVcmpfleVs (d : BitVec 4) (a b : BitVec 5) (msk : BitVec 4) (ca : Bool) (s : State) : Res :=
  vcmp 8 d a (.sca b) msk ca false true (cmpF false (fun x y => !x.isNan && !y.isNan && !y.lt x)) s
def execVcmpfunoVv (d : BitVec 4) (a b : BitVec 5) (msk : BitVec 4) (ca cb : Bool) (s : State) : Res :=
  vcmp 9 d a (.reg b) msk ca cb true (cmpF true (fun x y => x.isNan || y.isNan)) s
def execVcmpfunoVs (d : BitVec 4) (a b : BitVec 5) (msk : BitVec 4) (ca : Bool) (s : State) : Res :=
  vcmp 9 d a (.sca b) msk ca false true (cmpF true (fun x y => x.isNan || y.isNan)) s

/-! ## VMASK -/

/-- Bits of the span written to kd from the bits of one or two masks: f is given the position and both sources. -/
def maskBody (p : Span) (d a b : BitVec 5) (f : (Nat → Bool) → (Nat → Bool) → Nat → Bool) (hi : Nat) (s : State) : VOut :=
  let x := kBit p.m (s.kGroup p.cores a.toNat)
  let y := kBit p.m (s.kGroup p.cores b.toNat)
  { s := s.kPut p d.toNat ((p.to hi).map (fun j => (j, f x y j))), upto := hi }
def kOp (d a b : BitVec 5) (f : (Nat → Bool) → (Nat → Bool) → Nat → Bool) (s : State) : Res :=
  vLocal 0 [] none true false (fun p => maskBody p d a b f) s

def execKand (d a b : BitVec 5) (_ca _cb : Bool) (s : State) : Res := kOp d a b (fun x y j => x j && y j) s
def execKor (d a b : BitVec 5) (_ca _cb : Bool) (s : State) : Res := kOp d a b (fun x y j => x j || y j) s
def execKxor (d a b : BitVec 5) (_ca _cb : Bool) (s : State) : Res := kOp d a b (fun x y j => x j != y j) s
def execKandn (d a b : BitVec 5) (_ca _cb : Bool) (s : State) : Res := kOp d a b (fun x y j => x j && !y j) s
def execKnot (d a : BitVec 5) (_ca : Bool) (s : State) : Res := kOp d a 0 (fun x _ j => !x j) s
def execKmov (d a : BitVec 5) (_ca : Bool) (s : State) : Res := kOp d a 0 (fun x _ j => x j) s
/-- Computed from the member's own bit 0 on. -/
def execKprefix (d a : BitVec 5) (_ca : Bool) (s : State) : Res := kOp d a 0 (fun x _ j => (List.range (j + 1)).any x) s
def execKsbf (d a : BitVec 5) (_ca : Bool) (s : State) : Res := kOp d a 0 (fun x _ j => !(List.range (j + 1)).any x) s

/-- A VMASK instruction that only the core's own registers take part in. -/
def kLocal (f : Core → Core) (s : State) : Res := .next (s.updMe (fun x => (f x).updU ({ · with vstart := 0 }))).nextPc
def kpopAll (k : KReg) : Nat := ((List.range 256).filter (fun i => k.getLsbD i)).length
def execKpop (d a : BitVec 5) (_ca : Bool) (s : State) : Res :=
  kLocal (fun x => x.gWrite d.toNat (BitVec.ofNat 64 (kpopAll (x.kRead a.toNat)))) s
/-- Bits [64q + 63 : 64q] of a mask. -/
def kPart (k : KReg) (q : Nat) : Word := k.extractLsb' (64 * q) 64
def kPartSet (k : KReg) (q : Nat) (v : Word) : KReg :=
  let m : KReg := BitVec.ofNat 256 ((2 ^ 64 - 1) * 2 ^ (64 * q))
  (k &&& ~~~ m) ||| BitVec.ofNat 256 (v.toNat * 2 ^ (64 * q))
def execKfromg (d a b : BitVec 5) (s : State) : Res :=
  kLocal (fun x => x.kWrite d.toNat (kPartSet (x.kRead d.toNat) ((x.gRead b.toNat).toNat % 4) (x.gRead a.toNat))) s
def execKtog (d a b : BitVec 5) (_ca : Bool) (s : State) : Res :=
  kLocal (fun x => x.gWrite d.toNat (kPart (x.kRead a.toNat) ((x.gRead b.toNat).toNat % 4))) s

/-- A count over bits 0 to VL - 1 of a mask, whatever VSTART is. -/
def kCount (w : BitVec 32) (d a : BitVec 5) (f : List Nat → Word) (s : State) : Res :=
  vAll w [] none true (fun _ => false) (fun p hi s =>
    let x := kBit p.m (s.kGroup p.cores a.toNat)
    { s := s.gAll p d (f ((List.range p.hi).filter x)), upto := hi }) s
def execKpopvl (d a : BitVec 5) (ca : Bool) (s : State) : Res :=
  kCount (vWord 0xBC000007 d a 0 0 ca false) d a (fun l => BitVec.ofNat 64 l.length) s
def execKfirst (d a : BitVec 5) (ca : Bool) (s : State) : Res :=
  kCount (vWord 0xBC000008 d a 0 0 ca false) d a (fun l => match l with
    | i :: _ => BitVec.ofNat 64 i
    | [] => BitVec.allOnes 64) s

/-! ## VIOTA -/

/-- An exact integer in the format of VTYPE (R170). -/
def UReg.ofExact (u : UReg) (t : Int) : Nat × Flags :=
  match u.float with
  | some f => f.round u.fz u.rm (ofInt false t 0)
  | none => if u.fmt = 4 then roundM8 u.mbias (ofInt false t 0) else (ofI u.ewBits t, 0)

def viotaWord (d : BitVec 5) (msk : BitVec 4) (start : BitVec 9) (incr : BitVec 8) : BitVec 32 :=
  BitVec.ofNat 32 (0xCC000000 + d.toNat * 2097152 + msk.toNat * 131072 + start.toNat * 256 + incr.toNat)
def execViota (d : BitVec 5) (msk : BitVec 4) (start : BitVec 9) (incr : BitVec 8) (s : State) : Res :=
  let u := s.me.u
  vLocal (viotaWord d msk start incr) [] (some d.toNat) true (u.float.isSome && decide (5 ≤ u.rm))
    (fun p => elemBody p d.toNat msk (fun _ j => u.ofExact (start.toInt + (p.off + j : Nat) * incr.toInt))) s

/-! ## VCVT -/

/-- A format of R138, as VCVT names it. -/
inductive Fmt where
  | int (signed : Bool) (n : Nat)
  | flt (f : FFmt)
  | m8
deriving DecidableEq, Repr

def Fmt.width : Fmt → Nat
  | .int _ n => n
  | .flt f => f.width
  | .m8 => 8
/-- The destination format that func names (R64). -/
def cvtFmt (n : Nat) : Fmt :=
  if n < 4 then .int true (8 * 2 ^ n)
  else if n < 8 then .int false (8 * 2 ^ (n - 4))
  else match n with
    | 8 => .flt f16
    | 9 => .flt bf16
    | 10 => .flt f32
    | 11 => .flt f64
    | _ => .m8
def UReg.srcFmt (u : UReg) : Fmt :=
  match u.float with
  | some f => .flt f
  | none => if u.fmt = 4 then .m8 else .int (u.fmt == 0) u.ewBits
def Fmt.isInt : Fmt → Bool
  | .int _ _ => true
  | _ => false

/-- One conversion (R147). -/
def convert (u : UReg) (src dst : Fmt) (code : Nat) : Nat × Flags :=
  let x : FVal := match src with
    | .int sg n => ofInt false (if sg then toSigned n code else (code : Int)) 0
    | .flt f => f.decode (f.flush u.fz code)
    | .m8 => m8Decode u.mbias code
  match src, dst with
  | .m8, .m8 => (code, 0)
  | .int sg n, .int sg' n' => clampInt sg' n' (if sg then toSigned n code else (code : Int))
  | _, .int sg' n' => toInt u.rm sg' n' x
  | _, .flt f => f.round u.fz u.rm x
  | _, .m8 => roundM8 u.mbias x

/-- Result j goes to a register and a place in it (R171). -/
def cvtPlace (es ed d p j : Nat) : Nat × Nat :=
  if es ≤ ed then (d + j / (2048 / ed), j % (2048 / ed)) else (d, p * (2048 / es) + j)

def cvtBody (p : Span) (u : UReg) (dst : Fmt) (d a part : BitVec 5) (msk : BitVec 4) (hi : Nat) (s : State) : VOut :=
  let act := s.active p msk
  let src := s.vGroup p.cores a.toNat
  let res := ((p.to hi).filter act).map (fun j => (j, convert u u.srcFmt dst (vElem p.ew src j)))
  let s := res.foldl (fun s e =>
    let pl := cvtPlace p.ew dst.width d.toNat part.toNat e.1
    p.cores.foldl (fun s c => s.updCore c (fun x => x.vWrite pl.1 (regSet dst.width (x.vRead pl.1) pl.2 e.2.1))) s) s
  { s := s.raiseAll p (unionFlags (res.map Prod.snd)), upto := hi }

def execVcvt (d a part : BitVec 5) (msk : BitVec 4) (ca : Bool) (fmt : BitVec 5) (s : State) : Res :=
  let u := s.me.u
  let dst := cvtFmt fmt.toNat
  let es := u.ewBits
  let ed := dst.width
  let group := (List.range (max 1 (ed / es))).map (d.toNat + ·)
  let rmBad := decide (5 ≤ u.rm) && !(dst == .m8 || (dst.isInt && u.srcFmt.isInt))
  let bad := rmBad || (if ed < es then decide (es / ed ≤ part.toNat) else part != 0 || d.toNat % (ed / es) != 0)
    || (a.toNat :: group).any (fun r => (s.me.bindOf r).isSome)
  vLocal (vWord (0xC4000000 + fmt.toNat) d a part msk ca false) [] none true bad (fun p => cvtBody p u dst d a part msk) s

end Sys2Proof.Machine
end

