-- ==== Sys2Proof/Machine/Vmem.lean ====
section
/-! DEFINITION. VLOAD and VSTORE (R172 to R183): element accesses in ascending position order, the fault-only-first loads,
masks in memory, and the typed buffers as vectors see them. -/

namespace Sys2Proof.Machine

/-! ## One element -/

def State.supAt (s : State) (c : Nat) : Bool := (s.coreAt c).sup
/-- The element's cause 0x03, and any other from R90 (R172). -/
def State.elemRead (s : State) (c a n : Nat) : Acc Nat :=
  if a % n ≠ 0 then .trap (misaligned (BitVec.ofNat 64 a)) s
  else (s.xlat c a .read false (s.supAt c)).bind fun t s => s.loadAt c a t n
def State.elemWrite (s : State) (c a n v : Nat) : Acc Unit :=
  if a % n ≠ 0 then .trap (misaligned (BitVec.ofNat 64 a)) s
  else (s.xlat c a .write false (s.supAt c)).bind fun t s => s.storeAt c a t n v

/-! ## Runs of elements -/

/-- Where a run stopped. -/
inductive RunEnd where
  | all
  | wait (j : Nat)
  | fault (j : Nat) (t : Trap)
deriving DecidableEq, Repr

/-- Loads the positions of the list in order; get is given the position. -/
def loadRun (get : State → Nat → Acc Nat) : List Nat → State → List (Nat × Nat) → List (Nat × Nat) × RunEnd × State
  | [], s, r => (r, .all, s)
  | j :: l, s, r => match get s j with
    | .ok v s => loadRun get l s (r ++ [(j, v)])
    | .trap t s => (r, .fault j t, s)
    | .wait s => (r, .wait j, s)
def storeRun (put : State → Nat → Acc Unit) : List Nat → State → RunEnd × State
  | [], s => (.all, s)
  | j :: l, s => match put s j with
    | .ok _ s => storeRun put l s
    | .trap t s => (.fault j t, s)
    | .wait s => (.wait j, s)

/-- R174: everything below the position where the run stopped is done. dix gives DIX of a position, where the instruction
writes it. -/
def runOut (p : Span) (hi : Nat) (dix : Option (Nat → BitVec 48)) (e : RunEnd) (s : State) : VOut :=
  match e with
  | .all => { s := s, upto := hi }
  | .wait j => { s := s, upto := j, stop := .wait }
  | .fault j t => { s := s, upto := j, stop := .trap (p.core j) t, dix := dix.map (fun f => f j) }

/-- Trap 0x07 with the fault record of the element's own cause (R91, R175). -/
def ffTrap (s : State) (c : Nat) (t : Trap) : Trap :=
  let x := s.coreAt c
  { t with
    cause := 7
    frec := some (t.frec.getD (faultRecord t.tval.toNat .read x.sup x.s.asn.toNat ⟨3, 0, none, none⟩)) }

/-- Addresses and counts of the accesses of one instruction: the address of a position, the positions beside the mask's
choice that it treats as masked off, and DIX. -/
structure VAddr where
  addr : Nat → Nat
  inside : Nat → Bool := fun _ => true
  dix : Option (Nat → BitVec 48) := none

/-- A load of the active positions; ff: R175. -/
def loadBody (p : Span) (t : BitVec 5) (msk : BitVec 4) (ff : Bool) (va : State → VAddr) (hi : Nat) (s : State) : VOut :=
  let m := va s
  let act := s.active p msk
  let l := (p.to hi).filter (fun j => act j && m.inside j)
  let (r, e, s) := loadRun (fun s j => s.elemRead (p.core j) (m.addr j) (p.ew / 8)) l s []
  let done (s : State) : State := s.vPut p t.toNat r
  match ff, e with
  | true, .wait j => { s := s, upto := j, stop := .retry }
  | true, .fault j tr =>
    if l.head? = some j then
      if tr.cause = 0x0E then runOut p hi m.dix e s
      else { s := s, upto := j, stop := .abort (p.core j) (ffTrap s (p.core j) tr), dix := m.dix.map (fun f => f j) }
    else { s := done s, upto := j, stop := .trunc, dix := m.dix.map (fun f => f j) }
  | _, e => runOut p hi m.dix e (done s)

def storeBody (p : Span) (t : BitVec 5) (msk : BitVec 4) (va : State → VAddr) (hi : Nat) (s : State) : VOut :=
  let m := va s
  let act := s.active p msk
  let x := vElem p.ew (s.vGroup p.cores t.toNat)
  let l := (p.to hi).filter (fun j => act j && m.inside j)
  let (e, s) := storeRun (fun s j => s.elemWrite (p.core j) (m.addr j) (p.ew / 8) (x j)) l s
  runOut p hi m.dix e s

/-! ## Addresses (R178) -/

def wrap64 (a : Int) : Nat := (a % 2 ^ 64).toNat
def State.base (s : State) (p : Span) (b : BitVec 5) : Nat := ((s.lead p).gRead b.toNat).toNat
def unitAddr (p : Span) (b : BitVec 5) (s : State) : VAddr :=
  { addr := fun j => wrap64 (s.base p b + (j * (p.ew / 8) : Nat)) }
def strideAddr (p : Span) (b x : BitVec 5) (s : State) : VAddr :=
  { addr := fun j => wrap64 (s.base p b + j * ((s.lead p).gRead x.toNat).toInt) }
def indexAddr (p : Span) (b x : BitVec 5) (s : State) : VAddr :=
  let ix := vElem p.ew (s.vGroup p.cores x.toNat)
  { addr := fun j => wrap64 (s.base p b + toSigned p.ew (ix j) * (p.ew / 8 : Nat)) }
/-- VLDN and VSTN: position j = d0 + DN0 * (d1 + DN1 * d2); those from P on are treated as masked off. -/
def dimAddr (p : Span) (b : BitVec 5) (s : State) : VAddr :=
  let u := (s.lead p).u
  let dn (i : Nat) : Nat := (Store.get (0 : BitVec 16) u.dn i).toNat
  let ds (i : Nat) : Int := (Store.get (0 : Word) u.ds i).toInt
  let d (j : Nat) : Nat × Nat × Nat := (j % dn 0, j / dn 0 % dn 1, j / dn 0 / dn 1)
  { addr := fun j => wrap64 (s.base p b + (d j).1 * ds 0 + (d j).2.1 * ds 1 + (d j).2.2 * ds 2)
    inside := fun j => decide (j < dn 0 * dn 1 * dn 2)
    dix := some (fun j => BitVec.ofNat 48 ((d j).1 + (d j).2.1 * 2 ^ 16 + (d j).2.2 * 2 ^ 32)) }

/-! ## VLD, VLDS, VLDX, VLDN, VST, VSTS, VSTX, VSTN -/

def memWord (base : Nat) (t b x : BitVec 5) (msk : BitVec 4) (ff c : Bool) : BitVec 32 := vWord base t b x msk ff c
def vload (w : BitVec 32) (t : BitVec 5) (msk : BitVec 4) (ff : Bool) (srcs : List Nat)
    (va : Span → State → VAddr) (s : State) : Res :=
  vAll w srcs (some t.toNat) (!ff) (fun _ => false) (fun p => loadBody p t msk ff (va p)) s ff
def vstore (w : BitVec 32) (t : BitVec 5) (msk : BitVec 4) (srcs : List Nat) (va : Span → State → VAddr) (s : State) : Res :=
  vAll w (t.toNat :: srcs) none true (fun _ => false) (fun p => storeBody p t msk (va p)) s

def execVld (t b : BitVec 5) (msk : BitVec 4) (ff : Bool) (s : State) : Res :=
  vload (memWord 0xD0000000 t b 0 msk ff false) t msk ff [] (fun p => unitAddr p b) s
def execVlds (t b x : BitVec 5) (msk : BitVec 4) (ff : Bool) (s : State) : Res :=
  vload (memWord 0xD0000001 t b x msk ff false) t msk ff [] (fun p => strideAddr p b x) s
def execVldx (t b x : BitVec 5) (msk : BitVec 4) (ff c : Bool) (s : State) : Res :=
  vload (memWord 0xD0000002 t b x msk ff c) t msk ff [x.toNat] (fun p => indexAddr p b x) s
def execVldn (t b : BitVec 5) (msk : BitVec 4) (ff : Bool) (s : State) : Res :=
  vload (memWord 0xD0000003 t b 0 msk ff false) t msk ff [] (fun p => dimAddr p b) s
def execVst (t b : BitVec 5) (msk : BitVec 4) (c : Bool) (s : State) : Res :=
  vstore (memWord 0xD4000000 t b 0 msk false c) t msk [] (fun p => unitAddr p b) s
def execVsts (t b x : BitVec 5) (msk : BitVec 4) (c : Bool) (s : State) : Res :=
  vstore (memWord 0xD4000001 t b x msk false c) t msk [] (fun p => strideAddr p b x) s
def execVstx (t b x : BitVec 5) (msk : BitVec 4) (c : Bool) (s : State) : Res :=
  vstore (memWord 0xD4000002 t b x msk false c) t msk [x.toNat] (fun p => indexAddr p b x) s
def execVstn (t b : BitVec 5) (msk : BitVec 4) (c : Bool) (s : State) : Res :=
  vstore (memWord 0xD4000003 t b 0 msk false c) t msk [] (fun p => dimAddr p b) s

/-! ## VLDB (R180) -/

/-- One access, when a position is active: by the member of the lowest active one; a fault leaves VSTART unchanged. -/
def bcastBody (p : Span) (t b : BitVec 5) (msk : BitVec 4) (hi : Nat) (s : State) : VOut :=
  let l := (p.to hi).filter (s.active p msk)
  match l with
  | [] => { s := s, upto := hi }
  | j :: _ =>
    match s.elemRead (p.core j) (s.base p b) (p.ew / 8) with
    | .ok v s => { s := s.vPut p t.toNat (l.map (fun i => (i, v))), upto := hi }
    | .trap tr s => { s := s, upto := p.lo, stop := .abort (p.core j) tr }
    | .wait s => { s := s, upto := p.lo, stop := .retry }
def execVldb (t b : BitVec 5) (msk : BitVec 4) (s : State) : Res :=
  vAll (memWord 0xD0000005 t b 0 msk false false) [] (some t.toNat) false (fun _ => false) (fun p => bcastBody p t b msk) s

/-! ## VLDK and VSTK (R179) -/

/-- The bytes that hold positions VSTART to VL - 1, by number. -/
def Span.bytes (p : Span) : List Nat :=
  if p.lo < p.hi then (List.range ((p.hi - 1) / 8 + 1 - p.lo / 8)).map (· + p.lo / 8) else []
/-- Byte q of a mask. -/
def maskByte (x : Nat → Bool) (q : Nat) : Nat := (List.range 8).foldl (fun n i => n + (x (8 * q + i)).toNat * 2 ^ i) 0
def byteOut (p : Span) (hi : Nat) (e : RunEnd) (s : State) : VOut :=
  match e with
  | .all => { s := s, upto := hi }
  | .wait q => { s := s, upto := max p.lo (8 * q), stop := .wait }
  | .fault q t => { s := s, upto := max p.lo (8 * q), stop := .trap (p.core (8 * q)) t }

def execVldk (t b : BitVec 5) (s : State) : Res :=
  vAll (memWord 0xD0000004 t b 0 0 false false) [] none true (fun _ => false)
    (fun p hi s =>
      let base := s.base p b
      let (r, e, s) := loadRun (fun s q => s.elemRead (p.core (8 * q)) ((base + q) % 2 ^ 64) 1) p.bytes s []
      let new := r.flatMap (fun v => ((List.range 8).map (fun i => (8 * v.1 + i, v.2.testBit i))).filter
        (fun z => decide (p.lo ≤ z.1 ∧ z.1 < p.hi)))
      byteOut p hi e (s.kPut p t.toNat new)) s
def execVstk (t b : BitVec 5) (s : State) : Res :=
  vAll (memWord 0xD4000004 t b 0 0 false false) [] none true (fun _ => false)
    (fun p hi s =>
      let base := s.base p b
      let x := kBit p.m (s.kGroup p.cores t.toNat)
      let (e, s) := storeRun (fun s q => s.elemWrite (p.core (8 * q)) ((base + q) % 2 ^ 64) 1 (maskByte x q)) p.bytes s
      byteOut p hi e s) s

/-! ## VLDT and VSTT (R182, R183) -/

/-- The checks of R182: KIND of the element fault, if one fails. -/
def State.typedBad (s : State) (c t off n : Nat) (load : Bool) : Option Nat :=
  if 0x40000 ≤ off ∨ off % n ≠ 0 ∨ t / 2 ^ 20 ≠ 0 then some 9
  else
    let target := clusterOf c * 4 + bits t 19 18
    if load then (if target ≠ c then some 10 else none) else if s.coreLive target then none else some 11

/-- Cause 0x05 with the space in bits [21:20] of TVAL and FDVA. -/
def State.typedFault (s : State) (c t off space kind : Nat) (k : AKind) : Trap :=
  let x := s.coreAt c
  let a := (t / 2 ^ 18 * 2 ^ 18 + off) % 2 ^ 64
  let v := a - bits a 21 20 * 2 ^ 20 + space * 2 ^ 20
  xfault x x.sup v k ⟨5, kind, none, none⟩

/-- The element of local position l of a typed access: its offset. -/
def typedElem (t l n : Nat) : Nat := t % 2 ^ 18 + l * n

def State.typedRead (s : State) (c t space n l : Nat) : Acc Nat :=
  let off := typedElem t l n
  match s.typedBad c t off n true with
  | some k => .trap (s.typedFault c t off space k .read) s
  | none =>
    let ty := (s.coreAt c).typed
    if ty.isPois space true off n then
      .trap { cause := 0x0E, tval := (s.typedFault c t off space 0 .read).tval } s
    else .ok (ty.get space true off n) (s.pin c)
def State.typedWrite (s : State) (c t space n l v : Nat) : Acc Unit :=
  let off := typedElem t l n
  match s.typedBad c t off n false with
  | some k => .trap (s.typedFault c t off space k .write) s
  | none => .ok () ((s.typedPut (clusterOf c * 4 + bits t 19 18) space false off n v).pin c)

def execVldt (t b x : BitVec 5) (msk : BitVec 4) (s : State) : Res :=
  vLocal (memWord 0xD0000006 t b x msk false false) [] (some t.toNat) true false
    (fun p hi s =>
      let a := s.base p b
      let (r, e, s) := loadRun (fun s l => s.typedRead (p.core l) a x.toNat (p.ew / 8) l) ((p.to hi).filter (s.active p msk)) s []
      runOut p hi none e (s.vPut p t.toNat r)) s
def execVstt (t b x : BitVec 5) (msk : BitVec 4) (c : Bool) (s : State) : Res :=
  vLocal (memWord 0xD4000005 t b x msk false c) [t.toNat] none true false
    (fun p hi s =>
      let a := s.base p b
      let v := vElem p.ew (s.vGroup p.cores t.toNat)
      let (e, s) := storeRun (fun s l => s.typedWrite (p.core l) a x.toNat (p.ew / 8) l (v l)) ((p.to hi).filter (s.active p msk)) s
      runOut p hi none e s) s

end Sys2Proof.Machine
end

