-- ==== Sys2Proof/Machine/Vperm.lean ====
section
/-! DEFINITION. VPERM (R184, R185) and VRED (R150, R151, R186, R187). -/

namespace Sys2Proof.Machine

/-! ## VPERM -/

/-- Values moved to active positions; none leaves a position as it is. f is given the span, the elements of va and vb, the
scalar s and the position. -/
def permBody (d a : BitVec 5) (b : VSrc) (msk : BitVec 4)
    (f : Span → (Nat → Nat) → (Nat → Nat) → Nat → Nat → Option Nat) (p : Span) (hi : Nat) (s : State) : VOut :=
  let act := s.active p msk
  let x := vElem p.ew (s.vGroup p.cores a.toNat)
  let y := match b with | .reg r => vElem p.ew (s.vGroup p.cores r.toNat) | .sca _ => fun _ => 0
  let sc := match b with | .reg _ => 0 | .sca r => ((s.lead p).gRead r.toNat).toNat
  { s := s.vPut p d.toNat (((p.to hi).filter act).filterMap (fun j => (f p x y sc j).map (fun v => (j, v)))), upto := hi }

def permWord (fn : Nat) (d a b : BitVec 5) (msk : BitVec 4) (ca cb : Bool) : BitVec 32 := vWord (0xC0000000 + fn) d a b msk ca cb
/-- A collective permutation of va, by a register or a scalar. -/
def vperm (fn : Nat) (d a : BitVec 5) (b : VSrc) (msk : BitVec 4) (ca cb : Bool)
    (f : Span → (Nat → Nat) → (Nat → Nat) → Nat → Nat → Option Nat) (s : State) : Res :=
  vAll (permWord fn d a b.field msk ca cb) (a.toNat :: b.regs) (some d.toNat) false (fun _ => false) (permBody d a b msk f) s

/-- The mask selects: every position of [VSTART, VL) is written (R185). -/
def execVmerge (d a b : BitVec 5) (msk : BitVec 4) (ca cb : Bool) (s : State) : Res :=
  vLocal (permWord 0 d a b msk ca cb) [a.toNat, b.toNat] (some d.toNat) true false
    (fun p => elemBody p d.toNat 0 (fun s j =>
      (if s.active p msk j then vElem p.ew (s.vGroup p.cores a.toNat) j else vElem p.ew (s.vGroup p.cores b.toNat) j, 0))) s
def execVmov (d a : BitVec 5) (msk : BitVec 4) (ca : Bool) (s : State) : Res :=
  vLocal (permWord 9 d a 0 msk ca false) [a.toNat] (some d.toNat) true false
    (fun p => elemBody p d.toNat msk (fun s j => (vElem p.ew (s.vGroup p.cores a.toNat) j, 0))) s

def execVslideup (d a b : BitVec 5) (msk : BitVec 4) (ca : Bool) (s : State) : Res :=
  vperm 1 d a (.sca b) msk ca false (fun _ x _ sc j => if sc ≤ j then some (x (j - sc)) else none) s
def execVslidedn (d a b : BitVec 5) (msk : BitVec 4) (ca : Bool) (s : State) : Res :=
  vperm 2 d a (.sca b) msk ca false (fun p x _ sc j => some (if j + sc < p.all then x (j + sc) else 0)) s
def execVpermx (d a b : BitVec 5) (msk : BitVec 4) (ca cb : Bool) (s : State) : Res :=
  vperm 3 d a (.reg b) msk ca cb (fun p x y _ j => some (if y j < p.all then x (y j) else 0)) s
def execVbcast (d a b : BitVec 5) (msk : BitVec 4) (ca : Bool) (s : State) : Res :=
  vperm 6 d a (.sca b) msk ca false (fun p x _ sc _ => some (if sc < p.all then x sc else 0)) s
def execVzip (d a b : BitVec 5) (msk : BitVec 4) (ca cb : Bool) (s : State) : Res :=
  vperm 10 d a (.reg b) msk ca cb (fun _ x y _ j => some (if j % 2 = 0 then x (j / 2) else y (j / 2))) s
def execVunzip (d a b : BitVec 5) (msk : BitVec 4) (ca cb : Bool) (s : State) : Res :=
  vperm 11 d a (.reg b) msk ca cb (fun p x y _ j => some (if 2 * j < p.all then x (2 * j) else y (2 * j - p.all))) s

/-- Positions below VL whose bit is 1 are packed from position 0 on. -/
def execVcompress (d a : BitVec 5) (msk : BitVec 4) (ca : Bool) (s : State) : Res :=
  vAll (permWord 4 d a 0 msk ca false) [a.toNat] (some d.toNat) false (fun x => x.u.vstart != 0)
    (fun p hi s =>
      let x := vElem p.ew (s.vGroup p.cores a.toNat)
      { s := s.vPut p d.toNat (((((p.to hi).filter (s.active p msk)).map x).zipIdx).map (fun e => (e.2, e.1))), upto := hi }) s
/-- A position whose bit is 1 takes the element numbered by the 1 bits below it. -/
def execVexpand (d a : BitVec 5) (msk : BitVec 4) (ca : Bool) (s : State) : Res :=
  vAll (permWord 5 d a 0 msk ca false) [a.toNat] (some d.toNat) false (fun _ => false)
    (fun p hi s =>
      let x := vElem p.ew (s.vGroup p.cores a.toNat)
      let act := s.active p msk
      { s := s.vPut p d.toNat (((p.to hi).filter act).map (fun j => (j, x ((List.range j).filter act).length))), upto := hi }) s

def execVins (d a b : BitVec 5) (s : State) : Res :=
  vAll (permWord 7 d a b 0 false false) [] (some d.toNat) false (fun _ => false)
    (fun p hi s =>
      let i := ((s.lead p).gRead b.toNat).toNat
      { s := if i < p.all then s.vPut p d.toNat [(i, ((s.lead p).gRead a.toNat).toNat)] else s, upto := hi }) s
def execVext (d a b : BitVec 5) (ca : Bool) (s : State) : Res :=
  vAll (permWord 8 d a b 0 ca false) [a.toNat] none false (fun _ => false)
    (fun p hi s =>
      let i := ((s.lead p).gRead b.toNat).toNat
      let v := vElem p.ew (s.vGroup p.cores a.toNat) i
      { s := s.gAll p d (if p.all ≤ i then 0 else if (s.lead p).u.fmt = 0 then BitVec.ofInt 64 (toSigned p.ew v) else BitVec.ofNat 64 v)
        upto := hi }) s

/-! ## VRED -/

/-- An operation of a reduction on two codes, with its flags. -/
abbrev ROp := Nat → Nat → Nat × Flags

/-- Sum, max and min in VTYPE's format (R186); sources are flushed when FZ = 1. -/
def UReg.redSum (u : UReg) : ROp := fun a b => match u.float with
  | some f => f.add u.fz u.rm (f.decode a) (f.decode b)
  | none => ((a + b) % 2 ^ u.ewBits, 0)
def UReg.redMax (u : UReg) (wantMax : Bool) : ROp := fun a b => match u.float with
  | some f => f.minmax wantMax a b (f.decode a) (f.decode b)
  | none =>
    let less := if u.fmt = 0 then decide (toSigned u.ewBits a < toSigned u.ewBits b) else decide (a < b)
    (if less == wantMax then b else a, 0)
def UReg.src (u : UReg) (code : Nat) : Nat := match u.float with
  | some f => f.flush u.fz code
  | none => code
/-- I of R187 for sums and max. -/
def UReg.redId (u : UReg) (max : Bool) : Nat := match u.float with
  | some f => if max then f.inf true else f.zero true
  | none => if max && u.fmt == 0 then 2 ^ (u.ewBits - 1) else 0

/-- Left to right, with every flag raised. -/
def redFold (op : ROp) (start : Nat) (l : List Nat) : Nat × Flags :=
  l.foldl (fun r x => let y := op r.1 x; (y.1, r.2 ||| y.2)) (start, 0)
/-- The fixed pairwise tree of R150 over P leaves, P a power of two at most 2^k. -/
def redPairs (op : ROp) : List Nat → List (Nat × Flags)
  | a :: b :: l => op a b :: redPairs op l
  | [a] => [(a, 0)]
  | [] => []
def redTree (op : ROp) : Nat → List Nat → Flags → Nat × Flags
  | 0, l, f => (l.headD 0, f)
  | k + 1, l, f =>
    match l with
    | [a] => (a, f)
    | _ => let r := redPairs op l; redTree op k (r.map Prod.fst) (f ||| unionFlags r)

/-- FMT and RM allowed for sums and for max and min (R186). -/
def Core.redBad (x : Core) (sum : Bool) : Bool :=
  x.u.fmt == 4 || (sum && x.u.float.isSome && decide (5 ≤ x.u.rm))

def redWord (fn : Nat) (d a b : BitVec 5) (msk : BitVec 4) (ca cb : Bool) : BitVec 32 := vWord (0xC8000000 + fn) d a b msk ca cb

/-- Functions 0 to 5: the result, from the start operand and the span's positions, goes to element 0 when VSTART < VL. -/
def vred (fn : Nat) (d a b : BitVec 5) (msk : BitVec 4) (ca cb : Bool) (bad : Core → Bool)
    (f : UReg → Span → (Nat → Bool) → (Nat → Nat) → Nat → Nat × Flags) (s : State) : Res :=
  vAll (redWord fn d a b msk ca cb) [a.toNat, b.toNat] (some d.toNat) false bad
    (fun p hi s =>
      let u := (s.lead p).u
      let act := s.active p msk
      let x := fun j => u.src (vElem p.ew (s.vGroup p.cores a.toNat) j)
      let b0 := u.src (vElem p.ew (s.vGroup p.cores b.toNat) 0)
      if p.lo < p.hi then
        let r := f u p (fun j => decide (p.lo ≤ j ∧ j < p.hi) && act j) x b0
        { s := (s.vPut p d.toNat [(0, r.1)]).raiseAll p r.2, upto := hi }
      else { s := s, upto := hi }) s

/-- The active elements in ascending order. -/
def Span.actives (p : Span) (act : Nat → Bool) (x : Nat → Nat) : List Nat := ((p.to p.hi).filter act).map x

def execVredsum (d a b : BitVec 5) (msk : BitVec 4) (ca cb : Bool) (s : State) : Res :=
  vred 0 d a b msk ca cb (fun x => x.redBad true) (fun u p act x b0 =>
    match u.float with
    | some f =>
      let t := redTree u.redSum 12 ((List.range p.all).map (fun j => if act j then x j else f.zero true)) 0
      let r := u.redSum b0 t.1
      (r.1, t.2 ||| r.2)
    | none => redFold u.redSum b0 (p.actives act x)) s
def execVredmax (d a b : BitVec 5) (msk : BitVec 4) (ca cb : Bool) (s : State) : Res :=
  vred 1 d a b msk ca cb (fun x => x.redBad false) (fun u p act x b0 => redFold (u.redMax true) b0 (p.actives act x)) s
def execVredmin (d a b : BitVec 5) (msk : BitVec 4) (ca cb : Bool) (s : State) : Res :=
  vred 2 d a b msk ca cb (fun x => x.redBad false) (fun u p act x b0 => redFold (u.redMax false) b0 (p.actives act x)) s
/-- The bitwise reductions take every format, as bit patterns: FZ flushes nothing of them (DESIGN CHOICE, log 47: R186 says both
that R148 applies when FZ = 1, and bitwise). -/
def redBits (fn : Nat) (d a b : BitVec 5) (msk : BitVec 4) (ca cb : Bool) (op : Nat → Nat → Nat) (s : State) : Res :=
  vAll (redWord fn d a b msk ca cb) [a.toNat, b.toNat] (some d.toNat) false (fun _ => false)
    (fun p hi s =>
      let x := vElem p.ew (s.vGroup p.cores a.toNat)
      let b0 := vElem p.ew (s.vGroup p.cores b.toNat) 0
      { s := if p.lo < p.hi then s.vPut p d.toNat [(0, (p.actives (s.active p msk) x).foldl op b0)] else s, upto := hi }) s
def execVredand (d a b : BitVec 5) (msk : BitVec 4) (ca cb : Bool) (s : State) : Res :=
  redBits 3 d a b msk ca cb (fun a b => a &&& b) s
def execVredor (d a b : BitVec 5) (msk : BitVec 4) (ca cb : Bool) (s : State) : Res :=
  redBits 4 d a b msk ca cb (fun a b => a ||| b) s
def execVredxor (d a b : BitVec 5) (msk : BitVec 4) (ca cb : Bool) (s : State) : Res :=
  redBits 5 d a b msk ca cb (fun a b => a ^^^ b) s

/-- A running result over the active positions from the lowest; a position where starts holds restarts it from I. -/
def scanList (op : ROp) (starts act : Nat → Bool) (x : Nat → Nat) (ident : Nat) : List Nat → Nat → List (Nat × Nat × Flags)
  | [], _ => []
  | j :: l, run =>
    let run := if starts j then ident else run
    if act j then let r := op run (x j); (j, r) :: scanList op starts act x ident l r.1
    else scanList op starts act x ident l run

/-- The scans: vd[j] = the running result at each active position. -/
def vscanWith (fn : Nat) (d a b : BitVec 5) (msk : BitVec 4) (ca cb : Bool) (srcs : List Nat) (sum : Bool)
    (op : UReg → ROp) (starts : Span → State → Nat → Bool) (start : UReg → Span → State → Nat) (s : State) : Res :=
  vAll (redWord fn d a b msk ca cb) srcs (some d.toNat) false (fun x => x.redBad sum)
    (fun p hi s =>
      let u := (s.lead p).u
      let x := fun j => u.src (vElem p.ew (s.vGroup p.cores a.toNat) j)
      let r := scanList (op u) (starts p s) (s.active p msk) x (u.redId (!sum)) (p.to hi) (start u p s)
      { s := (s.vPut p d.toNat (r.map (fun e => (e.1, e.2.1)))).raiseAll p (unionFlags (r.map Prod.snd)), upto := hi }) s

def startOf (b : BitVec 5) (u : UReg) (p : Span) (s : State) : Nat := u.src (vElem p.ew (s.vGroup p.cores b.toNat) 0)
/-- A segment begins at VSTART and at each position whose boundary bit is 1 (R187). -/
def segStart (b : BitVec 5) (p : Span) (s : State) (j : Nat) : Bool := j == p.lo || kBit p.m (s.kGroup p.cores b.toNat) j

def execVscan (d a b : BitVec 5) (msk : BitVec 4) (ca cb : Bool) (s : State) : Res :=
  vscanWith 6 d a b msk ca cb [a.toNat, b.toNat] true UReg.redSum (fun _ _ _ => false) (startOf b) s
def execVscanmax (d a b : BitVec 5) (msk : BitVec 4) (ca cb : Bool) (s : State) : Res :=
  vscanWith 7 d a b msk ca cb [a.toNat, b.toNat] false (fun u => u.redMax true) (fun _ _ _ => false) (startOf b) s
def execVsegscan (d a b : BitVec 5) (msk : BitVec 4) (ca : Bool) (s : State) : Res :=
  vscanWith 9 d a b msk ca false [a.toNat] true UReg.redSum (segStart b) (fun _ _ _ => 0) s

/-- The segments of a list of positions, each with its start: f says where one begins. -/
def segments (f : Nat → Bool) : List Nat → List (Nat × List Nat)
  | [] => []
  | j :: l =>
    match segments f l with
    | [] => [(j, [j])]
    | (k, m) :: r => if f k then (j, [j]) :: (k, m) :: r else (j, j :: m) :: r

/-- The segment reductions: the last prefix of each segment goes to its start. -/
def vseg (fn : Nat) (d a b : BitVec 5) (msk : BitVec 4) (ca sum : Bool) (op : UReg → ROp) (s : State) : Res :=
  vAll (redWord fn d a b msk ca false) [a.toNat] (some d.toNat) false (fun x => x.redBad sum)
    (fun p hi s =>
      let u := (s.lead p).u
      let act := s.active p msk
      let x := fun j => u.src (vElem p.ew (s.vGroup p.cores a.toNat) j)
      let r := (segments (segStart b p s) (p.to hi)).map (fun e => (e.1, redFold (op u) (u.redId (!sum)) ((e.2.filter act).map x)))
      { s := (s.vPut p d.toNat (r.map (fun e => (e.1, e.2.1)))).raiseAll p (unionFlags (r.map Prod.snd)), upto := hi }) s
def execVsegred (d a b : BitVec 5) (msk : BitVec 4) (ca : Bool) (s : State) : Res :=
  vseg 8 d a b msk ca true UReg.redSum s
def execVsegmax (d a b : BitVec 5) (msk : BitVec 4) (ca : Bool) (s : State) : Res :=
  vseg 10 d a b msk ca false (fun u => u.redMax true) s

end Sys2Proof.Machine
end

