-- ==== Sys2Proof/Machine/Dispatch.lean ====
section
/-! DEFINITION. One arm per constructor of Instr: each calls the one meaning of its instruction or step. -/

namespace Sys2Proof.Machine

def exec (i : Instr) (s : State) : Host.Outcome State Fault Refusal :=
  match i with
  | .add d a b => Sys2Proof.Machine.execAdd d a b s
  | .sub d a b => Sys2Proof.Machine.execSub d a b s
  | .and d a b => Sys2Proof.Machine.execAnd d a b s
  | .or d a b => Sys2Proof.Machine.execOr d a b s
  | .xor d a b => Sys2Proof.Machine.execXor d a b s
  | .andn d a b => Sys2Proof.Machine.execAndn d a b s
  | .orn d a b => Sys2Proof.Machine.execOrn d a b s
  | .sll d a b => Sys2Proof.Machine.execSll d a b s
  | .srl d a b => Sys2Proof.Machine.execSrl d a b s
  | .sra d a b => Sys2Proof.Machine.execSra d a b s
  | .rol d a b => Sys2Proof.Machine.execRol d a b s
  | .ror d a b => Sys2Proof.Machine.execRor d a b s
  | .slt d a b => Sys2Proof.Machine.execSlt d a b s
  | .sltu d a b => Sys2Proof.Machine.execSltu d a b s
  | .min d a b => Sys2Proof.Machine.execMin d a b s
  | .max d a b => Sys2Proof.Machine.execMax d a b s
  | .minu d a b => Sys2Proof.Machine.execMinu d a b s
  | .maxu d a b => Sys2Proof.Machine.execMaxu d a b s
  | .addw d a b => Sys2Proof.Machine.execAddw d a b s
  | .subw d a b => Sys2Proof.Machine.execSubw d a b s
  | .clz d a => Sys2Proof.Machine.execClz d a s
  | .ctz d a => Sys2Proof.Machine.execCtz d a s
  | .popc d a => Sys2Proof.Machine.execPopc d a s
  | .brev d a => Sys2Proof.Machine.execBrev d a s
  | .bswap d a => Sys2Proof.Machine.execBswap d a s
  | .sext d a x => Sys2Proof.Machine.execSext d a x s
  | .zext d a x => Sys2Proof.Machine.execZext d a x s
  | .bfxv d a b => Sys2Proof.Machine.execBfxv d a b s
  | .bfxzv d a b => Sys2Proof.Machine.execBfxzv d a b s
  | .bfiv d a b => Sys2Proof.Machine.execBfiv d a b s
  | .selnz d a b => Sys2Proof.Machine.execSelnz d a b s
  | .selz d a b => Sys2Proof.Machine.execSelz d a b s
  | .mul d a b => Sys2Proof.Machine.execMul d a b s
  | .mulh d a b => Sys2Proof.Machine.execMulh d a b s
  | .mulhu d a b => Sys2Proof.Machine.execMulhu d a b s
  | .mulhsu d a b => Sys2Proof.Machine.execMulhsu d a b s
  | .mulw d a b => Sys2Proof.Machine.execMulw d a b s
  | .div d a b => Sys2Proof.Machine.execDiv d a b s
  | .divu d a b => Sys2Proof.Machine.execDivu d a b s
  | .rem d a b => Sys2Proof.Machine.execRem d a b s
  | .remu d a b => Sys2Proof.Machine.execRemu d a b s
  | .divw d a b => Sys2Proof.Machine.execDivw d a b s
  | .bfx d a pos wm1 => Sys2Proof.Machine.execBfx d a pos wm1 s
  | .bfxz d a pos wm1 => Sys2Proof.Machine.execBfxz d a pos wm1 s
  | .bfi d a pos wm1 => Sys2Proof.Machine.execBfi d a pos wm1 s
  | .addi d a imm => Sys2Proof.Machine.execAddi d a imm s
  | .andi d a imm => Sys2Proof.Machine.execAndi d a imm s
  | .ori d a imm => Sys2Proof.Machine.execOri d a imm s
  | .xori d a imm => Sys2Proof.Machine.execXori d a imm s
  | .slti d a imm => Sys2Proof.Machine.execSlti d a imm s
  | .sltiu d a imm => Sys2Proof.Machine.execSltiu d a imm s
  | .slli d a amt => Sys2Proof.Machine.execSlli d a amt s
  | .srli d a amt => Sys2Proof.Machine.execSrli d a amt s
  | .srai d a amt => Sys2Proof.Machine.execSrai d a amt s
  | .rori d a amt => Sys2Proof.Machine.execRori d a amt s
  | .movz d hw v => Sys2Proof.Machine.execMovz d hw v s
  | .movk d hw v => Sys2Proof.Machine.execMovk d hw v s
  | .lapc d imm => Sys2Proof.Machine.execLapc d imm s
  | .bfs sel off => Sys2Proof.Machine.execBfs sel off s
  | .bfc sel off => Sys2Proof.Machine.execBfc sel off s
  | .beq a b off => Sys2Proof.Machine.execBeq a b off s
  | .bne a b off => Sys2Proof.Machine.execBne a b off s
  | .blt a b off => Sys2Proof.Machine.execBlt a b off s
  | .bge a b off => Sys2Proof.Machine.execBge a b off s
  | .bltu a b off => Sys2Proof.Machine.execBltu a b off s
  | .bgeu a b off => Sys2Proof.Machine.execBgeu a b off s
  | .j off => Sys2Proof.Machine.execJ off s
  | .jal off => Sys2Proof.Machine.execJal off s
  | .jr a => Sys2Proof.Machine.execJr a s
  | .jalr d a => Sys2Proof.Machine.execJalr d a s
  | .lb t base off => Sys2Proof.Machine.execLb t base off s
  | .lbz t base off => Sys2Proof.Machine.execLbz t base off s
  | .lh t base off => Sys2Proof.Machine.execLh t base off s
  | .lhz t base off => Sys2Proof.Machine.execLhz t base off s
  | .lw t base off => Sys2Proof.Machine.execLw t base off s
  | .lwz t base off => Sys2Proof.Machine.execLwz t base off s
  | .ld t base off => Sys2Proof.Machine.execLd t base off s
  | .sb t base off => Sys2Proof.Machine.execSb t base off s
  | .sh t base off => Sys2Proof.Machine.execSh t base off s
  | .sw t base off => Sys2Proof.Machine.execSw t base off s
  | .sd t base off => Sys2Proof.Machine.execSd t base off s
  | .amoadd d a b scope order width => Sys2Proof.Machine.execAmoadd d a b scope order width s
  | .amoand d a b scope order width => Sys2Proof.Machine.execAmoand d a b scope order width s
  | .amoor d a b scope order width => Sys2Proof.Machine.execAmoor d a b scope order width s
  | .amoxor d a b scope order width => Sys2Proof.Machine.execAmoxor d a b scope order width s
  | .amomin d a b scope order width => Sys2Proof.Machine.execAmomin d a b scope order width s
  | .amomax d a b scope order width => Sys2Proof.Machine.execAmomax d a b scope order width s
  | .amominu d a b scope order width => Sys2Proof.Machine.execAmominu d a b scope order width s
  | .amomaxu d a b scope order width => Sys2Proof.Machine.execAmomaxu d a b scope order width s
  | .amoswap d a b scope order width => Sys2Proof.Machine.execAmoswap d a b scope order width s
  | .amocas d a b scope order width => Sys2Proof.Machine.execAmocas d a b scope order width s
  | .amold d a scope order width => Sys2Proof.Machine.execAmold d a scope order width s
  | .amost a b scope order width => Sys2Proof.Machine.execAmost a b scope order width s
  | .amowait d a b scope order width => Sys2Proof.Machine.execAmowait d a b scope order width s
  | .acq a scope => Sys2Proof.Machine.execAcq a scope s
  | .rel a scope => Sys2Proof.Machine.execRel a scope s
  | .fence scope => Sys2Proof.Machine.execFence scope s
  | .own d a b => Sys2Proof.Machine.execOwn d a b s
  | .disown d a => Sys2Proof.Machine.execDisown d a s
  | .ifence a scope => Sys2Proof.Machine.execIfence a scope s
  | .arrive d a scope => Sys2Proof.Machine.execArrive d a scope s
  | .waitb d a b scope => Sys2Proof.Machine.execWaitb d a b scope s
  | .vote d a b scope => Sys2Proof.Machine.execVote d a b scope s
  | .jinit d a => Sys2Proof.Machine.execJinit d a s
  | .jarrive d a => Sys2Proof.Machine.execJarrive d a s
  | .jwait d a => Sys2Proof.Machine.execJwait d a s
  | .jkpt => Sys2Proof.Machine.execJkpt s
  | .jstat d a b => Sys2Proof.Machine.execJstat d a b s
  | .jleave d => Sys2Proof.Machine.execJleave d s
  | .suspend a => Sys2Proof.Machine.execSuspend a s
  | .retire => Sys2Proof.Machine.execRetire s
  | .launch d a => Sys2Proof.Machine.execLaunch d a s
  | .qry d a => Sys2Proof.Machine.execQry d a s
  | .locq d a => Sys2Proof.Machine.execLocq d a s
  | .rdtime d => Sys2Proof.Machine.execRdtime d s
  | .rdcyc d => Sys2Proof.Machine.execRdcyc d s
  | .trap a => Sys2Proof.Machine.execTrap a s
  | .brk => Sys2Proof.Machine.execBreak s
  | .nop => Sys2Proof.Machine.execNop s
  | .engwait a => Sys2Proof.Machine.execEngwait a s
  | .engstat d => Sys2Proof.Machine.execEngstat d s
  | .gang d => Sys2Proof.Machine.execGang d s
  | .disband => Sys2Proof.Machine.execDisband s
  | .crd d creg => Sys2Proof.Machine.execCrd d creg s
  | .cwr d a creg => Sys2Proof.Machine.execCwr d a creg s
  | .cset d a creg => Sys2Proof.Machine.execCset d a creg s
  | .cclr d a creg => Sys2Proof.Machine.execCclr d a creg s
  | .setvl d a vtype y => Sys2Proof.Machine.execSetvl d a vtype y s
  | .setvlMax d vtype y => Sys2Proof.Machine.execSetvlMax d vtype y s
  | .setvlType d vtype y => Sys2Proof.Machine.execSetvlType d vtype y s
  | .setd a b dim => Sys2Proof.Machine.execSetd a b dim s
  | .vaddVv d a b msk ca cb => Sys2Proof.Machine.execVaddVv d a b msk ca cb s
  | .vaddVs d a b msk ca => Sys2Proof.Machine.execVaddVs d a b msk ca s
  | .vsubVv d a b msk ca cb => Sys2Proof.Machine.execVsubVv d a b msk ca cb s
  | .vsubVs d a b msk ca => Sys2Proof.Machine.execVsubVs d a b msk ca s
  | .vrsubVv d a b msk ca cb => Sys2Proof.Machine.execVrsubVv d a b msk ca cb s
  | .vrsubVs d a b msk ca => Sys2Proof.Machine.execVrsubVs d a b msk ca s
  | .vmulVv d a b msk ca cb => Sys2Proof.Machine.execVmulVv d a b msk ca cb s
  | .vmulVs d a b msk ca => Sys2Proof.Machine.execVmulVs d a b msk ca s
  | .vmulhVv d a b msk ca cb => Sys2Proof.Machine.execVmulhVv d a b msk ca cb s
  | .vmulhVs d a b msk ca => Sys2Proof.Machine.execVmulhVs d a b msk ca s
  | .vmulhuVv d a b msk ca cb => Sys2Proof.Machine.execVmulhuVv d a b msk ca cb s
  | .vmulhuVs d a b msk ca => Sys2Proof.Machine.execVmulhuVs d a b msk ca s
  | .vminVv d a b msk ca cb => Sys2Proof.Machine.execVminVv d a b msk ca cb s
  | .vminVs d a b msk ca => Sys2Proof.Machine.execVminVs d a b msk ca s
  | .vmaxVv d a b msk ca cb => Sys2Proof.Machine.execVmaxVv d a b msk ca cb s
  | .vmaxVs d a b msk ca => Sys2Proof.Machine.execVmaxVs d a b msk ca s
  | .vminuVv d a b msk ca cb => Sys2Proof.Machine.execVminuVv d a b msk ca cb s
  | .vminuVs d a b msk ca => Sys2Proof.Machine.execVminuVs d a b msk ca s
  | .vmaxuVv d a b msk ca cb => Sys2Proof.Machine.execVmaxuVv d a b msk ca cb s
  | .vmaxuVs d a b msk ca => Sys2Proof.Machine.execVmaxuVs d a b msk ca s
  | .vandVv d a b msk ca cb => Sys2Proof.Machine.execVandVv d a b msk ca cb s
  | .vandVs d a b msk ca => Sys2Proof.Machine.execVandVs d a b msk ca s
  | .vorVv d a b msk ca cb => Sys2Proof.Machine.execVorVv d a b msk ca cb s
  | .vorVs d a b msk ca => Sys2Proof.Machine.execVorVs d a b msk ca s
  | .vxorVv d a b msk ca cb => Sys2Proof.Machine.execVxorVv d a b msk ca cb s
  | .vxorVs d a b msk ca => Sys2Proof.Machine.execVxorVs d a b msk ca s
  | .vsllVv d a b msk ca cb => Sys2Proof.Machine.execVsllVv d a b msk ca cb s
  | .vsllVs d a b msk ca => Sys2Proof.Machine.execVsllVs d a b msk ca s
  | .vsrlVv d a b msk ca cb => Sys2Proof.Machine.execVsrlVv d a b msk ca cb s
  | .vsrlVs d a b msk ca => Sys2Proof.Machine.execVsrlVs d a b msk ca s
  | .vsraVv d a b msk ca cb => Sys2Proof.Machine.execVsraVv d a b msk ca cb s
  | .vsraVs d a b msk ca => Sys2Proof.Machine.execVsraVs d a b msk ca s
  | .vaddsatVv d a b msk ca cb => Sys2Proof.Machine.execVaddsatVv d a b msk ca cb s
  | .vaddsatVs d a b msk ca => Sys2Proof.Machine.execVaddsatVs d a b msk ca s
  | .vsubsatVv d a b msk ca cb => Sys2Proof.Machine.execVsubsatVv d a b msk ca cb s
  | .vsubsatVs d a b msk ca => Sys2Proof.Machine.execVsubsatVs d a b msk ca s
  | .vaddsatuVv d a b msk ca cb => Sys2Proof.Machine.execVaddsatuVv d a b msk ca cb s
  | .vaddsatuVs d a b msk ca => Sys2Proof.Machine.execVaddsatuVs d a b msk ca s
  | .vsubsatuVv d a b msk ca cb => Sys2Proof.Machine.execVsubsatuVv d a b msk ca cb s
  | .vsubsatuVs d a b msk ca => Sys2Proof.Machine.execVsubsatuVs d a b msk ca s
  | .vabsdVv d a b msk ca cb => Sys2Proof.Machine.execVabsdVv d a b msk ca cb s
  | .vabsdVs d a b msk ca => Sys2Proof.Machine.execVabsdVs d a b msk ca s
  | .vmaccVv d a b msk ca cb => Sys2Proof.Machine.execVmaccVv d a b msk ca cb s
  | .vmaccVs d a b msk ca => Sys2Proof.Machine.execVmaccVs d a b msk ca s
  | .vdivVv d a b msk ca cb => Sys2Proof.Machine.execVdivVv d a b msk ca cb s
  | .vdivVs d a b msk ca => Sys2Proof.Machine.execVdivVs d a b msk ca s
  | .vremVv d a b msk ca cb => Sys2Proof.Machine.execVremVv d a b msk ca cb s
  | .vremVs d a b msk ca => Sys2Proof.Machine.execVremVs d a b msk ca s
  | .vfaddVv d a b msk ca cb => Sys2Proof.Machine.execVfaddVv d a b msk ca cb s
  | .vfaddVs d a b msk ca => Sys2Proof.Machine.execVfaddVs d a b msk ca s
  | .vfsubVv d a b msk ca cb => Sys2Proof.Machine.execVfsubVv d a b msk ca cb s
  | .vfsubVs d a b msk ca => Sys2Proof.Machine.execVfsubVs d a b msk ca s
  | .vfmulVv d a b msk ca cb => Sys2Proof.Machine.execVfmulVv d a b msk ca cb s
  | .vfmulVs d a b msk ca => Sys2Proof.Machine.execVfmulVs d a b msk ca s
  | .vfdivVv d a b msk ca cb => Sys2Proof.Machine.execVfdivVv d a b msk ca cb s
  | .vfdivVs d a b msk ca => Sys2Proof.Machine.execVfdivVs d a b msk ca s
  | .vfmaVv d a b msk ca cb => Sys2Proof.Machine.execVfmaVv d a b msk ca cb s
  | .vfmaVs d a b msk ca => Sys2Proof.Machine.execVfmaVs d a b msk ca s
  | .vfmsVv d a b msk ca cb => Sys2Proof.Machine.execVfmsVv d a b msk ca cb s
  | .vfmsVs d a b msk ca => Sys2Proof.Machine.execVfmsVs d a b msk ca s
  | .vfnmaVv d a b msk ca cb => Sys2Proof.Machine.execVfnmaVv d a b msk ca cb s
  | .vfnmaVs d a b msk ca => Sys2Proof.Machine.execVfnmaVs d a b msk ca s
  | .vfminVv d a b msk ca cb => Sys2Proof.Machine.execVfminVv d a b msk ca cb s
  | .vfminVs d a b msk ca => Sys2Proof.Machine.execVfminVs d a b msk ca s
  | .vfmaxVv d a b msk ca cb => Sys2Proof.Machine.execVfmaxVv d a b msk ca cb s
  | .vfmaxVs d a b msk ca => Sys2Proof.Machine.execVfmaxVs d a b msk ca s
  | .vfsqrtVv d a msk ca => Sys2Proof.Machine.execVfsqrtVv d a msk ca s
  | .vfsqrtVs d a msk ca => Sys2Proof.Machine.execVfsqrtVs d a msk ca s
  | .vfrcpVv d a msk ca => Sys2Proof.Machine.execVfrcpVv d a msk ca s
  | .vfrcpVs d a msk ca => Sys2Proof.Machine.execVfrcpVs d a msk ca s
  | .vfrsqVv d a msk ca => Sys2Proof.Machine.execVfrsqVv d a msk ca s
  | .vfrsqVs d a msk ca => Sys2Proof.Machine.execVfrsqVs d a msk ca s
  | .vfexp2Vv d a msk ca => Sys2Proof.Machine.execVfexp2Vv d a msk ca s
  | .vfexp2Vs d a msk ca => Sys2Proof.Machine.execVfexp2Vs d a msk ca s
  | .vflog2Vv d a msk ca => Sys2Proof.Machine.execVflog2Vv d a msk ca s
  | .vflog2Vs d a msk ca => Sys2Proof.Machine.execVflog2Vs d a msk ca s
  | .vftanhVv d a msk ca => Sys2Proof.Machine.execVftanhVv d a msk ca s
  | .vftanhVs d a msk ca => Sys2Proof.Machine.execVftanhVs d a msk ca s
  | .vfabsVv d a msk ca => Sys2Proof.Machine.execVfabsVv d a msk ca s
  | .vfabsVs d a msk ca => Sys2Proof.Machine.execVfabsVs d a msk ca s
  | .vfnegVv d a msk ca => Sys2Proof.Machine.execVfnegVv d a msk ca s
  | .vfnegVs d a msk ca => Sys2Proof.Machine.execVfnegVs d a msk ca s
  | .vfsgnjVv d a b msk ca cb => Sys2Proof.Machine.execVfsgnjVv d a b msk ca cb s
  | .vfsgnjVs d a b msk ca => Sys2Proof.Machine.execVfsgnjVs d a b msk ca s
  | .vfclassVv d a msk ca => Sys2Proof.Machine.execVfclassVv d a msk ca s
  | .vfclassVs d a msk ca => Sys2Proof.Machine.execVfclassVs d a msk ca s
  | .vcmpeqVv d a b msk ca cb => Sys2Proof.Machine.execVcmpeqVv d a b msk ca cb s
  | .vcmpeqVs d a b msk ca => Sys2Proof.Machine.execVcmpeqVs d a b msk ca s
  | .vcmpneVv d a b msk ca cb => Sys2Proof.Machine.execVcmpneVv d a b msk ca cb s
  | .vcmpneVs d a b msk ca => Sys2Proof.Machine.execVcmpneVs d a b msk ca s
  | .vcmpltVv d a b msk ca cb => Sys2Proof.Machine.execVcmpltVv d a b msk ca cb s
  | .vcmpltVs d a b msk ca => Sys2Proof.Machine.execVcmpltVs d a b msk ca s
  | .vcmpgeVv d a b msk ca cb => Sys2Proof.Machine.execVcmpgeVv d a b msk ca cb s
  | .vcmpgeVs d a b msk ca => Sys2Proof.Machine.execVcmpgeVs d a b msk ca s
  | .vcmpltuVv d a b msk ca cb => Sys2Proof.Machine.execVcmpltuVv d a b msk ca cb s
  | .vcmpltuVs d a b msk ca => Sys2Proof.Machine.execVcmpltuVs d a b msk ca s
  | .vcmpgeuVv d a b msk ca cb => Sys2Proof.Machine.execVcmpgeuVv d a b msk ca cb s
  | .vcmpgeuVs d a b msk ca => Sys2Proof.Machine.execVcmpgeuVs d a b msk ca s
  | .vcmpfeqVv d a b msk ca cb => Sys2Proof.Machine.execVcmpfeqVv d a b msk ca cb s
  | .vcmpfeqVs d a b msk ca => Sys2Proof.Machine.execVcmpfeqVs d a b msk ca s
  | .vcmpfltVv d a b msk ca cb => Sys2Proof.Machine.execVcmpfltVv d a b msk ca cb s
  | .vcmpfltVs d a b msk ca => Sys2Proof.Machine.execVcmpfltVs d a b msk ca s
  | .vcmpfleVv d a b msk ca cb => Sys2Proof.Machine.execVcmpfleVv d a b msk ca cb s
  | .vcmpfleVs d a b msk ca => Sys2Proof.Machine.execVcmpfleVs d a b msk ca s
  | .vcmpfunoVv d a b msk ca cb => Sys2Proof.Machine.execVcmpfunoVv d a b msk ca cb s
  | .vcmpfunoVs d a b msk ca => Sys2Proof.Machine.execVcmpfunoVs d a b msk ca s
  | .kand d a b ca cb => Sys2Proof.Machine.execKand d a b ca cb s
  | .kor d a b ca cb => Sys2Proof.Machine.execKor d a b ca cb s
  | .kxor d a b ca cb => Sys2Proof.Machine.execKxor d a b ca cb s
  | .kandn d a b ca cb => Sys2Proof.Machine.execKandn d a b ca cb s
  | .knot d a ca => Sys2Proof.Machine.execKnot d a ca s
  | .kmov d a ca => Sys2Proof.Machine.execKmov d a ca s
  | .kpop d a ca => Sys2Proof.Machine.execKpop d a ca s
  | .kpopvl d a ca => Sys2Proof.Machine.execKpopvl d a ca s
  | .kfirst d a ca => Sys2Proof.Machine.execKfirst d a ca s
  | .kfromg d a b => Sys2Proof.Machine.execKfromg d a b s
  | .ktog d a b ca => Sys2Proof.Machine.execKtog d a b ca s
  | .kprefix d a ca => Sys2Proof.Machine.execKprefix d a ca s
  | .ksbf d a ca => Sys2Proof.Machine.execKsbf d a ca s
  | .vmerge d a b msk ca cb => Sys2Proof.Machine.execVmerge d a b msk ca cb s
  | .vslideup d a b msk ca => Sys2Proof.Machine.execVslideup d a b msk ca s
  | .vslidedn d a b msk ca => Sys2Proof.Machine.execVslidedn d a b msk ca s
  | .vpermx d a b msk ca cb => Sys2Proof.Machine.execVpermx d a b msk ca cb s
  | .vcompress d a msk ca => Sys2Proof.Machine.execVcompress d a msk ca s
  | .vexpand d a msk ca => Sys2Proof.Machine.execVexpand d a msk ca s
  | .vbcast d a b msk ca => Sys2Proof.Machine.execVbcast d a b msk ca s
  | .vins d a b => Sys2Proof.Machine.execVins d a b s
  | .vext d a b ca => Sys2Proof.Machine.execVext d a b ca s
  | .vmov d a msk ca => Sys2Proof.Machine.execVmov d a msk ca s
  | .vzip d a b msk ca cb => Sys2Proof.Machine.execVzip d a b msk ca cb s
  | .vunzip d a b msk ca cb => Sys2Proof.Machine.execVunzip d a b msk ca cb s
  | .vcvt d a p msk ca fmt => Sys2Proof.Machine.execVcvt d a p msk ca fmt s
  | .vredsum d a b msk ca cb => Sys2Proof.Machine.execVredsum d a b msk ca cb s
  | .vredmax d a b msk ca cb => Sys2Proof.Machine.execVredmax d a b msk ca cb s
  | .vredmin d a b msk ca cb => Sys2Proof.Machine.execVredmin d a b msk ca cb s
  | .vredand d a b msk ca cb => Sys2Proof.Machine.execVredand d a b msk ca cb s
  | .vredor d a b msk ca cb => Sys2Proof.Machine.execVredor d a b msk ca cb s
  | .vredxor d a b msk ca cb => Sys2Proof.Machine.execVredxor d a b msk ca cb s
  | .vscan d a b msk ca cb => Sys2Proof.Machine.execVscan d a b msk ca cb s
  | .vscanmax d a b msk ca cb => Sys2Proof.Machine.execVscanmax d a b msk ca cb s
  | .vsegred d a b msk ca => Sys2Proof.Machine.execVsegred d a b msk ca s
  | .vsegscan d a b msk ca => Sys2Proof.Machine.execVsegscan d a b msk ca s
  | .vsegmax d a b msk ca => Sys2Proof.Machine.execVsegmax d a b msk ca s
  | .viota d msk start incr => Sys2Proof.Machine.execViota d msk start incr s
  | .vld t base msk ff => Sys2Proof.Machine.execVld t base msk ff s
  | .vlds t base x msk ff => Sys2Proof.Machine.execVlds t base x msk ff s
  | .vldx t base x msk ff c => Sys2Proof.Machine.execVldx t base x msk ff c s
  | .vldn t base msk ff => Sys2Proof.Machine.execVldn t base msk ff s
  | .vldk t base => Sys2Proof.Machine.execVldk t base s
  | .vldb t base msk => Sys2Proof.Machine.execVldb t base msk s
  | .vldt t base x msk => Sys2Proof.Machine.execVldt t base x msk s
  | .vst t base msk c => Sys2Proof.Machine.execVst t base msk c s
  | .vsts t base x msk c => Sys2Proof.Machine.execVsts t base x msk c s
  | .vstx t base x msk c => Sys2Proof.Machine.execVstx t base x msk c s
  | .vstn t base msk c => Sys2Proof.Machine.execVstn t base msk c s
  | .vstk t base => Sys2Proof.Machine.execVstk t base s
  | .vstt t base x msk c => Sys2Proof.Machine.execVstt t base x msk c s
  | .mctx a => Sys2Proof.Machine.execMctx a s
  | .mgeo a => Sys2Proof.Machine.execMgeo a s
  | .mloadb a b tag => Sys2Proof.Machine.execMloadb a b tag s
  | .mswap tag => Sys2Proof.Machine.execMswap tag s
  | .mrun tag => Sys2Proof.Machine.execMrun tag s
  | .mclr tag => Sys2Proof.Machine.execMclr tag s
  | .cpcfg a => Sys2Proof.Machine.execCpcfg a s
  | .cpy d a b tag => Sys2Proof.Machine.execCpy d a b tag s
  | .cpyn d a b tag => Sys2Proof.Machine.execCpyn d a b tag s
  | .publ a tag => Sys2Proof.Machine.execPubl a tag s
  | .cpabort => Sys2Proof.Machine.execCpabort s
  | .sbind d a => Sys2Proof.Machine.execSbind d a s
  | .sunbind d => Sys2Proof.Machine.execSunbind d s
  | .ssync d => Sys2Proof.Machine.execSsync d s
  | .sstat d a => Sys2Proof.Machine.execSstat d a s
  | .gdef a b tag => Sys2Proof.Machine.execGdef a b tag s
  | .gwait tag => Sys2Proof.Machine.execGwait tag s
  | .gqry d tag => Sys2Proof.Machine.execGqry d tag s
  | .eret => Sys2Proof.Machine.execEret s
  | .rtwr a b => Sys2Proof.Machine.execRtwr a b s
  | .rtrd a b => Sys2Proof.Machine.execRtrd a b s
  | .rtinv a b => Sys2Proof.Machine.execRtinv a b s
  | .rsplit d a => Sys2Proof.Machine.execRsplit d a s
  | .rmerge d a => Sys2Proof.Machine.execRmerge d a s
  | .genbump d a => Sys2Proof.Machine.execGenbump d a s
  | .rcompact d a b => Sys2Proof.Machine.execRcompact d a b s
  | .ctxsv d a b => Sys2Proof.Machine.execCtxsv d a b s
  | .ctxld d a b => Sys2Proof.Machine.execCtxld d a b s
  | .ipost d a => Sys2Proof.Machine.execIpost d a s
  | .wfi d a => Sys2Proof.Machine.execWfi d a s
  | .haltc d a => Sys2Proof.Machine.execHaltc d a s
  | .qtailWrite fn q v => Sys2Proof.Machine.execQtailWrite fn q v s
  | .queueConfigWrite fn q off v => Sys2Proof.Machine.execQueueConfigWrite fn q off v s
  | .registerWrite fn bar off v => Sys2Proof.Machine.execRegisterWrite fn bar off v s
  | .debugHaltRelease core => Sys2Proof.Machine.execDebugHaltRelease core s
  | .queryEnum fn => Sys2Proof.Machine.execQueryEnum fn s
  | .createVdev fn => Sys2Proof.Machine.execCreateVdev fn s
  | .destroyVdev fn => Sys2Proof.Machine.execDestroyVdev fn s
  | .bind fn => Sys2Proof.Machine.execBind fn s
  | .setWeight fn => Sys2Proof.Machine.execSetWeight fn s
  | .postDeadline fn => Sys2Proof.Machine.execPostDeadline fn s
  | .partitionMode fn => Sys2Proof.Machine.execPartitionMode fn s
  | .reset fn => Sys2Proof.Machine.execReset fn s
  | .checkpoint fn => Sys2Proof.Machine.execCheckpoint fn s
  | .restore fn => Sys2Proof.Machine.execRestore fn s
  | .attest fn req => Sys2Proof.Machine.execAttest fn req s
  | .tdispOp fn req => Sys2Proof.Machine.execTdispOp fn req s
  | .resync fn => Sys2Proof.Machine.execResync fn s
  | .logRead fn => Sys2Proof.Machine.execLogRead fn s
  | .getVersion fn => Sys2Proof.Machine.execGetVersion fn s
  | .getCapabilities fn => Sys2Proof.Machine.execGetCapabilities fn s
  | .negotiateAlgorithms fn => Sys2Proof.Machine.execNegotiateAlgorithms fn s
  | .getDigests fn => Sys2Proof.Machine.execGetDigests fn s
  | .getCertificate fn => Sys2Proof.Machine.execGetCertificate fn s
  | .challenge fn => Sys2Proof.Machine.execChallenge fn s
  | .getMeasurements fn => Sys2Proof.Machine.execGetMeasurements fn s
  | .keyExchange fn => Sys2Proof.Machine.execKeyExchange fn s
  | .finish fn => Sys2Proof.Machine.execFinish fn s
  | .ideKm fn port stream key => Sys2Proof.Machine.execIdeKm fn port stream key s
  | .lockInterfaceRequest fn => Sys2Proof.Machine.execLockInterfaceRequest fn s
  | .startInterfaceRequest fn => Sys2Proof.Machine.execStartInterfaceRequest fn s
  | .stopInterfaceRequest fn => Sys2Proof.Machine.execStopInterfaceRequest fn s
  | .ideIntegrityFailure fn port stream => Sys2Proof.Machine.execIdeIntegrityFailure fn port stream s
  | .firmwareImageWrite off v => Sys2Proof.Machine.execFirmwareImageWrite off v s
  | .hostWrite port pa bytes => Sys2Proof.Machine.execHostWrite port pa bytes s
  | .hostRead port pa n => Sys2Proof.Machine.execHostRead port pa n s
  | .peerTransaction src op pa n v => Sys2Proof.Machine.execPeerTransaction src op pa n v s
  | .podRelayForward src op pa n v => Sys2Proof.Machine.execPodRelayForward src op pa n v s
  | .ualinkReplyTimeout core dva => Sys2Proof.Machine.execUalinkReplyTimeout core dva s
  | .launchSelection part => Sys2Proof.Machine.execLaunchSelection part s
  | .wispPlacement launch => Sys2Proof.Machine.execWispPlacement launch s
  | .expansionResume launch => Sys2Proof.Machine.execExpansionResume launch s
  | .wispRecordArrival launch index die => Sys2Proof.Machine.execWispRecordArrival launch index die s
  | .freeResourceReport die => Sys2Proof.Machine.execFreeResourceReport die s
  | .reportArrival die idle free occ => Sys2Proof.Machine.execReportArrival die idle free occ s
  | .overflowDrain vdev => Sys2Proof.Machine.execOverflowDrain vdev s
  | .heldWispDepart core => Sys2Proof.Machine.execHeldWispDepart core s
  | .wispPickup core => Sys2Proof.Machine.execWispPickup core s
  | .wispResume core => Sys2Proof.Machine.execWispResume core s
  | .priorityAging launch index => Sys2Proof.Machine.execPriorityAging launch index s
  | .clusterReservation die => Sys2Proof.Machine.execClusterReservation die s
  | .groupStart cluster => Sys2Proof.Machine.execGroupStart cluster s
  | .suspendWake launch index => Sys2Proof.Machine.execSuspendWake launch index s
  | .gangCollectivePairing core => Sys2Proof.Machine.execGangCollectivePairing core s
  | .fill core line => Sys2Proof.Machine.execFill core line s
  | .ownreq core line words data dirty => Sys2Proof.Machine.execOwnreq core line words data dirty s
  | .grant core line data mask => Sys2Proof.Machine.execGrant core line data mask s
  | .data core line data => Sys2Proof.Machine.execData core line data s
  | .fwd core line words => Sys2Proof.Machine.execFwd core line words s
  | .revoke core line words => Sys2Proof.Machine.execRevoke core line words s
  | .yield core line data dirty => Sys2Proof.Machine.execYield core line data dirty s
  | .evict core line data dirty => Sys2Proof.Machine.execEvict core line data dirty s
  | .disownreq core line data dirty => Sys2Proof.Machine.execDisownreq core line data dirty s
  | .ack core line => Sys2Proof.Machine.execAck core line s
  | .rangeWalk core dva => Sys2Proof.Machine.execRangeWalk core dva s
  | .generationNotice core asn => Sys2Proof.Machine.execGenerationNotice core asn s
  | .rangeInvalidation core asn base limit issuer => Sys2Proof.Machine.execRangeInvalidation core asn base limit issuer s
  | .dredgeCopyPhase => Sys2Proof.Machine.execDredgeCopyPhase s
  | .dredgeSwitchPhase => Sys2Proof.Machine.execDredgeSwitchPhase s
  | .dredgeBumpPhase => Sys2Proof.Machine.execDredgeBumpPhase s
  | .dredgeReleasePhase => Sys2Proof.Machine.execDredgeReleasePhase s
  | .pieceAdmission die => Sys2Proof.Machine.execPieceAdmission die s
  | .creditReturn die flits => Sys2Proof.Machine.execCreditReturn die flits s
  | .foreignFlitDrop part unit => Sys2Proof.Machine.execForeignFlitDrop part unit s
  | .linkOutOfService x y dir => Sys2Proof.Machine.execLinkOutOfService x y dir s
  | .timeRequest core => Sys2Proof.Machine.execTimeRequest core s
  | .timeReply core time => Sys2Proof.Machine.execTimeReply core time s
  | .copyCommandStart core => Sys2Proof.Machine.execCopyCommandStart core s
  | .copyCompletion core => Sys2Proof.Machine.execCopyCompletion core s
  | .publicationSwap core => Sys2Proof.Machine.execPublicationSwap core s
  | .matrixRowStep cluster => Sys2Proof.Machine.execMatrixRowStep cluster s
  | .mloadbExecution core => Sys2Proof.Machine.execMloadbExecution core s
  | .mswapExecution core => Sys2Proof.Machine.execMswapExecution core s
  | .mclrExecution core => Sys2Proof.Machine.execMclrExecution core s
  | .matrixCommandCompletion core => Sys2Proof.Machine.execMatrixCommandCompletion core s
  | .streamPrefetch core bix => Sys2Proof.Machine.execStreamPrefetch core bix s
  | .streamStorePerform core bix => Sys2Proof.Machine.execStreamStorePerform core bix s
  | .sendChunk core bix => Sys2Proof.Machine.execSendChunk core bix s
  | .ringProducedUpdate pa count => Sys2Proof.Machine.execRingProducedUpdate pa count s
  | .streamWaitEnd core => Sys2Proof.Machine.execStreamWaitEnd core s
  | .streamWatchdog core bix => Sys2Proof.Machine.execStreamWatchdog core bix s
  | .collectiveCombine anchor => Sys2Proof.Machine.execCollectiveCombine anchor s
  | .slotRequest anchor => Sys2Proof.Machine.execSlotRequest anchor s
  | .slotReturn anchor => Sys2Proof.Machine.execSlotReturn anchor s
  | .quorumStreamArrival core bix => Sys2Proof.Machine.execQuorumStreamArrival core bix s
  | .joinDeadline site slot => Sys2Proof.Machine.execJoinDeadline site slot s
  | .killSignal launch index => Sys2Proof.Machine.execKillSignal launch index s
  | .kgraceExpiry core => Sys2Proof.Machine.execKgraceExpiry core s
  | .preemptPosting core kind deadline => Sys2Proof.Machine.execPreemptPosting core kind deadline s
  | .forceSet core => Sys2Proof.Machine.execForceSet core s
  | .forcedPreemptionTrap core => Sys2Proof.Machine.execForcedPreemptionTrap core s
  | .quantumEnd part => Sys2Proof.Machine.execQuantumEnd part s
  | .checkpointVacateTimeout launch => Sys2Proof.Machine.execCheckpointVacateTimeout launch s
  | .deadlineRecheck isPart target => Sys2Proof.Machine.execDeadlineRecheck isPart target s
  | .checkpointEngineCopy launch => Sys2Proof.Machine.execCheckpointEngineCopy launch s
  | .wispEndCount launch index => Sys2Proof.Machine.execWispEndCount launch index s
  | .launchCompletion launch => Sys2Proof.Machine.execLaunchCompletion launch s
  | .eccError pa correctable => Sys2Proof.Machine.execEccError pa correctable s
  | .scrub => Sys2Proof.Machine.execScrub s
  | .backingRewrite pa => Sys2Proof.Machine.execBackingRewrite pa s
  | .coldBoot => Sys2Proof.Machine.execColdBoot s
  | .powerDown => Sys2Proof.Machine.execPowerDown s
  | .functionLevelReset fn => Sys2Proof.Machine.execFunctionLevelReset fn s
  | .resetEscalation rung target queue => Sys2Proof.Machine.execResetEscalation rung target queue s
  | .thermalThrottle die => Sys2Proof.Machine.execThermalThrottle die s
  | .clockRestore die => Sys2Proof.Machine.execClockRestore die s
  | .overtempShutdown die => Sys2Proof.Machine.execOvertempShutdown die s
  | .wfiTimeReached core => Sys2Proof.Machine.execWfiTimeReached core s
  | .resumeFromCarr launch index => Sys2Proof.Machine.execResumeFromCarr launch index s

end Sys2Proof.Machine
end

