-- ==== Sys2Proof/Machine/Step.lean ====
section
/-! DEFINITION. One step of the machine. Steps of the schedule and of the cores take turns (log 1); a step that TIME has
made due comes before a core's. -/

namespace Sys2Proof.Machine

/-- What follows an instruction or a step: the clocks advance, and the turn passes. -/
def settleStep (r : Res) : Res :=
  match r with
  | .next s => .next s.tick.rotate
  | r => r

/-- The running core's part of a step: the end of a wait, a forced pre-emption, or one instruction (R321, R325). -/
noncomputable def coreStep (s : State) : Res :=
  let c := s.cur
  let x := s.coreAt c
  if x.stage ≠ .run then .next s
  else match s.waitResult x.waitOn with
    | some (v, d, acq) => if s.awaitsAnswer c then .next s else .next ((s.endWait v d acq).stepHalt c x)
    | none =>
      if x.forced then .next (s.preemptTrap c)
      else match x.lost with
      | some a => .next ((s.updCore c ({ · with lost := none })).takeTrap c { cause := 0x0E, tval := BitVec.ofNat 64 a })
      | none => match s.issue c with
        | .wait s => .next s
        | .trap t s => .next (s.takeTrap c t)
        | .ok w s =>
          match decode (BitVec.ofNat 32 w) with
          | .error _ => .next (s.takeTrap c (decodeTrap (BitVec.ofNat 32 w) x.sup))
          | .ok i =>
            match exec i s with
            | .next t => .next (t.stepHalt c x)
            | r => r

/-- The schedule's part of a step: the step that stands first, or one that the time has made due; they alternate while both
are there (log 1). -/
noncomputable def eventStep (s : State) : Option Res :=
  match s.nextEvent with
  | some (e, l) => some (exec e.toInstr { s with sched := l, evCount := s.evCount + 1 })
  | none => none

/-- No core issues instructions. -/
def State.quiet (s : State) : Bool := !s.cores.any (fun e => e.2.stage == .run)

/-- One step. A part without power does nothing until COLD_BOOT (R374, R381). -/
noncomputable def step (s : State) : Host.Outcome State Fault Refusal :=
  if !s.on then
    match s.sched with
    | .coldBoot :: l => exec .coldBoot { s with sched := l }
    | _ => .fault .powerOff
  else if s.evTurn || s.quiet then
    match eventStep s with
    | some r => settleStep r
    | none => settleStep (coreStep s)
  else settleStep (coreStep s)

/-- The instruction w is placed where the running core fetches next; every word is one instruction (R60). -/
def State.withFetchWord (s : State) (_nbits w : Nat) : State := s.placeWord (w % 2 ^ 32)

end Sys2Proof.Machine
end

