-- ==== Sys2Proof/Safety.lean ====
section
/-! DEFINITION. What the statements speak of: what an instruction changes and leaves (frames), results of each shape, the
positions of a vector instruction, the canonical form of memory, and the turn of the cores. -/

namespace Sys2Proof.Machine

/-! ## Frames -/

/-- The package but for its cores is as before, every byte of memory at the homes with it. -/
def SamePackage (s t : State) : Prop := { t with cores := s.cores } = s ∧ ∀ a, t.byteAt a = s.byteAt a
/-- Nothing but the running core may differ. -/
def OnlyCore (s t : State) : Prop := SamePackage s t ∧ ∀ c, c ≠ s.cur → t.coreAt c = s.coreAt c

/-- g4 to g7 as the other privilege names them (R319). -/
def Core.gOther (x : Core) (r : Nat) : Word := ({ x with sup := !x.sup }).gRead r
/-- The result v stands in gd, unless d is g0, which reads 0 (R57); every other g register, in both copies, and everything
else of the core but the PC is as before. -/
def Core.WroteG (x y : Core) (d : BitVec 5) (v : Word) : Prop :=
  (∀ q : BitVec 5, y.gRead q.toNat = if q = 0 then 0 else if q = d then v else x.gRead q.toNat)
    ∧ (∀ q, 4 ≤ q → q ≤ 7 → y.gOther q = x.gOther q)
    ∧ { y with pc := x.pc, g := x.g, sg := x.sg } = x

/-! ## Results -/

/-- The instruction completes with v in gd and the PC at p, and changes nothing else. -/
def GPcOut (s : State) (d : BitVec 5) (v p : Word) (r : Res) : Prop :=
  ∃ t, r = .next t ∧ OnlyCore s t ∧ t.pc = p ∧ s.me.WroteG t.me d v
/-- The same with the PC at the next instruction (R71). -/
def GOut (s : State) (d : BitVec 5) (v : Word) (r : Res) : Prop := GPcOut s d v (s.pc + 4) r
/-- The instruction completes with the PC at p, and changes nothing else. -/
def PcOut (s : State) (p : Word) (r : Res) : Prop :=
  ∃ t, r = .next t ∧ OnlyCore s t ∧ t.pc = p ∧ { t.me with pc := s.me.pc } = s.me

/-! ## Accesses -/

/-- What an access may change of a core: its range-table slots and their order of use, its L1, the poison of its messages
under way, a write-back answered with poison, and, where it wakes a wisp that waits on its core, the wait. Its registers, its
mode and its engines stay. -/
def Core.SameRegs (x y : Core) : Prop :=
  { y with slots := x.slots, age := x.age, l1 := x.l1, sentPois := x.sentPois, fillPois := x.fillPois, drop := x.drop
           lost := x.lost, stage := x.stage, waitOn := x.waitOn } = x
/-- What an access may change of the package: memory and what the homes keep of it, the caches, the steps it sends,
what leaves for other packages, and the records of the wisps it wakes. Memory keeps its canonical form. -/
def MemOnly (s t : State) : Prop :=
  { t with cores := s.cores, clusters := s.clusters, dies := s.dies, mem := s.mem, pois := s.pois, dirtyMap := s.dirtyMap
           reg := s.reg, pending := s.pending, tents := s.tents, waiters := s.waiters, sched := s.sched, wisps := s.wisps
           seq := s.seq, draw := s.draw, out := s.out } = s
    ∧ (∀ c, (s.coreAt c).SameRegs (t.coreAt c))
    ∧ (Store.wf 0 s.mem = true → Store.wf 0 t.mem = true)
/-- However an access ends, the state it leaves differs from s as MemOnly says. -/
def Acc.FromMem {α : Type} (s : State) : Acc α → Prop
  | .ok _ t => MemOnly s t
  | .trap _ t => MemOnly s t
  | .wait t => MemOnly s t

/-- A scalar load of n bytes at a into gd: a misaligned address traps 0x03; else the instruction ends as its access does. -/
def LoadOut (s : State) (d : BitVec 5) (a : Word) (n : Nat) (sg : Bool) (r : Res) : Prop :=
  if a.toNat % n ≠ 0 then r = .next (s.trap { cause := 3, tval := a })
  else match s.load s.cur a.toNat n true s.me.sup with
    | .ok v s' => GOut s' d (if sg then BitVec.ofInt 64 (BitVec.ofNat (8 * n) v).toInt else BitVec.ofNat 64 v) r
    | .trap t s' => r = .next (s'.trap t)
    | .wait s' => r = .next s'.block
/-- A scalar store of the low n bytes of v at a. -/
def StoreOut (s : State) (a : Word) (n : Nat) (v : Word) (r : Res) : Prop :=
  if a.toNat % n ≠ 0 then r = .next (s.trap { cause := 3, tval := a })
  else match s.store s.cur a.toNat n (v.toNat % 2 ^ (8 * n)) true s.me.sup with
    | .ok _ s' => PcOut s' (s'.pc + 4) r
    | .trap t s' => r = .next (s'.trap t)
    | .wait s' => r = .next s'.block

/-- An atomic of R292 at a: what stands before its step at the home (alignment, translation, release, the line's
write-back) may trap or wait; it leaves as the transaction op where the home is another package's (R262); a poisoned word traps
0x0E where the function reads, and so does a request that a link out of service does not carry (R256); else the word takes the
value that new gives for the old one, where it gives one, an acquire follows where order asks for it, and gd takes the old
value, a word of 4 bytes sign-extended. -/
def AtomOut (s : State) (op : PeerOp) (v : Nat) (a : Word) (scope order : BitVec 2) (width reads : Bool) (new : Nat → Option Nat)
    (out : State → Word → Res → Prop) (r : Res) : Prop :=
  let n := if width then 8 else 4
  match s.atomicPrelude a scope order width with
  | .trap t s' => r = .next (s'.trap t)
  | .wait s' => r = .next s'.block
  | .ok x s1 =>
    let s' := s1.sendRemote op x.pa n v
    if (reads = true ∧ s'.homePois x.pa n = true) ∨ s'.reqDown (dieOf s.cur) x.pa = true then
      r = .next (s'.trap { cause := 0x0E, tval := a })
    else
      let old := s'.homeRead x.pa n
      let s2 := match new old with
        | some v => s'.homeUpdate (some s.cur) (some (.core s.cur)) x.pa n v
        | none => s'
      if s1.cutOff s.cur x.pa = true then r = .next (s2.trap { cause := 0x0E, tval := a })
      else
        let s3 := if order = 1 ∨ order = 3 then s2.acquire s.cur 255 scope.toNat else s2
        out s3 (if width then BitVec.ofNat 64 old else BitVec.ofInt 64 (BitVec.ofNat 32 old).toInt) r

/-! ## Waits -/

/-- The running wisp waits on its core for w (R24, R323): of its core only the wait differs; and unless it is in its handler,
its record says the reason, STATE 01 and the next PC, with g1 to g3. -/
def WaitsHere (s : State) (reason : Nat) (w : WaitOn) (t : State) : Prop :=
  t.cur = s.cur ∧ t.me.stage = .wait ∧ t.me.waitOn = w
    ∧ { t.me with stage := s.me.stage, waitOn := s.me.waitOn } = s.me
    ∧ (∀ c, c ≠ s.cur → t.coreAt c = s.coreAt c)
    ∧ (s.me.s.inh = false →
      let v := t.wispAt (s.wispKey s.cur)
      v.pc = s.pc + 4 ∧ v.st = 1 ∧ v.reason = reason
        ∧ v.g1 = Store.get 0 s.me.g 1 ∧ v.g2 = Store.get 0 s.me.g 2 ∧ v.g3 = Store.get 0 s.me.g 3)
/-- An instruction at which the wisp suspends for w: a pinned wisp, or one in its handler, waits on its core; any other
releases its bindings, spills, and leaves its core with PC + 4 (R22 to R24, R239, R386), or traps or waits on the way. Then
what after says happens at once. -/
def SuspendOut (s : State) (reason : Nat) (w : WaitOn) (after : State → State) (r : Res) : Prop :=
  if s.staysPut = true then ∃ t, r = .next (after t) ∧ WaitsHere s reason w t
  else match s.leaveBinds s.cur with
    | .trap t s1 => r = .next (s1.trap t)
    | .wait s1 => r = .next s1.stall
    | .ok _ s1 => match s1.spill s.cur false with
      | .trap t s2 => r = .next (s2.trap t)
      | .wait s2 => r = .next s2.stall
      | .ok _ s2 => r = .next (after (s2.leave s.cur reason 1 (s2.pc + 4) w false))
/-- A kill signalled for the running wisp takes effect at a kill point, unless its handler runs (R300, R323). -/
def State.killDue (s : State) : Bool := s.me.kill.isSome && !s.me.s.inh

/-! ## Numbers (R140 to R149) -/

/-- The number that a value stands for; a NaN and the infinities have none. -/
def FVal.num : FVal → Option ℚ
  | .zero _ => some 0
  | .fin n m e => some ((if n then -(m : ℚ) else m) * 2 ^ e)
  | _ => none
/-- The real y goes to the integer k under rounding mode rm (R144). -/
def RoundsInt (rm : Nat) (y : ℝ) (k : ℤ) : Prop :=
  match rm with
  | 0 => |y - k| ≤ 1 / 2 ∧ (|y - k| = 1 / 2 → Even k)
  | 1 => |(k : ℝ)| ≤ |y| ∧ |y - k| < 1 ∧ 0 ≤ y * k
  | 2 => (k : ℝ) ≤ y ∧ y < k + 1
  | 3 => y ≤ k ∧ (k : ℝ) < y + 1
  | _ => |y - k| ≤ 1 / 2 ∧ (|y - k| = 1 / 2 → |y| < |(k : ℝ)|)
/-- A nonzero real x goes to a code of format f, with flags (R144, R145, R148): u is x rounded to the format's precision with
unbounded exponent, in units of 2^(e - fb), and k to the format's last place, in units of 2^q. What u exceeds the largest finite
value by overflows, by mode and sign; a tiny x is flushed when fz is set; else the code has k's value and x's sign. -/
def FFmt.Rounds (f : FFmt) (fz : Bool) (rm : Nat) (x : ℝ) (r : Nat × Flags) : Prop :=
  ∃ (neg : Bool) (e u k : ℤ),
    let q := max (e - f.fb) (1 - (f.bias : ℤ) - f.fb)
    let size : ℝ := |(u : ℝ)| * 2 ^ (e - f.fb)
    let value : ℝ := k * 2 ^ q
    let big := (2 ^ (f.fb + 1) - 1) * (2 : ℝ) ^ ((f.bias : ℤ) - f.fb) < size
    let tiny := size < (2 : ℝ) ^ (1 - (f.bias : ℤ))
    (neg = true ↔ x < 0) ∧ (2 : ℝ) ^ e ≤ |x| ∧ |x| < (2 : ℝ) ^ (e + 1)
    ∧ RoundsInt rm (x / 2 ^ (e - f.fb)) u ∧ RoundsInt rm (x / 2 ^ q) k
    ∧ (big → r = (f.signed neg (f.infCode - if rm = 1 ∨ (rm = 2 ∧ neg = false) ∨ (rm = 3 ∧ neg = true) then 1 else 0), fOF ||| fNX))
    ∧ (¬ big → tiny → fz = true → r = (f.signed neg 0, fUF ||| fNX))
    ∧ (¬ big → ¬ (tiny ∧ fz = true) → r.1 < 2 ^ f.width ∧ (f.decode r.1).neg = neg
        ∧ (∃ v, (f.decode r.1).num = some v ∧ (v : ℝ) = value)
        ∧ (value = x → r.2 = 0) ∧ (value ≠ x → tiny → r.2 = fUF ||| fNX) ∧ (value ≠ x → ¬ tiny → r.2 = fNX))
/-- An element of C after a nonzero or zero term y is added, once rounded (R149, R152); csat: MFC's saturation option. -/
def FFmt.Accumulated (f : FFmt) (fz csat : Bool) (old : Nat) (y : ℝ) (r : Nat × Flags) : Prop :=
  let v := f.decode old
  (v.isNan = true → r = (f.nan, if v = .nan true then fNV else 0)) ∧ (v.isInf = true → r = (f.inf v.neg, 0))
  ∧ ∀ p, v.num = some p → (p + y = 0 → r = (f.zero false, 0))
    ∧ (p + y ≠ 0 → ∃ q, f.Rounds fz 0 (p + y) q
        ∧ r = if csat = true ∧ q.2 &&& fOF ≠ 0 then (f.largest (decide (p + y < 0)), fSAT) else q)
/-- A row or column of n numbers aligned at depth d (R153): e is the largest of their exponents. -/
def Aligned (d n : Nat) (x : Nat → ℚ) (e : ℤ) (r : Nat → ℤ) : Prop :=
  if ∀ i, i < n → x i = 0 then ∀ i, i < n → r i = 0
  else (∃ i, i < n ∧ (2 : ℚ) ^ e ≤ |x i|) ∧ ∀ i, i < n → |x i| < 2 ^ (e + 1) ∧ RoundsInt 0 (x i * 2 ^ ((d : ℤ) - 2 - e) : ℚ) (r i)

/-! ## Vectors -/

/-- EW, the width of an element in bits (R68, R154). -/
def Core.ew (x : Core) : Nat := 8 * 2 ^ (x.u.vtype.toNat % 4)
/-- Element j of width w of vector register r. -/
def Core.elem (x : Core) (w r j : Nat) : Nat := (x.vRead r).toNat / 2 ^ (w * j) % 2 ^ w
/-- Position j is active under msk (R71). -/
def Core.on (x : Core) (msk : BitVec 4) (j : Nat) : Bool := msk == 0 || (x.kRead (msk.toNat - 1)).getLsbD j
/-- No register of the list is bound to a stream (R231). -/
def Core.unbound (x : Core) (l : List (BitVec 5)) : Prop := ∀ r ∈ l, x.bindOf r.toNat = none
/-- The place of a member's own element 0 in the ganged vector (R189). -/
def Core.ganged (x : Core) : Nat := match x.gang with | some g => g.member * (2048 / x.ew) | none => 0
/-- The member's own positions that a member-local instruction processes: [VSTART, VL) of the ganged vector. -/
def Core.first (x : Core) : Nat := x.u.vstart.toNat - x.ganged
def Core.last (x : Core) : Nat := min (x.u.vl.toNat - x.ganged) (2048 / x.ew)
/-- A core that completes an instruction of its gang on another member's turn halts there under STEP at U (R338), unless a
forced kill or pre-emption takes it off first (R321). -/
def Core.stepped (x : Core) (mine : Bool) (time : Nat) : Stage :=
  if mine = false ∧ x.s.step = true ∧ x.sup = false ∧ x.takenOff time = false then .halted else x.stage
/-- What a vector instruction leaves alone besides what it is said to write: everything but the PC, the vector and mask
registers, VSTART and FSTAT, and that the instruction is no longer being issued nor waits; mine: on the running core; time:
TIME at that moment. -/
def Core.VecRest (x y : Core) (mine : Bool := true) (time : Nat := 0) : Prop :=
  { y with pc := x.pc, hold := x.hold, popped := x.popped, pushed := x.pushed, gang := x.gang, v := x.v, k := x.k
           stage := x.stage, u := { y.u with fstat := x.u.fstat, vstart := x.u.vstart } } = x ∧ y.stage = x.stepped mine time
/-- FSTAT keeps what it has and takes the flags of the positions that f speaks of (R145). -/
def Core.Raised (x y : Core) (f : Nat → Flags → Prop) : Prop :=
  ∀ b, y.u.fstat.getLsbD b = true ↔ x.u.fstat.getLsbD b = true ∨ ∃ j v, f j v ∧ v.getLsbD b = true

/-- A vector instruction that completes on its core: in vd, the elements at the positions of [lo, hi) that sel picks take
their values modulo 2^EW, and every other element and register is as before; FSTAT takes the flags of those positions;
VSTART becomes 0 (R157, R158). -/
def LaneOut (s : State) (d : BitVec 5) (lo hi : Nat) (sel : Nat → Bool) (val : Nat → Int × Flags) (r : Res) : Prop :=
  let x := s.me
  ∃ t, r = .next t ∧ OnlyCore s t ∧ t.pc = s.pc + 4
    ∧ (∀ j, j < 2048 / x.ew → (t.me.elem x.ew d.toNat j : Int) =
        if lo ≤ j ∧ j < hi ∧ sel j = true then (val j).1 % 2 ^ x.ew else x.elem x.ew d.toNat j)
    ∧ (∀ q, q ≠ d.toNat → t.me.vRead q = x.vRead q) ∧ t.me.k = x.k ∧ t.me.u.vstart = 0
    ∧ x.Raised t.me (fun j f => lo ≤ j ∧ j < hi ∧ sel j = true ∧ f = (val j).2)
    ∧ x.VecRest t.me
/-- The same for a mask register: the bits of [lo, hi) of kd take their values. -/
def MaskOut (s : State) (d : Nat) (lo hi : Nat) (val : Nat → Bool × Flags) (r : Res) : Prop :=
  let x := s.me
  ∃ t, r = .next t ∧ OnlyCore s t ∧ t.pc = s.pc + 4
    ∧ (∀ j, j < 256 → (t.me.kRead d).getLsbD j = if lo ≤ j ∧ j < hi then (val j).1 else (x.kRead d).getLsbD j)
    ∧ (∀ q, q ≠ d → t.me.kRead q = x.kRead q) ∧ t.me.v = x.v ∧ t.me.u.vstart = 0
    ∧ x.Raised t.me (fun j f => lo ≤ j ∧ j < hi ∧ f = (val j).2)
    ∧ x.VecRest t.me
/-- The same for a result in gd. -/
def VecGOut (s : State) (d : BitVec 5) (v : Word) (r : Res) : Prop :=
  let x := s.me
  ∃ t, r = .next t ∧ OnlyCore s t ∧ t.pc = s.pc + 4
    ∧ (∀ q : BitVec 5, t.rg q = if q = 0 then 0 else if q = d then v else s.rg q)
    ∧ t.me.v = x.v ∧ t.me.k = x.k ∧ t.me.u.vstart = 0 ∧ x.VecRest { t.me with g := x.g, sg := x.sg }

/-! ## Registers bound to streams (R231, R232, R237) -/

/-- Register r of the running core, and no other, is bound: to binding i, as q, for reads, and VTYPE is its FORMAT; no part of
the instruction has been delivered, and a trap would enter the handler. -/
def State.OneSource (s : State) (r : BitVec 5) (i : Nat) (q : Binding) : Prop :=
  s.me.bindOf r.toNat = some (i, q) ∧ (∀ v, v ≠ r.toNat → s.me.bindOf v = none) ∧ s.me.gang = none
    ∧ q.format = s.me.u.vtype.toNat ∧ q.reads = true ∧ s.me.popped = 0 ∧ s.me.pushed = 0 ∧ (s.me.sup = false ∨ s.me.s.inh = false)
/-- What the stream can give for [VSTART, VL) of r, and w: r with those elements from VSTART on. -/
def State.pops (s : State) (i : Nat) : List Nat × PopEnd × State := s.popPeek s.cur i (s.me.last - s.me.first)
def State.Fills (s : State) (r : BitVec 5) (i : Nat) (w : VReg) : Prop :=
  let x := s.me
  let got := (s.pops i).1
  ∀ j, j < 2048 / x.ew → w.toNat / 2 ^ (x.ew * j) % 2 ^ x.ew =
    if x.first ≤ j ∧ j < x.first + got.length then got.getD (j - x.first) 0 % 2 ^ x.ew else x.elem x.ew r.toNat j
/-- The state after the stream's reads, with w in r. -/
def State.fill (s : State) (r : BitVec 5) (i : Nat) (w : VReg) : State := (s.pops i).2.2.updMe (·.vWrite r.toNat w)
/-- The same machine with no register bound. -/
def State.unbound (s : State) : State := s.updMe (fun y => { y with e := { y.e with bind := [] } })
/-- The binding has moved by the k elements popped; with k fewer than the n wanted, VSTART is the position reached, and the
instruction reports the stream's fault, or waits, or traps 0x0A when it has waited for WDOG with nothing more (R237). -/
def State.PopEnds (s u : State) (i : Nat) (q : Binding) (k n : Nat) (why : PopEnd) (p : Binding) (parts : Bool) : Prop :=
  let x := s.me
  (u.bindAt s.cur i).count = p.count + (if q.kind = 6 then k else min k (p.popTotal - p.count))
    ∧ (k < n →
      let trapped (cause : Nat) (tval : Word) : Prop := u.pc = x.s.tvec ∧ u.me.s.tcause = BitVec.ofNat 8 cause ∧ u.me.s.tval = tval
        ∧ u.me.s.tepc = s.pc &&& ~~~ 3 ∧ u.me.u.vstart = BitVec.ofNat 16 (x.first + k)
      match why with
      | .fault tr => trapped tr.cause tr.tval
      | _ =>
        if (k = 0 ∨ parts = false) ∧ (∃ t0, p.stall = some t0 ∧ t0 + p.wdogNs ≤ s.time) then
          trapped 0x0A (BitVec.ofNat 64 (q.addr.toNat / 64 * 64 + i))
        else u.pc = s.pc ∧ u.me.hold = .loose ∧ (u.bindAt s.cur i).stall.isSome = true
          ∧ if parts then u.me.u.vstart = BitVec.ofNat 16 (x.first + k) else u.me.u.vstart = x.u.vstart ∧ u.me.popped = k)
/-- An instruction of R157's elementwise kind (parts) whose source r is bound acts on the positions delivered as it does on
an unbound register with their values. A permutation, reduction or scan does so when all positions have come, and until then
only the register is filled. -/
def State.StreamSource (s : State) (i : Instr) (r : BitVec 5) (parts : Bool) : Prop :=
  ∀ b q w, s.OneSource r b q → s.Fills r b w →
    let x := s.me
    let n := x.last - x.first
    let k := (s.pops b).1.length
    let s1 := s.fill r b w
    let s0 := if k < n then s1.unbound.updMe (fun y => { y with u := { y.u with vl := BitVec.ofNat 16 (x.first + k) } }) else s1.unbound
    ∃ u, exec i s = .next u ∧ s.PopEnds u b q k n (s.pops b).2.1 ((s.pops b).2.2.bindAt s.cur b) parts
      ∧ (k < n → u.me.g = x.g)
      ∧ (if parts = true ∨ k = n then ∃ u0, exec i s0 = .next u0 ∧ (∀ c, u.me.vRead c = u0.me.vRead c ∧ u.me.kRead c = u0.me.kRead c)
            ∧ u.me.u.fstat = u0.me.u.fstat
            ∧ (k = n → u.pc = s.pc + 4 ∧ u.me.u.vstart = 0 ∧ ∀ c, c < 32 → u.me.gRead c = u0.me.gRead c)
          else (∀ c, u.me.vRead c = s1.me.vRead c) ∧ u.me.k = x.k ∧ u.me.u.fstat = x.u.fstat)
/-- The binding b, a STORE, has taken the elements of d from VSTART to VL - 1 as they stand in u; what lies past the end is
discarded and sets END (R235). -/
def State.Pushes (s u : State) (d : BitVec 5) (b : Nat) (q : Binding) : Prop :=
  let x := s.me
  let n := x.last - x.first
  let goes := min n (q.pushTotal - q.count)
  let o := u.bindAt s.cur b
  o.count = q.count + goes ∧ o.ended = (q.ended || decide (goes < n))
    ∧ o.unsent = q.unsent ++ (List.range goes).map (fun j => u.me.elem x.ew d.toNat (x.first + j))
    ∧ (0 < goes → .streamStorePerform s.cur b ∈ u.sched)
/-- Register d, and no other, is bound: to a STORE with room for what the instruction pushes. -/
def State.OneDest (s : State) (d : BitVec 5) (b : Nat) (q : Binding) : Prop :=
  let x := s.me
  x.bindOf d.toNat = some (b, q) ∧ (∀ v, v ≠ d.toNat → x.bindOf v = none) ∧ x.gang = none ∧ q.format = x.u.vtype.toNat
    ∧ q.kind = 1 ∧ q.dead = false ∧ x.popped = 0 ∧ x.pushed = 0
    ∧ (q.unsent.length + min (x.last - x.first) (q.pushTotal - q.count)) * q.ewb ≤ 8192
/-- An instruction whose destination d is so bound acts as with d unbound, and the register's elements are pushed after it is
written, masked-off ones unchanged (R231). -/
def State.StreamDest (s : State) (i : Instr) (d : BitVec 5) : Prop :=
  ∀ b q, s.OneDest d b q → ∃ u u0, exec i s = .next u ∧ exec i s.unbound = .next u0 ∧ u.pc = s.pc + 4 ∧ u.me.u.vstart = 0
    ∧ (∀ c, u.me.vRead c = u0.me.vRead c ∧ u.me.kRead c = u0.me.kRead c) ∧ (∀ c, c < 32 → u.me.gRead c = u0.me.gRead c)
    ∧ u.me.u.fstat = u0.me.u.fstat ∧ s.Pushes u d b q
/-- A bound register that may not be named so, in a gang, in another FORMAT or for the other direction: 0x01 (R231). -/
def State.StreamBad (s : State) (i : Instr) (srcs dsts : List (BitVec 5)) : Prop :=
  let off (r : BitVec 5) (ok : Binding → Bool) : Prop := ∃ b q, s.me.bindOf r.toNat = some (b, q)
    ∧ (s.me.gang ≠ none ∨ q.format ≠ s.me.u.vtype.toNat ∨ ok q = false)
  ((∃ r ∈ srcs, off r Binding.reads) ∨ ∃ r ∈ dsts, off r Binding.writes) →
    exec i s = .next (s.trap { cause := 1, tval := (encode i).setWidth 64 })

/-! ## Collective instructions -/

/-- The collective instruction with word w runs now, on these cores: outside a gang on its own alone; in a gang, when every
other member has issued the same word (R190, R191). -/
def State.meets (s : State) (w : BitVec 32) (cores : List Nat) : Prop :=
  (s.me.gang = none ∧ cores = [s.cur])
  ∨ ((∃ g, s.me.gang = some g ∧ g.failed = none) ∧ s.me.stage = .run ∧ cores = s.gangCores s.cur
    ∧ cores.length = s.gangSize s.cur ∧ cores.Nodup ∧ s.cur ∈ cores
    ∧ ∀ c ∈ cores, c ≠ s.cur → (s.coreAt c).stage = .run ∧ ∃ h, (s.coreAt c).gang = some h ∧ h.issued = some w)
/-- The leader of a group of cores; M, the elements of one core; and what position j of the group holds (R189). -/
def State.leader (s : State) (cores : List Nat) : Core := s.coreAt (cores.headD s.cur)
def State.perCore (s : State) (cores : List Nat) : Nat := 2048 / (s.leader cores).ew
def State.elemAt (s : State) (cores : List Nat) (r j : Nat) : Nat :=
  (s.coreAt (cores.getD (j / s.perCore cores) 0)).elem (s.leader cores).ew r (j % s.perCore cores)
def State.bitAt (s : State) (cores : List Nat) (r j : Nat) : Bool :=
  ((s.coreAt (cores.getD (j / s.perCore cores) 0)).kRead r).getLsbD (j % s.perCore cores)
def State.onAt (s : State) (cores : List Nat) (msk : BitVec 4) (j : Nat) : Bool := msk == 0 || s.bitAt cores (msk.toNat - 1) j

/-- A collective instruction that completes on its cores: the elements of vd at the positions of [lo, hi) that sel picks
take their values modulo 2^EW; every core raises the flags of all those positions, moves on, and has VSTART 0. -/
def GangLaneOut (s : State) (cores : List Nat) (d : BitVec 5) (lo hi : Nat) (sel : Nat → Bool) (val : Nat → Int × Flags)
    (r : Res) : Prop :=
  let w := (s.leader cores).ew
  let n := s.perCore cores
  ∃ t, r = .next t ∧ SamePackage s t ∧ (∀ c, c ∉ cores → t.coreAt c = s.coreAt c)
    ∧ ∀ m c, cores[m]? = some c →
      let x := s.coreAt c
      let y := t.coreAt c
      y.pc = x.pc + 4 ∧ y.u.vstart = 0 ∧ y.k = x.k ∧ (∀ q, q ≠ d.toNat → y.vRead q = x.vRead q)
      ∧ (∀ j, j < n → (y.elem w d.toNat j : Int) =
          if lo ≤ m * n + j ∧ m * n + j < hi ∧ sel (m * n + j) = true then (val (m * n + j)).1 % 2 ^ w else x.elem w d.toNat j)
      ∧ x.Raised y (fun j f => lo ≤ j ∧ j < hi ∧ sel j = true ∧ f = (val j).2) ∧ x.VecRest y (c == s.cur) s.time
/-- The same for a result in gd on every core. -/
def GangGOut (s : State) (cores : List Nat) (d : BitVec 5) (v : Word) (r : Res) : Prop :=
  ∃ t, r = .next t ∧ SamePackage s t ∧ (∀ c, c ∉ cores → t.coreAt c = s.coreAt c)
    ∧ ∀ c ∈ cores,
      let x := s.coreAt c
      let y := t.coreAt c
      y.pc = x.pc + 4 ∧ y.u.vstart = 0 ∧ y.k = x.k ∧ y.v = x.v
      ∧ (∀ q : BitVec 5, y.gRead q.toNat = if q = 0 then 0 else if q = d then v else x.gRead q.toNat)
      ∧ x.VecRest { y with g := x.g, sg := x.sg } (c == s.cur) s.time
/-- A vector access that stops at position j of its group: VSTART is j on every core, the registers are as done says, and
the rest as before (R174); then comes what after makes of it. -/
def StopsAt (s : State) (cores : List Nat) (j : Nat) (done : Nat → Core → Core → Prop) (after : State → Res) (r : Res) : Prop :=
  ∃ t, r = after t ∧ SamePackage s t ∧ t.cur = s.cur ∧ (∀ c, c ∉ cores → t.coreAt c = s.coreAt c)
    ∧ ∀ m c, cores[m]? = some c →
      let x := s.coreAt c
      let y := t.coreAt c
      y.u.vstart = BitVec.ofNat 16 j ∧ done m x y
      ∧ { y with v := x.v, k := x.k, gang := x.gang, u := { y.u with vstart := x.u.vstart, dix := x.u.dix } } = x

/-- The state in which the accesses of a collective instruction begin: in a gang, its core has issued the word. -/
def State.issued (s : State) (w : BitVec 32) : State :=
  if s.me.gang = none then s
  else s.updMe (fun x => { x with gang := x.gang.map (fun g => { g with issued := some w }) })
/-- The elements of vd that vals lists have their values, the others and every other register are as before; m is the
place of the core in its group. -/
def Lanes (w n d : Nat) (vals : List (Nat × Nat)) (m : Nat) (x y : Core) : Prop :=
  y.k = x.k ∧ (∀ q, q ≠ d → y.vRead q = x.vRead q)
    ∧ ∀ j, j < n → y.elem w d j = match vals.find? (fun v => v.1 == m * n + j) with
      | some v => v.2 % 2 ^ w
      | none => x.elem w d j
/-- The core that makes an element's access takes its trap, the others of its gang 0x10 with reason 3 (R193). -/
def State.accessTrap (s : State) (cores : List Nat) (core : Nat) (tr : Trap) : State :=
  s.trapAll cores (fun c => if c = core then tr
    else { cause := 0x10, tval := BitVec.ofNat 64 (3 + cores.idxOf core * 2 ^ 8 + tr.cause * 2 ^ 16) })
/-- How a run of element accesses ends the instruction (R174): complete, with the elements of vals written; or at the position
where an access waits or traps, everything below it done and VSTART (off further on in a ganged vector) saying so. dix: what
DIX becomes at the position of a fault (R176). -/
def RunOut (s : State) (cores : List Nat) (d : BitVec 5) (off : Nat) (vals : List (Nat × Nat)) (e : RunEnd)
    (dix : Option (Nat → BitVec 48)) (r : Res) : Prop :=
  let n := s.perCore cores
  let w := (s.leader cores).ew
  match e with
  | .all => GangLaneOut s cores d 0 (cores.length * n) (fun j => vals.any (fun v => v.1 == j))
      (fun j => (((vals.find? (fun v => v.1 == j)).map (fun v => v.2)).getD 0, 0)) r
  | .wait j => StopsAt s cores (off + j) (fun m x y => Lanes w n d.toNat vals m x y ∧ y.u.dix = x.u.dix)
      (fun t => .next t.block) r
  | .fault j tr => StopsAt s cores (off + j)
      (fun m x y => Lanes w n d.toNat vals m x y ∧ y.u.dix = match dix with | some f => f j | none => x.u.dix)
      (fun t => .next (t.accessTrap cores (cores.getD (j / n) 0) tr)) r
/-- A trap before which nothing is done and VSTART stays (R175, R180). -/
def AbortOut (s : State) (cores : List Nat) (core : Nat) (tr : Trap) (dix : Option (BitVec 48)) (r : Res) : Prop :=
  ∃ t, r = .next (t.accessTrap cores core tr) ∧ SamePackage s t ∧ (∀ c, c ∉ cores → t.coreAt c = s.coreAt c)
    ∧ ∀ c ∈ cores, t.coreAt c = { s.coreAt c with u := { (s.coreAt c).u with dix := dix.getD (s.coreAt c).u.dix } }
/-- The same for a fault-only-first load (R175): a fault at the first active position traps 0x07, 0x0E its own cause; at a
later one it cuts VL there, and the instruction completes. -/
def FirstOut (s : State) (cores : List Nat) (d : BitVec 5) (l : List Nat) (vals : List (Nat × Nat)) (e : RunEnd)
    (dix : Option (Nat → BitVec 48)) (r : Res) : Prop :=
  let n := s.perCore cores
  let w := (s.leader cores).ew
  match e with
  | .all => RunOut s cores d 0 vals .all dix r
  | .wait _ => r = .next s.block
  | .fault j tr =>
    let core := cores.getD (j / n) 0
    if l.head? = some j then
      if tr.cause = 0x0E then RunOut s cores d 0 [] e dix r
      else AbortOut s cores core (ffTrap s core tr) (dix.map (fun f => f j)) r
    else ∃ t, r = .next t ∧ SamePackage s t ∧ (∀ c, c ∉ cores → t.coreAt c = s.coreAt c)
      ∧ ∀ m c, cores[m]? = some c →
        let x := s.coreAt c
        let y := t.coreAt c
        Lanes w n d.toNat vals m x y ∧ y.pc = x.pc + 4
        ∧ y.u = { x.u with vl := BitVec.ofNat 16 j, vstart := 0, dix := (dix.map (fun f => f j)).getD x.u.dix }
        ∧ y.stage = x.stepped (c == s.cur) s.time
        ∧ { y with pc := x.pc, hold := x.hold, popped := x.popped, pushed := x.pushed, gang := x.gang, v := x.v, u := x.u
                   stage := x.stage } = x

/-! ## Carr's mailboxes -/

/-- The bytes l stand at pa, and every other byte of memory is as before. -/
def BytesAt (s t : State) (pa : Nat) (l : List Byte) : Prop :=
  ∀ q, t.byteAt q = if pa ≤ q ∧ q < pa + l.length then l.getD (q - pa) 0 else s.byteAt q
/-- No move is in hand and no AMOWAIT watches the n bytes at pa: a write there is nothing but that. -/
def State.quietSpan (s : State) (pa n : Nat) : Prop :=
  s.moves = [] ∧ ∀ w ∈ s.waiters, overlap pa n w.pa (if w.wide then 8 else 4) = false
/-- The command in the mailbox of fn has ended with a result code and the values of res in RES (R354). -/
def MboxEnd (s t : State) (fn code : Nat) (res : List (Nat × Nat × Nat)) : Prop :=
  let m := s.mboxAt fn
  let n := t.mboxAt fn
  n.busy = false ∧ n.done = true ∧ n.result = code ∧ n.rtag = m.ctag ∧ n.cseq = (m.cseq + 1) % 2 ^ 32
    ∧ (∀ e ∈ res, byteRun n.res e.1 e.2.1 = e.2.2 % 2 ^ (8 * e.2.1)) ∧ .msix fn 0 ∈ t.out
/-- It ends with a result code and does nothing else. -/
def MboxAnswer (s : State) (fn code : Nat) (r : Res) : Prop :=
  ∃ t, r = .next t ∧ MboxEnd s t fn code [] ∧ { t with mbox := s.mbox, out := s.out } = s
    ∧ ∀ f, f ≠ fn → t.mboxAt f = s.mboxAt f

/-- Nothing but one line of one core's L1 may differ. -/
def OnlyCoreLine (s t : State) (core line : Nat) : Prop :=
  { t with cores := s.cores } = s ∧ (∀ c, c ≠ core → t.coreAt c = s.coreAt c)
    ∧ { t.coreAt core with l1 := (s.coreAt core).l1 } = s.coreAt core
    ∧ ∀ q, q ≠ line → t.l1Line core q = s.l1Line core q

/-! ## Memory and turns -/

/-- The canonical form of memory: addresses strictly rising, and no byte listed that reads 0. -/
def Memory.wf (m : Store Byte) : Bool := Store.wf 0 m
/-- The core whose turn it is issues instructions, if any core does. -/
def State.turnOk (s : State) : Bool := s.quiet || s.cores.any (fun e => e.1 == s.cur && e.2.stage == .run)

end Sys2Proof.Machine
end

