-- ==== Sys2Proof/Certificates/Slice0/Obligations.lean ====
section
/-! DEFINITION. The statements about this model, each with the rule of spec/ it formalises. -/

open Sys2Proof Sys2Proof.Machine

/-! ## Scalar instructions -/

/-- R109, R110: the functions of INT, and MULDIV with the zero divisors (the quotient of the most negative number by -1 wraps). Each
writes its result to gd, moves the PC on by 4 and changes nothing else. The counts of zeros, the reversals and the rotations are
said by their bits. -/
def Obligations.IntegerResults : Prop :=
  (∀ (s : State) (d a b : BitVec 5),
      let x := s.rg a
      let y := s.rg b
      let n := y.toNat % 64
      GOut s d (BitVec.ofInt 64 (x.toInt + y.toInt)) (exec (.add d a b) s)
      ∧ GOut s d (BitVec.ofInt 64 (x.toInt - y.toInt)) (exec (.sub d a b) s)
      ∧ GOut s d (x &&& y) (exec (.and d a b) s)
      ∧ GOut s d (x ||| y) (exec (.or d a b) s)
      ∧ GOut s d (x ^^^ y) (exec (.xor d a b) s)
      ∧ GOut s d (x &&& ~~~ y) (exec (.andn d a b) s)
      ∧ GOut s d (x ||| ~~~ y) (exec (.orn d a b) s)
      ∧ GOut s d (BitVec.ofNat 64 (x.toNat * 2 ^ n)) (exec (.sll d a b) s)
      ∧ GOut s d (BitVec.ofNat 64 (x.toNat / 2 ^ n)) (exec (.srl d a b) s)
      ∧ GOut s d (BitVec.ofInt 64 (x.toInt / 2 ^ n)) (exec (.sra d a b) s)
      ∧ (∃ v : Word, GOut s d v (exec (.rol d a b) s) ∧ ∀ i, i < 64 → v.getLsbD ((i + n) % 64) = x.getLsbD i)
      ∧ (∃ v : Word, GOut s d v (exec (.ror d a b) s) ∧ ∀ i, i < 64 → v.getLsbD i = x.getLsbD ((i + n) % 64))
      ∧ GOut s d (if x.toInt < y.toInt then 1 else 0) (exec (.slt d a b) s)
      ∧ GOut s d (if x.toNat < y.toNat then 1 else 0) (exec (.sltu d a b) s)
      ∧ GOut s d (BitVec.ofInt 64 (min x.toInt y.toInt)) (exec (.min d a b) s)
      ∧ GOut s d (BitVec.ofInt 64 (max x.toInt y.toInt)) (exec (.max d a b) s)
      ∧ GOut s d (BitVec.ofNat 64 (min x.toNat y.toNat)) (exec (.minu d a b) s)
      ∧ GOut s d (BitVec.ofNat 64 (max x.toNat y.toNat)) (exec (.maxu d a b) s)
      ∧ GOut s d (BitVec.ofInt 64 (BitVec.ofInt 32 (x.toInt + y.toInt)).toInt) (exec (.addw d a b) s)
      ∧ GOut s d (BitVec.ofInt 64 (BitVec.ofInt 32 (x.toInt - y.toInt)).toInt) (exec (.subw d a b) s)
      ∧ GOut s d (if y ≠ 0 then x else s.rg d) (exec (.selnz d a b) s)
      ∧ GOut s d (if y = 0 then x else s.rg d) (exec (.selz d a b) s))
  ∧ (∀ (s : State) (d a : BitVec 5),
      let x := s.rg a
      (∃ n : Nat, GOut s d (BitVec.ofNat 64 n) (exec (.clz d a) s)
        ∧ n ≤ 64 ∧ (∀ i, i < n → x.getLsbD (63 - i) = false) ∧ (n < 64 → x.getLsbD (63 - n) = true))
      ∧ (∃ n : Nat, GOut s d (BitVec.ofNat 64 n) (exec (.ctz d a) s)
        ∧ n ≤ 64 ∧ (∀ i, i < n → x.getLsbD i = false) ∧ (n < 64 → x.getLsbD n = true))
      ∧ GOut s d (BitVec.ofNat 64 ((Finset.range 64).filter (fun i => x.getLsbD i = true)).card) (exec (.popc d a) s)
      ∧ (∃ v : Word, GOut s d v (exec (.brev d a) s) ∧ ∀ i, i < 64 → v.getLsbD i = x.getLsbD (63 - i))
      ∧ (∃ v : Word, GOut s d v (exec (.bswap d a) s)
        ∧ ∀ i, i < 8 → v.extractLsb' (8 * i) 8 = x.extractLsb' (8 * (7 - i)) 8)
      ∧ GOut s d (BitVec.ofInt 64 (x.setWidth 8).toInt) (exec (.sext d a 0) s)
      ∧ GOut s d (BitVec.ofInt 64 (x.setWidth 16).toInt) (exec (.sext d a 1) s)
      ∧ GOut s d (BitVec.ofInt 64 (x.setWidth 32).toInt) (exec (.sext d a 2) s)
      ∧ GOut s d (BitVec.ofNat 64 (x.toNat % 2 ^ 8)) (exec (.zext d a 0) s)
      ∧ GOut s d (BitVec.ofNat 64 (x.toNat % 2 ^ 16)) (exec (.zext d a 1) s)
      ∧ GOut s d (BitVec.ofNat 64 (x.toNat % 2 ^ 32)) (exec (.zext d a 2) s))
  -- MULDIV
  ∧ (∀ (s : State) (d a b : BitVec 5),
        let x := s.rg a
        let y := s.rg b
        let x32 := (x.setWidth 32 : BitVec 32)
        let y32 := (y.setWidth 32 : BitVec 32)
        GOut s d (BitVec.ofInt 64 (x.toInt * y.toInt)) (exec (.mul d a b) s)
        ∧ GOut s d (BitVec.ofInt 64 (x.toInt * y.toInt / 2 ^ 64)) (exec (.mulh d a b) s)
        ∧ GOut s d (BitVec.ofNat 64 (x.toNat * y.toNat / 2 ^ 64)) (exec (.mulhu d a b) s)
        ∧ GOut s d (BitVec.ofInt 64 (x.toInt * (y.toNat : Int) / 2 ^ 64)) (exec (.mulhsu d a b) s)
        ∧ GOut s d (BitVec.ofInt 64 (x32 * y32).toInt) (exec (.mulw d a b) s)
        ∧ GOut s d (if y = 0 then BitVec.allOnes 64 else BitVec.ofInt 64 (x.toInt.tdiv y.toInt)) (exec (.div d a b) s)
        ∧ GOut s d (if y = 0 then BitVec.allOnes 64 else BitVec.ofNat 64 (x.toNat / y.toNat)) (exec (.divu d a b) s)
        ∧ GOut s d (if y = 0 then x else BitVec.ofInt 64 (x.toInt - y.toInt * x.toInt.tdiv y.toInt)) (exec (.rem d a b) s)
        ∧ GOut s d (if y = 0 then x else BitVec.ofInt 64 (x.toNat - y.toNat * (x.toNat / y.toNat))) (exec (.remu d a b) s)
        ∧ GOut s d (if y32 = 0 then BitVec.allOnes 64
            else BitVec.ofInt 64 (BitVec.ofInt 32 (x32.toInt.tdiv y32.toInt)).toInt) (exec (.divw d a b) s))

/-- R140 to R146, R148, R165, R166: the arithmetic of the float formats and of m8, on values; x is nonzero where FFmt.Rounds
speaks of it. A NaN gives the canonical NaN, and NV where one signals; ∞ - ∞, 0 × ∞, 0 / 0, ∞ / ∞ and the root of a negative number
give it with NV; a nonzero number by zero, and the reciprocals of zero, give ∞ with DZ. Every other result is the exact one, rounded
once. An exact zero has the sign of its operands where a sum's agree, the product's or quotient's sign, and else + (- under RDN).
The codes of m8 rise in value, and a number goes to the nearest, on a tie to the even code. -/
def Obligations.FloatArithmetic : Prop :=
  (∀ (f : FFmt) (fz : Bool) (rm : Nat) (a b d : FVal) (negP : Bool), f ∈ ([f16, bf16, f32, f64] : List FFmt) → rm < 5 →
      (∀ n m e, (a = .fin n m e ∨ b = .fin n m e ∨ d = .fin n m e) → 0 < m) →
    let out (x : ℝ) (z : Bool) (r : Nat × Flags) : Prop := (x = 0 → r = (f.zero z, 0)) ∧ (x ≠ 0 → f.Rounds fz rm x r)
    let nv (l : List FVal) : Flags := if ∃ v ∈ l, v = .nan true then fNV else 0
    let invalid : Nat × Flags := (f.nan, fNV)
    let s := a.neg != b.neg
    let finite (v : FVal) : Prop := v.isNan = false ∧ v.isInf = false
    -- rounding of a value
    ((a.isNan = true → f.round fz rm a = (f.nan, nv [a])) ∧ (a.isInf = true → f.round fz rm a = (f.inf a.neg, 0))
      ∧ (∀ p, a.num = some p → out p a.neg (f.round fz rm a)))
    -- sums
    ∧ (let r := f.add fz rm a b
       (a.isNan = true ∨ b.isNan = true → r = (f.nan, nv [a, b]))
       ∧ (a.isInf = true → b.isInf = true → r = if a.neg = b.neg then (f.inf a.neg, 0) else invalid)
       ∧ (a.isInf = true → finite b → r = (f.inf a.neg, 0)) ∧ (finite a → b.isInf = true → r = (f.inf b.neg, 0))
       ∧ (∀ p q, a.num = some p → b.num = some q → out ((p + q : ℚ) : ℝ)
            (if p = 0 ∧ q = 0 ∧ a.neg = b.neg then a.neg else rm == 2) r))
    -- products
    ∧ (let r := f.mul fz rm a b
       (a.isNan = true ∨ b.isNan = true → r = (f.nan, nv [a, b]))
       ∧ ((a.isInf = true ∧ b.isZero = true) ∨ (a.isZero = true ∧ b.isInf = true) → r = invalid)
       ∧ ((a.isInf = true ∧ b.isNan = false ∧ b.isZero = false) ∨ (a.isNan = false ∧ a.isZero = false ∧ b.isInf = true) →
            r = (f.inf s, 0))
       ∧ (∀ p q, a.num = some p → b.num = some q → out ((p * q : ℚ) : ℝ) s r))
    -- quotients
    ∧ (let r := f.div fz rm a b
       (a.isNan = true ∨ b.isNan = true → r = (f.nan, nv [a, b]))
       ∧ ((a.isInf = true ∧ b.isInf = true) ∨ (a.isZero = true ∧ b.isZero = true) → r = invalid)
       ∧ (a.isInf = true → finite b → r = (f.inf s, 0)) ∧ (finite a → b.isInf = true → r = (f.zero s, 0))
       ∧ (finite a → a.isZero = false → b.isZero = true → r = (f.inf s, fDZ))
       ∧ (∀ p q, a.num = some p → b.num = some q → q ≠ 0 → out ((p / q : ℚ) : ℝ) s r))
    -- products and sums in one, the product negated with negP
    ∧ (let r := f.fma fz rm negP a b d
       let t := s != negP
       let isInf := (a.isInf = true ∧ b.isNan = false ∧ b.isZero = false) ∨ (a.isNan = false ∧ a.isZero = false ∧ b.isInf = true)
       (a.isNan = true ∨ b.isNan = true → r = (f.nan, nv [a, b, d]))
       ∧ ((a.isInf = true ∧ b.isZero = true) ∨ (a.isZero = true ∧ b.isInf = true) → r = invalid)
       ∧ (isInf ∨ (finite a ∧ finite b) → d.isNan = true → r = (f.nan, nv [d]))
       ∧ (isInf → d.isNan = false → r = if d.isInf = true ∧ d.neg ≠ t then invalid else (f.inf t, 0))
       ∧ (finite a → finite b → d.isInf = true → r = (f.inf d.neg, 0))
       ∧ (∀ p q v, a.num = some p → b.num = some q → d.num = some v →
            out (((if negP then -(p * q) else p * q) + v : ℚ) : ℝ) (if p * q = 0 ∧ v = 0 ∧ t = d.neg then t else rm == 2) r))
    -- roots and reciprocals
    ∧ (a.isNan = true → ∀ g ∈ ([f.sqrt, f.rcp, f.rsq] : List (Bool → Nat → FVal → Nat × Flags)), g fz rm a = (f.nan, nv [a]))
    ∧ (a.isInf = true → f.sqrt fz rm a = (if a.neg then invalid else (f.inf false, 0)) ∧ f.rcp fz rm a = (f.zero a.neg, 0)
        ∧ f.rsq fz rm a = if a.neg then invalid else (f.zero false, 0))
    ∧ (a.isZero = true → f.sqrt fz rm a = (f.zero a.neg, 0) ∧ f.rcp fz rm a = (f.inf a.neg, fDZ) ∧ f.rsq fz rm a = (f.inf a.neg, fDZ))
    ∧ (∀ p, a.num = some p → p ≠ 0 → f.Rounds fz rm ((1 / p : ℚ) : ℝ) (f.rcp fz rm a)
        ∧ (p < 0 → f.sqrt fz rm a = invalid ∧ f.rsq fz rm a = invalid)
        ∧ (0 < p → f.Rounds fz rm (Real.sqrt (p : ℝ)) (f.sqrt fz rm a) ∧ f.Rounds fz rm (1 / Real.sqrt (p : ℝ)) (f.rsq fz rm a))))
  -- FZ replaces a subnormal source by a zero of its sign
  ∧ (∀ (f : FFmt) (c : Nat), f ∈ ([f16, bf16, f32, f64] : List FFmt) → c < 2 ^ f.width →
      f.flush false c = c ∧ f.decode (f.flush true c) = match (f.decode c).num with
        | some p => if |p| < 2 ^ (1 - (f.bias : ℤ)) then .zero (f.decode c).neg else f.decode c
        | none => f.decode c)
  -- the positive codes of m8 under bias b, and rounding to it
  ∧ (∀ (b : ℤ),
      let v (c : Nat) : ℚ := ((m8Decode b c).num).getD 0
      m8Decode b 0 = .zero false ∧ m8Decode b 0x80 = .nan false
      ∧ (∀ c, 1 ≤ c → c < 0x80 → (m8Decode b c).num = some (v c) ∧ (m8Decode b (0x80 + c)).num = some (-v c))
      ∧ v 1 = 2 ^ (b - 22) ∧ v 2 = 2 ^ (b - 21) ∧ v 3 = 2 ^ (b - 20) ∧ (∀ c : Nat, 4 ≤ c → c < 8 → v c = 2 ^ (b - 19 + (c - 4)))
      ∧ (∀ w lo : Nat, (w, lo) ∈ ([(1, 15), (2, 11), (3, 7), (4, 3)] : List (Nat × Nat)) →
          ∀ i, i < 2 ^ (w + 2) → v (2 ^ (w + 2) + i) = 2 ^ (b - lo + (i / 2 ^ w : Nat)) * (1 + (i % 2 ^ w : Nat) / 2 ^ w))
      ∧ ∀ (x : FVal), (∀ n m e, x = .fin n m e → 0 < m) →
        let r := roundM8 b x
        let sg (c : Nat) : Nat := if x.neg then 0x80 + c else c
        (∀ g, x = .nan g → r = (0x80, if g then fNV else 0)) ∧ (x.isInf = true → r = (sg 0x7F, fSAT))
        ∧ (x.isZero = true → r = (0, 0))
        ∧ ∀ p, x.num = some p → p ≠ 0 →
          (2 ^ b * 31 / 16 < |p| → r = (sg 0x7F, fSAT))
          ∧ (|p| ≤ 2 ^ (b - 22) / 2 → r = (0, fUF ||| fNX))
          ∧ (|p| ≤ 2 ^ b * 31 / 16 → 2 ^ (b - 22) / 2 < |p| → ∃ c, 1 ≤ c ∧ c < 0x80
              ∧ (∀ i, 1 ≤ i → i < 0x80 → abs (v c - abs p) ≤ abs (v i - abs p) ∧ (i ≠ c → abs (v c - abs p) = abs (v i - abs p) → c % 2 = 0))
              ∧ r = (sg c, if v c = |p| then 0 else fNX)))

/-- R111, R112: the field of g[ga] at pos, of width w, by its bits: bits above 63 read 0, and a signed field is filled
with its top bit. An insertion replaces the field's bits below 64 alone. The register forms take pos and width from
g[gb], a width above 64 as 64. -/
def Obligations.BitFieldResults : Prop :=
  ∀ (s : State) (d a b : BitVec 5) (pos wm1 : BitVec 6),
    let x := s.rg a
    let w := wm1.toNat + 1
    let p := pos.toNat
    let y := s.rg b
    let pv := y.toNat % 256
    let wv := min (y.toNat / 256 % 256) 64
    let bit (q w i : Nat) (sg : Bool) : Bool :=
      if q < 64 ∧ 0 < w then (if i < w then x.getLsbD (q + i) else sg && x.getLsbD (q + w - 1)) else false
    let ins (q w i : Nat) : Bool := if q ≤ i ∧ i < q + w then x.getLsbD (i - q) else (s.rg d).getLsbD i
    (∃ v : Word, GOut s d v (exec (.bfx d a pos wm1) s) ∧ ∀ i, i < 64 → v.getLsbD i = bit p w i true)
    ∧ (∃ v : Word, GOut s d v (exec (.bfxz d a pos wm1) s) ∧ ∀ i, i < 64 → v.getLsbD i = bit p w i false)
    ∧ (∃ v : Word, GOut s d v (exec (.bfi d a pos wm1) s) ∧ ∀ i, i < 64 → v.getLsbD i = ins p w i)
    ∧ (∃ v : Word, GOut s d v (exec (.bfxv d a b) s) ∧ ∀ i, i < 64 → v.getLsbD i = bit pv wv i true)
    ∧ (∃ v : Word, GOut s d v (exec (.bfxzv d a b) s) ∧ ∀ i, i < 64 → v.getLsbD i = bit pv wv i false)
    ∧ (∃ v : Word, GOut s d v (exec (.bfiv d a b) s) ∧ ∀ i, i < 64 → v.getLsbD i = ins pv wv i)

/-- R113 to R116: the immediate forms. -/
def Obligations.ImmediateResults : Prop :=
  ∀ (s : State) (d a : BitVec 5) (imm v : BitVec 16) (amt : BitVec 6) (hw : BitVec 2) (imm21 : BitVec 21),
    let x := s.rg a
    let i : Word := BitVec.ofInt 64 imm.toInt
    let n := amt.toNat
    let sh := 16 * hw.toNat
    GOut s d (x + i) (exec (.addi d a imm) s)
    ∧ GOut s d (x &&& i) (exec (.andi d a imm) s)
    ∧ GOut s d (x ||| i) (exec (.ori d a imm) s)
    ∧ GOut s d (x ^^^ i) (exec (.xori d a imm) s)
    ∧ GOut s d (if x.toInt < imm.toInt then 1 else 0) (exec (.slti d a imm) s)
    ∧ GOut s d (if x.toNat < i.toNat then 1 else 0) (exec (.sltiu d a imm) s)
    ∧ GOut s d (BitVec.ofNat 64 (x.toNat * 2 ^ n)) (exec (.slli d a amt) s)
    ∧ GOut s d (BitVec.ofNat 64 (x.toNat / 2 ^ n)) (exec (.srli d a amt) s)
    ∧ GOut s d (BitVec.ofInt 64 (x.toInt / 2 ^ n)) (exec (.srai d a amt) s)
    ∧ (∃ r : Word, GOut s d r (exec (.rori d a amt) s) ∧ ∀ j, j < 64 → r.getLsbD j = x.getLsbD ((j + n) % 64))
    ∧ GOut s d (BitVec.ofNat 64 (v.toNat * 2 ^ sh)) (exec (.movz d hw v) s)
    ∧ (∃ r : Word, GOut s d r (exec (.movk d hw v) s)
      ∧ ∀ j, j < 64 → r.getLsbD j = if sh ≤ j ∧ j < sh + 16 then v.getLsbD (j - sh) else (s.rg d).getLsbD j)
    ∧ GOut s d (s.pc + BitVec.ofInt 64 (imm21.toInt * 4)) (exec (.lapc d imm21) s)

/-- R117 to R119: a compare branch goes to PC + sext(off16) * 4 where its condition holds, and on to PC + 4 otherwise; J
and JAL jump, JAL with the link in g30; JR and JALR go to g[ga], read before the link is written, and a target with bits
[1:0] set traps 0x08 with TVAL the target and no link. -/
def Obligations.BranchesAndJumps : Prop :=
  (∀ (s : State) (a b : BitVec 5) (off : BitVec 16) (far : BitVec 26),
      let x := s.rg a
      let y := s.rg b
      let dest (c : Prop) [Decidable c] : Word := if c then s.pc + BitVec.ofInt 64 (off.toInt * 4) else s.pc + 4
      PcOut s (dest (x = y)) (exec (.beq a b off) s)
      ∧ PcOut s (dest (x ≠ y)) (exec (.bne a b off) s)
      ∧ PcOut s (dest (x.toInt < y.toInt)) (exec (.blt a b off) s)
      ∧ PcOut s (dest (y.toInt ≤ x.toInt)) (exec (.bge a b off) s)
      ∧ PcOut s (dest (x.toNat < y.toNat)) (exec (.bltu a b off) s)
      ∧ PcOut s (dest (y.toNat ≤ x.toNat)) (exec (.bgeu a b off) s)
      ∧ PcOut s (s.pc + BitVec.ofInt 64 (far.toInt * 4)) (exec (.j far) s)
      ∧ GPcOut s 30 (s.pc + 4) (s.pc + BitVec.ofInt 64 (far.toInt * 4)) (exec (.jal far) s))
  ∧ (∀ (s : State) (d a : BitVec 5),
      let t := s.rg a
      if t.toNat % 4 = 0 then
        PcOut s t (exec (.jr a) s) ∧ GPcOut s d (s.pc + 4) t (exec (.jalr d a) s)
      else
        exec (.jr a) s = .next (s.trap { cause := 8, tval := t }) ∧ exec (.jalr d a) s = .next (s.trap { cause := 8, tval := t }))


/-! ## Memory -/

/-- R122: the scalar loads, each with its width and extension, and the scalar stores; a misaligned address traps 0x03 with
TVAL the address. Against the state after the access, whose own frame is AccessesChangeMemoryStateOnly, a load writes gd
and the PC, and a store the PC alone. -/
def Obligations.ScalarLoadsAndStores : Prop :=
  (∀ (s : State) (d base : BitVec 5) (off : BitVec 16),
      let a := s.rg base + BitVec.ofInt 64 off.toInt
      LoadOut s d a 1 true (exec (.lb d base off) s)
      ∧ LoadOut s d a 1 false (exec (.lbz d base off) s)
      ∧ LoadOut s d a 2 true (exec (.lh d base off) s)
      ∧ LoadOut s d a 2 false (exec (.lhz d base off) s)
      ∧ LoadOut s d a 4 true (exec (.lw d base off) s)
      ∧ LoadOut s d a 4 false (exec (.lwz d base off) s)
      ∧ LoadOut s d a 8 false (exec (.ld d base off) s))
  ∧ (∀ (s : State) (t base : BitVec 5) (off : BitVec 16),
      let a := s.rg base + BitVec.ofInt 64 off.toInt
      StoreOut s a 1 (s.rg t) (exec (.sb t base off) s)
      ∧ StoreOut s a 2 (s.rg t) (exec (.sh t base off) s)
      ∧ StoreOut s a 4 (s.rg t) (exec (.sw t base off) s)
      ∧ StoreOut s a 8 (s.rg t) (exec (.sd t base off) s))

/-- The frame of every access, release and acquire: whatever it does to caches and memory, no core's registers, mode,
engines or vector state change, no structure of the device does, and memory keeps its canonical form. A load changes no
byte of memory at the homes, and a store into a cacheable range none, while no cache of the core's tiers is full (a line
leaves for want of room only when the whole cache is full: the model's choice, log 10) and the core has sent nothing that is
still under way. A store of n bytes into a range that is not cached, a device's too, changes those n bytes at the translated
address and no others, where nothing is being moved and no AMOWAIT watches them. -/
def Obligations.AccessesChangeMemoryStateOnly : Prop :=
  ∀ (s : State) (c dva n v r sc : Nat) (k : AKind) (scalar sup : Bool),
    let still : Prop := (s.coreAt c).l1.length < 1024 ∧ (s.clusterAt (clusterOf c)).cache.length < 8192
      ∧ (s.dieAt (dieOf c)).cache.length < s.dieCap (dieOf c) ∧ s.requests c = []
    let bytesAt (pa : Nat) (t : State) : Prop := ∀ a, t.byteAt a =
      if pa ≤ a ∧ a < pa + n then BitVec.ofNat 8 (v / 256 ^ (a - pa)) else s.byteAt a
    (s.xlat c dva k scalar sup).FromMem s
    ∧ (s.load c dva n scalar sup).FromMem s
    ∧ (s.store c dva n v scalar sup).FromMem s
    ∧ (s.release c r sc).FromMem s
    ∧ MemOnly s (s.acquire c r sc)
    ∧ (∀ w t, s.load c dva n scalar sup = .ok w t → still → ∀ a, t.byteAt a = s.byteAt a)
    ∧ (∀ x s' t, s.xlat c dva .write scalar sup = .ok x s' → x.ca = true → s'.storeAt c dva x n v = .ok () t → still →
        ∀ a, t.byteAt a = s.byteAt a)
    ∧ (∀ x s' t, s.xlat c dva .write scalar sup = .ok x s' → x.ca = false → s.tents = [] → (x.dev = true ∨ s.tentTag c x.rid = none) →
        s.requests c = [] → s.moves = [] → (∀ q ∈ s.waiters, overlap x.pa n q.pa (if q.wide then 8 else 4) = false) →
        s'.storeAt c dva x n v = .ok () t → bytesAt x.pa t)

/-- R85, R86, R88 to R91: translation. A DVA that is not canonical traps 0x04. An entry comes from the lowest slot of the
core's table that matches, or else from the walk of the directory, which gives the last entry whose base is not above the DVA:
a miss and a malformed entry trap 0x04, poison 0x0E, an edit under way is waited for, and an entry that covers the DVA fills a
slot. On the entry the checks follow in their order, each with its cause, its KIND in the fault record and the DVA in TVAL.
Where all pass, an access of a resident granule gets the address and the attributes; a granule that the entry has not resident is looked up again:
resident there, its entry is checked and, in a slot that the walker fills, takes the place of the old one; else the access
traps 0x06 with KIND 8. That the record of KIND 8 describes the slot's own image and the TVAL of a poisoned walk are the model's
(log 16); so is KIND 7 where the memory map gives no place (log 12). -/
def Obligations.Translation : Prop :=
  (∀ (s : State) (c dva : Nat) (k : AKind) (scalar sup : Bool),
      let x := s.coreAt c
      let p := (s.partOfCore c).getD 0
      let trap (t : State) (f : XFault) : Acc Xl := .trap
        { cause := f.cause, tval := BitVec.ofNat 64 dva, frec := some (faultRecord dva k sup x.s.asn.toNat f) } t
      let poison (t : State) : Acc Xl := .trap { cause := 0x0E, tval := BitVec.ofNat 64 dva } t
      -- the checks of an entry e: the KIND of the one that fails, or the address and the attributes
      let checked (t : State) (e : BitVec 512) (fail : Nat → Prop) (pass : Xl → Prop) : Prop :=
        let q := (dva + entOffset e) % 2 ^ 64
        let allowed : Bool := match k with
          | .read => entPR e | .write => entPW e | .atomic => entPR e && entPW e | .fetch => entPX e
        if entPS e = true ∧ sup = false then fail 4
        else if allowed = false then fail 3
        else if entDEV e = true ∧ (scalar = false ∨ k = .fetch ∨ k = .atomic) then fail 5
        else if q / 2 ^ 56 ≠ 0 ∨ q / 2 ^ 54 % 4 = 3 then fail 6
        else if t.ownPa q = true ∧ t.backing q ≠ some p then fail 7
        else match t.place q (entIOV e) with
          | none => fail 7
          | some a => pass { pa := t.fwd a, raw := q, iov := entIOV e, rid := entRID e, ca := entCA e, dev := entDEV e
                             own := t.ownPa q, base := entBase e, clk := entCLK e }
      -- an access through entry e, of directory index idx, that slot i holds
      let through (t : State) (e : BitVec 512) (idx : Option Nat) (i : Nat) (r : Acc Xl) : Prop :=
        checked t e (fun kd => r = trap t ⟨5, kd, idx, some e⟩) (fun a =>
          if entResident e dva = true then r = .ok a t
          else match t.walk (some c) x.rdirPa dva with
            | .edit => r = .wait t
            | .poison => r = poison t
            | .found j e2 =>
              let u := if i < 8 then t else t.setCore c ((t.coreAt c).fillSlot i j e2)
              if entResident e2 dva = true then checked u e2 (fun kd => r = trap u ⟨5, kd, some j, some e2⟩) (fun b => r = .ok b u)
              else r = trap t ⟨6, 8, idx, some e⟩
            | _ => r = trap t ⟨6, 8, idx, some e⟩)
      let r := s.xlat c dva k scalar sup
      (canonical dva = false → r = trap s ⟨4, 1, none, none⟩)
      ∧ (canonical dva = true → ∀ i sl, x.findSlot dva = some (i, sl) →
          through (s.setCore c (x.touchSlot i)) sl.img sl.dirIdx i r)
      ∧ (canonical dva = true → x.findSlot dva = none → match s.walk (some c) x.rdirPa dva with
          | .edit => r = .wait s
          | .poison => r = poison s
          | .miss => r = trap s ⟨4, 0, none, none⟩
          | .malformed j e => r = trap s ⟨4, 2, some j, some e⟩
          | .found j e => through (s.setCore c (x.fillSlot x.victimSlot j e)) e (some j) x.victimSlot r))
  -- the slot that a walk fills: the lowest invalid one of 8 to 31, or the least recently used
  ∧ (∀ (x : Core) (j : Nat) (e : BitVec 512),
      let i := x.victimSlot
      let v (n : Nat) : Bool := entV (Store.get ({} : Slot) x.slots n).img
      ((∃ n, 8 ≤ n ∧ n < 32 ∧ v n = false) → 8 ≤ i ∧ i < 32 ∧ v i = false ∧ ∀ n, 8 ≤ n → n < i → v n = true)
      ∧ ((∀ n, 8 ≤ n → n < 32 → v n = true) → i = x.age.headD 8)
      ∧ Store.get ({} : Slot) (x.fillSlot i j e).slots i = { img := entStamp e x.s.asn.toNat x.s.asgen.toNat, dirIdx := some j }
      ∧ ∀ n, n ≠ i → Store.get ({} : Slot) (x.fillSlot i j e).slots n = Store.get {} x.slots n)
  -- the walk of a directory of n entries in the order of their bases
  ∧ (∀ (s : State) (d : Option Nat) (r dva : Nat),
      let n := s.dirCount r
      let base (j : Nat) : Nat := entBase (s.dirEntry r j)
      (s.dirPois d r 16 = true → s.walk d r dva = .poison)
      ∧ (s.dirPois d r 16 = false → s.dirSeq r % 2 = 1 → s.walk d r dva = .edit)
      ∧ ((∀ a m, s.dirPois d a m = false) → s.dirSeq r % 2 = 0 → (∀ i j, i < j → j < n → base i ≤ base j) →
          ((∀ j, j < n → dva < base j) → s.walk d r dva = .miss)
          ∧ ∀ j, j < n → base j ≤ dva → (∀ i, j < i → i < n → dva < base i) → s.walk d r dva =
            (let e := s.dirEntry r j
             if entV e = false ∨ entLimit e ≤ dva then .miss else if entMalformed e = true then .malformed j e else .found j e)))

/-- R84, R122, R123, R271, R336: an access that the L1 holds, and one that is not cached. A load gives the line's bytes and changes nothing, or traps 0x0E where
a word it touches is poisoned; a store that no join tags replaces its own bytes of the line and no others, marks the words
it touches dirty, and takes the poison of the words it writes whole. A store of whole words and then a load of them by the
same core gives the value stored, whatever line the store had to bring in. In a range that is not cached, a device's too, a load
gives the bytes of the home, or traps 0x0E where a word it touches is poisoned, and a store that no join tags is registered at
the home at once (whole, as HomeWriteReadsBack says), both over routes in service. -/
def Obligations.AccessesInL1 : Prop :=
  (∀ (s : State) (c dva n v : Nat) (x : Xl),
      let line := x.pa / 64
      let o := x.pa % 64
      let l := s.l1Line c line
      x.ca = true → 0 < n → o + n ≤ 64 → l.valid = BitVec.allOnes 16 → l.st = .v ∨ l.st = .o → s.tents = [] →
        (s.loadAt c dva x n = if l.pois &&& wordsTouched x.pa n ≠ 0 then .trap { cause := 0x0E, tval := BitVec.ofNat 64 dva } s
          else .ok (lineBytes l.data o n) s)
        ∧ (s.tentTag c x.rid = none → ∃ t l', s.storeAt c dva x n v = .ok () t ∧ t = s.setL1 c line l'
          ∧ (∀ i, i < 64 → lineBytes l'.data i 1 = if o ≤ i ∧ i < o + n then v / 256 ^ (i - o) % 256 else lineBytes l.data i 1)
          ∧ (∀ w, w < 16 → l'.dirty.getLsbD w = (l.dirty.getLsbD w || decide (o < 4 * w + 4 ∧ 4 * w < o + n)))
          ∧ (∀ w, w < 16 → l'.pois.getLsbD w = (l.pois.getLsbD w && !decide (o ≤ 4 * w ∧ 4 * w + 4 ≤ o + n)))
          ∧ l'.valid = l.valid ∧ l'.st = l.st ∧ l'.rid = l.rid))
  ∧ (∀ (s t : State) (c dva n v : Nat) (x : Xl),
      x.ca = true → s.tentTag c x.rid = none → s.tents = [] → (n = 4 ∨ n = 8) → x.pa % n = 0 →
        s.storeAt c dva x n v = .ok () t → ∃ u, t.loadAt c dva x n = .ok (v % 2 ^ (8 * n)) u)
  ∧ (∀ (s : State) (c dva n v : Nat) (x : Xl),
      x.ca = false → 0 < n → x.pa % 64 + n ≤ 64 → s.tents = [] → s.requests c = [] → s.cutOff c x.pa = false →
        (let u := s.sendRemote .read x.pa n 0
         s.loadAt c dva x n = if (s.homeLine (x.pa / 64)).2 &&& wordsTouched x.pa n ≠ 0 then
            .trap { cause := 0x0E, tval := BitVec.ofNat 64 dva } u
          else .ok (s.homeRead x.pa n) u)
        ∧ (x.dev = true ∨ s.tentTag c x.rid = none →
          s.storeAt c dva x n v = .ok () (s.homeWrite (some c) (some (.core c)) x.pa n v)))

/-- R122, R294, R336: a registered write at the homes of bytes that no waiter watches, while no range is being moved: its
bytes read back, every other byte of memory reads as before, and a word written whole loses its poison. -/
def Obligations.HomeWriteReadsBack : Prop :=
  ∀ (s : State) (who : Option Nat) (w : Option Awaiter) (pa n v : Nat),
    s.moves = [] → (∀ q ∈ s.waiters, overlap pa n q.pa (if q.wide then 8 else 4) = false) →
      let t := s.homeWrite who w pa n v
      (∀ a, t.byteAt a = if pa ≤ a ∧ a < pa + n then BitVec.ofNat 8 (v / 256 ^ (a - pa)) else s.byteAt a)
      ∧ t.homeRead pa n = v % 2 ^ (8 * n)
      ∧ (∀ q, pa ≤ 4 * q → 4 * q + 4 ≤ pa + n → Store.get false t.pois q = false)

/-! ## Atomics, synchronisation, barriers, joins -/

/-- R292, R293: the atomics of functions 0 to 11; every atomic of the group traps 0x03 where its address is not a multiple of its
width. The store is that of State.homeWrite at the address that the translation gives (HomeWriteReadsBack says which bytes that
changes). What the word of another package's home answers is the model's (log 13), and so is that the line leaves the core's
caches before the atomic (log 38). -/
def Obligations.AtomicResults : Prop :=
  (∀ (s : State) (d a b : BitVec 5) (scope order : BitVec 2) (width : Bool),
      let w := if width then 64 else 32
      let p := s.rg a
      let y := (s.rg b).toNat % 2 ^ w
      let sg (v : Nat) : Int := (BitVec.ofNat w v).toInt
      let out (op : PeerOp) (new : Nat → Nat) : Res → Prop :=
        AtomOut s op y p scope order width true (fun old => some (new old % 2 ^ w)) (fun t v r => GOut t d v r)
      out .add (fun x => x + y) (exec (.amoadd d a b scope order width) s)
      ∧ out .and (fun x => x &&& y) (exec (.amoand d a b scope order width) s)
      ∧ out .or (fun x => x ||| y) (exec (.amoor d a b scope order width) s)
      ∧ out .xor (fun x => x ^^^ y) (exec (.amoxor d a b scope order width) s)
      ∧ out .min (fun x => if sg y < sg x then y else x) (exec (.amomin d a b scope order width) s)
      ∧ out .max (fun x => if sg x < sg y then y else x) (exec (.amomax d a b scope order width) s)
      ∧ out .minu (fun x => min x y) (exec (.amominu d a b scope order width) s)
      ∧ out .maxu (fun x => max x y) (exec (.amomaxu d a b scope order width) s)
      ∧ out .swap (fun _ => y) (exec (.amoswap d a b scope order width) s)
      ∧ AtomOut s (.cas (BitVec.ofNat 64 ((s.rg d).toNat % 2 ^ w))) y p scope order width true (fun old => if old = (s.rg d).toNat % 2 ^ w then some y else none)
          (fun t v r => GOut t d v r) (exec (.amocas d a b scope order width) s)
      ∧ AtomOut s .read 0 p scope order width true (fun _ => none) (fun t v r => GOut t d v r) (exec (.amold d a scope order width) s)
      ∧ AtomOut s .write y p scope order width false (fun _ => some y) (fun t _ r => PcOut t (t.pc + 4) r)
          (exec (.amost a b scope order width) s))
  ∧ (∀ (s : State) (d a b : BitVec 5) (scope order : BitVec 2) (width : Bool),
      (s.rg a).toNat % (if width then 8 else 4) ≠ 0 →
        ∀ i ∈ ([.amoadd d a b scope order width, .amoand d a b scope order width, .amoor d a b scope order width,
            .amoxor d a b scope order width, .amomin d a b scope order width, .amomax d a b scope order width,
            .amominu d a b scope order width, .amomaxu d a b scope order width, .amoswap d a b scope order width,
            .amocas d a b scope order width, .amold d a scope order width, .amost a b scope order width,
            .amowait d a b scope order width] : List Instr),
          exec i s = .next (s.trap { cause := 3, tval := s.rg a }))

/-- R294: AMOWAIT. A word of another package is read by a UALink transaction (R262). Where its word is poisoned, or its route
down, it traps 0x0E. On a word that has another value than g[gb], or whose site has no room for a waiter, it gives the word's
value, extended, acquires where it has an acquire order, and goes on with PC + 4. On a word with that value it suspends with
REASON 4 (SuspendOut: a wisp that is pinned or in its handler waits on its core with PC + 4 and g1 to g3 in its record, log
18; any other leaves its core with PC + 4), the last of the word's queue; if its own departure has changed the word it is
dequeued at once. A kill that is signalled for the wisp takes effect there. -/
def Obligations.AmowaitResults : Prop :=
  ∀ (s s0 : State) (d a b : BitVec 5) (scope order : BitVec 2) (width : Bool) (x : Xl),
    let y : Word := if width then s.rg b else BitVec.ofInt 64 ((s.rg b).setWidth 32).toInt
    let s' := s0.sendRemote .read x.pa (if width then 8 else 4) 0
    let v := s'.watched x.pa width
    let s3 := if order = 1 ∨ order = 3 then s'.acquire s.cur 255 scope.toNat else s'
    let w (c : Option Nat) : Waiter := ⟨x.pa, width, y, (s'.wispOn s.cur).1, (s'.wispOn s.cur).2, c⟩
    let queued (c : Option Nat) (t : State) : State :=
      let u := { t with waiters := t.waiters ++ [w c] }
      if u.watched x.pa width = y then u else u.wakeWaiter (w c)
    let i : Instr := .amowait d a b scope order width
    s.atomicPrelude (s.rg a) scope order width = .ok x s0 →
      (s'.homePois x.pa (if width then 8 else 4) = true ∨ s'.cutOff s.cur x.pa = true →
        exec i s = .next (s'.trap { cause := 0x0E, tval := s.rg a }))
      ∧ (s'.homePois x.pa (if width then 8 else 4) = false → s'.cutOff s.cur x.pa = false →
        (v ≠ y ∨ s'.queueFull x.pa = true → GOut s3 d v (exec i s) ∧ s3.pc = s.pc)
        ∧ (v = y → s'.queueFull x.pa = false → s'.killDue = false → s'.pc = s.pc
          ∧ SuspendOut s' 4 (.word x.pa y width d.toNat order.toNat scope.toNat)
              (queued (if s'.staysPut = true then some s.cur else none)) (exec i s))
        ∧ (v = y → s'.queueFull x.pa = false → s'.me.s.inh = false → ∀ g code, s'.me.kill = some (g, code) →
          exec i s = .next (s'.killLeave s.cur code)))

/-- R266, R275, R282 to R284, R287: ACQ, REL, FENCE and IFENCE complete, with the region, the scope and the core's caches
handled by State.release and State.acquire; a REL or IFENCE waits for the answers to forwards, and a FENCE, after what the core
has sent, for these and for the acknowledgements of RTINVs no wider than itself; a region number outside 1 to 255 traps 0x01
with the instruction word in TVAL. What a release does: no line of the region is dirty any longer in the L1, from die scope on
in the cluster cache, and from package scope on in the die cache (lines of other packages from system scope on). A word that
was dirty in the L1 stands, as it was there, in the tier of the scope: at its home from package scope on, whoever owns words of
the line; at die scope in the die cache and at cluster scope in the cluster cache, where nobody owns words of it. (Premises:
the tier has room, no AMOWAIT waits, no range moves, the route to the home is in service, and the caches are in their canonical
form. That a tier with room keeps the word, and that a release may write back more than it must, are the model's: logs 10
and 40.) -/
def Obligations.RegionFences : Prop :=
  (∀ (s : State) (a : BitVec 5) (scope : BitVec 2),
    let r := (s.rg a).toNat
    let ok := 1 ≤ r ∧ r ≤ 255
    let u := s.performSent s.cur
    (ok → PcOut (s.acquire s.cur r scope.toNat) (s.pc + 4) (exec (.acq a scope) s))
    ∧ (ok → let t := s.releaseNow s.cur r scope.toNat
        if t.awaitsAnswer s.cur = true then
          exec (.rel a scope) s = .next t.block ∧ exec (.ifence a scope) s = .next t.block
        else PcOut t (s.pc + 4) (exec (.rel a scope) s) ∧ PcOut (t.dropCode s.cur r) (s.pc + 4) (exec (.ifence a scope) s))
    ∧ (u.awaitsAnswer s.cur = false ∧ (∀ q ∈ u.me.inval, scope.toNat < q.scope) → PcOut u (s.pc + 4) (exec (.fence scope) s))
    ∧ (u.awaitsAnswer s.cur = true ∨ (∃ q ∈ u.me.inval, q.scope ≤ scope.toNat) → exec (.fence scope) s = .next u.block)
    ∧ (¬ ok → ∀ i ∈ ([.acq a scope, .rel a scope, .ifence a scope] : List Instr),
        exec i s = .next (s.trap { cause := 1, tval := (encode i).setWidth 64 })))
  ∧ (∀ (s : State) (c r sc line i : Nat), i < 16 →
    let t := s.releaseNow c r sc
    let u := s.performSent c
    let l := u.l1Line c line
    let k := clusterOf c
    let d := dieOf c
    let word (l : Line) : Nat := lineBytes l.data (4 * i) 4
    let named (l : Line) : Prop := l.valid ≠ 0 ∧ (r = 255 ∨ l.rid = r)
    let st := (t.l1Line c line).st
    (named (t.l1Line c line) → st = .v ∨ st = .o → (t.l1Line c line).dirty = 0)
    ∧ (1 ≤ sc → named (t.cluLine k line) → (t.cluLine k line).dirty = 0)
    ∧ (2 ≤ sc → named (t.dieLine d line) → (t.dieLine d line).own = true ∨ 3 ≤ sc → (t.dieLine d line).dirty = 0)
    ∧ (named l → l.st = .v ∨ l.st = .o → l.dirty.getLsbD i = true → u.waiters = [] → u.moves = [] →
        u.reqDown d (64 * line) = false → Store.wf ({} : Line) (u.coreAt c).l1 = true →
        Store.wf ({} : Line) (u.clusterAt k).cache = true → Store.wf ({} : Line) (u.dieAt d).cache = true →
        (2 ≤ sc → l.own = true ∨ 3 ≤ sc → t.homeRead (64 * line + 4 * i) 4 = word l)
        ∧ (sc = 1 → (u.regAt line).owners = [] →
          (u.dieAt d).cache.length + (u.clusterAt k).cache.length + (u.coreAt c).l1.length ≤ u.dieCap d →
          (t.dieLine d line).valid.getLsbD i = true ∧ word (t.dieLine d line) = word l)
        ∧ (sc = 0 → (u.regAt line).owners = [] → (u.clusterAt k).cache.length + (u.coreAt c).l1.length ≤ 8192 →
          (t.cluLine k line).valid.getLsbD i = true ∧ word (t.cluLine k line) = word l)))

/-- R267: after an acquire of region r at cluster scope or above, no line of region r in state V is left in the core's L1,
none in the cluster cache at die scope or above, and none in the die cache at package scope, lines of other packages apart, and at
system scope; 255 names every region but 0. Of the region's other lines in the L1 (in its canonical form), an O line keeps the
words that the core owns, an OV line passes to OI, and IO and OI lines stay as they are. -/
def Obligations.AcquireDropsLines : Prop :=
  ∀ (s : State) (c r : Nat), 1 ≤ r → r ≤ 255 →
    let named (l : Line) : Prop := if r = 255 then l.rid ≠ 0 else l.rid = r
    (∀ sc line, named ((s.acquire c r sc).l1Line c line) → ((s.acquire c r sc).l1Line c line).st ≠ .v)
    ∧ (∀ sc line, 1 ≤ sc → ¬ named ((s.acquire c r sc).cluLine (clusterOf c) line))
    ∧ (∀ sc line, 2 ≤ sc → named ((s.acquire c r sc).dieLine (dieOf c) line) →
        sc = 2 ∧ ((s.acquire c r sc).dieLine (dieOf c) line).own = false)
    ∧ (∀ sc line, s.awaited .port = false → Store.wf ({} : Line) ((s.performSent c).coreAt c).l1 = true →
        let l := (s.performSent c).l1Line c line
        let l' := (s.acquire c r sc).l1Line c line
        let mine := ((s.performSent c).regAt line).words c
        named l → (l.st = .io ∨ l.st = .oi → l' = l) ∧ (l.st = .ov → l' = { l with st := .oi })
          ∧ (l.st = .o → l'.st = .o ∧ l' = { l with valid := l.valid &&& mine, dirty := l.dirty &&& mine, pois := l.pois &&& mine }))

/-- R285, R286: OWN answers with the number of a free slot when its limits hold and it can have one, with a status word
otherwise; DISOWN of a slot that holds no range answers 1, of any other 0 once no line of it is in transit; operands outside
their limits trap 0x01. What a DISOWN does to the lines of its slot in the L1 at once: an O line passes to OV, its dirty words
gone with its message; a line in IO, OI, OV or V stays as it is, and so does every line outside the slot. -/
def Obligations.OwnAndDisown : Prop :=
  ∀ (s : State) (d a b : BitVec 5),
    let c := s.cur
    let base := (s.rg a).toNat
    let n := 2 ^ ownWidth (s.rg b)
    let last := (base + (ownCount (s.rg b) - 1) * ownStride (s.rg b) + n - 1) % 2 ^ 64
    (ownLegal (s.rg a) (s.rg b) = false →
      exec (.own d a b) s = .next (s.trap { cause := 1, tval := (encode (.own d a b)).setWidth 64 }))
    ∧ (ownLegal (s.rg a) (s.rg b) = true → ∀ t u s1 s2,
        s.xlat c base .write true s.me.sup = .ok t s1 → s1.xlat c last .write true s1.me.sup = .ok u s2 →
        match s2.me.freeOwnSlot with
        | none => GOut s2 d 0x8000000000000001 (exec (.own d a b) s)
        | some i =>
          if t.base ≠ u.base then GOut s2 d 0x8000000000000002 (exec (.own d a b) s)
          else if t.ca = false ∨ t.own = false then GOut s2 d 0x8000000000000003 (exec (.own d a b) s)
          else if (s2.tentTag c t.rid).isSome = true then GOut s2 d 0x8000000000000004 (exec (.own d a b) s)
          else
            let r : OwnRange := { base := t.pa, stride := ownStride (s.rg b), count := ownCount (s.rg b), width := n
                                  cells := s2.ownCells t.raw t.iov (ownStride (s.rg b)) (ownCount (s.rg b)) n }
            (∀ e ∈ r.cells, (s2.l1Line c e.1).st = .v ∨ (s2.l1Line c e.1).st = .o) →
              GOut ((s2.updCore c (fun x => { x with owned := Store.set {} x.owned i r })).sendOwnreqs c r) d
                (BitVec.ofNat 64 i) (exec (.own d a b) s))
    ∧ ((s.rg a).toNat < 8 → (Store.get ({} : OwnRange) s.me.owned (s.rg a).toNat).count = 0 →
        GOut s d 1 (exec (.disown d a) s))
    ∧ ((s.rg a).toNat < 8 → (Store.get ({} : OwnRange) s.me.owned (s.rg a).toNat).count ≠ 0 →
        let s1 := if (Store.get ({} : OwnRange) s.me.owned (s.rg a).toNat).leaving then s
          else s.beginDisown c (s.rg a).toNat
        if s1.disownWaits c (s.rg a).toNat = true then exec (.disown d a) s = .next s1.block
        else GOut (s1.endDisown c (s.rg a).toNat) d 0 (exec (.disown d a) s))
    ∧ (∀ n line,
        let r : OwnRange := Store.get {} (s.coreAt c).owned n
        let l := (s.performSent c).l1Line c line
        (s.beginDisown c n).l1Line c line = if line ∈ r.lines ∧ l.st = .o then { l with st := .ov, dirty := 0 } else l)
    ∧ (8 ≤ (s.rg a).toNat →
        exec (.disown d a) s = .next (s.trap { cause := 1, tval := (encode (.disown d a)).setWidth 64 }))

/-- R289, R290: one arrival at a barrier. The first of a phase sets the expected count; the arrival that completes the phase
clears the counts, moves the phase on by one modulo 2^32 and keeps the vote, its AND, its OR and a mismatch of counts, as
the last result; an arrival that does not complete it only counts. ARRIVE and VOTE, after their release, count one arrival
at the barrier that g[ga] names and put the phase in gd; the arrival that completes the phase wakes its waiters; operands
outside their limits trap 0x01, and so does an arrival at a cluster or die barrier whose phase has arrivals of another device
(R288). A message to the barrier's home, or its reply, that meets a link out of service traps 0x0E (TVAL 0 is the model's, log 29). -/
def Obligations.BarrierArrivals : Prop :=
  (∀ (b : Barrier) (n : Nat) (pa po : Bool),
      let first := b.arrived = 0
      let nexp := if first then n else b.nexp
      let vand := if first then pa else b.vand && pa
      let vor := if first then po else b.vor || po
      let mism := if first then false else b.mism || decide (n ≠ b.nexp)
      let r := b.arrive n pa po
      r.2.1 = b.phase
      ∧ (r.2.2 = true ↔ b.arrived + 1 = nexp)
      ∧ (b.arrived + 1 = nexp → r.1.phase = (b.phase + 1) % 2 ^ 32 ∧ r.1.arrived = 0 ∧ r.1.nexp = 0
          ∧ r.1.land = vand ∧ r.1.lor = vor ∧ r.1.lmism = mism)
      ∧ (b.arrived + 1 ≠ nexp → r.1.phase = b.phase ∧ r.1.arrived = b.arrived + 1 ∧ r.1.nexp = nexp
          ∧ r.1.vand = vand ∧ r.1.vor = vor ∧ r.1.mism = mism ∧ r.1.land = b.land ∧ r.1.lor = b.lor ∧ r.1.lmism = b.lmism))
  ∧ (∀ (s t : State) (d a b : BitVec 5) (scope : BitVec 2) (bar : Barrier),
      let v := (s.rg a).toNat
      let id := v % 2 ^ 16
      let n := v / 2 ^ 16 % 2 ^ 16
      let ok := v / 2 ^ 32 = 0 ∧ n ≠ 0 ∧ barLegal id scope = true
      let key := t.barKey s.cur id
      let u := t.barSend id key
      let lost : Trap := { cause := 0x0E, tval := 0 }
      let owned : Option Barrier := if 2 ≤ id / 2 ^ 14 then some (t.barAt key) else (t.barAt key).ownedBy (t.vdevOn s.cur)
      let out (pa po : Bool) (r : Res) : Prop :=
        let q := bar.arrive n pa po
        let w := if q.2.2 = true then (u.setBar key q.1).wakeBarrier key else u.setBar key q.1
        if u.barReqDown s.cur id key = true then r = .next (u.trap lost)
        else if u.barCut s.cur id key = true then r = .next ((w.unmute s.cur (key - 2 ^ 61)).trap lost)
        else r = .next (w.wg d (BitVec.ofNat 64 q.2.1)).nextPc ∧ (q.2.2 = false → GOut w d (BitVec.ofNat 64 q.2.1) r)
      (ok → s.release s.cur 255 scope.toNat = .ok () t → owned = some bar →
          out true false (exec (.arrive d a scope) s) ∧ out (s.rg b != 0) (s.rg b != 0) (exec (.vote d a b scope) s))
      ∧ (ok → s.release s.cur 255 scope.toNat = .ok () t → owned = none →
          ∀ i ∈ ([.arrive d a scope, .vote d a b scope] : List Instr),
            exec i s = .next (t.trap { cause := 1, tval := BitVec.ofNat 64 id }))
      ∧ (¬ ok →
          exec (.arrive d a scope) s = .next (s.trap { cause := 1, tval := (encode (.arrive d a scope)).setWidth 64 })
          ∧ exec (.vote d a b scope) s = .next (s.trap { cause := 1, tval := (encode (.vote d a b scope)).setWidth 64 })))

/-- R291: WAITB completes with the last phase's result where the phase that g[gb] names is complete, and otherwise suspends
for it (with a pinned wisp's record as log 18 has it); a signalled kill comes first. A message to the barrier's home, or its reply,
that meets a link out of service traps 0x0E (TVAL 0 is the model's, log 29). -/
def Obligations.WaitForBarrier : Prop :=
  ∀ (s : State) (d a b : BitVec 5) (scope : BitVec 2),
    let id := (s.rg a).toNat % 2 ^ 16
    let q := (s.rg b).toNat % 2 ^ 32
    let key := s.barKey s.cur id
    let u := s.barSend id key
    let bar := u.barAt key
    (barLegal id scope = false →
      exec (.waitb d a b scope) s = .next (s.trap { cause := 1, tval := (encode (.waitb d a b scope)).setWidth 64 }))
    ∧ (barLegal id scope = true → s.killDue = false → u.barCut s.cur id key = true →
        exec (.waitb d a b scope) s = .next ((u.unmute s.cur (key - 2 ^ 61)).trap { cause := 0x0E, tval := 0 }))
    ∧ (barLegal id scope = true → s.killDue = false → u.barCut s.cur id key = false → phaseDone bar.phase q = true →
        GOut (u.acquire s.cur 255 scope.toNat) d
          (BitVec.ofNat 64 (bar.land.toNat + bar.lor.toNat * 2 + bar.lmism.toNat * 4 + bar.phase * 2 ^ 32))
          (exec (.waitb d a b scope) s))
    ∧ (barLegal id scope = true → s.killDue = false → u.barCut s.cur id key = false → phaseDone bar.phase q = false →
        SuspendOut u 3 (.barrier key q d.toNat scope.toNat)
          (fun t => if phaseDone (t.barAt key).phase q = true then t.wakeBarrier key else t) (exec (.waitb d a b scope) s))
    ∧ (barLegal id scope = true → ∀ g code, s.me.kill = some (g, code) → s.me.s.inh = false →
        exec (.waitb d a b scope) s = .next (s.killLeave s.cur code))

/-- R295, R296, R304, R305: JINIT traps 0x03 where g[ga] is not a multiple of 64; else it reads its 64-byte record after a release at
package scope, and answers with a status word,
or opens the lowest free record of the accumulator's site and answers with its id, which holds the record's generation; a
DEADLINE that has passed settles the new join at once, released where QMIN is 0 and failed otherwise.
JARRIVE and JLEAVE answer 1 where JOINCTX names no join, 2 for an index out of range, 3 for one that has arrived or left, 4
for a settled join, where the contributor's tentative words are discarded, and 0 once the arrival or leave is recorded at the
home. (Status 5 is the model's 1, log 15.) A message to the home of a join, or its reply, that meets a link out of service traps
0x0E: JARRIVE and JLEAVE with TVAL 0 (the model's, log 29). -/
def Obligations.JoinInitialiseAndArrive : Prop :=
  (∀ (s s1 s2 s3 : State) (d a : BitVec 5) (ws : List Nat) (x : Xl),
      let c := s.cur
      let j : Join := { img := BitVec.ofNat 512 (wordsToNat ws) }
      ((s.rg a).toNat % 64 ≠ 0 → exec (.jinit d a) s = .next (s.trap { cause := 3, tval := s.rg a }))
      ∧ ((s.rg a).toNat % 64 = 0 → s.release c 255 2 = .ok () s1 → s1.homeWords c (s.rg a).toNat 16 = .ok ws s2 →
      s2.xlat c j.accaddr .write true s2.me.sup = .ok x s3 →
        if j.legal = false then GOut s3 d 0x8000000000000002 (exec (.jinit d a) s)
        else if x.own = false then GOut s3 d 0x8000000000000004 (exec (.jinit d a) s)
        else if s3.cutOff c x.pa = true ∨ (j.parent ≠ 0 ∧ s3.joinCut c j.parent = true) then
          exec (.jinit d a) s = .next (s3.trap { cause := 0x0E, tval := s.rg a })
        else if s3.parentOk j = false then GOut s3 d 0x8000000000000003 (exec (.jinit d a) s)
        else match s3.freeSlot (s3.homeSite x.pa) with
          | none => GOut s3 d 0x8000000000000001 (exec (.jinit d a) s)
          | some key =>
            let g := (s3.joinAt key).gen
            let t := { s3 with joins := Store.set {} s3.joins key { j with
              st := .opened, gen := g, accPa := x.raw, accIov := x.iov, vdev := s3.vdevOn c
              part := (s3.partOfCore c).getD 0, asn := s3.me.s.asn, rdir := s3.me.s.rdir } }
            let id : Word := BitVec.ofNat 64 (key / 1024 + key % 1024 * 2 ^ 8 + g * 2 ^ 18)
            (¬ (j.deadline ≠ 0 ∧ j.deadline ≤ s3.time) → GOut t d id (exec (.jinit d a) s))
            ∧ (j.deadline ≠ 0 → j.deadline ≤ s3.time → t.subBusy (t.joinAt key) = false →
              ∃ u, GOut u d id (exec (.jinit d a) s) ∧ (u.joinAt key).dline = true
                ∧ (u.joinAt key).st = if j.qmin = 0 then .released else .failed)))
  ∧ (∀ (s s1 s2 s3 : State) (d a : BitVec 5) (j : Join) (xs : List Nat),
      let c := s.cur
      let id := ctxId s.me.u.joinctx
      let ix := ctxIndex s.me.u.joinctx
      -- the tentative words of the contributor are gone
      let settled (t : State) : State := { t with tents := t.tents.filter (fun x => !(x.join == id && x.cindex == ix)) }
      let cut := s.joinCut c id
      (cut = true → ∀ i ∈ ([.jarrive d a, .jleave d] : List Instr), exec i s = .next (s.trap { cause := 0x0E, tval := 0 }))
      ∧ (cut = false → s.joinNamed id = none → GOut s d 1 (exec (.jarrive d a) s) ∧ GOut s d 1 (exec (.jleave d) s))
      ∧ (cut = false → s.joinNamed id = some j → (j.status ix = 2 ∨ j.status ix = 3) →
          GOut s d (BitVec.ofNat 64 (j.status ix)) (exec (.jleave d) s))
      ∧ (cut = false → s.joinNamed id = some j → j.status ix = 0 →
          GOut (s.joinEvent (.leave (joinSlotKey id) ix)) d 0 (exec (.jleave d) s))
      ∧ (cut = false → s.joinNamed id = some j → j.status ix = 4 → GOut (settled s) d 4 (exec (.jleave d) s))
      ∧ (cut = false → s.joinNamed id = some j → s.contribution c (s.rg a) j.alen = .ok false s1 → GOut s1 d 6 (exec (.jarrive d a) s))
      ∧ (cut = false → s.joinNamed id = some j → s.contribution c (s.rg a) j.alen = .ok true s1 → s1.release c 255 2 = .ok () s2 →
          (j.status ix = 2 ∨ j.status ix = 3 → GOut s2 d (BitVec.ofNat 64 (j.status ix)) (exec (.jarrive d a) s))
          ∧ (j.status ix = 4 → GOut (settled s2) d 4 (exec (.jarrive d a) s))
          ∧ (j.status ix = 0 → s2.homeWords c (s2.rg a).toNat j.alen = .ok xs s3 →
              let t := s3.joinEvent (.arrive (joinSlotKey id) ix (ctxWeight s.me.u.joinctx) xs none (some (.core c)))
              if t.awaitsAnswer t.cur = true then
                exec (.jarrive d a) s = .next (t.updMe (fun x => { x with waitOn := .woken 0 d.toNat none, hold := .firm }))
              else GOut t d 0 (exec (.jarrive d a) s))))

/-- R299, R304, R306: JWAIT on an id that names no join gives the GONE bit alone, on a settled join the state word captured at its
settlement, and otherwise suspends for it (with a pinned wisp's record as log 18 has it), to be woken at once where its own
departure has settled the join; JKPT completes where no kill is due; JSTAT gives the masks of the arrived, left and killed
contributors and the state word, and with selector 15 frees a settled record that has no kill pending, asks for that where one is
pending, and on an open join gives the state word alone; any other selector traps 0x01. A message to the join's home, or its
reply, that meets a link out of service traps 0x0E (TVAL 0 is the model's, log 29). -/
def Obligations.JoinWaitAndStatus : Prop :=
  ∀ (s : State) (d a b : BitVec 5) (j : Join),
    let v := (s.rg a).toNat
    let sel := (s.rg b).toNat
    let t := s.acquire s.cur 255 2
    let key := joinSlotKey v
    let cut := s.joinCut s.cur v
    let lost : Trap := { cause := 0x0E, tval := 0 }
    (s.killDue = false → PcOut s (s.pc + 4) (exec .jkpt s))
    ∧ (s.me.s.inh = false → ∀ g code, s.me.kill = some (g, code) → exec .jkpt s = .next (s.killLeave s.cur code)
        ∧ (v < 2 ^ 32 → exec (.jwait d a) s = .next (s.killLeave s.cur code)))
    ∧ (v < 2 ^ 32 → cut = true → (s.killDue = false → exec (.jwait d a) s = .next (s.trap lost))
        ∧ (sel ≤ 3 ∨ sel = 15 → exec (.jstat d a b) s = .next (s.trap lost)))
    ∧ (v < 2 ^ 32 → cut = false → s.killDue = false → s.joinNamed v = none → GOut t d 0x8000000 (exec (.jwait d a) s))
    ∧ (v < 2 ^ 32 → cut = false → s.killDue = false → s.joinNamed v = some j →
        if j.st = .opened then SuspendOut s 2 (.join v d.toNat) (fun u => match u.joinNamed v with
            | some q => if q.st = .opened then u else u.wakeJoin v q.word
            | none => u.wakeJoin v 0x8000000) (exec (.jwait d a) s)
        else GOut t d j.word (exec (.jwait d a) s))
    ∧ (∀ rel dl, let q := (s.settleNow key rel dl).1.joinAt key
        q.word = ({ q with alsoFailed := false } : Join).stateWord false false)
    ∧ (v < 2 ^ 32 → ¬ (sel ≤ 3 ∨ sel = 15) →
        exec (.jstat d a b) s = .next (s.trap { cause := 1, tval := (encode (.jstat d a b)).setWidth 64 }))
    ∧ (v < 2 ^ 32 → cut = false → s.joinNamed v = none →
        (sel ≤ 2 → GOut s d 0 (exec (.jstat d a b) s)) ∧ (sel = 3 ∨ sel = 15 → GOut s d 0x8000000 (exec (.jstat d a b) s)))
    ∧ (v < 2 ^ 32 → cut = false → s.joinNamed v = some j →
        (sel = 0 → GOut s d j.arrived (exec (.jstat d a b) s)) ∧ (sel = 1 → GOut s d j.left (exec (.jstat d a b) s))
        ∧ (sel = 2 → GOut s d j.killed (exec (.jstat d a b) s))
        ∧ (sel = 3 → GOut s d (j.stateWord false false) (exec (.jstat d a b) s))
        ∧ (sel = 15 → j.st = .opened → GOut s d (j.stateWord false false) (exec (.jstat d a b) s))
        ∧ (sel = 15 → j.st ≠ .opened → s.killsPending key = true →
            GOut (s.updJoin key (fun q => { q with fpend := true })) d (j.stateWord false true) (exec (.jstat d a b) s))
        ∧ (sel = 15 → j.st ≠ .opened → s.killsPending key = false →
            ∃ u, GOut u d (j.stateWord true false) (exec (.jstat d a b) s) ∧ (u.joinAt key).st = .free
              ∧ (u.joinAt key).gen = (if (s.joinAt key).gen = 16383 then 1 else (s.joinAt key).gen + 1)))
    ∧ (2 ^ 32 ≤ v →
        exec (.jwait d a) s = .next (s.trap { cause := 1, tval := (encode (.jwait d a)).setWidth 64 })
        ∧ exec (.jstat d a b) s = .next (s.trap { cause := 1, tval := (encode (.jstat d a b)).setWidth 64 }))

/-- R298, R303: an arrival at an open join without a parent commits the contributor's tentative words: each stands at its
home with its poison (no range moves, no AMOWAIT waits, the route from the join's home is in service), and none of that index is left; a leave discards them instead. -/
def Obligations.TentativeWordsAtArrival : Prop :=
  ∀ (s : State) (key c weight : Nat) (elems : List Nat) (w : Option Awaiter),
    let j := s.joinAt key
    let id := joinId key j.gen
    j.st = .opened → j.settling = none → j.openFor c = true → j.parent = 0 →
      let t := (s.joinStep (.arrive key c weight elems none w)).1
      let u := (s.joinStep (.leave key c)).1
      (∀ x ∈ t.tents, ¬ (x.join = id ∧ x.cindex = c)) ∧ (∀ x ∈ u.tents, ¬ (x.join = id ∧ x.cindex = c))
      ∧ (s.moves = [] → s.waiters = [] → (∀ x ∈ s.tents, x.pa % 4 = 0) → ∀ x ∈ s.tents, x.join = id → x.cindex = c →
          s.routeDown (joinNode (joinSlotKey id)) (s.homeNode x.pa) = false →
          (∀ y ∈ s.tents, y.join = id → y.cindex = c → y.pa = x.pa → y = x) →
          t.homeRead x.pa 4 = x.value.toNat ∧ t.homePois x.pa 4 = x.pois)
      ∧ (t.joinAt key).arrived = j.arrived ||| BitVec.ofNat 64 (2 ^ c)
      ∧ (t.joinAt key).warr = (j.warr + weight) % 2 ^ 32
      ∧ (u.joinAt key).left = j.left ||| BitVec.ofNat 64 (2 ^ c)
      ∧ u.mem = s.mem

/-! ## Wisp, control-register, gang and vector-length instructions -/

/-- R22, R35, R129, R130, R300, R359: SUSPEND goes on at once where an earlier resume is kept for it, and otherwise suspends
until TIME g[ga], at once ready again where that time has come. RETIRE, once the engines are idle and no fault is pending, ends
the wisp: STATE 10, REASON 8, END 1 at this TIME, g1 to g3 and FSTAT recorded, the core idle and empty, and the end posted to be counted; until then
it waits, or traps 0x0A, or 0x09 with TEPC its own PC, and with INH = 1 it traps 0x01. An unpinned wisp that leaves its core for
the pool of its die: the core is idle and holds no wisp, and the record has the PC, STATE, the reason, g1 to g3, VL and VTYPE of
the core, its place in the pool and what it waits for; a kill that is signalled takes effect there. With no seat in a pool or an
overflow queue it is held on its core, at RETIRE too (R36). (That a retired record holds RETIRE's own address is the model's, log
44; so is the record of a pinned wisp that waits, PC + 4 and g1 to g3, log 18.) -/
def Obligations.SuspendRetireAndDepart : Prop :=
  (∀ (s : State) (a : BitVec 5),
      let k := s.wispKey s.cur
      let w := s.wispAt k
      let s1 := s.updWisp k (fun x => { x with kept := false, aband := false })
      let t := (s.rg a).toNat
      (s.killDue = false → w.kept = true → PcOut s1 (s.pc + 4) (exec (.suspend a) s))
      ∧ (s.killDue = false → w.kept = false →
          SuspendOut s1 1 (.suspend t) (fun u => if t ≠ 0 ∧ t ≤ u.time then u.wakeSuspended k else u) (exec (.suspend a) s))
      ∧ (s.me.s.inh = false → ∀ g code, s.me.kill = some (g, code) → exec (.suspend a) s = .next (s.killLeave s.cur code)))
  ∧ (∀ (s : State) (l i : Nat),
      let c := s.cur
      let k := wkey l i
      let s2 := (s.liveBinds c).foldl (fun s i => s.stallClear c i) (s.acquire c 255 0)
      (s.me.s.inh = true → exec .retire s = .next (s.trap { cause := 1, tval := 0x98000001 }))
      ∧ (s.me.s.inh = false → s.engIdle c 0 = true → ∀ v, s2.me.pendingFault = some v →
          exec .retire s = .next (s2.report c v (some s.pc)))
      ∧ (s.me.s.inh = false → s.engIdle c 0 = false → exec .retire s = match s.engStall c 0 with
          | (some tr, u) => .next (u.trap tr)
          | (none, u) => .next u.stall)
      ∧ (s.me.s.inh = false → s.engIdle c 0 = true → s2.me.pendingFault = none → s.me.wisp ≠ none →
          (s2.retireActs c).noSeat c = true → exec .retire s = .next ((s2.retireActs c).holdEnded c 1))
      ∧ (s.me.s.inh = false → s.engIdle c 0 = true → s2.me.pendingFault = none → (s2.retireActs c).noSeat c = false →
          s.me.wisp = some (l, i) → (s.wispAt k).launch = l → (s.wispAt k).index = i → s.waiters = [] →
          ∃ u, exec .retire s = .next u ∧ u.me.wisp = none ∧ u.me.stage = .idle ∧ u.me.sup = false ∧ u.me.e = {}
            ∧ (let r := u.wispAt k
               r.st = 2 ∧ r.reason = 8 ∧ r.endCode = 1 ∧ r.tend = s.time ∧ r.loc = .ended ∧ r.pc = s.pc
               ∧ r.g1 = Store.get 0 s.me.g 1 ∧ r.g2 = Store.get 0 s.me.g 2 ∧ r.g3 = Store.get 0 s.me.g 3
               ∧ r.fstat = s.me.u.fstat ∧ r.join = s.me.u.joinctx)
            ∧ .wispEndCount l i ∈ u.sched))
  ∧ (∀ (s : State) (c reason st : Nat) (pc : Word) (w : WaitOn) (yld : Bool), s.seat c = none →
      let t := s.depart c reason st pc w yld
      (t.coreAt c).wisp = (s.coreAt c).wisp ∧ (t.coreAt c).stage = .held ∧ (t.coreAt c).pc = (s.coreAt c).pc
        ∧ ((s.coreAt c).wisp ≠ none → let r := t.wispAt (s.wispKey c)
          r.pc = pc ∧ r.st = st ∧ r.reason = reason ∧ r.waitOn = w))
  ∧ (∀ (s : State) (c reason st l i : Nat) (pc : Word) (w : WaitOn) (yld : Bool),
      (s.coreAt c).wisp = some (l, i) → s.seat c = some (.pool (dieOf c)) → st ≠ 0 →
        let t := s.depart c reason st pc w yld
        let x := s.coreAt c
        let r := t.wispAt (wkey l i)
        (t.coreAt c).wisp = none ∧ (t.coreAt c).stage = .idle ∧ (t.coreAt c).sup = false
        ∧ r.pc = pc ∧ r.st = st ∧ r.reason = reason ∧ r.loc = .pool (dieOf c) ∧ r.waitOn = w
        ∧ r.g1 = Store.get 0 x.g 1 ∧ r.g2 = Store.get 0 x.g 2 ∧ r.g3 = Store.get 0 x.g 3
        ∧ r.vl = x.u.vl ∧ r.vtype = x.u.vtype ∧ r.join = x.u.joinctx
        ∧ s.leave c reason st pc w yld = match x.kill with
          | none => t
          | some (_, code) => t.killNow (wkey l i) code)

/-- R134, R135: TRAP traps 0x0C with g[ga] in TVAL; BREAK halts for a debugger that has asked for it, complete, and traps
0x0B otherwise; NOP does nothing; ENGWAIT with every selected engine idle and no fault pending makes their effects visible
and goes on. -/
def Obligations.TrapBreakNopEngwait : Prop :=
  ∀ (s : State) (a : BitVec 5),
    let m := (s.rg a).toNat
    let s2 := (s.liveBinds s.cur).foldl (fun s i => s.stallClear s.cur i) (s.acquire s.cur 255 0)
    exec (.trap a) s = .next (s.trap { cause := 0x0C, tval := s.rg a })
    ∧ (s.me.s.brkhalt = false → exec .brk s = .next (s.trap { cause := 0x0B }))
    ∧ (s.me.s.brkhalt = true → ∃ t, exec .brk s = .next t ∧ OnlyCore s t ∧ t.me = { s.me with pc := s.pc + 4, stage := .halted })
    ∧ PcOut s (s.pc + 4) (exec .nop s)
    ∧ (m < 16 → s.engIdle s.cur m = true → s2.me.pendingFault = none → PcOut s2 (s2.pc + 4) (exec (.engwait a) s))
    ∧ (m < 16 → s.engIdle s.cur m = true → ∀ v, s2.me.pendingFault = some v →
        exec (.engwait a) s = .next (s2.report s.cur v (some (s.pc + 4))))
    ∧ (16 ≤ m → exec (.engwait a) s = .next (s.trap { cause := 1, tval := (encode (.engwait a)).setWidth 64 }))

/-- R51, R52, R121, R132, R133, R203, R258, R259: the queries. QRY and LOCQ by their selectors, all ones for one that names
nothing; RDCYC the count of the die's own clock; ENGSTAT the bits of ESTAT, and node n's done bit at 32 + n, with an acquire at
cluster scope where it sees a done bit; RDTIME sends its request, waits, and gives the time that its answer brought. (The form of
RDCYC's count is the model's, log 3; so is QRY's 0 on a die of no partition, log 47.) -/
def Obligations.QueriesAndClocks : Prop :=
  ∀ (s : State) (d a : BitVec 5),
    let c := s.cur
    let x := s.me
    let v := (s.rg a).toNat
    let p := (s.partOfCore c).getD 0
    let dies := (List.range s.ndie).filter (fun e => s.partOfDie e == some p)
    let live (e i : Nat) : Bool := !(Store.get 0 s.fuse.dead e).getLsbD i
    let inCluster (k : Nat) : Nat := (List.range 4).countP (fun i => live (k / 16) (4 * (k % 16) + i))
    let cores (e : Nat) : Nat := (List.range 64).countP (live e)
    let clusters (e : Nat) : Nat := (List.range 16).countP (fun j => inCluster (16 * e + j) != 0)
    let site (e : Nat) : Nat × Nat := dieXY e
    let query : List (Nat × Nat) := [(0, (dies.map cores).sum), (1, (dies.map clusters).sum), (2, dies.length),
      (3, if s.fuse.grade = 1 then 56 else 62), (4, if s.fuse.grade = 1 then 14 else 16), (5, cores (dieOf c)),
      (6, inCluster (clusterOf c)), (7, (List.range 16).countP (fun i => !(Store.get 0 s.fuse.deadSlices (dieOf c)).getLsbD i)),
      (9, s.fuse.grade), (10, (site (dieOf c)).1 + (site (dieOf c)).2 * 2 ^ 4)]
    (∀ e ∈ query, v = e.1 → GOut s d (BitVec.ofNat 64 e.2) (exec (.qry d a) s))
    ∧ (v = 8 → ∀ r, s.partAt p = some r →
        GOut s d (BitVec.ofNat 64 (r.x0 + r.y0 * 2 ^ 4 + r.w * 2 ^ 9 + r.h * 2 ^ 14)) (exec (.qry d a) s))
    ∧ (v = 8 → s.partAt p = none → GOut s d 0 (exec (.qry d a) s))
    ∧ (11 ≤ v → GOut s d (BitVec.allOnes 64) (exec (.qry d a) s))
    ∧ (s.partOfCore c = none ∨ dies.length ≤ v → GOut s d (BitVec.allOnes 64) (exec (.locq d a) s))
    ∧ (s.partOfCore c ≠ none → ∀ e, dies[v]? = some e →
        let h := ((site e).1 - (site (dieOf c)).1) + ((site (dieOf c)).1 - (site e).1)
          + ((site e).2 - (site (dieOf c)).2) + ((site (dieOf c)).2 - (site e).2)
        let band := (([(0, 1, 60), (1, 2, 150), (4, 3, 300), (10, 4, 600), (20, 5, 1000)] : List (Nat × Nat × Nat)).find?
          (fun b => decide (h ≤ b.1))).getD (35, 6, 1600)
        GOut s d (BitVec.ofNat 64 (band.2.1 + h * 2 ^ 8 + band.2.2 * 2 ^ 32)) (exec (.locq d a) s))
    ∧ (let z := s.dieAt (dieOf c)
       let f := Store.get 2400 s.fuse.mhz (dieOf c) * (100 - 3 * z.clockStep)
       let ps := 1000 * s.time + s.ps
       (z.clock = none → GOut s d (BitVec.ofNat 64 (Config.cycleLead (dieOf c) + ps * f / 10 ^ 8)) (exec (.rdcyc d) s))
       ∧ ∀ n t, z.clock = some (n, t) → GOut s d (BitVec.ofNat 64 (n + (ps - t) * f / 10 ^ 8)) (exec (.rdcyc d) s))
    ∧ (let flags : List (Nat × Bool) := [(0, x.e.mq != []), (1, x.e.mdone), (2, x.e.mflt), (4, x.e.cq != []), (5, x.e.cdone),
         (6, x.e.cflt), (7, s.cadm c), (8, s.sbusy c), (9, s.sstall c), (10, x.sfault), (12, x.gpend)]
       let seen := x.e.mdone = true ∨ x.e.cdone = true ∨ ∃ n, n < 32 ∧ n ≠ 0 ∧ (x.node n).done = true
       ∃ r : Word, (∀ i, i < 64 → r.getLsbD i =
           if 33 ≤ i then (x.node (i - 32)).done else ((flags.find? (fun e => e.1 == i)).map Prod.snd).getD false)
         ∧ (seen → GOut (s.acquire c 255 0) d r (exec (.engstat d) s)) ∧ (¬ seen → GOut s d r (exec (.engstat d) s)))
    ∧ (∀ n, x.waitOn = .time (some n) →
        GOut (s.updMe (fun x => { x with waitOn := .none })) d (BitVec.ofNat 64 n) (exec (.rdtime d) s))
    ∧ (x.waitOn = .time none → exec (.rdtime d) s = .next s.block)
    ∧ (x.waitOn = .none → ∃ t, exec (.rdtime d) s = .next t ∧ t.sched = s.sched ++ [.timeRequest c]
        ∧ t.me = { x with waitOn := .time none, timeC0 := s.cycleOf (dieOf c) (1000 * s.time + s.ps), hold := .firm }
        ∧ (∀ e, e ≠ c → t.coreAt e = s.coreAt e) ∧ { t with cores := s.cores, sched := s.sched, seq := s.seq } = s)

/-- R34, R40, R131: LAUNCH reads its 128-byte record at the home and answers 0x8000_0000_0000_0000 plus the rejection code,
0 where the device has no room or is under a deadline, and otherwise the id, not 0, of the launch it has accepted, whose
wisps are then placed. -/
def Obligations.LaunchResults : Prop :=
  ∀ (s t : State) (d a : BitVec 5) (x : Xl),
    (s.rg a).toNat % 128 = 0 → s.xlat s.cur (s.rg a).toNat .read true s.me.sup = .ok x t →
      let me := (t.wispOn s.cur).1
      let par := t.launchAt me
      let l0 : Launch := { img := BitVec.ofNat 1024 (t.spanRead x.pa 128), vdev := par.vdev, part := par.part, parent := me }
      let floor := match par.queue with
        | some q => ((t.bindOf par.vdev q).map Bind.pfloor).getD 0
        | none => 0
      let l := { l0 with prio := max l0.prioField floor }
      let code := t.checkRecord l (some par.asn)
      (code ≠ 0 → GOut (t.rejectLaunch l code).2 d (BitVec.ofNat 64 (2 ^ 63 + code)) (exec (.launch d a) s))
      ∧ (code = 0 → (t.ovfOpenNew par.vdev = false ∨ t.underDeadline par.vdev = true) → GOut t d 0 (exec (.launch d a) s))
      ∧ (code = 0 → t.ovfOpenNew par.vdev = true → t.underDeadline par.vdev = false →
          ∃ id u, GOut u d (BitVec.ofNat 64 id) (exec (.launch d a) s) ∧ 1 ≤ id ∧ id < 2 ^ 32
            ∧ (u.launchAt id).img = l.img ∧ (u.launchAt id).parent = me ∧ (u.launchAt id).vdev = par.vdev
            ∧ (u.launchAt id).tsel = t.time ∧ Event.wispPlacement id ∈ u.sched)

/-- R120, R121: a flag branch goes to PC + sext(off16) * 4 where its flag has the value it asks for, and on to PC + 4
otherwise; a DONE flag seen at 1 acquires at cluster scope first. A selector that names no flag traps 0x01. -/
def Obligations.FlagBranches : Prop :=
  ∀ (s : State) (sel : BitVec 10) (off : BitVec 16),
    let dest := s.pc + BitVec.ofInt 64 (off.toInt * 4)
    let seen (isDone v : Bool) : State := if isDone && v then s.acquire s.cur 255 0 else s
    (∀ v isDone, s.flag s.cur sel.toNat = some (v, isDone) →
      PcOut (seen isDone v) (if v then dest else s.pc + 4) (exec (.bfs sel off) s)
      ∧ PcOut (seen isDone v) (if v then s.pc + 4 else dest) (exec (.bfc sel off) s))
    ∧ (s.flag s.cur sel.toNat = none →
        exec (.bfs sel off) s = .next (s.trap { cause := 1, tval := (encode (.bfs sel off)).setWidth 64 })
        ∧ exec (.bfc sel off) s = .next (s.trap { cause := 1, tval := (encode (.bfc sel off)).setWidth 64 }))
    ∧ (∀ n, n < 7 → sel.toNat = 0x20 + n → s.flag s.cur sel.toNat = some (s.me.u.fstat.getLsbD n, false))

/-- R67 to R70, R125: CRD reads a register; CWR, CSET and CCLR write g[ga], the old value with its bits set, and with its
bits cleared, and all give the old value. A supervisor register traps 0x02 at U, before anything else; a register that is
not in the maps, or, for a write, one without a writable field, traps 0x01. -/
def Obligations.ControlRegisterAccess : Prop :=
  ∀ (s : State) (d a : BitVec 5) (r : BitVec 12),
    let n := r.toNat
    let seen (old : Word) (t : State) : State :=
      if (n = 0x10 ∧ (old.getLsbD 1 = true ∨ old.getLsbD 5 = true)) ∨ (n = 0x11 ∧ old ≠ 0) then t.acquire s.cur 255 0 else t
    let forms : List (Instr × Option (Word → Word)) := [(.crd d r, none), (.cwr d a r, some (fun _ => s.rg a)),
      (.cset d a r, some (fun o => o ||| s.rg a)), (.cclr d a r, some (fun o => o &&& ~~~ s.rg a))]
    ∀ f ∈ forms,
      (s.me.sup = false → 0x800 ≤ n → exec f.1 s = .next (s.trap { cause := 2, tval := (encode f.1).setWidth 64 }))
      ∧ (s.me.sup = true ∨ n < 0x800 →
          match s.cregRead s.cur n with
          | none => exec f.1 s = .next (s.trap { cause := 1, tval := (encode f.1).setWidth 64 })
          | some old => match f.2 with
            | none => GOut (seen old s) d old (exec f.1 s)
            | some g => match s.cregWrite s.cur n (g old) with
              | none => exec f.1 s = .next (s.trap { cause := 1, tval := (encode f.1).setWidth 64 })
              | some t => GOut (seen old t) d old (exec f.1 s))

/-- R68, R69: what a write of a control register leaves in it and elsewhere: a register reads back the bits that the maps
give it, and a write changes no g, v or k register, no other control register (but for ASGEN, which a write of ASN loads from the
generation table), nothing else of the core, no memory and no other core. -/
def Obligations.ControlRegistersReadBack : Prop :=
  ∀ (s t : State) (c n : Nat) (v : Word), s.cregWrite s.cur n v = some t →
    (∀ e ∈ ([(0x002, 0xFFFFFFFF), (0x003, 0xFF07), (0x004, 0x7F), (0x005, 0xFFFF), (0x006, 0xFFFFFFFFFFFF), (0x008, 0xFFFF),
        (0x009, 0xFFFF), (0x00A, 0xFFFF), (0x00C, 0xFFFFFFFFFFFFFFFF), (0x00D, 0xFFFFFFFFFFFFFFFF),
        (0x00E, 0xFFFFFFFFFFFFFFFF), (0x800, 0xFFFFFFFFFFFFFFFC), (0x801, 0xFF), (0x802, 0xFFFFFFFFFFFFFFFF),
        (0x803, 0xFFFFFFFFFFFFFFFC), (0x810, 0xFFFF), (0x812, 0xFFFFFFFFFFFFC0), (0x830, 3)] : List (Nat × Word)),
      n = e.1 → t.cregRead s.cur n = some (v &&& e.2))
    ∧ (n = 0x031 → t.cregRead s.cur n = some (if v &&& 0xFFFF = 0 then 1 else v &&& 0xFFFF))
    ∧ (n = 0x804 → t.cregRead s.cur n = some ((v &&& 1) ||| (if s.me.s.inh then 2 else 0)))
    ∧ SamePackage s t ∧ (c ≠ s.cur → t.coreAt c = s.coreAt c)
    ∧ (∀ q, t.me.gRead q = s.me.gRead q) ∧ t.pc = s.pc
    ∧ t.me.v = s.me.v ∧ t.me.k = s.me.k ∧ { t.me with u := s.me.u, s := s.me.s } = s.me
    ∧ (∀ q, q ≠ n → ¬ (n = 0x810 ∧ q = 0x811) → t.cregRead s.cur q = s.cregRead s.cur q)
    ∧ (n = 0x810 → t.cregRead s.cur 0x811
        = some ((Store.get 0 s.gens (((s.partOfCore s.cur).getD 0) * 65536 + (v.setWidth 16 : BitVec 16).toNat)).setWidth 64))

/-- R188, R193: GANG of a launch whose gangs have one member gives 0x100; the member that completes the meeting of a wider
gang puts every member in it, with VL and VSTART 0 and its own number in gd, on each core's own next PC; in a gang GANG
traps 0x10 with reason 4. DISBAND outside a gang does nothing, and the member that completes its meeting takes every member
out of the gang. -/
def Obligations.GangAndDisband : Prop :=
  ∀ (s : State) (d : BitVec 5),
    let c := s.cur
    let n := s.gangSize c
    let w := encode (.gang d)
    let s1 := s.updMe (fun x => { x with gangWait := some w })
    let cores := s1.gangCores c
    let s2 := s.updMe (fun x => { x with gang := x.gang.map (fun g => { g with issued := some 0x9800000D }) })
    let met := s2.gangCores c
    (s.me.gang = none → n = 1 → GOut s d 0x100 (exec (.gang d) s))
    ∧ (s.me.gang ≠ none → exec (.gang d) s = .next (s.trap { cause := 0x10, tval := BitVec.ofNat 64 (4 + s.memberOf c * 2 ^ 8) }))
    ∧ (s.me.gang = none → n ≠ 1 → cores.length = n → cores.Nodup →
        (∀ e ∈ cores, (s1.coreAt e).stage = .run ∧ (s1.coreAt e).gangWait = some w) →
        ∃ t, exec (.gang d) s = .next t ∧ SamePackage s t ∧ ∀ e ∈ cores,
          (t.coreAt e).pc = (s.coreAt e).pc + 4 ∧ (t.coreAt e).gang = some { member := s.memberOf e }
          ∧ (t.coreAt e).u.vl = 0 ∧ (t.coreAt e).u.vstart = 0 ∧ (t.coreAt e).gangWait = none
          ∧ (d ≠ 0 → (t.coreAt e).gRead d.toNat = BitVec.ofNat 64 (n * 256 + s.memberOf e)))
    ∧ (s.me.gang = none → PcOut s (s.pc + 4) (exec .disband s))
    ∧ (∀ g, s.me.gang = some g → g.failed = none → met.length = s2.gangSize c → met.Nodup →
        (∀ e ∈ met, (s2.coreAt e).stage = .run ∧ ∃ h, (s2.coreAt e).gang = some h ∧ h.issued = some 0x9800000D) →
        ∃ t, exec .disband s = .next t ∧ SamePackage s t ∧ ∀ e ∈ met,
          (t.coreAt e).pc = (s.coreAt e).pc + 4 ∧ (t.coreAt e).gang = none ∧ (t.coreAt e).u.vl = 0)

/-- R159 to R161, R190 to R193, R204, R239, R300, R386: SETVL in its three modes sets, on its core alone outside a gang and on every
member's inside one, VTYPE, VL (the leader's g[ga], VLMAX of the group, or the old VL, at most VLMAX) and VSTART 0, and gives VL; an
illegal VTYPE traps 0x01. In a gang it waits until every member has issued it; members that issue different words trap 0x10 with
reason 1, and after a member's failure each traps 0x10. With y = 1 it then checks: where a kill is signalled, each member it is
for is killed at PC + 4, and the others go on; else, where a pre-emption is asked for and no member is pinned or in its handler, every
member yields, unless an engine's fault is pending, which is reported with TEPC PC + 4: its bindings and its spill with the registers of
VLIVE come first, which may wait or trap, and then it leaves its core with REASON 5, ready, at PC + 4. With INH = 1 there is no check. SETD sets the
count and the stride of a dimension, and traps 0x01 for a count above 65,535. (The trap of a fault pending at the yield, with no
yield, is the model's, log 33.) -/
def Obligations.VectorLengthAndDimensions : Prop :=
  ∀ (s : State) (cores : List Nat) (d a b : BitVec 5) (vt : BitVec 8) (y : Bool) (dim : BitVec 2),
    let width := 8 * 2 ^ (vt.toNat % 4)
    let forms : List (Instr × (Core → Nat → Nat)) := [(.setvl d a vt y, fun x m => min (x.gRead a.toNat).toNat m),
      (.setvlMax d vt y, fun _ m => m), (.setvlType d vt y, fun x m => min x.u.vl.toNat m)]
    (∀ f ∈ forms,
      let n := f.2 (s.leader cores) (cores.length * 2048 / width)
      let r := exec f.1 s
      -- the state in which VL is set and nothing else of SETVL is done
      let t0 := cores.foldl (fun t c => t.updCore c (fun x =>
        { x with u := { x.u with vtype := vt, vl := BitVec.ofNat 16 n, vstart := 0 } }.gWrite d.toNat (BitVec.ofNat 64 n)))
        (s.issued (encode f.1))
      let other (c : Nat) : List Nat := cores.filter (fun e => e != c)
      let killed := cores.filter (fun c => !(s.coreAt c).s.inh && (s.coreAt c).kill.isSome)
      let asked := cores.any (fun c => (s.coreAt c).s.pend)
        && cores.all (fun c => !(s.coreAt c).s.inh && !(s.wispAt (s.wispKey c)).pinned)
      (vtypeLegal vt.toNat = false → r = .next (s.trap { cause := 1, tval := (encode f.1).setWidth 64 }))
      ∧ (vtypeLegal vt.toNat = true → s.meets (encode f.1) cores →
        (y = false ∨ (killed = [] ∧ asked = false) → ∃ t, r = .next t ∧ SamePackage s t
          ∧ (∀ c, c ∉ cores → t.coreAt c = s.coreAt c)
          ∧ ∀ c ∈ cores,
            let x := s.coreAt c
            let z := t.coreAt c
            z.pc = x.pc + 4 ∧ z.u = { x.u with vtype := vt, vl := BitVec.ofNat 16 n, vstart := 0 }
            ∧ (∀ q : BitVec 5, z.gRead q.toNat = if q = 0 then 0 else if q = d then BitVec.ofNat 64 n else x.gRead q.toNat)
            ∧ z.v = x.v ∧ z.k = x.k ∧ x.VecRest { z with g := x.g, sg := x.sg, u := x.u } (c == s.cur) s.time)
        ∧ (y = true → killed ≠ [] → r = .next (killed.foldl (fun t c =>
            t.killLeave c (((s.coreAt c).kill.map Prod.snd).getD 0)) (t0.stepAll cores)))
        ∧ (y = true → killed = [] → asked = true →
          match cores.find? (fun c => (t0.coreAt c).pendingFault.isSome) with
          | some c => ∀ v, (t0.coreAt c).pendingFault = some v →
              r = .next ((t0.stepAll (other c)).report c v (some ((s.coreAt c).pc + 4)))
          | none => match State.each State.leaveBinds cores t0 with
            | .trap c tr u => r = .next ((u.stepAll (other c)).takeTrap c { tr with tepc := some ((s.coreAt c).pc + 4) })
            | .wait u => r = .next (cores.foldl (fun u c => u.updCore c (fun x => { x with hold := .yielding })) u)
            | .ok t1 => match State.each (fun u c => u.spill c true) cores t1 with
              | .trap c tr u => r = .next ((u.stepAll (other c)).takeTrap c { tr with tepc := some ((s.coreAt c).pc + 4) })
              | .wait u => r = .next (cores.foldl (fun u c => u.updCore c (fun x => { x with hold := .yielding })) u)
              | .ok t2 => r = .next (cores.foldl (fun u c => u.leave c 5 0 ((u.coreAt c).pc + 4) .none true) t2)))
      ∧ (vtypeLegal vt.toNat = true → ∀ g, s.me.gang = some g →
        let u := s.issued (encode f.1)
        let all := u.gangCores s.cur
        let word (c : Nat) : Option (BitVec 32) :=
          if (u.coreAt c).stage = .run then (u.coreAt c).gang.bind (fun h => h.issued) else none
        (∀ v, g.failed = some v → r = .next ((s.updMe (fun x => { x with gang := some { g with failed := none } })).trap
          { cause := 0x10, tval := v }))
        ∧ (g.failed = none → (all.length ≠ s.gangSize s.cur ∨ ∃ c ∈ all, word c = none) → r = .next u.stall)
        ∧ (g.failed = none → all.length = s.gangSize s.cur → (∀ c ∈ all, word c ≠ none) → (∃ c ∈ all, word c ≠ some (encode f.1)) →
          r = .next (u.trapAll all (fun _ => { cause := 0x10, tval := 0xFF01 })))))
    ∧ ((s.rg a).toNat ≤ 65535 → ∃ t, exec (.setd a b dim) s = .next t ∧ OnlyCore s t ∧ t.pc = s.pc + 4
        ∧ (∀ j, Store.get 0 t.me.u.dn j = if j = dim.toNat then (s.rg a).setWidth 16 else Store.get 0 s.me.u.dn j)
        ∧ (∀ j, Store.get 0 t.me.u.ds j = if j = dim.toNat then s.rg b else Store.get 0 s.me.u.ds j)
        ∧ { t.me with pc := s.me.pc, u := s.me.u } = s.me ∧ { t.me.u with dn := s.me.u.dn, ds := s.me.u.ds } = s.me.u)
    ∧ (65535 < (s.rg a).toNat →
        exec (.setd a b dim) s = .next (s.trap { cause := 1, tval := (encode (.setd a b dim)).setWidth 64 }))

/-! ## Traps and system instructions -/

/-- R65, R319, R322, R341: taking a trap, returning from one, and the SYS instructions at U. A trap saves the PC, the cause,
the value and the privilege, sets INH and S, and goes to TVEC, with every other register as before; with INH = 1 at S it
kills the wisp with END 5 and logs the cause (one entry of kind 4; its layout is the model's, log 41). ERET restores the PC and the privilege and clears INH; then a signalled
kill takes effect, or else a forced pre-emption for a return to U. -/
def Obligations.TrapEntryAndReturn : Prop :=
  ∀ (s : State) (tr : Trap) (d a b : BitVec 5),
    let x := s.me
    let y : Core := { x with hold := .free, pc := x.s.tepc, sup := x.s.ppriv, s := { x.s with inh := false } }
    let back := s.updMe (fun _ => y)
    ((x.sup = false ∨ x.s.inh = false) →
      let t := s.trap tr
      t.pc = x.s.tvec ∧ t.me.sup = true ∧ t.me.stage = .run
      ∧ t.me.s = { x.s with tcause := BitVec.ofNat 8 tr.cause, tval := tr.tval, tepc := (tr.tepc.getD x.pc) &&& ~~~ 3
                            ppriv := x.sup, inh := true }
      ∧ t.me.frec = tr.frec.getD x.frec
      ∧ t.me.g = x.g ∧ t.me.sg = x.sg ∧ t.me.v = x.v ∧ t.me.k = x.k
      -- what streams have delivered to an instruction that waits counts in VSTART (R237)
      ∧ t.me.u = { x.u with vstart := x.u.vstart + BitVec.ofNat 16 (x.popped + x.pushed) }
      ∧ (∀ c, c ≠ s.cur → t.coreAt c = s.coreAt c) ∧ (∀ m, t.byteAt m = s.byteAt m) ∧ t.wisps = s.wisps)
    ∧ (x.sup = true → x.s.inh = true → tr.cause ≠ 0x0E → tr.frec = none →
        s.trap tr = (s.logAdd 4 (s.vdevOn s.cur) ((s.partOfCore s.cur).getD 0)
          (tr.cause + tr.tval.toNat * 2 ^ 64 + (tr.tepc.getD x.pc).toNat * 2 ^ 128)).killLeave s.cur 5)
    ∧ (x.sup = true → x.kill = none → (x.s.pend = false ∨ x.s.force = false ∨ x.s.ppriv = true) →
        ∃ t, exec .eret s = .next t ∧ OnlyCore s t ∧ t.me = y)
    ∧ (x.sup = true → x.kill = none → x.s.pend = true → x.s.force = true → x.s.ppriv = false →
        exec .eret s = .next (back.trap { cause := 0x0D, tval := if x.preKind = some .eviction then 2 else 1 }))
    ∧ (∀ e, x.sup = true → x.kill = some e → exec .eret s = .next (back.killLeave s.cur e.2))
    ∧ (x.sup = false → ∀ i ∈ ([.eret, .rtwr a b, .rtrd a b, .rtinv a b, .rsplit d a, .rmerge d a, .genbump d a,
          .rcompact d a b, .ctxsv d a b, .ctxld d a b, .ipost d a, .wfi d a, .haltc d a] : List Instr),
        exec i s = .next (s.trap { cause := 2, tval := (encode i).setWidth 64 }))

/-- R92, R96, R101, R102, R104: the range table and its invalidation. RTWR loads 64 bytes into a slot, stamped with the ASN
and the generation and with MV and the reserved bits 0, or traps 0x01 for a malformed valid entry; RTRD stores a slot, or the fault record for
number 32; RTINV sends an invalidation to every core of its scope, which clears V in the slots of the ASN that overlap, and
awaits the acknowledgements, each of which comes when no write of that core awaits an owner's answer; GENBUMP raises the word of the generation table, where it wraps clearing V in every slot of the
ASN, notifies the cores that hold the ASN, and gives the new word once each has it, which loads it when no write of it awaits an
owner's answer. -/
def Obligations.RangeTableInstructions : Prop :=
  ∀ (s : State) (d a b : BitVec 5), s.me.sup = true →
    let c := s.cur
    let i := (s.rg a).toNat
    let p := s.rg b
    let bad (n : Instr) : Prop := exec n s = .next (s.trap { cause := 1, tval := (encode n).setWidth 64 })
    let mis (n : Instr) : Prop := exec n s = .next (s.trap { cause := 3, tval := p })
    (31 < i → bad (.rtwr a b)) ∧ (32 < i → bad (.rtrd a b))
    ∧ (i ≤ 31 → p.toNat % 64 ≠ 0 → mis (.rtwr a b)) ∧ (i ≤ 32 → p.toNat % 64 ≠ 0 → mis (.rtrd a b))
    ∧ (i ≤ 31 → p.toNat % 64 = 0 → ∀ v u, s.load c p.toNat 64 true true = .ok v u →
        let img := BitVec.ofNat 512 v
        if entV img = true ∧ entMalformed img = true then
          exec (.rtwr a b) s = .next (u.trap { cause := 1, tval := (encode (.rtwr a b)).setWidth 64 })
        else ∃ t, exec (.rtwr a b) s = .next t ∧ OnlyCore u t ∧ t.pc = s.pc + 4
          ∧ { t.me with pc := u.me.pc, slots := u.me.slots, age := u.me.age } = u.me
          ∧ (∀ j, j ≠ i → Store.get {} t.me.slots j = Store.get {} u.me.slots j)
          ∧ (let w := Store.get ({} : Slot) t.me.slots i
             w.dirIdx = none ∧ entASN w.img = s.me.s.asn.toNat ∧ entGEN w.img = s.me.s.asgen.toNat ∧ entMV w.img = false
             ∧ ∀ k, k < 512 → if (204 ≤ k ∧ k < 208) ∨ (216 ≤ k ∧ k < 224) ∨ 320 ≤ k then w.img.getLsbD k = false
               else k = 203 ∨ (224 ≤ k ∧ k < 256) ∨ w.img.getLsbD k = img.getLsbD k))
    ∧ (i ≤ 32 → p.toNat % 64 = 0 → ∀ u,
        s.store c p.toNat 64 (if i = 32 then s.me.frec else (Store.get ({} : Slot) s.me.slots i).img).toNat true true
          = .ok () u → PcOut u (s.pc + 4) (exec (.rtrd a b) s))
    ∧ (let x := (s.rg a).toNat
       let y := p.toNat
       let base := x / 4096 * 4096
       let limit := if y = 0 then 2 ^ 64 else y
       let l := s.coresIn c (x % 4)
       (x / 4 % 1024 ≠ 0 ∨ y % 4096 ≠ 0 → bad (.rtinv a b))
       ∧ (x / 4 % 1024 = 0 → y % 4096 = 0 → limit ≤ base → PcOut s (s.pc + 4) (exec (.rtinv a b) s))
       ∧ (x / 4 % 1024 = 0 → y % 4096 = 0 → base < limit →
          ∃ t, exec (.rtinv a b) s = .next t ∧ t.me = { s.me with
              pc := s.pc + 4
              inval := s.me.inval ++ (if l = [] then [] else [⟨x % 4, s.me.s.asn.toNat, base, limit, l.length⟩]) }
            ∧ t.sched = s.sched ++ l.map (fun e => .rangeInvalidation e s.me.s.asn.toNat base limit c)
            ∧ ∀ m, t.byteAt m = s.byteAt m))
    ∧ (∀ core asn base limit issuer, s.awaitsAnswer core = true → exec (.rangeInvalidation core asn base limit issuer) s
        = .next (s.post (.rangeInvalidation core asn base limit issuer)))
    ∧ (∀ core asn base limit issuer, s.awaitsAnswer core = false → ∃ t, exec (.rangeInvalidation core asn base limit issuer) s = .next t ∧ SamePackage s t
        ∧ (∀ i, let m := (Store.get ({} : Slot) (s.coreAt core).slots i).img
            let z := (Store.get ({} : Slot) (t.coreAt core).slots i).img
            if entV m = true ∧ entASN m = asn ∧ entBase m < limit ∧ base < entLimit m then
              entV z = false ∧ ∀ k, k < 512 → k ≠ 192 → z.getLsbD k = m.getLsbD k
            else z = m)
        ∧ (∀ q l, (s.coreAt issuer).inval = q :: l → q.asn = asn → q.base = base → q.limit = limit →
            (t.coreAt issuer).inval = if q.left ≤ 1 then l else { q with left := q.left - 1 } :: l)
        ∧ ((∀ q ∈ (s.coreAt issuer).inval, ¬ (q.asn = asn ∧ q.base = base ∧ q.limit = limit)) →
            (t.coreAt issuer).inval = (s.coreAt issuer).inval)
        ∧ (∀ e, (t.coreAt e).pc = (s.coreAt e).pc ∧ (t.coreAt e).g = (s.coreAt e).g))
    ∧ (2 ^ 16 ≤ (s.rg a).toNat → bad (.genbump d a))
    ∧ ((s.rg a).toNat < 2 ^ 16 → s.me.bump = none →
        let key := s.myPart * 65536 + (s.rg a).toNat
        let g := Store.get 0 s.gens key + 1
        ∃ t, exec (.genbump d a) s = .next t ∧ t.pc = s.pc ∧ t.me.hold = .firm ∧ t.me.bump = some ((s.rg a).toNat, g)
          ∧ t.gens = Store.set 0 s.gens key g
          ∧ (∀ e ∈ s.cores, s.partOfCore e.1 = some s.myPart → g = 0 → ∀ i,
              let z := (Store.get ({} : Slot) (t.coreAt e.1).slots i).img
              entV z = true → entASN z ≠ (s.rg a).toNat) ∧ (∀ r : BitVec 5, t.rg r = s.rg r)
          ∧ ∀ e ∈ s.cores, s.partOfCore e.1 = some s.myPart → (s.coreAt e.1).s.asn.toNat = (s.rg a).toNat →
              .generationNotice e.1 (s.rg a).toNat ∈ t.sched)
    ∧ ((s.rg a).toNat < 2 ^ 16 → ∀ asn g, s.me.bump = some (asn, g) → 
        if s.noticesDue s.myPart asn = true then exec (.genbump d a) s = .next s.block
        else GOut (s.updMe (fun x => { x with bump := none })) d (g.setWidth 64) (exec (.genbump d a) s))
    ∧ (∀ core asn, s.awaitsAnswer core = true →
        exec (.generationNotice core asn) s = .next (s.post (.generationNotice core asn)))
    ∧ (∀ core asn, s.awaitsAnswer core = false → ∃ t, exec (.generationNotice core asn) s = .next t ∧ SamePackage s t
        ∧ (∀ e, e ≠ core → t.coreAt e = s.coreAt e)
        ∧ t.coreAt core = if (s.coreAt core).s.asn.toNat = asn then
            { s.coreAt core with s := { (s.coreAt core).s with
              asgen := Store.get 0 s.gens (((s.partOfCore core).getD 0) * 65536 + asn) } } else s.coreAt core)

/-- R89, R94, R97, R103, R105: RSPLIT, RMERGE and RCOMPACT. With nothing that covers the address they give 1; the walk's
poison traps 0x0E, and an edit under way is waited for. Otherwise the status of the first condition that holds; or 0, with
the directory edited: SEQ goes up by two, the entries around those concerned keep their order and their bytes, and a granule of
an entry written is resident when every granule that it overlaps of the old entries is. A range
taken by RCOMPACT is marked MV and queued for the Dredge. The order of the conditions is the model's where several hold, and
its status for a malformed entry (log 43). (Premise: no range moves, nothing is poisoned and no waiter watches a word of the
directory.) -/
def Obligations.DirectoryInstructions : Prop :=
  ∀ (s : State) (d a b : BitVec 5), s.me.sup = true →
    let v := (s.rg a).toNat
    let r := s.me.rdirPa
    let n := s.dirCount r
    let q := s.dirSeq r
    let forms : List Instr := [.rsplit d a, .rmerge d a, .rcompact d a b]
    let edited (t : State) (m : Nat) : Prop := t.dirCount r = m ∧ t.dirSeq r = (q + 2) % 2 ^ 32
    let resid (old : List (BitVec 512)) (x : BitVec 512) : Prop := ∀ k, k < 64 →
      let lo := entBase x + k * entGranule x
      let hi := min (entBase x + (k + 1) * entGranule x) (entLimit x)
      (entRESID x / 2 ^ k % 2 = 1 ↔ lo < hi ∧ ∀ o ∈ old, ∀ i, i < 64 →
        let olo := entBase o + i * entGranule o
        olo < entLimit o → olo < hi → lo < min (olo + entGranule o) (entLimit o) → entRESID o / 2 ^ i % 2 = 1)
    (v % 4096 ≠ 0 → exec (.rsplit d a) s = .next (s.trap { cause := 1, tval := (encode (.rsplit d a)).setWidth 64 }))
    ∧ (∀ i ∈ forms, (v % 4096 = 0 ∨ i ≠ .rsplit d a) →
        (s.walk (some s.cur) r v = .miss → GOut s d 1 (exec i s)) ∧ (∀ j e, s.walk (some s.cur) r v = .malformed j e → GOut s d 1 (exec i s))
        ∧ (s.walk (some s.cur) r v = .poison → exec i s = .next (s.trap { cause := 0x0E, tval := s.rg a }))
        ∧ (s.walk (some s.cur) r v = .edit → exec i s = .next s.block))
    ∧ (∀ j e, s.walk (some s.cur) r v = .found j e → s.moves = [] → s.pois = [] →
        (∀ w ∈ s.waiters, overlap r (64 * (n + 2)) w.pa (if w.wide then 8 else 4) = false) →
        (v % 4096 = 0 → if entMV e = true then GOut s d 4 (exec (.rsplit d a) s)
          else if v = entBase e then GOut s d 2 (exec (.rsplit d a) s)
          else if n = 65536 then GOut s d 3 (exec (.rsplit d a) s)
          else ∃ t, GOut t d 0 (exec (.rsplit d a) s) ∧ edited t (n + 1)
            ∧ (∀ i, i < j → t.dirEntry r i = s.dirEntry r i)
            ∧ (∀ i, j < i → i < n → t.dirEntry r (i + 1) = s.dirEntry r i)
            ∧ entBase (t.dirEntry r j) = entBase e ∧ entLimit (t.dirEntry r j) = v
            ∧ entBase (t.dirEntry r (j + 1)) = v ∧ entLimit (t.dirEntry r (j + 1)) = entLimit e
            ∧ entRest (t.dirEntry r j) = entRest e ∧ entRest (t.dirEntry r (j + 1)) = entRest e
            ∧ resid [e] (t.dirEntry r j) ∧ resid [e] (t.dirEntry r (j + 1)))
        ∧ (let f := s.dirEntry r (j + 1)
           if entMV e = true then GOut s d 4 (exec (.rmerge d a) s)
           else if n ≤ j + 1 then GOut s d 1 (exec (.rmerge d a) s)
           else if entMV f = true then GOut s d 4 (exec (.rmerge d a) s)
           else if entLimit e ≠ entBase f ∨ entRest e ≠ entRest f then GOut s d 2 (exec (.rmerge d a) s)
           else ∃ t, GOut t d 0 (exec (.rmerge d a) s) ∧ edited t (n - 1)
            ∧ (∀ i, i < j → t.dirEntry r i = s.dirEntry r i)
            ∧ (∀ i, j + 1 < i → i < n → t.dirEntry r (i - 1) = s.dirEntry r i)
            ∧ entBase (t.dirEntry r j) = entBase e ∧ entLimit (t.dirEntry r j) = entLimit f
            ∧ entRest (t.dirEntry r j) = entRest e ∧ resid [e, f] (t.dirEntry r j))
        ∧ (let new := (s.rg b).toNat
           let old := entPA e (entBase e)
           let len := entLimit e - entBase e
           if entMV e = true then GOut s d 3 (exec (.rcompact d a b) s)
           else if entCLK e = true ∨ entDEV e = true ∨ entCA e = false then GOut s d 2 (exec (.rcompact d a b) s)
           else if new % 4096 ≠ 0 ∨ s.ownPa new = false ∨ s.spanBacked new len s.myPart = false ∨ overlap new len old len = true
             then GOut s d 4 (exec (.rcompact d a b) s)
           else ∃ t m, GOut t d 0 (exec (.rcompact d a b) s) ∧ edited t n ∧ entMV (t.dirEntry r j) = true
             ∧ (∀ i, i ≠ j → i < n → t.dirEntry r i = s.dirEntry r i)
             ∧ t.moves = [m] ∧ m.entry = entBase e ∧ m.dir = r ∧ m.old = old ∧ m.new = new ∧ m.len = len ∧ m.phase = 1
             ∧ .dredgeCopyPhase ∈ t.sched))

/-- R342, R343, R345, R346 and the resumes of R344: the shape of CTXSV and CTXLD (operands outside their limits trap 0x01, a
buffer that is not aligned 0x03, and one that the checks refuse gives 3), what they save and load, IPOST, WFI, and HALTC. (The
inner places of the buffer are the model's, log 25; so is that WFI reports at once an event that holds already, log 36.) -/
def Obligations.ContextPostWaitAndHalt : Prop :=
  ∀ (s : State) (d a b : BitVec 5), s.me.sup = true →
    let c := s.cur
    let m := (s.rg b).toNat
    let p := (s.rg a).toNat
    let forms : List (Instr × AKind) := [(.ctxsv d a b, .write), (.ctxld d a b, .read)]
    let legal := s.me.s.inh = true ∧ m < 16 ∧ m ≠ 0
    (¬ legal → ∀ i ∈ forms, exec i.1 s = .next (s.trap { cause := 1, tval := (encode i.1).setWidth 64 }))
    ∧ (legal → p % 64 ≠ 0 → ∀ i ∈ forms, exec i.1 s = .next (s.trap { cause := 3, tval := s.rg a }))
    ∧ (legal → p % 64 = 0 → ∀ i ∈ forms, ∀ t u, s.ctxReach c p i.2 (ctxSpans m) = .trap t u → t.frec.isSome = true →
        GOut u d 3 (exec i.1 s))
    ∧ (legal → p % 64 = 0 → ∀ u, s.ctxReach c p .write (ctxSpans m) = .ok () u →
        let parts (t : State) := t.updMe (fun x => { x with saved := x.saved ||| BitVec.ofNat 4 m })
        let done (t : State) := if m / 2 % 2 = 1 then t.emptyEngines c else t
        if 4 ≤ m ∧ m / 2 % 2 = 0 ∧ u.me.holdsEngine = true then GOut u d 4 (exec (.ctxsv d a b) s)
        else if 8 ≤ m ∧ u.otherPinned c true = true then GOut u d 2 (exec (.ctxsv d a b) s)
        else ∀ v w, (if m / 2 % 2 = 1 then u.restEngines c else some u) = some v →
          (m / 4 % 2 = 1 → v.me.typed.poisonAt = none) → (m / 8 % 2 = 1 → (v.clusterAt (clusterOf c)).poisonAt = none) →
          (v.ctxImage c m).2.storeAll c ((v.ctxImage c m).1.map (fun e => (p + e.1, e.2.1, e.2.2))) = .ok () w →
          ((parts (done w)).releaseNow c 255 2).awaitsAnswer c = false →
            GOut ((parts (done w)).releaseNow c 255 2) d 0 (exec (.ctxsv d a b) s))
    ∧ (∀ u : State, m % 2 = 1 → m < 16 →
        let img := (u.ctxImage c m).1
        (∃ h, img.getLast? = some (0, 0x40, h) ∧ h % 2 ^ 16 = 1 ∧ h / 2 ^ 16 % 16 = m
          ∧ h / 2 ^ 64 % 2 ^ 32 = (u.wispOn c).2 % 2 ^ 32 ∧ h / 2 ^ 96 % 2 ^ 32 = (u.wispOn c).1 % 2 ^ 32
          ∧ h / 2 ^ 128 % 2 ^ 64 = (u.coreAt c).s.tepc.toNat ∧ h / 2 ^ 192 % 2 ^ 64 = u.time % 2 ^ 64)
        ∧ (∃ g, (0x40, 0x100, g) ∈ img ∧ ∀ r, 1 ≤ r → r < 32 → g / 2 ^ (64 * r) % 2 ^ 64 = (Store.get 0 (u.coreAt c).g r).toNat)
        ∧ (∃ k, (0x140, 0x180, k) ∈ img ∧ ∀ r, r < 12 → k / 2 ^ (256 * r) % 2 ^ 256 = ((u.coreAt c).kRead r).toNat)
        ∧ (∀ r, r < 32 → (0x400 + 0x100 * r, 0x100, ((u.coreAt c).vRead r).toNat) ∈ img))
    ∧ (legal → p % 64 = 0 → ∀ u h v, s.ctxReach c p .read (ctxSpans m) = .ok () u →
        (u.acquire c 255 2).ctxRead c p 0x40 true = .ok h v →
        if h % 2 ^ 16 ≠ 1 ∨ h / 2 ^ 64 % 2 ^ 32 ≠ (v.wispOn c).2 ∨ h / 2 ^ 96 % 2 ^ 32 ≠ (v.wispOn c).1
            ∨ BitVec.ofNat 4 m &&& ~~~ BitVec.ofNat 4 (h / 2 ^ 16 % 16) ≠ 0 then GOut v d 4 (exec (.ctxld d a b) s)
        else if 8 ≤ m ∧ v.otherPinned c false = true then GOut v d 2 (exec (.ctxld d a b) s)
        else ∀ w, v.ctxLoad c p m h = .ok () w → GOut w d 0 (exec (.ctxld d a b) s))
    ∧ (p % 64 ≠ 0 → exec (.ipost d a) s = .next (s.trap { cause := 3, tval := s.rg a }))
    ∧ (p % 64 = 0 → ∀ x u, s.xlat c p .read true true = .ok x u →
        match u.wisps.find? (fun e => e.2.addr == x.pa && e.2.addr != 0 && e.2.loc != .ended
          && (u.launchAt e.2.launch).part == u.myPart) with
        | none => GOut u d 2 (exec (.ipost d a) s)
        | some (k, _) =>
          let w := u.wispAt k
          if w.aband = true ∧ w.kept = false then
            GOut (u.updWisp k (fun w => { w with kept := true })) d 0 (exec (.ipost d a) s)
          else if w.st = 1 ∧ w.reason = 1 ∧ u.suspended k = true then GOut (u.wakeSuspended k) d 0 (exec (.ipost d a) s)
          else if w.st = 1 ∧ w.reason = 4 then
            match u.waiters.find? (fun q => wkey q.launch q.index == k) with
            | some q => GOut (u.wakeWaiter q) d 0 (exec (.ipost d a) s)
            | none => GOut u d 1 (exec (.ipost d a) s)
          else GOut u d 1 (exec (.ipost d a) s))
    ∧ (let x := s.me
       let e := (if p ≠ 0 ∧ p ≤ s.time then 1 else 0) + (if x.kill.isSome then 4 else 0) + (if x.refill then 8 else 0)
       (e ≠ 0 → GOut (s.updMe (fun x => { x with refill := false })) d (BitVec.ofNat 64 e) (exec (.wfi d a) s))
       ∧ (e = 0 → ∃ t, exec (.wfi d a) s = .next t ∧ OnlyCore s t
          ∧ t.me = { x with waitOn := .wfi d.toNat p x.s.pend x.s.force, stage := .wait }))
    ∧ (let x := s.me
       let k := s.wispKey c
       let pin := (s.wispAt k).pinned
       if x.s.inh = false ∨ (p ≠ 6 ∧ p ≠ 7) then
         exec (.haltc d a) s = .next (s.trap { cause := 1, tval := (encode (.haltc d a)).setWidth 64 })
       else if x.saved.getLsbD 0 = false then GOut s d 1 (exec (.haltc d a) s)
       else if x.holdsEngine = true then GOut s d 2 (exec (.haltc d a) s)
       else if pin = true ∧ x.saved.getLsbD 2 = false then GOut s d 3 (exec (.haltc d a) s)
       else ∀ l i, x.wisp = some (l, i) → s.seat c = some (.pool (dieOf c)) → x.kill = none →
         ∃ t, exec (.haltc d a) s = .next t ∧ t.me.wisp = none ∧ t.me.stage = .idle ∧ t.me.sup = false
           ∧ t.me.s.inh = false ∧ t.me.s.pend = false ∧ t.me.s.force = false
           ∧ (let w := t.wispAt (wkey l i)
              w.reason = p ∧ w.st = (if p = 6 then 0 else 1) ∧ w.pc = x.s.tepc ∧ w.loc = .pool (dieOf c)
              ∧ w.g1 = Store.get 0 x.g 1 ∧ w.g2 = Store.get 0 x.g 2 ∧ w.g3 = Store.get 0 x.g 3
              ∧ w.pinned = (pin && !x.saved.getLsbD 2)))

/-! ## Vector instructions -/

/-- R157, R162, R163: VINT, register with register and register with scalar, in or out of a gang: for each function the
value of an active position from the elements of va, vb (or the low EW bits of gb) and the old vd, taken modulo 2^EW;
SAT where a saturating function clamps. R231, R232, R235 to R237: with va bound to a stream (vb too, if it is the same
register), the k elements that the stream delivers stand in va from VSTART on, the positions below VSTART + k are done, and the
binding has moved by k; with k all of them the instruction completes, else VSTART is the position reached, and it reports the
stream's fault, or waits, or traps 0x0A when it has waited for WDOG. With vd bound to a STORE, every position from VSTART on is pushed
after it is written, what lies past the end discarded; with no room it waits. A register bound in a gang, in another FORMAT, or
for the other direction, traps 0x01. (In what portions bound registers move is the model's choice, log 24; the room of a STORE
is the chunk limit of log 36; flags of the positions done are set at a wait or trap, log 47.) -/
def Obligations.VectorIntegerResults : Prop :=
  ∀ (s : State) (d a b : BitVec 5) (msk : BitVec 4) (ca cb : Bool),
    let x := s.me
    let w := x.ew
    let sg (n : Nat) : Int := if n < 2 ^ (w - 1) then n else (n : Int) - 2 ^ w
    let lo : Int := -(2 ^ (w - 1))
    let hi : Int := 2 ^ (w - 1) - 1
    let top : Int := 2 ^ w - 1
    let sat (l h v : Int) : Int × Flags := if v < l then (l, fSAT) else if h < v then (h, fSAT) else (v, 0)
    let quo (m n : Nat) : Int := (sg m).tdiv (sg n)
    let forms : List (Instr × Instr × (Nat → Nat → Nat → Int × Flags)) := [
      (.vaddVv d a b msk ca cb, .vaddVs d a b msk ca, fun m n _ => ((m : Int) + n, 0)),
      (.vsubVv d a b msk ca cb, .vsubVs d a b msk ca, fun m n _ => ((m : Int) - n, 0)),
      (.vrsubVv d a b msk ca cb, .vrsubVs d a b msk ca, fun m n _ => ((n : Int) - m, 0)),
      (.vmulVv d a b msk ca cb, .vmulVs d a b msk ca, fun m n _ => ((m : Int) * n, 0)),
      (.vmulhVv d a b msk ca cb, .vmulhVs d a b msk ca, fun m n _ => (sg m * sg n / 2 ^ w, 0)),
      (.vmulhuVv d a b msk ca cb, .vmulhuVs d a b msk ca, fun m n _ => ((m : Int) * n / 2 ^ w, 0)),
      (.vminVv d a b msk ca cb, .vminVs d a b msk ca, fun m n _ => (min (sg m) (sg n), 0)),
      (.vmaxVv d a b msk ca cb, .vmaxVs d a b msk ca, fun m n _ => (max (sg m) (sg n), 0)),
      (.vminuVv d a b msk ca cb, .vminuVs d a b msk ca, fun m n _ => (min (m : Int) n, 0)),
      (.vmaxuVv d a b msk ca cb, .vmaxuVs d a b msk ca, fun m n _ => (max (m : Int) n, 0)),
      (.vandVv d a b msk ca cb, .vandVs d a b msk ca, fun m n _ => ((m &&& n : Nat), 0)),
      (.vorVv d a b msk ca cb, .vorVs d a b msk ca, fun m n _ => ((m ||| n : Nat), 0)),
      (.vxorVv d a b msk ca cb, .vxorVs d a b msk ca, fun m n _ => ((m ^^^ n : Nat), 0)),
      (.vsllVv d a b msk ca cb, .vsllVs d a b msk ca, fun m n _ => ((m : Int) * 2 ^ (n % w), 0)),
      (.vsrlVv d a b msk ca cb, .vsrlVs d a b msk ca, fun m n _ => ((m : Int) / 2 ^ (n % w), 0)),
      (.vsraVv d a b msk ca cb, .vsraVs d a b msk ca, fun m n _ => (sg m / 2 ^ (n % w), 0)),
      (.vaddsatVv d a b msk ca cb, .vaddsatVs d a b msk ca, fun m n _ => sat lo hi (sg m + sg n)),
      (.vsubsatVv d a b msk ca cb, .vsubsatVs d a b msk ca, fun m n _ => sat lo hi (sg m - sg n)),
      (.vaddsatuVv d a b msk ca cb, .vaddsatuVs d a b msk ca, fun m n _ => sat 0 top ((m : Int) + n)),
      (.vsubsatuVv d a b msk ca cb, .vsubsatuVs d a b msk ca, fun m n _ => sat 0 top ((m : Int) - n)),
      (.vabsdVv d a b msk ca cb, .vabsdVs d a b msk ca, fun m n _ => (|sg m - sg n|, 0)),
      (.vmaccVv d a b msk ca cb, .vmaccVs d a b msk ca, fun m n o => ((o : Int) + m * n, 0)),
      (.vdivVv d a b msk ca cb, .vdivVs d a b msk ca, fun m n _ => (if n = 0 then -1 else quo m n, 0)),
      (.vremVv d a b msk ca cb, .vremVs d a b msk ca, fun m n _ => (if n = 0 then m else sg m - sg n * quo m n, 0))]
    ∀ f ∈ forms,
      -- VMACC reads vd too
      let acc : Prop := f.1 = .vmaccVv d a b msk ca cb
      (x.unbound [d, a, b] → LaneOut s d x.first x.last (x.on msk)
        (fun j => f.2.2 (x.elem w a.toNat j) (x.elem w b.toNat j) (x.elem w d.toNat j)) (exec f.1 s))
      ∧ (x.unbound [d, a] → LaneOut s d x.first x.last (x.on msk)
        (fun j => f.2.2 (x.elem w a.toNat j) ((s.rg b).toNat % 2 ^ w) (x.elem w d.toNat j)) (exec f.2.1 s))
      -- a source is bound
      ∧ (∀ i q, x.bindOf a.toNat = some (i, q) → x.bindOf d.toNat = none → x.gang = none → q.format = x.u.vtype.toNat →
          q.reads = true → x.popped = 0 → x.pushed = 0 → (x.sup = false ∨ x.s.inh = false) →
        let n := x.last - x.first
        let pop := s.popPeek s.cur i n
        let k := pop.1.length
        let p := pop.2.2.bindAt s.cur i
        let src (r j : Nat) : Nat :=
          if r = a.toNat ∧ x.first ≤ j ∧ j < x.first + k then pop.1.getD (j - x.first) 0 % 2 ^ w else x.elem w r j
        let ends (vb : Nat → Nat) (r : Res) : Prop := ∃ u, r = .next u
          ∧ (∀ j, j < 2048 / w → u.me.elem w a.toNat j = src a.toNat j)
          ∧ (∀ j, j < 2048 / w → (u.me.elem w d.toNat j : Int) = if x.first ≤ j ∧ j < x.first + k ∧ x.on msk j = true
              then (f.2.2 (src a.toNat j) (vb j) (x.elem w d.toNat j)).1 % 2 ^ w else x.elem w d.toNat j)
          ∧ (∀ r, r ≠ a.toNat → r ≠ d.toNat → u.me.vRead r = x.vRead r) ∧ u.me.k = x.k ∧ u.me.g = x.g ∧ u.me.sg = x.sg
          ∧ x.Raised u.me (fun j v => x.first ≤ j ∧ j < x.first + k ∧ x.on msk j = true
              ∧ v = (f.2.2 (src a.toNat j) (vb j) (x.elem w d.toNat j)).2)
          ∧ (u.bindAt s.cur i).count = p.count + (if q.kind = 6 then k else min k (p.popTotal - p.count))
          ∧ (if k = n then u.pc = s.pc + 4 ∧ u.me.u.vstart = 0
             else u.me.u.vstart = BitVec.ofNat 16 (x.first + k) ∧ match pop.2.1 with
              | .fault tr => u.pc = x.s.tvec ∧ u.me.s.tcause = BitVec.ofNat 8 tr.cause ∧ u.me.s.tval = tr.tval
                  ∧ u.me.s.tepc = s.pc &&& ~~~ 3
              | _ =>
                if k = 0 ∧ (∃ t0, p.stall = some t0 ∧ t0 + p.wdogNs ≤ s.time) then u.pc = x.s.tvec ∧ u.me.s.tcause = 0x0A
                  ∧ u.me.s.tval = BitVec.ofNat 64 (q.addr.toNat / 64 * 64 + i) ∧ u.me.s.tepc = s.pc &&& ~~~ 3
                else u.pc = s.pc ∧ u.me.hold = .loose ∧ (u.bindAt s.cur i).stall.isSome = true)
        (b = a ∨ x.bindOf b.toNat = none → ends (src b.toNat) (exec f.1 s))
        ∧ ends (fun _ => (s.rg b).toNat % 2 ^ w) (exec f.2.1 s))
      -- the destination is bound to a STORE
      ∧ (∀ i q, x.bindOf d.toNat = some (i, q) → x.unbound [a, b] → x.gang = none → q.format = x.u.vtype.toNat →
          q.kind = 1 → q.dead = false → x.popped = 0 → x.pushed = 0 →
        let n := x.last - x.first
        let goes := min n (q.pushTotal - q.count)
        let ends (vb : Nat → Nat) (r : Res) : Prop :=
          let new (j : Nat) : Int := if x.first ≤ j ∧ j < x.last ∧ x.on msk j = true
            then (f.2.2 (x.elem w a.toNat j) (vb j) (x.elem w d.toNat j)).1 % 2 ^ w else x.elem w d.toNat j
          (¬ acc → (q.unsent.length + goes) * q.ewb ≤ 8192 → ∃ u, r = .next u ∧ u.pc = s.pc + 4 ∧ u.me.u.vstart = 0
            ∧ (∀ j, j < 2048 / w → (u.me.elem w d.toNat j : Int) = new j)
            ∧ (∀ r, r ≠ d.toNat → u.me.vRead r = x.vRead r) ∧ u.me.k = x.k ∧ u.me.g = x.g ∧ u.me.sg = x.sg
            ∧ (let o := u.bindAt s.cur i
               o.count = q.count + goes ∧ o.ended = (q.ended || decide (goes < n))
               ∧ o.unsent = q.unsent ++ (List.range goes).map (fun j => (new (x.first + j)).toNat))
            ∧ (0 < goes → .streamStorePerform s.cur i ∈ u.sched))
          ∧ (¬ acc → 8192 ≤ q.unsent.length * q.ewb → 0 < goes → (∀ t0, q.stall = some t0 → s.time < t0 + q.wdogNs) →
            ∃ u, r = .next u ∧ u.pc = s.pc ∧ u.me.hold = .loose ∧ u.me.u.vstart = BitVec.ofNat 16 x.first
              ∧ u.me.v = x.v ∧ u.me.k = x.k ∧ u.me.g = x.g ∧ (u.bindAt s.cur i).unsent = q.unsent)
        ends (fun j => x.elem w b.toNat j) (exec f.1 s) ∧ ends (fun _ => (s.rg b).toNat % 2 ^ w) (exec f.2.1 s))
      -- a bound register that may not be named so
      ∧ (let off (r : BitVec 5) (ok : Binding → Bool) : Prop := ∃ i q, x.bindOf r.toNat = some (i, q)
           ∧ (x.gang ≠ none ∨ q.format ≠ x.u.vtype.toNat ∨ ok q = false)
         (off a Binding.reads ∨ off b Binding.reads ∨ off d Binding.writes ∨ (acc ∧ off d Binding.reads) →
           exec f.1 s = .next (s.trap { cause := 1, tval := (encode f.1).setWidth 64 }))
         ∧ (off a Binding.reads ∨ off d Binding.writes ∨ (acc ∧ off d Binding.reads) →
           exec f.2.1 s = .next (s.trap { cause := 1, tval := (encode f.2.1).setWidth 64 })))

/-- R148, R164 to R166: VFLT in the format of VTYPE. The value and the flags of each function are those of the format's
arithmetic (one rounding of the exact result, State of the rounding in FCTL), from sources that FZ has flushed; a format
that is not a float, a rounding mode above 4 where the function rounds, and f64 for VFEXP2, VFLOG2 and VFTANH trap 0x01.
R231, R232, R235, R237: with a source or the destination bound to a stream, as StreamSource, StreamDest and StreamBad say
(portions and flags: the model's choice, logs 24, 36, 47). -/
def Obligations.VectorFloatResults : Prop :=
  ∀ (s : State) (d a b : BitVec 5) (msk : BitVec 4) (ca cb : Bool),
    let x := s.me
    let w := x.ew
    let fz := x.u.fz
    let rm := x.u.rm
    let two (g : FFmt → FVal → FVal → Nat × Flags) : FFmt → Nat → Nat → Nat → Nat × Flags :=
      fun f m n _ => g f (f.decode m) (f.decode n)
    let one (g : FFmt → FVal → Nat × Flags) : FFmt → Nat → Nat → Nat → Nat × Flags := fun f m _ _ => g f (f.decode m)
    -- the two instructions, whether vb is a source, whether the function rounds, whether f64 is refused, and the function
    let forms : List (Instr × Instr × Bool × Bool × Bool × (FFmt → Nat → Nat → Nat → Nat × Flags)) := [
      (.vfaddVv d a b msk ca cb, .vfaddVs d a b msk ca, true, true, false, two (fun f p q => f.add fz rm p q)),
      (.vfsubVv d a b msk ca cb, .vfsubVs d a b msk ca, true, true, false, two (fun f p q => f.add fz rm p q.negate)),
      (.vfmulVv d a b msk ca cb, .vfmulVs d a b msk ca, true, true, false, two (fun f p q => f.mul fz rm p q)),
      (.vfdivVv d a b msk ca cb, .vfdivVs d a b msk ca, true, true, false, two (fun f p q => f.div fz rm p q)),
      (.vfmaVv d a b msk ca cb, .vfmaVs d a b msk ca, true, true, false,
        fun f m n o => f.fma fz rm false (f.decode m) (f.decode n) (f.decode o)),
      (.vfmsVv d a b msk ca cb, .vfmsVs d a b msk ca, true, true, false,
        fun f m n o => f.fma fz rm false (f.decode m) (f.decode n) (f.decode o).negate),
      (.vfnmaVv d a b msk ca cb, .vfnmaVs d a b msk ca, true, true, false,
        fun f m n o => f.fma fz rm true (f.decode m) (f.decode n) (f.decode o)),
      (.vfminVv d a b msk ca cb, .vfminVs d a b msk ca, true, false, false,
        fun f m n _ => f.minmax false m n (f.decode m) (f.decode n)),
      (.vfmaxVv d a b msk ca cb, .vfmaxVs d a b msk ca, true, false, false,
        fun f m n _ => f.minmax true m n (f.decode m) (f.decode n)),
      (.vfsqrtVv d a msk ca, .vfsqrtVs d a msk ca, false, true, false, one (fun f p => f.sqrt fz rm p)),
      (.vfrcpVv d a msk ca, .vfrcpVs d a msk ca, false, true, false, one (fun f p => f.rcp fz rm p)),
      (.vfrsqVv d a msk ca, .vfrsqVs d a msk ca, false, true, false, one (fun f p => f.rsq fz rm p)),
      (.vfexp2Vv d a msk ca, .vfexp2Vs d a msk ca, false, true, true, one (fun f p => f.exp2 fz rm p)),
      (.vflog2Vv d a msk ca, .vflog2Vs d a msk ca, false, true, true, one (fun f p => f.log2 fz rm p)),
      (.vftanhVv d a msk ca, .vftanhVs d a msk ca, false, true, true, one (fun f p => f.tanh fz rm p)),
      (.vfabsVv d a msk ca, .vfabsVs d a msk ca, false, false, false, fun f m _ _ => (m % f.signBit, 0)),
      (.vfnegVv d a msk ca, .vfnegVs d a msk ca, false, false, false, fun f m _ _ => (m + f.signBit, 0)),
      (.vfsgnjVv d a b msk ca cb, .vfsgnjVs d a b msk ca, true, false, false,
        fun f m n _ => (m % f.signBit + n / f.signBit % 2 * f.signBit, 0)),
      (.vfclassVv d a msk ca, .vfclassVs d a msk ca, false, false, false, fun f m _ _ => (f.classOf (f.decode m), 0))]
    ∀ e ∈ forms,
      let ok : Bool := x.u.float.isSome && !(e.2.2.2.1 && decide (5 ≤ rm)) && !(e.2.2.2.2.1 && w == 64)
      (x.unbound [d, a, b] → ∀ f, ok = true → x.u.float = some f →
        LaneOut s d x.first x.last (x.on msk) (fun j =>
          let v := e.2.2.2.2.2 f (f.flush fz (x.elem w a.toNat j)) (f.flush fz (x.elem w b.toNat j))
            (f.flush fz (x.elem w d.toNat j))
          ((v.1 : Int), v.2)) (exec e.1 s))
      ∧ (x.unbound [d, a] → ∀ f, ok = true → x.u.float = some f →
        LaneOut s d x.first x.last (x.on msk) (fun j =>
          let v := e.2.2.2.2.2 f (f.flush fz (x.elem w a.toNat j)) (f.flush fz ((s.rg b).toNat % 2 ^ w))
            (f.flush fz (x.elem w d.toNat j))
          ((v.1 : Int), v.2)) (exec e.2.1 s))
      ∧ (ok = false → exec e.1 s = .next (s.trap { cause := 1, tval := (encode e.1).setWidth 64 })
          ∧ exec e.2.1 s = .next (s.trap { cause := 1, tval := (encode e.2.1).setWidth 64 }))
      -- registers bound to streams; the multiply-adds read vd too
      ∧ (let acc : Prop := e.1 = .vfmaVv d a b msk ca cb ∨ e.1 = .vfmsVv d a b msk ca cb ∨ e.1 = .vfnmaVv d a b msk ca cb
         (ok = true → a ≠ d → s.StreamSource e.1 a true ∧ s.StreamSource e.2.1 a true)
         ∧ (ok = true → e.2.2.1 = true → b ≠ d → s.StreamSource e.1 b true)
         ∧ (ok = true → ¬ acc → a ≠ d → (e.2.2.1 = true → b ≠ d) → s.StreamDest e.1 d ∧ s.StreamDest e.2.1 d)
         ∧ s.StreamBad e.1 [a] [d] ∧ s.StreamBad e.2.1 [a] [d] ∧ (e.2.2.1 = true → s.StreamBad e.1 [b] [])
         ∧ (acc → s.StreamBad e.1 [d] [] ∧ s.StreamBad e.2.1 [d] []))

/-- R167: VCMP writes every bit of [VSTART, VL) of kd, 0 where the mask is off; the float compares order values, an
unordered pair giving 0 (VCMPFUNO 1) and NV where it must, and trap 0x01 in an integer format. R231, R232, R237: a source
bound to a stream, as StreamSource and StreamBad say. (That FZ flushes nothing of VCMPEQ to VCMPGEU is the model's choice, and so
are the portions of streams, logs 47 and 24.) -/
def Obligations.VectorCompareResults : Prop :=
  ∀ (s : State) (d : BitVec 4) (a b : BitVec 5) (msk : BitVec 4) (ca cb : Bool),
    let x := s.me
    let w := x.ew
    let sg (n : Nat) : Int := if n < 2 ^ (w - 1) then n else (n : Int) - 2 ^ w
    let val (m : Nat) : FVal := match x.u.float with
      | some f => f.decode (f.flush x.u.fz m)
      | none => m8Decode x.u.mbias m
    let nan (m n : Nat) : Bool := (val m).isNan || (val n).isNan
    let sig (m n : Nat) : Bool := (val m).isSig || (val n).isSig
    let nv (c : Bool) : Flags := if c then fNV else 0
    let forms : List (Instr × Instr × Bool × (Nat → Nat → Bool × Flags)) := [
      (.vcmpeqVv d a b msk ca cb, .vcmpeqVs d a b msk ca, false, fun m n => (decide (m = n), 0)),
      (.vcmpneVv d a b msk ca cb, .vcmpneVs d a b msk ca, false, fun m n => (decide (m ≠ n), 0)),
      (.vcmpltVv d a b msk ca cb, .vcmpltVs d a b msk ca, false, fun m n => (decide (sg m < sg n), 0)),
      (.vcmpgeVv d a b msk ca cb, .vcmpgeVs d a b msk ca, false, fun m n => (decide (sg n ≤ sg m), 0)),
      (.vcmpltuVv d a b msk ca cb, .vcmpltuVs d a b msk ca, false, fun m n => (decide (m < n), 0)),
      (.vcmpgeuVv d a b msk ca cb, .vcmpgeuVs d a b msk ca, false, fun m n => (decide (n ≤ m), 0)),
      (.vcmpfeqVv d a b msk ca cb, .vcmpfeqVs d a b msk ca, true, fun m n => ((val m).eqv (val n), nv (sig m n))),
      (.vcmpfltVv d a b msk ca cb, .vcmpfltVs d a b msk ca, true,
        fun m n => (!nan m n && (val m).lt (val n), nv (nan m n))),
      (.vcmpfleVv d a b msk ca cb, .vcmpfleVs d a b msk ca, true,
        fun m n => (!nan m n && !(val n).lt (val m), nv (nan m n))),
      (.vcmpfunoVv d a b msk ca cb, .vcmpfunoVs d a b msk ca, true, fun m n => (nan m n, nv (sig m n)))]
    ∀ f ∈ forms,
      let bad := f.2.2.1 = true ∧ x.u.vtype.toNat / 4 % 8 < 2
      let out (y : Nat → Nat) : Res → Prop := MaskOut s d.toNat x.first x.last
        (fun j => if x.on msk j then f.2.2.2 (x.elem w a.toNat j) (y j) else (false, 0))
      (x.unbound [a, b] → ¬ bad → out (x.elem w b.toNat) (exec f.1 s))
      ∧ (x.unbound [a] → ¬ bad → out (fun _ => (s.rg b).toNat % 2 ^ w) (exec f.2.1 s))
      ∧ (bad → exec f.1 s = .next (s.trap { cause := 1, tval := (encode f.1).setWidth 64 })
          ∧ exec f.2.1 s = .next (s.trap { cause := 1, tval := (encode f.2.1).setWidth 64 }))
      ∧ (¬ bad → s.StreamSource f.1 a true ∧ s.StreamSource f.1 b true ∧ s.StreamSource f.2.1 a true)
      ∧ s.StreamBad f.1 [a, b] [] ∧ s.StreamBad f.2.1 [a] []

/-- R168 to R171: VMASK, VIOTA and VCVT. The mask functions write the bits of [VSTART, VL); KPOP, KFROMG and KTOG take the
member's whole mask. VIOTA gives start + i * incr
at position i of the ganged vector; R231: its register bound to a STORE, as StreamDest and StreamBad say. VCVT puts result j
where the widths of the two formats say, and traps 0x01 where a register it names is bound. -/
def Obligations.MaskIotaAndConvertResults : Prop :=
  ∀ (s : State) (d a b : BitVec 5) (msk : BitVec 4) (ca cb : Bool) (start : BitVec 9) (incr : BitVec 8) (fmt : BitVec 5),
    let x := s.me
    let w := x.ew
    let p := (x.kRead a.toNat).getLsbD
    let q := (x.kRead b.toNat).getLsbD
    let part := (s.rg b).toNat % 4
    let mask (f : Nat → Bool) (i : Instr) : Prop := MaskOut s d.toNat x.first x.last (fun j => (f j, 0)) (exec i s)
    mask (fun j => p j && q j) (.kand d a b ca cb) ∧ mask (fun j => p j || q j) (.kor d a b ca cb)
    ∧ mask (fun j => p j != q j) (.kxor d a b ca cb) ∧ mask (fun j => p j && !q j) (.kandn d a b ca cb)
    ∧ mask (fun j => !p j) (.knot d a ca) ∧ mask (fun j => p j) (.kmov d a ca)
    ∧ mask (fun j => decide (∃ i, i ≤ j ∧ p i = true)) (.kprefix d a ca)
    ∧ mask (fun j => !decide (∃ i, i ≤ j ∧ p i = true)) (.ksbf d a ca)
    ∧ VecGOut s d (BitVec.ofNat 64 ((Finset.range 256).filter (fun j => p j = true)).card) (exec (.kpop d a ca) s)
    ∧ VecGOut s d ((x.kRead a.toNat).extractLsb' (64 * part) 64) (exec (.ktog d a b ca) s)
    ∧ MaskOut s d.toNat (64 * part) (64 * part + 64) (fun j => ((s.rg a).getLsbD (j - 64 * part), 0)) (exec (.kfromg d a b) s)
    ∧ (x.unbound [d] →
        let val (j : Nat) : Int := start.toInt + ((x.ganged + j : Nat) : Int) * incr.toInt
        let out (v : Nat → Nat × Flags) : Prop := LaneOut s d x.first x.last (x.on msk)
          (fun j => (((v j).1 : Int), (v j).2)) (exec (.viota d msk start incr) s)
        match x.u.float with
        | some f => if 5 ≤ x.u.rm then exec (.viota d msk start incr) s
              = .next (s.trap { cause := 1, tval := (encode (.viota d msk start incr)).setWidth 64 })
            else out (fun j => f.round x.u.fz x.u.rm (ofInt false (val j) 0))
        | none => if x.u.vtype.toNat / 4 % 8 = 4 then out (fun j => roundM8 x.u.mbias (ofInt false (val j) 0))
            else LaneOut s d x.first x.last (x.on msk) (fun j => (val j, 0)) (exec (.viota d msk start incr) s))
    ∧ (¬ (x.u.float.isSome = true ∧ 5 ≤ x.u.rm) → s.StreamDest (.viota d msk start incr) d)
    ∧ s.StreamBad (.viota d msk start incr) [] [d]
    ∧ (let dst := cvtFmt fmt.toNat
       let ed := dst.width
       let n := max 1 (ed / w)
       let res (j : Nat) : Nat × Flags := convert x.u x.u.srcFmt dst (x.elem w a.toNat j)
       let here (j : Nat) : Prop := x.first ≤ j ∧ j < x.last ∧ x.on msk j = true
       let place (j : Nat) : Nat × Nat :=
         if w ≤ ed then (d.toNat + j / (2048 / ed), j % (2048 / ed)) else (d.toNat, b.toNat * (2048 / w) + j)
       let legal := (if ed < w then b.toNat < w / ed else b = 0 ∧ d.toNat % n = 0)
         ∧ (x.u.rm < 5 ∨ dst = .m8 ∨ (dst.isInt = true ∧ x.u.srcFmt.isInt = true))
         ∧ x.bindOf a.toNat = none ∧ ∀ r, d.toNat ≤ r → r < d.toNat + n → x.bindOf r = none
       (¬ legal → exec (.vcvt d a b msk ca fmt) s
          = .next (s.trap { cause := 1, tval := (encode (.vcvt d a b msk ca fmt)).setWidth 64 }))
       ∧ (legal → ∃ t, exec (.vcvt d a b msk ca fmt) s = .next t ∧ OnlyCore s t ∧ t.pc = s.pc + 4 ∧ t.me.u.vstart = 0
         ∧ (∀ j, here j → t.me.elem ed (place j).1 (place j).2 = (res j).1 % 2 ^ ed)
         ∧ (∀ r i, i < 2048 / ed → (∀ j, here j → place j ≠ (r, i)) → t.me.elem ed r i = x.elem ed r i)
         ∧ t.me.k = x.k ∧ x.Raised t.me (fun j f => here j ∧ f = (res j).2) ∧ x.VecRest t.me))

/-- R184, R185, with R168's KPOPVL and KFIRST: the permutations, by where each position takes its element from. VMERGE and
VMOV are member-local; the others are collective: the positions are those of the group of cores that runs them, one core
outside a gang, and the scalar operands are the leader's. VCOMPRESS with VSTART not 0 traps 0x01 on every core. R231, R232, R235,
R237: a source or the destination bound to a stream, as StreamSource, StreamDest and StreamBad say (portions: the model's choice,
log 24). -/
def Obligations.VectorPermutes : Prop :=
  ∀ (s : State) (cores : List Nat) (d a b : BitVec 5) (msk : BitVec 4) (ca cb : Bool),
    let x := s.me
    let w := x.ew
    let ld := s.leader cores
    let lo := ld.u.vstart.toNat
    let hi := ld.u.vl.toNat
    let all := cores.length * s.perCore cores
    let on := s.onAt cores msk
    let p := s.elemAt cores a.toNat
    let q := s.elemAt cores b.toNat
    let sc := (ld.gRead b.toNat).toNat
    let count := (List.range hi).filter (s.bitAt cores a.toNat)
    (x.unbound [d, a, b] → LaneOut s d x.first x.last (fun _ => true)
      (fun j => ((if x.on msk j then x.elem w a.toNat j else x.elem w b.toNat j : Nat), 0)) (exec (.vmerge d a b msk ca cb) s))
    ∧ (x.unbound [d, a] → LaneOut s d x.first x.last (x.on msk) (fun j => (x.elem w a.toNat j, 0)) (exec (.vmov d a msk ca) s))
    ∧ (hi ≤ all →
      let out (i : Instr) (regs : List (BitVec 5)) (sel : Nat → Bool) (val : Nat → Nat) : Prop :=
        x.unbound regs → s.meets (encode i) cores →
        GangLaneOut s cores d lo hi sel (fun j => (val j, 0)) (exec i s)
      out (.vslideup d a b msk ca) [d, a] (fun j => on j && decide (sc ≤ j)) (fun j => p (j - sc))
      ∧ out (.vslidedn d a b msk ca) [d, a] on (fun j => if j + sc < all then p (j + sc) else 0)
      ∧ out (.vpermx d a b msk ca cb) [d, a, b] on (fun j => if q j < all then p (q j) else 0)
      ∧ out (.vexpand d a msk ca) [d, a] on (fun j => p ((List.range j).filter on).length)
      ∧ out (.vbcast d a b msk ca) [d, a] on (fun _ => if sc < all then p sc else 0)
      ∧ out (.vzip d a b msk ca cb) [d, a, b] on (fun j => if j % 2 = 0 then p (j / 2) else q (j / 2))
      ∧ out (.vunzip d a b msk ca cb) [d, a, b] on (fun j => if 2 * j < all then p (2 * j) else q (2 * j - all))
      ∧ (x.unbound [d, a] → s.meets (encode (.vcompress d a msk ca)) cores →
          if lo = 0 then GangLaneOut s cores d 0 ((List.range hi).filter on).length (fun _ => true)
            (fun j => (p (((List.range hi).filter on).getD j 0), 0)) (exec (.vcompress d a msk ca) s)
          else ∃ u : State, exec (.vcompress d a msk ca) s = .next (u.trapAll cores
              (fun _ => { cause := 1, tval := (encode (.vcompress d a msk ca)).setWidth 64 }))
            ∧ ∀ c, { u.coreAt c with gang := (s.coreAt c).gang } = s.coreAt c)
      ∧ (x.unbound [d] → s.meets (encode (.vins d a b)) cores → GangLaneOut s cores d sc (sc + 1) (fun j => decide (j < all))
          (fun _ => ((ld.gRead a.toNat).toNat, 0)) (exec (.vins d a b) s))
      ∧ (x.unbound [a] → s.meets (encode (.vext d a b ca)) cores → GangGOut s cores d
          (if sc < all then (if ld.u.vtype.toNat / 4 % 8 = 0 ∧ 2 ^ (ld.ew - 1) ≤ p sc then BitVec.ofInt 64 ((p sc : Int) - 2 ^ ld.ew)
            else BitVec.ofNat 64 (p sc)) else 0) (exec (.vext d a b ca) s))
      ∧ (s.meets (encode (.kpopvl d a ca)) cores →
          GangGOut s cores d (BitVec.ofNat 64 count.length) (exec (.kpopvl d a ca) s))
      ∧ (s.meets (encode (.kfirst d a ca)) cores →
          GangGOut s cores d (match count with | i :: _ => BitVec.ofNat 64 i | [] => BitVec.allOnes 64) (exec (.kfirst d a ca) s)))
    -- registers bound to streams: the instruction, its sources, and whether it is elementwise
    ∧ (∀ e ∈ ([(.vmerge d a b msk ca cb, [a, b], true), (.vmov d a msk ca, [a], true), (.vslideup d a b msk ca, [a], false),
          (.vslidedn d a b msk ca, [a], false), (.vpermx d a b msk ca cb, [a, b], false), (.vexpand d a msk ca, [a], false),
          (.vbcast d a b msk ca, [a], false), (.vzip d a b msk ca cb, [a, b], false), (.vunzip d a b msk ca cb, [a, b], false),
          (.vcompress d a msk ca, [a], false), (.vins d a b, [], false)] : List (Instr × List (BitVec 5) × Bool)),
        (x.u.vl.toNat ≤ 2048 / w → d ∉ e.2.1 → (e.1 = .vcompress d a msk ca → x.u.vstart = 0) →
          (∀ r ∈ e.2.1, s.StreamSource e.1 r e.2.2) ∧ s.StreamDest e.1 d)
        ∧ s.StreamBad e.1 e.2.1 [d])
    ∧ (x.u.vl.toNat ≤ 2048 / w → s.StreamSource (.vext d a b ca) a false) ∧ s.StreamBad (.vext d a b ca) [a] []

/-- R150, R151, R186, R187: the reductions and scans, over the group of cores that runs them. VREDSUM of integers adds the
active elements to the start operand; of floats it adds the fixed pairwise tree, in which inactive positions are -0. The
others go over the active elements in ascending order; the segment functions restart from the identity at VSTART and at
each boundary bit. A reduction writes element 0, and only where VSTART is below VL. FMT 4 traps 0x01, and so does a
rounding mode above 4 in a float sum. R231, R232, R235, R237: a source or the destination bound to a stream, as StreamSource,
StreamDest and StreamBad say. (That VREDAND, VREDOR and VREDXOR flush nothing under FZ is the model's choice, and so are the
portions of streams, logs 47 and 24.) -/
def Obligations.VectorReductions : Prop :=
  ∀ (s : State) (cores : List Nat) (d a b : BitVec 5) (msk : BitVec 4) (ca cb : Bool),
    let ld := s.leader cores
    let u := ld.u
    let w := ld.ew
    let lo := u.vstart.toNat
    let hi := u.vl.toNat
    let all := cores.length * s.perCore cores
    let fl (n : Nat) : Nat := match u.float with | some f => f.flush u.fz n | none => n
    let p (j : Nat) : Nat := fl (s.elemAt cores a.toNat j)
    let b0 := fl (s.elemAt cores b.toNat 0)
    let on (j : Nat) : Bool := decide (lo ≤ j ∧ j < hi) && s.onAt cores msk j
    let sg (n : Nat) : Int := if n < 2 ^ (w - 1) then n else (n : Int) - 2 ^ w
    let signed := u.vtype.toNat / 4 % 8 = 0
    let sum (m n : Nat) : Nat × Flags := match u.float with
      | some f => f.add u.fz u.rm (f.decode m) (f.decode n)
      | none => ((m + n) % 2 ^ w, 0)
    let more (most : Bool) (m n : Nat) : Nat × Flags := match u.float with
      | some f => f.minmax most m n (f.decode m) (f.decode n)
      | none =>
        let less := if signed then decide (sg m < sg n) else decide (m < n)
        (if less == most then n else m, 0)
    let fold (op : Nat → Nat → Nat × Flags) (start : Nat) (l : List Nat) : Nat × Flags :=
      (l.map p).foldl (fun r v => let y := op r.1 v; (y.1, r.2 ||| y.2)) (start, 0)
    let upTo (i j : Nat) : List Nat := (List.range (j + 1)).filter (fun e => decide (i ≤ e) && on e)
    let none0 := match u.float with | some f => f.zero true | none => 0
    let least := match u.float with | some f => f.inf true | none => if signed then 2 ^ (w - 1) else 0
    let starts (j : Nat) : Bool := j == lo || s.bitAt cores b.toNat j
    let from_ (j : Nat) : Nat := (((List.range (j + 1)).filter (fun e => decide (lo ≤ e) && starts e)).getLast?).getD lo
    let until_ (j : Nat) : Nat := (((List.range hi).filter (fun e => decide (j < e) && starts e)).head?).getD hi
    let noSum := u.vtype.toNat / 4 % 8 = 4 ∨ (u.float.isSome = true ∧ 5 ≤ u.rm)
    let noMax := u.vtype.toNat / 4 % 8 = 4
    let run (i : Instr) (regs : List (BitVec 5)) (bad : Prop) (l h : Nat) (sel : Nat → Bool) (val : Nat → Nat × Flags) : Prop :=
      s.me.unbound regs → s.meets (encode i) cores →
        (¬ bad → GangLaneOut s cores d l h sel (fun j => (((val j).1 : Int), (val j).2)) (exec i s))
        ∧ (bad → ∃ v : State, exec i s = .next (v.trapAll cores (fun _ => { cause := 1, tval := (encode i).setWidth 64 }))
            ∧ ∀ c, { v.coreAt c with gang := (s.coreAt c).gang } = s.coreAt c)
    let one (i : Instr) (bad : Prop) (v : Nat × Flags) : Prop := run i [d, a, b] bad 0 1 (fun _ => decide (lo < hi)) (fun _ => v)
    let bitw (i : Instr) (op : Nat → Nat → Nat) : Prop := one i False
      (((upTo 0 (hi - 1)).map (s.elemAt cores a.toNat)).foldl op (s.elemAt cores b.toNat 0), 0)
    hi ≤ all →
      (match u.float with
        | none => one (.vredsum d a b msk ca cb) noSum (b0 + ((upTo 0 (hi - 1)).map p).sum, 0)
        | some f =>
          let t := redTree sum 12 ((List.range all).map (fun j => if on j then p j else f.zero true)) 0
          one (.vredsum d a b msk ca cb) noSum ((sum b0 t.1).1, t.2 ||| (sum b0 t.1).2))
      ∧ one (.vredmax d a b msk ca cb) noMax (fold (more true) b0 (upTo 0 (hi - 1)))
      ∧ one (.vredmin d a b msk ca cb) noMax (fold (more false) b0 (upTo 0 (hi - 1)))
      ∧ bitw (.vredand d a b msk ca cb) (fun m n => m &&& n)
      ∧ bitw (.vredor d a b msk ca cb) (fun m n => m ||| n)
      ∧ bitw (.vredxor d a b msk ca cb) (fun m n => m ^^^ n)
      ∧ run (.vscan d a b msk ca cb) [d, a, b] noSum lo hi on (fun j => fold sum b0 (upTo 0 j))
      ∧ run (.vscanmax d a b msk ca cb) [d, a, b] noMax lo hi on (fun j => fold (more true) b0 (upTo 0 j))
      ∧ run (.vsegscan d a b msk ca) [d, a] noSum lo hi on (fun j => fold sum none0 (upTo (from_ j) j))
      ∧ run (.vsegred d a b msk ca) [d, a] noSum lo hi starts (fun j => fold sum none0 (upTo j (until_ j - 1)))
      ∧ run (.vsegmax d a b msk ca) [d, a] noMax lo hi starts (fun j => fold (more true) least (upTo j (until_ j - 1)))
      -- registers bound to streams: the instruction, its sources, and whether it needs a rounding mode, or a format but m8
      ∧ ∀ e ∈ ([(.vredsum d a b msk ca cb, [a, b], true, true), (.vredmax d a b msk ca cb, [a, b], false, true),
            (.vredmin d a b msk ca cb, [a, b], false, true), (.vredand d a b msk ca cb, [a, b], false, false),
            (.vredor d a b msk ca cb, [a, b], false, false), (.vredxor d a b msk ca cb, [a, b], false, false),
            (.vscan d a b msk ca cb, [a, b], true, true), (.vscanmax d a b msk ca cb, [a, b], false, true),
            (.vsegscan d a b msk ca, [a], true, true), (.vsegred d a b msk ca, [a], true, true),
            (.vsegmax d a b msk ca, [a], false, true)] : List (Instr × List (BitVec 5) × Bool × Bool)),
          (s.me.u.vl.toNat ≤ 2048 / s.me.ew → d ∉ e.2.1 → (e.2.2.1 = true → s.me.u.float.isSome = true → s.me.u.rm < 5) →
            (e.2.2.2 = true → s.me.u.vtype.toNat / 4 % 8 ≠ 4) →
            (∀ r ∈ e.2.1, s.StreamSource e.1 r false) ∧ s.StreamDest e.1 d)
          ∧ s.StreamBad e.1 e.2.1 [d]

/-- R172 to R178, R180: VLD, VLDS, VLDX and VLDN, plain and fault-only-first, and VLDB, over the group of cores that runs
them: the addresses of the active positions, read in ascending order, each by the core that holds the position; VLDN skips the
positions beyond DN0 * DN1 * DN2 and gives DIX at a fault. VLDB reads once, for the lowest active position. R231, R235: a destination bound
to a STORE takes the register's elements; R231, R232: VLDX with its index bound loads at the positions delivered (portions: the
model's choice, log 24); else a bound register traps 0x01 as StreamBad says. -/
def Obligations.VectorLoads : Prop :=
  ∀ (s : State) (cores : List Nat) (t b x : BitVec 5) (msk : BitVec 4) (ff c : Bool),
    let ld := s.leader cores
    let w := ld.ew
    let n := s.perCore cores
    let lo := ld.u.vstart.toNat
    let hi := ld.u.vl.toNat
    let base : Int := ((ld.gRead b.toNat).toNat : Int)
    let sg (n : Nat) : Int := if n < 2 ^ (w - 1) then n else (n : Int) - 2 ^ w
    let dn (i : Nat) : Nat := (Store.get 0 ld.u.dn i).toNat
    let ds (i : Nat) : Int := (Store.get 0 ld.u.ds i).toInt
    let dim (j : Nat) : Nat × Nat × Nat := (j % dn 0, j / dn 0 % dn 1, j / dn 0 / dn 1)
    let act (j : Nat) : Bool := decide (lo ≤ j) && s.onAt cores msk j
    let me := s.me
    let one := me.u.vl.toNat ≤ 2048 / me.ew ∧ cores = [s.cur]
    let forms : List (Instr × List (BitVec 5) × (Nat → Int) × (Nat → Bool) × Option (Nat → BitVec 48)) := [
      (.vld t b msk ff, [t], fun j => base + (j * (w / 8) : Nat), act, none),
      (.vlds t b x msk ff, [t], fun j => base + j * (ld.gRead x.toNat).toInt, act, none),
      (.vldx t b x msk ff c, [t, x], fun j => base + sg (s.elemAt cores x.toNat j) * (w / 8 : Nat), act, none),
      (.vldn t b msk ff, [t], fun j => base + (dim j).1 * ds 0 + (dim j).2.1 * ds 1 + (dim j).2.2 * ds 2,
        fun j => act j && decide (j < dn 0 * dn 1 * dn 2),
        some (fun j => BitVec.ofNat 48 ((dim j).1 + (dim j).2.1 * 2 ^ 16 + (dim j).2.2 * 2 ^ 32)))]
    hi ≤ cores.length * n →
      (∀ f ∈ forms, s.me.unbound f.2.1 → s.meets (encode f.1) cores →
        let l := (List.range hi).filter f.2.2.2.1
        ∀ vals e s', loadRun (fun s j => s.elemRead (cores.getD (j / n) 0) (f.2.2.1 j % 2 ^ 64).toNat (w / 8)) l
            (s.issued (encode f.1)) [] = (vals, e, s') →
          if ff then FirstOut s' cores t l vals e f.2.2.2.2 (exec f.1 s)
          else RunOut s' cores t 0 vals e f.2.2.2.2 (exec f.1 s))
      ∧ (s.me.unbound [t] → s.meets (encode (.vldb t b msk)) cores →
          let s1 := s.issued (encode (.vldb t b msk))
          let r := exec (.vldb t b msk) s
          match (List.range hi).filter act with
          | [] => GangLaneOut s1 cores t 0 0 (fun _ => false) (fun _ => (0, 0)) r
          | j :: _ => match s1.elemRead (cores.getD (j / n) 0) (ld.gRead b.toNat).toNat (w / 8) with
            | .ok v s' => GangLaneOut s' cores t 0 hi act (fun _ => (v, 0)) r
            | .trap tr s' => AbortOut s' cores (cores.getD (j / n) 0) tr none r
            | .wait s' => r = .next s'.block)
      -- the destination bound to a STORE, and the index bound
      ∧ (one → ∀ f ∈ forms, ∀ i q, s.OneDest t i q →
          ∀ vals s', loadRun (fun s j => s.elemRead s.cur (f.2.2.1 j % 2 ^ 64).toNat (w / 8)) ((List.range hi).filter f.2.2.2.1)
            s [] = (vals, .all, s') →
          ∃ u, exec f.1 s = .next u ∧ u.pc = s.pc + 4 ∧ u.me.u.vstart = 0 ∧ Lanes w n t.toNat vals 0 me u.me ∧ s.Pushes u t i q)
      ∧ (one → t ≠ x → ff = false → ∀ i q z, s.OneSource x i q → s.Fills x i z →
          let s0 := s.fill x i z
          let k := (s.pops i).1.length
          ∀ vals s', loadRun (fun u j => u.elemRead s.cur ((base + sg (s0.elemAt cores x.toNat j) * (w / 8 : Nat)) % 2 ^ 64).toNat (w / 8))
            ((List.range (me.first + k)).filter act) s0 [] = (vals, .all, s') →
          ∃ u, exec (.vldx t b x msk ff c) s = .next u ∧ Lanes w n t.toNat vals 0 s0.me u.me
            ∧ s.PopEnds u i q k (me.last - me.first) (s.pops i).2.1 ((s.pops i).2.2.bindAt s.cur i) true
            ∧ (k = me.last - me.first → u.pc = s.pc + 4 ∧ u.me.u.vstart = 0))
      ∧ (∀ f ∈ forms, s.StreamBad f.1 (if f.1 = .vldx t b x msk ff c then [x] else []) [t]) ∧ s.StreamBad (.vldb t b msk) [] [t]

/-- R172 to R174, R177 to R183: VST, VSTS, VSTX and VSTN, the masks in memory (VLDK and VSTK, one bit a position), and the
typed buffers (VLDT and VSTT, member-local). R231, R232: a store whose value or index register is bound to a stream stores the
elements delivered, and then ends as PopEnds says (portions: the model's choice, log 24); VLDT's register bound to a STORE takes
the elements read; else a bound register traps 0x01 as StreamBad says. -/
def Obligations.VectorStoresMasksAndTyped : Prop :=
  ∀ (s : State) (cores : List Nat) (t b x : BitVec 5) (msk : BitVec 4) (c : Bool),
    let ld := s.leader cores
    let w := ld.ew
    let n := s.perCore cores
    let lo := ld.u.vstart.toNat
    let hi := ld.u.vl.toNat
    let base : Int := ((ld.gRead b.toNat).toNat : Int)
    let sg (n : Nat) : Int := if n < 2 ^ (w - 1) then n else (n : Int) - 2 ^ w
    let dn (i : Nat) : Nat := (Store.get 0 ld.u.dn i).toNat
    let ds (i : Nat) : Int := (Store.get 0 ld.u.ds i).toInt
    let dim (j : Nat) : Nat × Nat × Nat := (j % dn 0, j / dn 0 % dn 1, j / dn 0 / dn 1)
    let act (j : Nat) : Bool := decide (lo ≤ j) && s.onAt cores msk j
    -- the addresses, by the registers of a state
    let forms : List (Instr × List (BitVec 5) × (State → Nat → Int) × (Nat → Bool) × Option (Nat → BitVec 48)) := [
      (.vst t b msk c, [t], fun _ j => base + (j * (w / 8) : Nat), act, none),
      (.vsts t b x msk c, [t], fun _ j => base + j * (ld.gRead x.toNat).toInt, act, none),
      (.vstx t b x msk c, [t, x], fun z j => base + sg (z.elemAt cores x.toNat j) * (w / 8 : Nat), act, none),
      (.vstn t b msk c, [t], fun _ j => base + (dim j).1 * ds 0 + (dim j).2.1 * ds 1 + (dim j).2.2 * ds 2,
        fun j => act j && decide (j < dn 0 * dn 1 * dn 2),
        some (fun j => BitVec.ofNat 48 ((dim j).1 + (dim j).2.1 * 2 ^ 16 + (dim j).2.2 * 2 ^ 32)))]
    -- the bytes that hold the bits of [VSTART, VL), the core of a byte, and its address
    let bytes := (List.range ((hi + 7) / 8)).filter (fun q => decide (lo < hi ∧ lo / 8 ≤ q))
    let core (q : Nat) : Nat := cores.getD (8 * q / n) 0
    let addr (q : Nat) : Nat := ((ld.gRead b.toNat).toNat + q) % 2 ^ 64
    let bits (vals : List (Nat × Nat)) (m : Nat) (y z : Core) : Prop := z.v = y.v ∧ (∀ r, r ≠ t.toNat → z.kRead r = y.kRead r)
      ∧ ∀ i, i < 256 → (z.kRead t.toNat).getLsbD i =
        match vals.find? (fun v => v.1 == (m * n + i) / 8) with
        | some v => if i < n ∧ lo ≤ m * n + i ∧ m * n + i < hi then v.2.testBit ((m * n + i) % 8) else (y.kRead t.toNat).getLsbD i
        | none => (y.kRead t.toNat).getLsbD i
    let maskEnd (s' : State) (done : Nat → Core → Core → Prop) (e : RunEnd) (r : Res) : Prop := match e with
      | .all => ∃ u, r = .next u ∧ SamePackage s' u ∧ (∀ c, c ∉ cores → u.coreAt c = s'.coreAt c)
          ∧ ∀ m c, cores[m]? = some c → done m (s'.coreAt c) (u.coreAt c) ∧ (u.coreAt c).pc = (s'.coreAt c).pc + 4
            ∧ (u.coreAt c).u.vstart = 0 ∧ (s'.coreAt c).VecRest (u.coreAt c) (c == s'.cur) s'.time
      | .wait q => StopsAt s' cores (max lo (8 * q)) done (fun u => .next u.block) r
      | .fault q tr => StopsAt s' cores (max lo (8 * q)) done (fun u => .next (u.accessTrap cores (core q) tr)) r
    let same (_ : Nat) (y z : Core) : Prop := z.v = y.v ∧ z.k = y.k
    let me := s.me
    let here := (List.range me.last).filter (fun j => decide (me.first ≤ j) && me.on msk j)
    (hi ≤ cores.length * n →
      (∀ f ∈ forms, s.me.unbound f.2.1 → s.meets (encode f.1) cores →
        let l := (List.range hi).filter f.2.2.2.1
        ∀ e s', storeRun (fun u j => u.elemWrite (cores.getD (j / n) 0) (f.2.2.1 s j % 2 ^ 64).toNat (w / 8)
              (s.elemAt cores t.toNat j)) l (s.issued (encode f.1)) = (e, s') →
          RunOut s' cores t 0 [] e f.2.2.2.2 (exec f.1 s))
      ∧ (s.meets (encode (.vldk t b)) cores → ∀ vals e s',
          loadRun (fun u q => u.elemRead (core q) (addr q) 1) bytes (s.issued (encode (.vldk t b))) [] = (vals, e, s') →
          maskEnd s' (bits vals) e (exec (.vldk t b) s))
      ∧ (s.meets (encode (.vstk t b)) cores → ∀ e s',
          storeRun (fun u q => u.elemWrite (core q) (addr q) 1
              (((List.range 8).filter (fun i => s.bitAt cores t.toNat (8 * q + i))).map (fun i => 2 ^ i)).sum)
            bytes (s.issued (encode (.vstk t b))) = (e, s') →
          maskEnd s' same e (exec (.vstk t b) s)))
    ∧ (me.unbound [t] → ∀ vals e s',
          loadRun (fun u j => u.typedRead s.cur (s.rg b).toNat x.toNat (me.ew / 8) j) here s [] = (vals, e, s') →
          RunOut s' [s.cur] t me.ganged vals e none (exec (.vldt t b x msk) s))
    ∧ (me.unbound [t] → ∀ e s',
          storeRun (fun u j => u.typedWrite s.cur (s.rg b).toNat x.toNat (me.ew / 8) j (me.elem me.ew t.toNat j)) here s = (e, s') →
          RunOut s' [s.cur] t me.ganged [] e none (exec (.vstt t b x msk c) s))
    -- registers bound to streams
    ∧ (me.u.vl.toNat ≤ 2048 / me.ew → cores = [s.cur] → ∀ r i q z, s.OneSource r i q → s.Fills r i z →
        let s0 := s.fill r i z
        let k := (s.pops i).1.length
        let pops (u : State) : Prop := s.PopEnds u i q k (me.last - me.first) (s.pops i).2.1 ((s.pops i).2.2.bindAt s.cur i) true
          ∧ (k = me.last - me.first → u.pc = s.pc + 4 ∧ u.me.u.vstart = 0)
        (∀ f ∈ forms, r ∈ f.2.1 → ∀ s', storeRun (fun u j => u.elemWrite s.cur (f.2.2.1 s0 j % 2 ^ 64).toNat (w / 8)
              (s0.elemAt cores t.toNat j)) ((List.range (me.first + k)).filter f.2.2.2.1) s0 = (.all, s') →
            ∃ u, exec f.1 s = .next u ∧ pops u ∧ (∀ v, u.me.vRead v = s0.me.vRead v)
              ∧ let o := s'.popCommit s.cur i k
                ∀ a, u.byteAt a = o.byteAt a)
        ∧ (r = t → ∀ s', storeRun (fun u j => u.typedWrite s.cur (s.rg b).toNat x.toNat (me.ew / 8) j (s0.me.elem me.ew t.toNat j))
              ((List.range (me.first + k)).filter (fun j => decide (me.first ≤ j) && me.on msk j)) s0 = (.all, s') →
            ∃ u, exec (.vstt t b x msk c) s = .next u ∧ pops u ∧ ∀ e, (u.coreAt e).typed = (s'.coreAt e).typed))
    ∧ (∀ i q, s.OneDest t i q → ∀ vals s',
          loadRun (fun u j => u.typedRead s.cur (s.rg b).toNat x.toNat (me.ew / 8) j) here s [] = (vals, .all, s') →
          ∃ u, exec (.vldt t b x msk) s = .next u ∧ u.pc = s.pc + 4 ∧ u.me.u.vstart = 0
            ∧ Lanes me.ew (2048 / me.ew) t.toNat vals 0 me u.me ∧ s.Pushes u t i q)
    ∧ (∀ f ∈ forms, s.StreamBad f.1 f.2.1 []) ∧ s.StreamBad (.vldt t b x msk) [] [t] ∧ s.StreamBad (.vstt t b x msk c) [t] []

/-! ## Engines -/

/-- R199 to R205, R212 to R217: the matrix unit. An engine instruction reports a fault that is pending, and does nothing else.
MCTX and MGEO set the context and the geometry, or trap 0x01; a command is checked against both, and joins the queue of 8
with what it has captured, MDONE falls, and the wisp is pinned. Then the unit's steps: MLOADB fills the shadow bank, MSWAP
exchanges the banks, MRUN does one row, MCLR clears its rows of C, and a finished command leaves the queue. Rows and columns of
m8, bf16, f32 and f64 are aligned, multiplied exactly and rounded once into C (R149, R152, R153). (That a row's flags reach FSTAT
with the row, and that R149 holds for a subnormal element of C also where S is 0, are the model's choices, log 47.) -/
def Obligations.MatrixCommands : Prop :=
  ∀ (s : State) (d a b tag : BitVec 5),
    let x := s.me
    let c := s.cur
    let k := s.wispKey c
    let v := (s.rg a).toNat
    let bad (i : Instr) : Prop := exec i s = .next (s.trap { cause := 1, tval := (encode i).setWidth 64 })
    -- only the core, the pinned bit of its wisp, and steps to be taken
    let pins (t : State) (y : Core) : Prop := t.me = { y with s := { y.s with force := y.s.force || y.s.pend } }
      ∧ (t.wispAt k).pinned = true
      ∧ { t with cores := s.cores, wisps := s.wisps, sched := s.sched } = s ∧ ∀ e, e ≠ c → t.coreAt e = s.coreAt e
    let f := x.e.mfc.toNat
    let g := x.e.mgeo.toNat
    let fmt := f % 8
    let m := g % 2 ^ 12
    let kk := g / 2 ^ 12 % 512
    let n := g / 2 ^ 21 % 512
    let eb := [1, 1, 2, 4, 8].getD fmt 1
    let tile := 1 ≤ kk ∧ 1 ≤ n ∧ kk ≤ [256, 256, 256, 128, 128].getD fmt 0 ∧ n ≤ [256, 128, 128, 128, 64].getD fmt 0
    let cEnd := f / 2 ^ 32 % 2 ^ 12 * 64 + (m - 1) * (g / 2 ^ 52 % 2 ^ 10 * 64) + n * (if fmt = 4 then 8 else 4)
    let y := (s.rg b).toNat
    -- the value of a code of the command's format, under a bias where it is m8; what is no number; the depth on B's side
    let value (q : MCmd) (bias : BitVec 8) (code : Nat) : FVal :=
      if q.ctx.afmt = 1 then m8Decode bias.toInt code else ([bf16, f32].getD (q.ctx.afmt - 2) f64).decode code
    let number (v : FVal) : ℚ := v.num.getD 0
    let depthB (q : MCmd) : Nat := [8, 16, 16, 32, 64].getD q.ctx.afmt 8
    let depthA (q : MCmd) : Nat := if q.ctx.afmt = 1 ∧ q.ctx.adepth = 0 then 8 else depthB q
    let forms : List (Instr × MKind × Nat × Nat × Bool) := [
      (.mloadb a b tag, .loadb, v, y, decide (v < 0x40000 ∧ v % 64 = 0 ∧ y < 0x40000 ∧ y % 64 = 0 ∧ tile
        ∧ v + (kk - 1) * y + n * eb ≤ 0x40000)),
      (.mswap tag, .swap, 0, 0, true),
      (.mrun tag, .run, 0, 0, decide (1 ≤ m ∧ tile
        ∧ g / 2 ^ 30 % 2 ^ 12 * 64 + (m - 1) * (g / 2 ^ 42 % 2 ^ 10 * 64) + kk * eb ≤ 0x40000 ∧ cEnd ≤ 0x40000)),
      (.mclr tag, .clr, 0, 0, decide (1 ≤ m ∧ 1 ≤ n ∧ cEnd ≤ 0x40000))]
    (∀ q, x.pendingFault = some q → ∀ i ∈ ([.mctx a, .mgeo a, .mloadb a b tag, .mswap tag, .mrun tag, .mclr tag, .cpcfg a,
        .cpy d a b tag, .cpyn d a b tag, .publ a tag, .cpabort, .sbind d a, .sunbind d, .ssync d, .sstat d a] : List Instr),
      exec i s = .next (s.report c q none))
    ∧ (x.pendingFault = none →
      (if v % 8 ≤ 4 ∧ (v / 8 % 2 = 0 ∨ v % 8 = 1) ∧ (v / 2 ^ 8 % 2 ^ 16 = 0 ∨ v % 8 = 1) ∧ ¬ (v / 2 ^ 24 % 2 = 1 ∧ v % 8 = 0)
          ∧ v / 2 ^ 28 % 4 = [0, 1, 1, 1, 2].getD (v % 8) 3 ∧ v / 16 % 16 = 0 ∧ v / 2 ^ 25 % 8 = 0 ∧ v / 2 ^ 30 % 4 = 0
          ∧ v / 2 ^ 44 = 0
        then ∃ t, exec (.mctx a) s = .next t ∧ pins t { x with pc := x.pc + 4, e := { x.e with mfc := s.rg a } }
        else bad (.mctx a))
      ∧ (if v / 2 ^ 12 % 512 ≤ 256 ∧ v / 2 ^ 21 % 512 ≤ 256 ∧ v / 2 ^ 62 = 0
        then ∃ t, exec (.mgeo a) s = .next t ∧ pins t { x with pc := x.pc + 4, e := { x.e with mgeo := s.rg a } }
        else bad (.mgeo a))
      ∧ ∀ i ∈ forms, (i.2.2.2.2 = false ∨ x.e.tagOk tag.toNat = false → bad i.1)
        ∧ (i.2.2.2.2 = true → x.e.tagOk tag.toNat = true → 8 ≤ x.e.mq.length → exec i.1 s = .next s.stall)
        ∧ (i.2.2.2.2 = true → x.e.tagOk tag.toNat = true → x.e.mq.length < 8 →
          ∃ t, exec i.1 s = .next t ∧ pins t { x with
            pc := x.pc + 4
            e := { x.e.handTag tag.toNat with
              mdone := false
              mq := x.e.mq ++ [{ kind := i.2.1, tag := tag.toNat, src := i.2.2.1, pitch := i.2.2.2.1, mfc := x.e.mfc
                                 mgeo := x.e.mgeo, seq := s.draw }] } }))
    ∧ (∀ (e : Nat) (q : MCmd) (l : List MCmd), (s.coreAt e).e.mq = q :: l → (s.coreAt e).e.heldTag q.tag = false →
      let z := s.coreAt e
      let kc := s.clusterAt (clusterOf e)
      let fin (t : State) : Prop := (t.coreAt e).e.mq = { q with fin := true } :: l
      let shadow (w : Cluster) : Bank := if w.active1 then w.bank0 else w.bank1
      let o (r : Nat) : Nat := q.ctx.c0 + r * q.ctx.cs
      (q.kind = .loadb → q.fin = false → s.bankTurn e q = true →
        let at_ (i j : Nat) : Nat := q.src + i * q.pitch + j * q.ctx.eb
        ∃ t, exec (.mloadbExecution e) s = .next t ∧ (t.clusterAt (clusterOf e)).active = kc.active
          ∧ (if (List.range q.ctx.k).any (fun i => (List.range q.ctx.n).any (fun j => z.typed.isPois 0 true (at_ i j) q.ctx.eb)) = true then
              (shadow (t.clusterAt (clusterOf e))).valid = false ∧ (t.coreAt e).e.mfault = some (matrixTval 4 2 0)
              ∧ (t.coreAt e).e.mq = [] ∧ (t.coreAt e).e.mdone = true
              -- the later commands of the queue hold their nodes no longer (R204)
              ∧ ∀ r ∈ q :: l, r.tag ≠ 0 → ((t.coreAt e).node r.tag).held = false
            else fin t ∧ (let w := shadow (t.clusterAt (clusterOf e))
              w.valid = true ∧ w.bfmt = q.ctx.afmt ∧ w.kb = q.ctx.k ∧ w.nb = q.ctx.n ∧ w.pois = []
              ∧ (q.ctx.afmt = 0 → q.ctx.n ≤ 256 → ∀ i j, i < q.ctx.k → j < q.ctx.n →
                  w.at i j = (BitVec.ofNat 8 (z.typed.get 0 true (at_ i j) 1)).toInt)
              ∧ (1 ≤ q.ctx.afmt → q.ctx.afmt ≤ 4 → q.ctx.n ≤ 256 →
                  let b (j i : Nat) : FVal := value q q.ctx.bb (z.typed.get 0 true (at_ i j) q.ctx.eb)
                  let numbers (j : Nat) : Prop := ∀ i, i < q.ctx.k → (b j i).num ≠ none
                  w.bb = q.ctx.bb
                  ∧ (∀ j, j < q.ctx.n → (Store.get false w.bnan j = false ↔ numbers j) ∧ (numbers j →
                      Aligned (depthB q) q.ctx.k (fun i => number (b j i)) (Store.get 0 w.eb j) (fun i => w.at i j)))
                  ∧ ∀ m, (t.coreAt e).u.fstat.getLsbD m = true ↔ z.u.fstat.getLsbD m = true ∨ (fAL.getLsbD m = true
                      ∧ ∃ i j, i < q.ctx.k ∧ j < q.ctx.n ∧ numbers j
                        ∧ number (b j i) * 2 ^ ((depthB q : ℤ) - 2 - Store.get 0 w.eb j) ≠ w.at i j)))))
      ∧ (q.kind = .swap → q.fin = false → s.bankTurn e q = true →
        ∃ t, exec (.mswapExecution e) s = .next t ∧ fin t
          ∧ (t.clusterAt (clusterOf e)).active = shadow kc ∧ shadow (t.clusterAt (clusterOf e)) = kc.active)
      ∧ (q.kind = .clr → q.fin = false → ∃ t, exec (.mclrExecution e) s = .next t ∧ fin t
          ∧ ∀ i, (t.coreAt e).typed.get 2 true i 1 =
            if ∃ r, r < q.ctx.m ∧ o r ≤ i ∧ i < o r + q.ctx.n * q.ctx.cb then 0 else z.typed.get 2 true i 1)
      ∧ (s.rowGrant (clusterOf e) = some (e, q) →
        let s1 := s.updCluster (clusterOf e) (fun w => { w with lastGrant := e % 4 })
        let at_ (i : Nat) : Nat := q.ctx.a0 + q.next * q.ctx.as + i * q.ctx.eb
        let bk := kc.active
        (∀ code, s1.rowStep e q = .error code → ∃ t, exec (.matrixRowStep (clusterOf e)) s = .next t
          ∧ (t.coreAt e).e.mfault = some (matrixTval code 4 q.next) ∧ (t.coreAt e).e.mq = [] ∧ (t.coreAt e).e.mdone = true
          ∧ ∀ r ∈ q :: l, r.tag ≠ 0 → ((t.coreAt e).node r.tag).held = false)
        -- the codes: poison of A, a bank that is not valid, its format, its shape, poison of the bank or of C (R205, R216)
        ∧ (z.typed.isPois 1 true (at_ 0) (q.ctx.k * q.ctx.eb) = true → s1.rowStep e q = .error 4)
        ∧ (z.typed.isPois 1 true (at_ 0) (q.ctx.k * q.ctx.eb) = false →
            (bk.valid = false → s1.rowStep e q = .error 1)
            ∧ (bk.valid = true → bk.bfmt ≠ q.ctx.afmt → s1.rowStep e q = .error 2)
            ∧ (bk.valid = true → bk.bfmt = q.ctx.afmt → (bk.kb ≠ q.ctx.k ∨ bk.nb ≠ q.ctx.n) → s1.rowStep e q = .error 3)
            ∧ (bk.valid = true → bk.bfmt = q.ctx.afmt → bk.kb = q.ctx.k → bk.nb = q.ctx.n →
                z.typed.isPois 2 true (o q.next) (q.ctx.n * q.ctx.cb) = true → s1.rowStep e q = .error 4))
        ∧ (∀ u, s1.rowStep e q = .ok u → ∃ t, exec (.matrixRowStep (clusterOf e)) s = .next t
          ∧ (t.coreAt e).typed = (u.coreAt e).typed
          ∧ (if q.next + 1 < q.ctx.m then (t.coreAt e).e.mq = { q with next := q.next + 1 } :: l else fin t))
        ∧ (bk.valid = true → bk.bfmt = 0 → bk.kb = q.ctx.k → bk.nb = q.ctx.n → bk.pois = [] → q.ctx.afmt = 0 →
            z.typed.isPois 1 true (at_ 0) q.ctx.k = false → z.typed.isPois 2 true (o q.next) (4 * q.ctx.n) = false →
            ∃ u, s1.rowStep e q = .ok u ∧ ∀ j, j < q.ctx.n →
              let r : Int := (BitVec.ofNat 32 (z.typed.get 2 true (o q.next + 4 * j) 4)).toInt
                + ((List.range q.ctx.k).map (fun i =>
                    (BitVec.ofNat 8 (z.typed.get 1 true (at_ i) 1)).toInt * bk.at i j)).sum
              (u.coreAt e).typed.get 2 true (o q.next + 4 * j) 4 =
                ((max (-2 ^ 31) (min (2 ^ 31 - 1) r)) % 2 ^ 32).toNat)
        ∧ (bk.valid = true → bk.bfmt = q.ctx.afmt → bk.kb = q.ctx.k → bk.nb = q.ctx.n → bk.pois = [] → 1 ≤ q.ctx.afmt →
            q.ctx.afmt ≤ 4 → z.typed.isPois 1 true (at_ 0) (q.ctx.k * q.ctx.eb) = false →
            z.typed.isPois 2 true (o q.next) (q.ctx.n * q.ctx.cb) = false →
            let ff := if q.ctx.afmt = 4 then f64 else f32
            let av (i : Nat) : FVal := value q q.ctx.ba (z.typed.get 1 true (at_ i) q.ctx.eb)
            let at2 (w : State) (j : Nat) : Nat := (w.coreAt e).typed.get 2 true (o q.next + j * q.ctx.cb) q.ctx.cb
            let numbers : Prop := ∀ i, i < q.ctx.k → (av i).num ≠ none
            ∃ (u : State) (ea : ℤ) (row : Nat → ℤ) (r : Nat → Nat × Flags), s1.rowStep e q = .ok u
              ∧ (numbers → Aligned (depthA q) q.ctx.k (fun i => number (av i)) ea row)
              ∧ (∀ j, j < q.ctx.n → at2 u j = (r j).1
                ∧ (¬ numbers ∨ Store.get false bk.bnan j = true → r j = (ff.nan, fNV))
                ∧ (numbers → Store.get false bk.bnan j = false →
                    ff.Accumulated (q.ctx.afmt != 4) q.ctx.csat (at2 s j) ((Finset.range q.ctx.k).sum (fun i => row i * bk.at i j)
                      * (2 : ℝ) ^ (ea - depthA q + 2 + (Store.get 0 bk.eb j - depthB q + 2))) (r j)))
              ∧ ∀ i, (u.coreAt e).u.fstat.getLsbD i = true ↔ z.u.fstat.getLsbD i = true
                  ∨ (∃ j, j < q.ctx.n ∧ (r j).2.getLsbD i = true)
                  ∨ (numbers ∧ fAL.getLsbD i = true ∧ ∃ m, m < q.ctx.k ∧ number (av m) * 2 ^ ((depthA q : ℤ) - 2 - ea) ≠ row m)))
      ∧ (q.fin = true → ∃ t, exec (.matrixCommandCompletion e) s = .next t ∧ (t.coreAt e).e.mq = l
          ∧ (l = [] → (t.coreAt e).e.mdone = true ∧ (t.coreAt e).e.mflt = z.e.mfault.isSome)
          ∧ (q.tag ≠ 0 → q.tag < 32 → ((t.coreAt e).node q.tag).done = true)))

/-- R218 to R230: the copy engine. CPCFG captures a side's geometry; CPY, CPYN and PUBL join the queue of 16, CDONE falls and
a typed operand pins the wisp; CPABORT empties the queue and sets CDONE. Then the engine's steps: a command starts, its first
piece is admitted against its die's credits, its bytes move, and it ends; PUBL inverts the front bits of its windows. (That no
byte moves before the last piece is admitted, and then all in one step, that a copy within a die is not admitted, and the unit of a
die's credits are the model's choices, log 46; that the typed side is checked against U's sizes is log 14.) -/
def Obligations.CopyCommands : Prop :=
  ∀ (s : State) (d a b tag : BitVec 5),
    let x := s.me
    let c := s.cur
    let bad (i : Instr) : Prop := exec i s = .next (s.trap { cause := 1, tval := (encode i).setWidth 64 })
    let v := (s.rg a).toNat
    let w := (s.rg b).toNat
    let typed (r : BitVec 5) : Bool := decide ((s.rg r).toNat / 2 ^ 56 = 0xFE)
    let count (i : Nat) : Nat := (Store.get 0 x.u.dn i).toNat
    let step (i : Nat) : Word := Store.get 0 x.u.ds i
    let one : CGeo := { len := w % 2 ^ 32, n1 := 1, n2 := 1 }
    let sides (g : CGeo) : Bool := (!typed a || s.typedSideOk c v false g g.ss1 g.ss2)
      && (!typed d || s.typedSideOk c (s.rg d).toNat true g g.ds1 g.ds2)
    let cmd (q : CKind) (g : CGeo) : CCmd :=
      { kind := q, tag := tag.toNat, dst := s.rg d, src := s.rg a, scope := w / 2 ^ 32 % 4, geo := g }
    let forms : List (Instr × Bool × CCmd × Bool) := [
      (.cpy d a b tag, decide (w < 2 ^ 34) && sides one, cmd .cpy one, typed a || typed d),
      (.cpyn d a b tag, decide (w < 2 ^ 34 ∧ w % 2 ^ 32 = 0) && sides x.e.geo, cmd .cpyn x.e.geo, typed a || typed d),
      (.publ a tag, decide (v < 2 ^ 16), { kind := .publ, tag := tag.toNat, mask := v }, false)]
    (x.pendingFault = none →
      (2 ≤ v → bad (.cpcfg a))
      ∧ (v < 2 → ∃ t, exec (.cpcfg a) s = .next t ∧ OnlyCore s t ∧ t.me = { x with
          pc := x.pc + 4
          e := { x.e with geo := if v = 0 then
              { x.e.geo with len := count 0, n1 := count 1, n2 := count 2, ss1 := step 1, ss2 := step 2 }
            else { x.e.geo with ds1 := step 1, ds2 := step 2 } } })
      ∧ (∀ i ∈ forms, (i.2.1 = false ∨ x.e.tagOk tag.toNat = false → bad i.1)
        ∧ (i.2.1 = true → x.e.tagOk tag.toNat = true → 16 ≤ x.e.cq.length → exec i.1 s = .next s.stall)
        ∧ (i.2.1 = true → x.e.tagOk tag.toNat = true → x.e.cq.length < 16 → ∃ t, exec i.1 s = .next t
          ∧ t.me = { x with
              pc := x.pc + 4
              e := { x.e.handTag tag.toNat with cq := x.e.cq ++ [i.2.2.1], cdone := false }
              s := { x.s with force := x.s.force || (i.2.2.2 && x.s.pend) } }
          ∧ (∀ e, e ≠ c → t.coreAt e = s.coreAt e) ∧ .copyCommandStart c ∈ t.sched
          ∧ (i.2.2.2 = true → (t.wispAt (s.wispKey c)).pinned = true) ∧ (i.2.2.2 = false → t.wisps = s.wisps)
          ∧ { t with cores := s.cores, wisps := s.wisps, sched := s.sched } = s))
      ∧ (x.e.cq = [] → PcOut s (s.pc + 4) (exec .cpabort s))
      ∧ (x.e.cq ≠ [] → ∃ t, exec .cpabort s = .next t ∧ t.me.e.cq = [] ∧ t.me.e.cdone = true ∧ t.me.e.cflt = false
          ∧ t.pc = s.pc + 4 ∧ (∀ p ∈ (t.dieAt (dieOf c)).waiting, p.core = c → p.sent = false → p.wake ≠ .copyCompletion c)
          ∧ (∀ r ∈ x.e.cq, r.tag ≠ 0 → (t.me.node r.tag).held = false)))
    ∧ (∀ (e : Nat) (q : CCmd), (s.coreAt e).stage ≠ .halted →
      let z := s.coreAt e
      (z.e.nextCopy = some q → q.kind ≠ .publ → ∃ t, exec (.copyCommandStart e) s = .next t
        ∧ (t.coreAt e).e.cq = z.e.cq.map (fun r => if r = q then { r with started := true } else r)
        ∧ .copyCompletion e ∈ t.sched)
      -- its pieces, of at most 4 KiB each, are admitted one after the other; those within a die at once
      ∧ (z.executing = some q → q.kind ≠ .publ → q.adm < q.pieces →
        let d := dieOf e
        let w := s.pieceAt e q q.adm
        let mine (p : Piece) : Bool := p.wake == .copyCompletion e && p.core == e && !p.sent
        ∃ t, exec (.copyCompletion e) s = .next t ∧ (∀ m, t.byteAt m = s.byteAt m)
        ∧ (if w.2 = [] ∨ w.1.length ≤ ((s.dieAt d).flying.filter mine).length
          then (t.coreAt e).e.cq = z.e.cq.map (fun r => if r.started then { r with adm := r.adm + 1 } else r)
            ∧ .copyCompletion e ∈ t.sched
            ∧ (w.2 ≠ [] → ∀ p ∈ (s.dieAt d).flying, mine p = true → .creditReturn d p.flits ∈ t.sched)
          else t.cores = s.cores ∧ .pieceAdmission d ∈ t.sched
            ∧ ((s.dieAt d).flying.filter mine = [] → (s.dieAt d).waiting.filter mine = [] →
                ∀ n ∈ w.1, ⟨e, s.cycleNow d, n, w.2, .copyCompletion e, false⟩ ∈ (t.dieAt d).waiting)))
      ∧ (z.executing = some q → q.kind ≠ .publ → q.pieces ≤ q.adm → q.fin = false →
        (∀ u, s.copyAll e q none = (.ok, u) → ∃ t, exec (.copyCompletion e) s = .next t ∧ (∀ m, t.byteAt m = u.byteAt m)
          ∧ (∀ r, (t.coreAt r).typed = (u.coreAt r).typed) ∧ .copyCompletion e ∈ t.sched
          ∧ (t.coreAt e).e.cq = (u.coreAt e).e.cq.map (fun r => if r.started then { r with fin := true } else r))
        ∧ (∀ code fr u, s.copyAll e q none = (.bad code fr, u) → ∃ t, exec (.copyCompletion e) s = .next t
          ∧ (∀ m, t.byteAt m = u.byteAt m) ∧ (t.coreAt e).e.cfault = some (copyTval code (if q.kind = .cpy then 1 else 2))))
      ∧ (z.executing = some q → q.kind ≠ .publ → q.pieces ≤ q.adm → q.fin = true →
        s.awaitsAnswer e = false → ∃ t, exec (.copyCompletion e) s = .next t
          ∧ (t.coreAt e).e.cq = z.e.cq.filter (fun r => !r.started)
          ∧ ((t.coreAt e).e.cq = [] → (t.coreAt e).e.cdone = true))
      -- bytes of one row of C that a copy takes to the back of W or A
      ∧ (q.kind = .cpy → q.geo.n1 = 1 → q.geo.n2 = 1 → q.src.toNat / 2 ^ 56 = 0xFE → q.dst.toNat / 2 ^ 56 = 0xFE →
        s.typedSideOk e q.src.toNat false q.geo q.geo.ss1 q.geo.ss2 = true →
        s.typedSideOk e q.dst.toNat true q.geo q.geo.ds1 q.geo.ds2 = true →
        ∀ u, s.copyAll e q none = (.ok, u) → ∀ i, i < q.geo.len →
          (u.coreAt (typedCore e q.dst.toNat)).typed.get (typedSpace q.dst.toNat) false (q.dst.toNat % 2 ^ 18 + i) 1
            = z.typed.get 2 true (q.src.toNat % 2 ^ 18 + i) 1)
      ∧ (z.executing = some q → q.kind = .publ → ∃ t, exec (.publicationSwap e) s = .next t
        ∧ (t.coreAt e).e.cq = z.e.cq.filter (fun r => !r.started)
        ∧ (∀ i, i < 8 → (t.coreAt e).typed.wFront.getLsbD i = (z.typed.wFront.getLsbD i != q.mask.testBit i))
        ∧ (∀ i, i < 8 → (t.coreAt e).typed.aFront.getLsbD i = (z.typed.aFront.getLsbD i != q.mask.testBit (8 + i)))))
    -- the oldest piece goes out when every link of its route has credits for it (R254)
    ∧ (∀ (die : Nat) (p : Piece) (l : List Piece), (s.dieAt die).waiting = p :: l →
      (s.holdsCredits die p = false → exec (.pieceAdmission die) s = .next s)
      ∧ (s.holdsCredits die p = true → ∃ t, exec (.pieceAdmission die) s = .next t ∧ (t.dieAt die).waiting = l
        ∧ (t.dieAt die).flying = (s.dieAt die).flying ++ [p] ∧ t.cores = s.cores ∧ p.wake ∈ t.sched
        ∧ (l ≠ [] → .pieceAdmission die ∈ t.sched)))
    ∧ (∀ die, (s.dieAt die).waiting = [] → exec (.pieceAdmission die) s = .next s)
    ∧ (∀ die n, ∃ t, exec (.creditReturn die n) s = .next t
        ∧ (t.dieAt die).flying = (s.dieAt die).flying.eraseP (fun p => p.sent && p.flits == n)
        ∧ (t.dieAt die).waiting = (s.dieAt die).waiting ∧ t.cores = s.cores
        ∧ ((s.dieAt die).waiting ≠ [] → .pieceAdmission die ∈ t.sched))
    -- flits are of 64 bytes, a piece of at most 4 KiB; the credits of a die on a link are its share of the link (R254)
    ∧ (∀ n, (piecesOf n).all (fun k => decide (1 ≤ k ∧ k ≤ 64)) = true ∧ n ≤ 64 * ((piecesOf n).foldl (· + ·) 0)
        ∧ 64 * ((piecesOf n).foldl (· + ·) 0) < n + 64)

/-- R231 to R248, R313 to R317: the Sluice, the collectives and the graph. SBIND reads the record at its home and binds the
register, or traps; SSYNC and SUNBIND complete once the binding is synchronised; SSTAT, GDEF, GWAIT and GQRY. Then the
Sluice's steps, and the tree over which a collective combines. (The I/O die of a slot, and faults of areas and records, are the
model's choices, log 24; so is a chunk's move at the admission of its pieces, log 46.) -/
def Obligations.StreamsAndGraph : Prop :=
  ∀ (s : State) (d a b tag : BitVec 5),
    let x := s.me
    let c := s.cur
    let p := s.rg a
    let n := tag.toNat
    let bad (i : Instr) : Prop := exec i s = .next (s.trap { cause := 1, tval := (encode i).setWidth 64 })
    (x.pendingFault = none →
      (p.toNat % 64 ≠ 0 → exec (.sbind d a) s = .next (s.trap { cause := 3, tval := p }))
      ∧ (p.toNat % 64 = 0 → ∀ i q, x.bindOf d.toNat = some (i, q) →
          if q.addr = p then PcOut s (s.pc + 4) (exec (.sbind d a) s) else bad (.sbind d a))
      ∧ (p.toNat % 64 = 0 → x.bindOf d.toNat = none → ((s.liveBinds c).length = 4 ∨ x.gang ≠ none) → bad (.sbind d a))
      ∧ (p.toNat % 64 = 0 → x.bindOf d.toNat = none → (s.liveBinds c).length < 4 → x.gang = none →
          ∀ t s1 s2, s.xlat c p.toNat .read false x.sup = .ok t s1 → s1.flushLine c (t.pa / 64) = .ok () s2 →
          -- the record's read leaves as a transaction where its home is another package's (R262)
          let s3 := s2.sendRemote .read t.pa 64 0
          let q : Binding := { addr := p, pa := t.pa, img := BitVec.ofNat 512 (s3.homeRead t.pa 64), vd := d.toNat }
          if s3.homePois t.pa 64 = true ∨ s3.cutOff c t.pa = true then
            exec (.sbind d a) s = .next (s3.trap { cause := 0x0E, tval := p })
          else if q.img.getLsbD 31 = true ∨ q.limitsOk c (s3.coreAt c).u.joinctx = false then
            exec (.sbind d a) s = .next (s3.trap { cause := 1, tval := p })
          else (q.collective = false → ∃ u i, PcOut u (s3.pc + 4) (exec (.sbind d a) s) ∧ i < 4
              ∧ (∀ r : BitVec 5, u.rg r = s3.rg r) ∧ (s3.bindAt c i).used = false
              ∧ (let r := u.bindAt c i
                 r.used = true ∧ r.vd = d.toNat ∧ r.addr = p ∧ r.img = q.img ∧ r.count = q.img.toNat / 2 ^ 384 % 2 ^ 32)
              -- BOUND at the record's home, its reserved bits zero (R8, R233), and then the acquire at SCOPE
              ∧ (let w := s3.setBound (dieOf c) t.pa true
                 (∀ m, u.byteAt m = ((w.updBind c i (fun _ => u.bindAt c i)).acquire c 255 q.scope).byteAt m)
                 ∧ (s3.moves = [] → w.homeRead t.pa 8 = s3.homeRead t.pa 4 % 2 ^ 27 + 2 ^ 31
                     ∧ ∀ m, m < t.pa ∨ t.pa + 8 ≤ m → w.byteAt m = s3.byteAt m)))
            ∧ (∀ u, s3.bindRecord c q = .ok () u → PcOut u (u.pc + 4) (exec (.sbind d a) s)))
      ∧ (x.bindOf d.toNat = none → PcOut s (s.pc + 4) (exec (.ssync d) s) ∧ PcOut s (s.pc + 4) (exec (.sunbind d) s))
      ∧ (∀ i q u, x.bindOf d.toNat = some (i, q) → s.syncBind c i = .ok () u →
          PcOut (u.stallClear c i) (u.pc + 4) (exec (.ssync d) s)
          ∧ PcOut ((u.stallClear c i).freeBind u.cur i false) (u.pc + 4) (exec (.sunbind d) s))
      ∧ (x.bindOf a.toNat = none → GOut s d 0 (exec (.sstat d a) s))
      ∧ (∀ i q, x.bindOf a.toNat = some (i, q) → GOut s d (BitVec.ofNat 64 (1 + (if q.ended then 2 else 0)
          + (if q.stall.isSome then 4 else 0) + (if q.flt.isSome then 8 else 0) + i * 16 + q.kind * 256
          + q.count % 2 ^ 32 * 2 ^ 32)) (exec (.sstat d a) s)))
    ∧ (let k := (s.rg a).toNat
       let m := s.rg b
       let legal := n ≠ 0 ∧ k ≤ 31 ∧ m.getLsbD 0 = false ∧ m.getLsbD n = false ∧ m.toNat < 2 ^ 32 ∧ x.e.nodeBusy n = false
       (¬ legal → bad (.gdef a b tag))
       ∧ (legal → ∃ t, exec (.gdef a b tag) s = .next t ∧ OnlyCore s t ∧ t.pc = s.pc + 4
          ∧ t.me.node n = { count := k, mask := m.setWidth 32, defd := true }
          ∧ (∀ j, j ≠ n → t.me.node j = x.node j) ∧ t.me.e.mq = x.e.mq ∧ t.me.e.cq = x.e.cq
          ∧ (∀ r : BitVec 5, t.rg r = s.rg r)))
    ∧ (x.gwaitDone n = true → (s.acquire c 255 0).me.pendingFault = none →
        PcOut (s.acquire c 255 0) (s.pc + 4) (exec (.gwait tag) s))
    ∧ (∀ q, (s.acquire c 255 0).me.pendingFault = some q → x.pendingFault = some q →
        exec (.gwait tag) s = .next ((s.acquire c 255 0).report c q (some (s.pc + 4))))
    ∧ (x.gwaitDone n = false → x.pendingFault = none → exec (.gwait tag) s = .next s.stall)
    ∧ (tag = 0 → bad (.gqry d tag))
    ∧ (tag ≠ 0 → GOut s d (BitVec.ofNat 64 ((x.node n).count + (if (x.node n).defd then 32 else 0)
        + (if (x.node n).held then 64 else 0) + (if (x.node n).done then 128 else 0) + (x.node n).mask.toNat / 2 * 2 ^ 33))
        (exec (.gqry d tag) s))
    -- the Sluice stops with a core that is halted (R338)
    ∧ (∀ core i, (s.coreAt core).stage = .halted → exec (.streamPrefetch core i) s = .next s
        ∧ exec (.streamStorePerform core i) s = .next s ∧ exec (.sendChunk core i) s = .next s)
    ∧ (∀ core i, (s.bindAt core i).used = true → (s.coreAt core).stage ≠ .halted →
      let q := s.bindAt core i
      let ask (k : Nat) : Bool × State := s.admission (dieOf core) core (piecesOf (k * q.ewb))
        (s.spanLinks (dieOf core) true [s.homeNode q.anchor]) (.sendChunk core i)
      -- LOAD: element n of the two dimensions; what stands ready is delivered in order, and zeros past the end (R232, R235)
      (∀ e : Nat, q.elemAddr e = ((q.base + (e % q.len0 : Nat) * q.stride0 + (e / q.len0 : Nat) * q.stride1 : Int) % 2 ^ 64).toNat)
      ∧ (q.kind = 0 → (∃ t l, exec (.streamPrefetch core i) s = .next t ∧ (t.bindAt core i).pre = q.pre ++ l
            ∧ (t.bindAt core i).count = q.count)
          ∧ (∀ v u u', q.pre = [] → q.depth = 1 → q.count < q.popTotal →
              s.admitElems core i q.count 1 .read (.streamPrefetch core i) = (true, u') →
              u'.load core (q.elemAddr q.count) q.ewb false false = .ok v u → u.bindAt core i = q →
              ∃ t, exec (.streamPrefetch core i) s = .next t ∧ (t.bindAt core i).pre = [.val v])
          ∧ (∀ (l : List Nat) (k : Nat), q.pre = l.map Elem.val → k ≤ l.length → s.popPeek core i k = (l.take k, .all, s))
          ∧ (∀ (l : List Nat) (k : Nat), q.pre = l.map Elem.val → q.popTotal = q.count + l.length → l.length ≤ k →
              s.popPeek core i k = (l ++ List.replicate (k - l.length) 0, .all, s)))
      ∧ (q.kind = 1 → ∃ t, exec (.streamStorePerform core i) s = .next t
          ∧ ((∃ l, q.unsent = l ++ (t.bindAt core i).unsent) ∨ (t.bindAt core i).dead = true))
      -- SEND: a whole chunk goes, unless the ring has no room for its last element; a peer that does not pair is a fault (R236)
      ∧ (q.kind = 5 → q.chunk ≤ q.unsent.length → exec (.sendChunk core i) s = .next (s.sendNow core i q.chunk).2)
      ∧ ((q.kind = 5 ∨ q.collective = true) → q.unsent.length < q.chunk → exec (.sendChunk core i) s = .next s)
      ∧ (q.dead = false → ∀ k rp r u, s.pairWith core i 6 1 0 0 = .ok (some (rp, r)) u →
          r.len0 < (q.count - q.unsent.length + k + 2 ^ 32 - u.homeRead (rp + 0x30) 4 % 2 ^ 32) % 2 ^ 32 →
          s.sendNow core i k = (.full, u.sendRemote .read (rp + 0x30) 4 0))
      ∧ (q.dead = false → ∀ k u, s.pairWith core i 6 1 0 0 = .ok none u → s.sendNow core i k = (.sent, u.streamFault core i 4 none))
      ∧ (∀ code fr, let t := s.streamFault core i code fr
          (t.bindAt core i).dead = true ∧ (t.bindAt core i).unsent = [] ∧ (t.bindAt core i).flt = some (streamTval code i)
          ∧ ∀ fr', fr = some fr' → (t.coreAt core).frec = fr')
      -- a collective's chunk is accepted at the anchor, once it is admitted, in the order of its pushes (R254, R311)
      ∧ (q.collective = true → q.isJoin = false → 1 ≤ q.chunk → q.chunk ≤ q.unsent.length → (ask q.chunk).1 = true →
          s.reqDown (dieOf core) q.anchor = false → ∀ e, s.instOf core i = some e → e.kind ≠ 7 →
          ∃ t e', exec (.sendChunk core i) s = .next t ∧ (t.bindAt core i).unsent = q.unsent.drop q.chunk
            ∧ t.instOf core i = some e' ∧ e'.pushedBy q.rank = e.pushedBy q.rank ++ q.unsent.take q.chunk)
      ∧ (∀ tr, (s.coreAt core).stage = .run → s.stallTrap core i = some tr →
          exec (.streamWatchdog core i) s = .next (s.takeTrap core
            { tr with tepc := if (s.coreAt core).hold = .yielding then some ((s.coreAt core).pc + 4) else none }))
      -- the arrival of a quorum collective, when its last element has been accepted, once (R317)
      ∧ (q.isJoin = true → ∀ e, s.instOf core i = some e →
          ((Store.get false e.came q.rank = true ∨ (e.pushedBy q.rank).length < q.len0) → exec (.quorumStreamArrival core i) s = .next s)
          ∧ (Store.get false e.came q.rank = false → q.len0 ≤ (e.pushedBy q.rank).length → e.fault = false →
              ∀ j, s.joinNamed q.joinid = some j → j.status q.rank = 0 →
              exec (.quorumStreamArrival core i) s =
                .next ((s.updInst q.anchor (fun y => { y with came := Store.set false y.came q.rank true })).joinEvent
                  (.arrive (joinSlotKey q.joinid) q.rank (ctxWeight (s.coreAt core).u.joinctx) (e.pushedBy q.rank) none none)))))
    -- PRODUCED advances after the release of the chunk, which may await an owner's answer (R236, R266)
    ∧ (∀ pa m, s.awaited (.ring pa) = true → exec (.ringProducedUpdate pa m) s = .next (s.post (.ringProducedUpdate pa m)))
    ∧ (∀ pa m, s.awaited (.ring pa) = false → s.moves = [] →
        (∀ w ∈ s.waiters, overlap (pa + 0x34) 4 w.pa (if w.wide then 8 else 4) = false) →
        ∃ t, exec (.ringProducedUpdate pa m) s = .next t ∧ t.homeRead (pa + 0x34) 4 = m % 2 ^ 32
          ∧ ∀ q, q < pa + 0x34 ∨ pa + 0x38 ≤ q → t.byteAt q = s.byteAt q)
    ∧ (∀ core, (s.coreAt core).stalled = true → (s.coreAt core).stage = .run →
        exec (.streamWaitEnd core) s = .next { s with cur := core, evTurn := true })
    ∧ (∀ at_, exec (.collectiveCombine at_) s = .next (s.combineNow at_))
    ∧ (∀ f o w y z q : Nat, o = 1 ∨ o = 2 ∨ o = 3 →
        let g := combine f o
        combineTree f o [w] = w ∧ combineTree f o [w, y] = g w y
        ∧ combineTree f o [w, y, z] = g (g w y) (g z (combineId f o))
        ∧ combineTree f o [w, y, z, q] = g (g w y) (g z q))
    -- one slot of every package that holds a record, or ENDPOINT (R314 to R316): the own share, else the shared pool, whose last
    -- slot goes to the lower package, and within a package to the lower partition
    ∧ (∀ at_ i, s.instRaw at_ = some i → i.alg = .endpoint →
        let others : Prop := ∀ p ∈ i.pkgs, p = s.pkg ∨ Config.remoteGrant (s.draw + p) = true
        let mine : Prop := s.pkg ∈ i.pkgs
        let pool := s.sharedSlots + s.reservedSlots
        let beaten : Prop := (∃ r ∈ s.rivals at_, beats r.1 r.2.part at_ i.part = true)
          ∨ (pool + 1 = 256 ∧ ∃ p, Config.foreignRequest s.draw = some p ∧ p < s.pkg)
        let won : Prop := s.ownShare i.part = true ∨ (pool < 256 ∧ ¬ beaten)
        let count (v : State) (k : Nat) : Nat := Store.get 0 (v.vdevAt i.vdev).counters k
        ∃ t, exec (.slotRequest at_) s = .next t
        ∧ (others → ¬ mine → t.instRaw at_ = some { i with alg := .slot } ∧ t.slotUse = s.slotUse
            ∧ count t 2 = (count s 2 + 1) % 2 ^ 64)
        ∧ (others → mine → won → t.instRaw at_ = some { i with alg := .slot, slotDie := s.slotIo }
            ∧ Store.get 0 t.slotUse i.part = Store.get 0 s.slotUse i.part + 1 ∧ count t 2 = (count s 2 + 1) % 2 ^ 64)
        ∧ ((¬ others ∨ (mine ∧ ¬ won)) → (i.closed = false → t.instRaw at_ = some i) ∧ t.slotUse = s.slotUse
            ∧ count t 3 = (count s 3 + 1) % 2 ^ 64))
    ∧ (∀ at_ i, s.instRaw at_ = some i → i.closed = true → i.alg = .slot → i.kind ≠ 7 → .slotRequest at_ ∉ s.sched →
        ∃ t, exec (.slotReturn at_) s = .next t ∧ t.instRaw at_ = none
          ∧ Store.get 0 t.slotUse i.part = Store.get 0 s.slotUse i.part - if s.pkg ∈ i.pkgs then 1 else 0)

/-! ## The host, Carr and the identity of the part -/

/-- R31, R32, R98, R260, R262, R263, R338, R339, R354, R374: what the outside does to the part. A doorbell moves QTAIL, or sets
OVF or BACK; queue, mailbox and debug registers take what a write gives them; a host access lands at its home; the firmware
window writes the slot that is not loaded; another package's read, write or atomic is performed at the home. (The model's
choices: host accesses outside memory are dropped or poisoned, and so are those over a dead link, log 29; slot A when neither is
loaded, log 27; the operand forms from 2^62 on, log 30; the transactions that State.mute ends, logs 13 and 29; commands at one
TIME are of one cycle, log 47.) -/
def Obligations.HostAndPeerAccesses : Prop :=
  ∀ (s : State) (fn q off core port pa n src bar : Nat) (v : BitVec 64) (bytes : List (BitVec 8)) (op : PeerOp),
    let x := s.queueAt fn q
    let x' := s.coreAt core
    let size := 2 ^ x.qlog
    let tail : Nat := v.toNat % 2 ^ 16
    -- (i - QHEAD) mod 2^QLOG (R32)
    let ahead (i : Nat) : Int := ((i : Int) - (x.qhead : Int)) % (size : Int)
    let here := s.pkg * 2 ^ 44 + pa % 2 ^ 44
    let becomes (y : Queue) (t : State) : Prop := { t with queues := s.queues, sched := s.sched } = s
      ∧ ∀ f r, r < 16 → t.queueAt f r = if f = fn ∧ r = q then y else s.queueAt f r
    let m := s.mboxAt fn
    (q < 16 → x.qhead < 2 ^ 16 → ∃ t, exec (.qtailWrite fn q v) s = .next t
      ∧ becomes (if size ≤ tail then { x with ovf := true }
          else if ahead tail < ahead x.qtail then { x with back := true }
          else { x with qtail := tail }) t
      ∧ (tail < size → ahead x.qtail ≤ ahead tail →
          ∀ p, (s.vdevAt fn).part = some p → .launchSelection p ∈ t.sched))
    ∧ (q < 16 → ∀ o, ∃ t, exec (.queueConfigWrite fn q o v) s = .next t ∧ becomes
        (if o = 0 ∧ x.qen = false then { x with qbase := v.toNat / 128 * 128 % 2 ^ 44 }
         else if o = 8 then { x with
            qlog := if x.qen = true then x.qlog else if 4 ≤ v.toNat % 32 ∧ v.toNat % 32 ≤ 16 then v.toNat % 32 else 4
            qen := v.getLsbD 8 }
         else if o = 0x20 then { x with
            ovf := x.ovf && !v.getLsbD 0, back := x.back && !v.getLsbD 1, rej := x.rej && !v.getLsbD 2 }
         else if o = 0x48 then { x with qien := v.getLsbD 0 } else x) t)
    ∧ (∃ t, exec (.registerWrite fn bar off v) s = .next t
        ∧ { t with mbox := s.mbox, out := s.out, sched := s.sched, cores := s.cores } = s
        ∧ ∀ c, (s.coreAt c).stage ≠ .halted → t.coreAt c = s.coreAt c)
    ∧ ((s.vdevAt fn).live = true → q < 16 →
        exec (.registerWrite fn 0 (0x1000 + 0x40 * q + 0x18) v) s = .next (s.post (.qtailWrite fn q v)))
    ∧ (m.busy = true → ∃ t, exec (.registerWrite fn 0 0x2000 v) s = .next t ∧ t.mboxAt fn = { m with ovl := true } ∧ t.sched = s.sched)
    ∧ (m.busy = false → ∃ t, exec (.registerWrite fn 0 0x2000 v) s = .next t ∧ (t.mboxAt fn).opc = v.toNat % 256
        ∧ (t.mboxAt fn).ctag = v.toNat / 2 ^ 16 % 2 ^ 16 ∧ (t.mboxAt fn).cmd = m.arg
        ∧ match commandOf fn (v.toNat % 256) (byteRun m.arg 1 1) with
          -- commands are taken in the order of their writes, those of one cycle by ascending function (R355)
          | some e =>
            let before (y : Event) : Prop := ∀ g, y.commandFn = some g → ¬ (fn < g ∧ (s.mboxAt g).since = s.time)
            (t.mboxAt fn).busy = true ∧ (t.mboxAt fn).since = s.time ∧ ∃ l r, s.sched = l ++ r ∧ t.sched = l ++ e :: r
              ∧ (∀ y ∈ l, before y) ∧ ∀ y, r.head? = some y → ¬ before y
          | none => (t.mboxAt fn).busy = false ∧ (t.mboxAt fn).done = true ∧ (t.mboxAt fn).result = 1)
    ∧ (∀ c k, fn < 2 → s.pkgCore k = some c → (s.coreAt c).stage = .halted →
        (∃ t, exec (.registerWrite fn 2 (0x4000 * k + 8) v) s = .next t ∧ t.coreAt c = { s.coreAt c with pc := v &&& ~~~ 3 })
        ∧ exec (.registerWrite fn 2 (0x4000 * k) 1) s = .next (s.post (.debugHaltRelease c)))
    ∧ ((s.coreAt core).stage = .halted → ∃ t, exec (.debugHaltRelease core) s = .next t
        ∧ { t with cores := s.cores, sched := s.sched } = s ∧ (∀ c, c ≠ core → t.coreAt c = s.coreAt c)
        ∧ t.coreAt core = { s.coreAt core with stage := .run })
    -- a host address goes through the first decoder of the port that covers it; any other is package-local (R261)
    ∧ (pa < 2 ^ 62 → s.hostLocal port pa = some pa)
    ∧ (let dec (i : Nat) : Hdm := Store.get {} s.hdm (port * 8 + i)
       let covers (i : Nat) : Prop := (dec i).base ≤ pa ∧ pa < (dec i).base + (dec i).len
       (∀ i, i < 8 → covers i → (∀ j, j < i → ¬ covers j) → s.hostLocal port (2 ^ 62 + pa) = some ((dec i).loc + (pa - (dec i).base)))
       ∧ ((∀ i, i < 8 → ¬ covers i) → s.hostLocal port (2 ^ 62 + pa) = none))
    ∧ (∀ a, s.hostLocal port pa = some a →
        let at_ := s.pkg * 2 ^ 44 + a % 2 ^ 44
        (s.localSpan a bytes.length = false → exec (.hostWrite port pa bytes) s = .next s)
        ∧ (s.localSpan a bytes.length = true → s.linksDown = [] → s.quietSpan at_ bytes.length →
          ∃ t, exec (.hostWrite port pa bytes) s = .next t ∧ BytesAt s t at_ bytes ∧ ∀ c, (t.coreAt c).g = (s.coreAt c).g)
        -- over a link out of service a line is dropped, and a read is answered with poison (R256)
        ∧ (a % 64 + bytes.length ≤ 64 → s.routeDown (portNode port) (s.lineNode a) = true → exec (.hostWrite port pa bytes) s = .next s)
        ∧ (pa < 2 ^ 63 → s.localSpan a n = false →
          exec (.hostRead port pa n) s = .next { s with out := s.out ++ [.hostData port [] true] })
        ∧ (pa < 2 ^ 63 → s.localSpan a n = true → (∀ m ∈ s.moves, m.iov = 0 ∧ m.old % 64 = 0 ∧ m.new % 64 = 0 ∧ m.len % 64 = 0) →
          ∃ l, exec (.hostRead port pa n) s
            = .next { s with out := s.out ++ [.hostData port l (s.spanPois at_ n || s.hostDown port a n)] }
          ∧ l.length = n ∧ ∀ i, i < n → l.getD i 0 = s.byteAt (s.fwd (at_ + i))))
    ∧ (s.hostLocal port pa = none → exec (.hostWrite port pa bytes) s = .next s
        ∧ (pa < 2 ^ 63 → exec (.hostRead port pa n) s = .next { s with out := s.out ++ [.hostData port [] true] }))
    ∧ (∃ t, exec (.firmwareImageWrite off v) s = .next t ∧ { t with fw := s.fw } = s ∧ t.fw.loaded = s.fw.loaded
        ∧ (let o := off / 8 * 8
           let put (a b : Store Byte) : Prop := ∀ i, Store.get 0 b i =
             if off < 2 ^ 26 ∧ o ≤ i ∧ i < o + 8 then v.extractLsb' (8 * (i - o)) 8 else Store.get 0 a i
           if s.fw.loaded = some false then put s.fw.slotB t.fw.slotB ∧ t.fw.slotA = s.fw.slotA
           else put s.fw.slotA t.fw.slotA ∧ t.fw.slotB = s.fw.slotB))
    ∧ (s.localSpan (pa % 2 ^ 44) n = false → exec (.peerTransaction src op pa n v) s
        = .next (if op = .write then s else { s with out := s.out ++ [.peerData src 0 true] }))
    ∧ (s.localSpan (pa % 2 ^ 44) n = true → s.homePois here n = false → (n = 4 ∨ n = 8) → s.quietSpan here n → s.linksDown = [] →
        let w := 8 * n
        let old := s.homeRead here n
        let y := v.toNat % 2 ^ w
        let sg (a : Nat) : Int := (BitVec.ofNat w a).toInt
        let new : Nat := match op with
          | .read => old | .write | .swap => y | .add => (old + y) % 2 ^ w | .and => old &&& y | .or => old ||| y
          | .xor => old ^^^ y | .min => if sg y < sg old then y else old | .max => if sg old < sg y then y else old
          | .minu => min old y | .maxu => max old y
          | .cas x => if old = x.toNat % 2 ^ w then y else old
        ∃ t, exec (.peerTransaction src op pa n v) s = .next t ∧ t.homeRead here n = new
          ∧ (∀ a, a < here ∨ here + n ≤ a → t.byteAt a = s.byteAt a)
          ∧ (op ≠ .write → t.out = s.out ++ [.peerData src old false]))
    -- the relay between two pods passes on what one sends to the other, through the I/O die and port of the accelerator it goes
    -- to (R262, R263)
    ∧ (let between : Prop := ∃ p r, s.relay = some (p, r) ∧ p ≠ r
        ∧ ((src / 1024 = p ∧ paPkg pa / 1024 = r) ∨ (src / 1024 = r ∧ paPkg pa / 1024 = p))
       let exit := s.ualinkExit (paPkg pa % 1024)
       (¬ between → exec (.podRelayForward src op pa n v) s = .next s)
       ∧ (between → s.linksDown = [] → exec (.podRelayForward src op pa n v) s
            = .next { s with out := s.out ++ [.forwarded src exit.1 exit.2 op pa n v] }))
    -- a core's transaction without a reply ends with a poisoned one
    ∧ (let at_ (k : AKind) : Option Nat := match s.xlat core v.toNat k true x'.sup with | .ok t _ => some t.pa | _ => none
       (∀ p, (at_ .read = some p ∨ (at_ .read = none ∧ (at_ .write = some p ∨ (at_ .write = none ∧ at_ .fetch = some p)))) →
          exec (.ualinkReplyTimeout core v) s = .next (
            if s.ownPa p = true ∨ (core, p / 64) ∈ s.mute then s else { s with mute := s.mute ++ [(core, p / 64)] }))
       ∧ (at_ .read = none → at_ .write = none → at_ .fetch = none → exec (.ualinkReplyTimeout core v) s = .next s))

/-- R331, R349, R354 to R358: what each command of a mailbox checks, does and answers. (Premises where a command writes
memory: no move is in hand and no AMOWAIT watches the bytes. The model's choices: the order of the result codes, BGEN where BIND
clears a record, and RESTORE's code under a deadline, log 19; which records a new SHARE rewrites, log 45; and the places of an index
and of a measurement in ATTEST's messages, log 28.) -/
def Obligations.MailboxCommands : Prop :=
  ∀ (s : State) (fn : Nat) (req : SpdmReq) (treq : TdispReq),
    let m := s.mboxAt fn
    let a := m.argBits
    let f := a 0 7 0
    let pf := fn < 2
    let v := s.vdevAt f
    let here (p : Nat) : Nat := s.pkg * 2 ^ 44 + p % 2 ^ 44
    let fails (i : Instr) (code : Nat) : Prop := MboxAnswer s fn code (exec i s)
    let table (i : Instr) (full : List Byte) (res : Nat → List (Nat × Nat × Nat)) : Prop :=
      let l := full.take (m.argN 8 8)
      (s.argSpan (m.argN 0 8) l.length = false → fails i 3)
      ∧ (s.argSpan (m.argN 0 8) l.length = true → s.quietSpan (here (m.argN 0 8)) l.length →
          ∃ t, exec i s = .next t ∧ MboxEnd s t fn 0 (res l.length) ∧ BytesAt s t (here (m.argN 0 8)) l)
    (∀ (i : Instr) (opc : Nat), (i, opc) ∈ ([(.queryEnum fn, 1), (.createVdev fn, 2), (.destroyVdev fn, 3), (.bind fn, 4),
        (.setWeight fn, 5), (.postDeadline fn, 6), (.partitionMode fn, 7), (.reset fn, 8), (.checkpoint fn, 9), (.restore fn, 10),
        (.attest fn req, 11), (.tdispOp fn treq, 12), (.resync fn, 13), (.logRead fn, 14)] : List (Instr × Nat)) →
      m.busy = false ∨ m.opc ≠ opc → exec i s = .next s)
    ∧ (m.busy = true → m.opc = 1 → table (.queryEnum fn) (s.enumTable ++ s.bindTable fn) (fun n => [(0, 8, n)]))
    ∧ (m.busy = true → m.opc = 13 → table (.resync fn) (s.summary fn) (fun _ => []))
    ∧ (m.busy = true → m.opc = 14 →
        let l := (s.log.filter (fun e => (fn < 2 || e.device == fn) && decide (m.argN 0 8 ≤ e.seq))).take (a 8 15 0)
        let p := m.argN 0x10 8
        (a 8 63 16 ≠ 0 ∨ s.argSpan p (32 * l.length) = false → fails (.logRead fn) 3)
        ∧ (a 8 63 16 = 0 → s.argSpan p (32 * l.length) = true → s.quietSpan (here p) (32 * l.length) →
            ∃ t, exec (.logRead fn) s = .next t
              ∧ MboxEnd s t fn 0 [(0, 8, l.length), (8, 8, ((l.getLast?).map (fun e => e.seq + 1)).getD s.logSeq)]
              ∧ BytesAt s t (here p) (l.flatMap (fun e => toBytes 32 e.image))))
    ∧ (m.busy = true → m.opc = 2 →
        let g := a 0 6 0
        let p := a 0 13 8
        (¬ pf → fails (.createVdev fn) 2) ∧ (pf → s.badVdev m = true → fails (.createVdev fn) 3)
        ∧ (pf → s.badVdev m = false → (s.vdevAt g).live = true → fails (.createVdev fn) 5)
        ∧ (pf → s.badVdev m = false → (s.vdevAt g).live = false → (p = 63 ∨ s.asnFree g p (a 0 47 32) (a 0 63 48) = true) →
            s.waiters = [] → ∃ t, exec (.createVdev fn) s = .next t ∧ MboxEnd s t fn 0 [(0, 8, g)]
              ∧ (let w := t.vdevAt g
                 w.live = true ∧ w.part = (if p = 63 then none else some p) ∧ w.share = a 0 23 16 ∧ w.asnBase = a 0 47 32
                 ∧ w.asnCnt = a 0 63 48 ∧ w.ovfBase = here (a 8 43 0) ∧ w.ovfCap = a 0x10 31 0 ∧ w.occLim = a 0x10 39 32
                 ∧ w.pbt = a 0x18 55 0 ∧ w.sbt = a 0x20 55 0 ∧ w.safe = a 0x28 63 0 ∧ w.safeLen = a 0x30 63 0
                 ∧ w.dirTab = a 0x48 55 0 ∧ w.deficit = 0
                 ∧ ∀ q, t.byteAt q = if (w.pbt ≤ q ∧ q < w.pbt + 2 ^ 18) ∨ (w.sbt ≤ q ∧ q < w.sbt + 2 ^ 18) then 0
                     else s.byteAt q)))
    ∧ (m.busy = true → m.opc = 3 →
        (¬ pf → fails (.destroyVdev fn) 2) ∧ (pf → (a 0 63 8 ≠ 0 ∨ v.live = false) → fails (.destroyVdev fn) 3)
        ∧ (pf → a 0 63 8 = 0 → v.live = true → s.underDeadline f = true → fails (.destroyVdev fn) 5)
        ∧ (pf → a 0 63 8 = 0 → v.live = true → s.underDeadline f = false →
            if s.launchesOf f none = [] ∧ s.locked f = false then
              ∃ t, exec (.destroyVdev fn) s = .next t ∧ MboxEnd s t fn 0 [] ∧ (t.vdevAt f).live = false
                ∧ (∀ q, q < 16 → t.queueAt f q = {}) ∧ (∀ b ∈ t.binds, b.2.valid = true → b.2.vdev ≠ f)
            else exec (.destroyVdev fn) s = .next (s.startReset { rung := 1, target := f, fns := [fn], destroy := true })))
    ∧ (m.busy = true → m.opc = 5 →
        (¬ pf → fails (.setWeight fn) 2) ∧ (pf → (a 0 63 16 ≠ 0 ∨ a 0 15 8 = 0 ∨ v.live = false) → fails (.setWeight fn) 3)
        ∧ (pf → a 0 63 16 = 0 → a 0 15 8 ≠ 0 → v.live = true → s.locked f = false →
            ∃ t, exec (.setWeight fn) s = .next t ∧ MboxEnd s t fn 0 [] ∧ t.vdevAt f = { v with share := a 0 15 8 }
              ∧ (∀ b ∈ t.binds, b.2.valid = true → b.2.vdev = f → b.2.share = a 0 15 8)
              ∧ { t with mbox := s.mbox, out := s.out, vdevs := s.vdevs, binds := s.binds } = s))
    ∧ (m.busy = true → m.opc = 4 → ¬ pf → fails (.bind fn) 2)
    ∧ (m.busy = true → m.opc = 4 → pf →
        let g := a 8 15 8
        let p := a 8 37 32
        let w := s.vdevAt g
        let old : Bind := Store.get {} s.binds f
        let q : BitVec 16 := BitVec.ofNat 16 (a 8 31 16)
        let bad := a 0 63 8 ≠ 0 ∨ a 8 7 1 ≠ 0 ∨ a 8 39 38 ≠ 0 ∨ a 8 63 51 ≠ 0 ∨ a 0x10 63 32 ≠ 0 ∨ m.argN 0x18 16 ≠ 0
        (bad → fails (.bind fn) 3)
        ∧ (¬ bad → old.valid = true → s.underDeadline old.vdev = true → fails (.bind fn) 5)
        ∧ (¬ bad → (old.valid = true → s.underDeadline old.vdev = false ∧ s.locked old.vdev = false) →
            (a 8 0 0 = 0 → ∃ t, exec (.bind fn) s = .next t ∧ MboxEnd s t fn 0 [] ∧ ∀ i, Store.get ({} : Bind) t.binds i =
                if i = f then { bgen := (old.bgen + 1) % 2 ^ 32 } else Store.get {} s.binds i)
            ∧ (a 8 0 0 = 1 → (w.live = false ∨ s.partAt p = none ∨ a 8 47 40 = 0 ∨ (w.part ≠ none ∧ w.part ≠ some p)) → fails (.bind fn) 3)
            ∧ (a 8 0 0 = 1 → w.live = true → s.partAt p ≠ none → a 8 47 40 ≠ 0 → w.part = some p → s.underDeadline g = false →
                s.locked g = false →
                (∀ e ∈ s.binds, e.1 ≠ f → e.2.valid = true → e.2.vdev = g → e.2.qmask &&& q = 0) →
                ∃ t, exec (.bind fn) s = .next t ∧ MboxEnd s t fn 0 [] ∧ .launchSelection p ∈ t.sched
                  ∧ t.vdevAt g = { w with share := a 8 47 40, rot := true }
                  ∧ Store.get ({} : Bind) t.binds f = { valid := true, vdev := g, qmask := q, part := p, share := a 8 47 40
                                                        pfloor := a 8 50 48, bgen := (old.bgen + 1) % 2 ^ 32 })))
    ∧ (m.busy = true → m.opc = 6 →
        let kind := a 0 0 0
        let id := a 0 15 8
        let t0 := m.argN 8 8
        let raised : Nat := max t0 (s.time + 1000000)
        let denied := ¬ pf ∧ (kind = 1 ∨ id ≠ fn)
        let bad := a 0 7 1 ≠ 0 ∨ a 0 63 16 ≠ 0 ∨ (if kind = 1 then s.partAt id = none else (s.vdevAt id).live = false)
        (denied → fails (.postDeadline fn) 2) ∧ (¬ denied → bad → fails (.postDeadline fn) 3)
        ∧ (¬ denied → ¬ bad → s.deadlineAt (kind == 1) id = none → exec (.postDeadline fn) s = .next (s.startDeadline
            { isPart := kind == 1, target := id, t := raised, t0 := s.time, fns := [(fn, decide (t0 < s.time + 1000000))] }))
        ∧ (¬ denied → ¬ bad → ∀ d, s.deadlineAt (kind == 1) id = some d → ∃ t, exec (.postDeadline fn) s = .next t
            ∧ { d with t := min d.t raised, fns := d.fns ++ [(fn, decide (t0 < s.time + 1000000))] } ∈ t.deadlines
            ∧ { t with deadlines := s.deadlines } = s))
    ∧ (m.busy = true → m.opc = 9 →
        (¬ pf → f ≠ fn → fails (.checkpoint fn) 2)
        ∧ ((pf ∨ f = fn) → (a 0 63 8 ≠ 0 ∨ v.live = false) → fails (.checkpoint fn) 3)
        ∧ ((pf ∨ f = fn) → a 0 63 8 = 0 → v.live = true → s.underDeadline f = true → fails (.checkpoint fn) 5)
        ∧ ((pf ∨ f = fn) → a 0 63 8 = 0 → v.live = true → s.underDeadline f = false →
            exec (.checkpoint fn) s = .next (s.startDeadline
              { isPart := false, target := f, t := max (m.argN 8 8) (s.time + 1000000), t0 := s.time, fns := [(fn, decide (m.argN 8 8 < s.time + 1000000))], noRun := true })))
    ∧ (m.busy = true → m.opc = 7 →
        let n := a 0 5 0
        let p := m.argN 8 8
        let l : List (Nat × Part) := (List.range n).map (fun i => (i, (s.descriptor p i).1))
        (fn ≠ 0 → fails (.partitionMode fn) 2)
        ∧ (fn = 0 → (a 0 63 6 ≠ 0 ∨ n = 0 ∨ 40 < n ∨ s.argSpan p (32 * n) = false ∨ s.layoutOk l = false
            ∨ ∃ i, i < n ∧ (s.descriptor p i).2 = false) → fails (.partitionMode fn) 3)
        ∧ (fn = 0 → a 0 63 6 = 0 → n ≠ 0 → n ≤ 40 → s.argSpan p (32 * n) = true → s.layoutOk l = true →
            (∀ i, i < n → (s.descriptor p i).2 = true) →
            (s.layout.isSome = true → fails (.partitionMode fn) 5)
            ∧ (s.layout = none → s.affected l = [] → s.deadlines = [] → ∃ t, exec (.partitionMode fn) s = .next t
              ∧ MboxEnd s t fn 0 [] ∧ ∀ i, t.partAt i = if i < n then some (s.descriptor p i).1 else none)))
    ∧ (m.busy = true → m.opc = 8 →
        let rung := a 0 2 0
        let id := a 0 15 8
        let denied := ¬ pf ∧ (3 ≤ rung ∨ id ≠ fn)
        let bad := a 0 7 3 ≠ 0 ∨ a 0 63 20 ≠ 0 ∨ 4 < rung ∨ (rung = 3 ∧ s.partAt id = none) ∨ (rung < 3 ∧ (s.vdevAt id).live = false)
        (denied → fails (.reset fn) 2) ∧ (¬ denied → bad → fails (.reset fn) 3)
        ∧ (¬ denied → ¬ bad → exec (.reset fn) s = .next (s.startReset { rung := rung, target := id, queue := a 0 19 16, fns := [fn] })))
    ∧ (m.busy = true → m.opc = 10 →
        let is := s.batchAt f (m.argN 8 8)
        let bad := a 0 63 8 ≠ 0 ∨ v.live = false ∨ v.part = none ∨ is = []
        let dies := (s.partDies (v.part.getD 0)).map (fun d => (s.liveCores d).length)
        (¬ pf → f ≠ fn → fails (.restore fn) 2)
        ∧ ((pf ∨ f = fn) → bad → fails (.restore fn) 3)
        ∧ ((pf ∨ f = fn) → ¬ bad → (s.launchesOf f none ≠ [] ∨ s.underDeadline f = true) → fails (.restore fn) 5)
        ∧ ((pf ∨ f = fn) → ¬ bad → s.launchesOf f none = [] → s.underDeadline f = false → ∀ i, is = [i] →
            (i.grade ≠ s.fuse.grade ∨ i.dies ≠ dies → fails (.restore fn) 3)
            ∧ (i.grade = s.fuse.grade → i.dies = dies → i.wisps.length ≤ v.ovfCap → s.ovfUsed f = 0 →
                (∀ e ∈ s.wisps, e.2.launch ≠ i.id) → (∀ w ∈ i.wisps, w.launch = i.id) →
                ∃ t, exec (.restore fn) s = .next t ∧ MboxEnd s t fn 0 [] ∧ (∀ j ∈ t.images, j.id ≠ i.id)
                  ∧ t.launchAt i.id = { i.launch with
                      vdev := f, part := v.part.getD 0, decision := .none, vacateBy := 0, resv := 0, paused := false })))
    ∧ (m.busy = true → m.opc = 11 → ∃ t n, exec (.attest fn req) s = .next t ∧ MboxEnd s t fn 0 [(0, 256, n)]
        ∧ (req = .other → n / 2 ^ 8 % 2 ^ 16 = 0x077F)
        ∧ (req = .getMeasurements → 1 ≤ m.argN 3 1 → m.argN 3 1 ≤ 5 →
            n / 2 ^ 120 % 2 ^ 512 = leBytes (s.measurement (m.argN 3 1))))
    ∧ (m.busy = true → m.opc = 12 →
        (treq ≠ .stop ∨ s.tdispOf fn = .unlocked → ∃ t n, exec (.tdispOp fn treq) s = .next t ∧ MboxEnd s t fn 0 [(0, 256, n)]
          ∧ t.tdispOf fn = if treq = .lock ∧ s.lockable fn = true then .locked
              else if treq = .start ∧ s.tdispOf fn = .locked then .run else s.tdispOf fn)
        ∧ (treq = .stop → s.tdispOf fn ≠ .unlocked → exec (.tdispOp fn treq) s
            = .next (s.startReset { rung := 2, target := fn, fns := [fn], stop := true })))

/-- R376 to R378: the SPDM requests, each answered with one message; a session after KEY_EXCHANGE and then FINISH; keys that
reach a stream within it; and the states of an interface. -/
def Obligations.IdentityAndInterfaces : Prop :=
  ∀ (s : State) (fn port stream : Nat) (key : BitVec 256),
    let session := Store.get 0 s.spdmSession fn
    let reqs : List (Instr × SpdmReq × Nat) := [(.getVersion fn, .getVersion, session), (.getCapabilities fn, .getCapabilities, session),
      (.negotiateAlgorithms fn, .negotiateAlgorithms, session), (.getDigests fn, .getDigests, session),
      (.getCertificate fn, .getCertificate, session), (.challenge fn, .challenge, session),
      (.getMeasurements fn, .getMeasurements, session), (.keyExchange fn, .keyExchange, 1),
      (.finish fn, .finish, if session = 1 then 2 else session)]
    (∀ i ∈ reqs, ∃ t l, exec i.1 s = .next t ∧ t.out = s.out ++ [.spdm fn i.2.1 l] ∧ l.length = 256
      ∧ (∀ f, Store.get 0 t.spdmSession f = if f = fn then i.2.2 else Store.get 0 s.spdmSession f)
      ∧ { t with out := s.out, spdmSession := s.spdmSession, draw := s.draw } = s)
    ∧ (∃ t, exec (.ideKm fn port stream key) s = .next t ∧ { t with ide := s.ide } = s
        ∧ ∀ j, Store.get 0 t.ide j =
          if session = 2 ∧ port < 2 ∧ stream ≤ 8 ∧ j = port * 16 + stream then key else Store.get 0 s.ide j)
    ∧ (s.locked fn = false → ∃ t, exec (.ideIntegrityFailure fn port stream) s = .next t
        ∧ (∀ j, Store.get 0 t.ide j = if j = port * 16 + stream then 0 else Store.get 0 s.ide j)
        ∧ (∃ e, t.log.getLast? = some e ∧ e.kind = 5 ∧ e.device = fn ∧ e.time = s.time)
        ∧ { t with ide := s.ide, log := s.log, logSeq := s.logSeq } = s)
    ∧ (s.locked fn = true → s.launchesOf fn none = [] → s.resets = [] →
        ∃ t, exec (.ideIntegrityFailure fn port stream) s = .next t ∧ t.tdispOf fn = .error)
    ∧ (∃ t, exec (.lockInterfaceRequest fn) s = .next t ∧ { t with tdisp := s.tdisp } = s
        ∧ t.tdispOf fn = if s.lockable fn = true then .locked else s.tdispOf fn)
    ∧ (∃ t, exec (.startInterfaceRequest fn) s = .next t ∧ { t with tdisp := s.tdisp } = s
        ∧ t.tdispOf fn = if s.tdispOf fn = .locked then .run else s.tdispOf fn)
    ∧ (s.tdispOf fn = .unlocked → exec (.stopInterfaceRequest fn) s = .next s)
    ∧ (s.tdispOf fn ≠ .unlocked → s.launchesOf fn none = [] → s.resets = [] → s.waiters = [] →
        ∃ t, exec (.stopInterfaceRequest fn) s = .next t ∧ t.tdispOf fn = .unlocked ∧ t.resets = []
          ∧ ∀ q, (s.vdevAt fn).part.isSome = true → s.backedFor q ((s.vdevAt fn).part.getD 0) = true → t.byteAt q = 0)

/-! ## Launches, pools and the cores that take wisps -/

/-- R20, R30 to R36, R42 to R44, R350: how a launch reaches the dies. The turn's device gives its head record, which is rejected
or becomes a launch; its wisps are sent one unit at a time to the die with the largest estimate, and arrive in its pool, in
the overflow queue, or not at all, when the expansion pauses; reports and drains; a held wisp takes a seat, or ends. (Which free
address of a pool a record takes is the model's choice, log 11; that a partition expands one launch at a time, log 18.) -/
def Obligations.LaunchesReachTheDies : Prop :=
  ∀ (s : State) (part id index die core idle free f : Nat) (occ : List (Nat × Nat)),
    let l := s.launchAt id
    let pool (d : Nat) : Nat := 4096 - (s.wisps.filter (fun e => e.2.loc == .pool d)).length
    (s.expanding part = true → exec (.launchSelection part) s = .next s)
    ∧ (s.expanding part = false →
        let s0 := s.idleDeficits part
        let s1 := if s0.turnOf part = 0 then State.passTurn 4096 s0 part 0 else s0
        ∀ g q prio, s1.turnOf part = g + 1 → topQueue (s1.eligible g) = some (q, prio) → q < 16 →
          let r := { s1.headRecord g q with prio := prio }
          let code := s1.checkRecord r none
          ∃ t, exec (.launchSelection part) s = .next t
            ∧ (t.queueAt g q).qhead = ((s.queueAt g q).qhead + 1) % 2 ^ (s.queueAt g q).qlog
            ∧ (code = 0 → ∃ n, 1 ≤ n ∧ n < 2 ^ 32 ∧ .wispPlacement n ∈ t.sched ∧ (t.launchAt n).img = r.img
                ∧ (t.launchAt n).vdev = g ∧ (t.launchAt n).queue = some q ∧ (t.launchAt n).prio = prio
                ∧ (t.launchAt n).tsel = s.time)
            ∧ (code ≠ 0 → (t.queueAt g q).lastrej = code ∧ .launchSelection part ∈ t.sched))
    ∧ (l.paused = true ∨ l.dispensed = false ∨ l.count ≤ l.next → exec (.wispPlacement id) s = .next s)
    ∧ (∀ d, l.paused = false → l.dispensed = true → l.next < l.count → s.bestDie (s.allowedDies l) = some d →
        ∃ t, exec (.wispPlacement id) s = .next t ∧ (t.launchAt id).next = l.next + l.unitAt l.next
          ∧ .wispRecordArrival id l.next d ∈ t.sched
          ∧ ∀ j, l.next ≤ j → j < l.next + l.unitAt l.next →
            let w := t.wispAt (wkey id j)
            w.launch = id ∧ w.index = j ∧ w.st = 0 ∧ w.loc = .moving d ∧ w.pc = l.entry &&& ~~~ 3 ∧ w.g1 = l.args
            ∧ w.g2 = BitVec.ofNat 64 j ∧ w.g3 = BitVec.ofNat 64 l.count ∧ w.frame = l.fbase + BitVec.ofNat 64 (j * l.fsize)
            ∧ w.eff = l.prio)
    ∧ (∀ l', s.bestDie l' = none ↔ l' = [])
    ∧ (∀ l' d, s.bestDie l' = some d → d ∈ l' ∧ ∀ e ∈ l', s.estimate e ≤ s.estimate d)
    ∧ (let k := wkey id index
       let w := s.wispAt k
       let v := s.vdevAt l.vdev
       let news := (s.wisps.filter (fun e => e.2.loc == .ovfNew && (s.launchAt e.2.launch).vdev == l.vdev)).length
       w.loc = .moving die → l.pmode ≠ 3 → index < l.count → s.joinNamed (ctxId w.join) = none → ∃ t, exec (.wispRecordArrival id index die) s = .next t
        ∧ (if 256 < pool die then
            (t.wispAt k).loc = .pool die ∧ (t.wispAt k).st = 0 ∧ (t.wispAt k).addr = s.poolAddr die ∧ (t.wispAt k).since = s.seq
           else if s.ovfUsed l.vdev + 1 ≤ v.ovfCap ∧ news + 1 + s.lc l.part ≤ v.ovfCap then
            (t.wispAt k).loc = .ovfNew ∧ (t.wispAt k).st = 0 ∧ (t.wispAt k).viaOvf = true
           else (t.launchAt id).paused = true ∧ (t.launchAt id).next = index ∧ .expansionResume id ∈ t.sched))
    ∧ (l.paused = false → exec (.expansionResume id) s = .next s)
    ∧ (l.paused = true → l.pmode ≠ 3 →
        (if (∃ d ∈ s.allowedDies l, 256 < pool d) ∨ s.ovfOpenNew l.vdev = true then ∃ t, exec (.expansionResume id) s = .next t
            ∧ t.launchAt id = { l with paused := false } ∧ .wispPlacement id ∈ t.sched
         else exec (.expansionResume id) s = .next s))
    ∧ (∃ t l', exec (.freeResourceReport die) s = .next t ∧ t.sched = s.sched ++ [.reportArrival die (s.idleCores die).length (pool die) l']
        ∧ (t.dieAt die).sentNow = 0 ∧ (t.dieAt die).sentFirst = (s.dieAt die).sentFirst ∧ s.time ≤ (t.dieAt die).nextReport + 1000 ∧ (s.dieAt die).nextReport < (t.dieAt die).nextReport)
    ∧ (∃ t, exec (.reportArrival die idle free occ) s = .next t
        ∧ t.dieAt die = { s.dieAt die with report := some ⟨idle, free, (s.dieAt die).sentNow⟩, occ := occ }
        ∧ { t with dies := s.dies, sched := s.sched } = s)
    -- until its first report arrives, a die counts as at reset, less all that has been sent to it (R42)
    ∧ ((s.dieAt die).report = none → s.estimate die = ((s.liveCores die).length : Int) - (s.dieAt die).sentFirst)
    ∧ (∀ r, (s.dieAt die).report = some r → s.estimate die = (r.idle : Int) - r.sent)
    -- the oldest returning record drains first, with its group, and above the low-water band, where no cluster holds that (R36, R44)
    ∧ (∀ w d, s.oldestOvf f (fun w => w.loc.isBack) = some w →
        let ks := s.backUnit w
        let need := ks.length + if (s.launchAt w.launch).pmode = 3 ∧ w.cluster = none then 256 else 0
        s.backDie w need = some d → need ≤ pool d →
        ∃ t, exec (.overflowDrain f) s = .next t ∧ (∀ k ∈ ks, (t.wispAt k).loc = .pool d) ∧ (∀ k, k ∉ ks → t.wispAt k = s.wispAt k)
          ∧ ∀ c, (s.coreAt c).stage = .held → s.vdevOn c = f → .heldWispDepart c ∈ t.sched)
    ∧ (∀ w d, s.oldestOvf f (fun w => w.loc.isBack) = none → s.oldestOvf f (fun w => !w.loc.isBack) = some w →
        (s.launchAt w.launch).pmode ≠ 3 → s.newDie w = some d → 256 < pool d →
        ∃ t, exec (.overflowDrain f) s = .next t ∧ (t.wispAt w.key).loc = .pool d ∧ ∀ k, k ≠ w.key → t.wispAt k = s.wispAt k)
    ∧ ((s.coreAt core).stage ≠ .held ∨ s.seat core = none → exec (.heldWispDepart core) s = .next s)
    ∧ (∀ w seat, (s.coreAt core).stage = .held → (s.coreAt core).wisp = some w → s.seat core = some seat → (s.coreAt core).kill = none →
        ∃ t, exec (.heldWispDepart core) s = .next t ∧ (t.coreAt core).wisp = none ∧ (t.coreAt core).stage = .idle
          ∧ (t.wispAt (wkey w.1 w.2)).loc = seat ∧ (t.wispAt (wkey w.1 w.2)).viaOvf = seat.isOvf)
    -- one that was killed, or retired, while there was no seat ends now (R35, R36)
    ∧ (∀ w seat t0 code, (s.coreAt core).stage = .held → (s.coreAt core).wisp = some w → s.seat core = some seat →
        (s.coreAt core).kill = some (t0, code) →
        let k := wkey w.1 w.2
        (s.wispAt k).launch = w.1 → (s.wispAt k).index = w.2 → s.waiters = [] →
        ∃ t, exec (.heldWispDepart core) s = .next t ∧ (t.coreAt core).wisp = none ∧ (t.coreAt core).stage = .idle
          ∧ (t.wispAt k).loc = .ended ∧ (t.wispAt k).endCode = code ∧ .wispEndCount w.1 w.2 ∈ t.sched)

/-- R21 to R23, R37, R38, R45, R129, R191, R328, R345, R387: how a core takes a wisp. An idle core takes the record that pickFor
names: for the first time with the registers of R21 and every other register 0, or again with what its record kept; a group
starts together on its reserved cluster; a wait ends. (That a ready wisp that is held on its core does not age is the model's choice,
log 44; how a wisp of reasons 6 and 7 resumes is deduced, log 18.) -/
def Obligations.CoresTakeWisps : Prop :=
  ∀ (s : State) (core launch index die cluster : Nat),
    let x := s.coreAt core
    let key := wkey launch index
    let v := s.wispAt key
    (x.stage ≠ .idle ∨ s.pickFor core = none → exec (.wispPickup core) s = .next s ∧ exec (.wispResume core) s = .next s)
    ∧ (∀ k, s.pickFor core = some k → ∃ w, (k, w) ∈ s.wisps ∧ w.st = 0 ∧ w.loc = .pool (dieOf core) ∧ w.pinned = false)
    ∧ (∀ k, x.stage = .idle → s.pickFor core = some k → (s.wispAt k).started = false →
        let w := s.wispAt k
        let l := s.launchAt w.launch
        exec (.wispResume core) s = .next (s.postOnce (.wispPickup core))
        ∧ ∃ t, exec (.wispPickup core) s = .next t
          ∧ (let y := t.coreAt core
             y.wisp = some (w.launch, w.index) ∧ y.stage = .run ∧ y.pc = w.pc ∧ y.sup = false ∧ y.s.inh = false
             ∧ y.s.asn = l.asn ∧ y.u = { joinctx := w.join } ∧ y.v = [] ∧ y.k = [] ∧ y.e = {} ∧ y.s.tvec = x.s.tvec
             ∧ ∀ q, y.gRead q = if q = 1 then w.g1 else if q = 2 then w.g2 else if q = 3 then w.g3 else if q = 29 then w.frame
                else if q = 31 then l.sbase + BitVec.ofNat 64 ((w.index + 1) * l.ssize) else 0)
          ∧ (t.wispAt k).loc = .core core ∧ (t.wispAt k).started = true)
    ∧ (∀ k, x.stage = .idle → s.pickFor core = some k → (s.wispAt k).started = true →
        let w := s.wispAt k
        exec (.wispPickup core) s = .next (s.postOnce (.wispResume core))
        ∧ (s.resumeOn core k = none → exec (.wispResume core) s = .next (s.post (.wispResume core)))
        ∧ (∀ u, s.resumeOn core k = some u → ∃ t, exec (.wispResume core) s = .next t
          ∧ (let y := t.coreAt core
             y.wisp = some (w.launch, w.index) ∧ y.stage = .run ∧ y.u.vl = w.vl ∧ y.u.vtype = w.vtype ∧ y.u.joinctx = w.join
             ∧ (w.reason = 6 ∨ w.reason = 7 → y.sup = true ∧ y.pc = x.s.tvec)
             ∧ (y.sup = false → y.pc = w.pc ∧ ∀ r d acq, w.waitOn = .woken r d acq → d ≠ 0 → y.gRead d = r))))
    ∧ (if v.st = 0 ∧ v.eff < 7 ∧ v.loc.coreOf = none ∧ v.loc ≠ .ended ∧ v.readyAt + 10000000 ≤ s.time then
        ∃ t, exec (.priorityAging launch index) s = .next t
          ∧ t.wispAt key = { v with eff := v.eff + 1, readyAt := v.readyAt + 10000000 } ∧ { t with wisps := s.wisps, sched := s.sched } = s
       else exec (.priorityAging launch index) s = .next s)
    ∧ (∀ w k, s.oldestReady die = some w → s.awaitsGroup w = true → s.bestCluster ((s.liveClusters die).filter (fun k =>
          (s.clusterCores k).length == (s.launchAt w.launch).group && !s.reservedCluster k
            -- a group that has run stays on its cluster (R45)
            && (match w.cluster with | some j => j == k | none => true))) = some k →
        ∃ t, exec (.clusterReservation die) s = .next t ∧ Store.get 0 (t.dieAt die).resv (k % 16) = w.group + 1
          ∧ Store.get 0 (t.dieAt die).resvLaunch (k % 16) = w.launch ∧ { t with dies := s.dies, sched := s.sched } = s)
    ∧ (∀ w, s.oldestReady die = some w → s.awaitsGroup w = false → exec (.clusterReservation die) s = .next s)
    ∧ (∀ l g, s.reservation cluster = some (l, g) → s.groupCanStart cluster = true →
        let ks := (s.groupReady (cluster / 16) l g).map Prod.fst
        let pairs := (s.idleIn cluster).zip ks
        ks.Nodup → (∀ p ∈ pairs, (s.wispAt p.2).started = false) → ∃ t, exec (.groupStart cluster) s = .next t
          ∧ Store.get 0 (t.dieAt (cluster / 16)).resv (cluster % 16) = 0
          ∧ ∀ p ∈ pairs, (t.coreAt p.1).wisp = some ((s.wispAt p.2).launch, (s.wispAt p.2).index) ∧ (t.coreAt p.1).stage = .run)
    ∧ (s.groupCanStart cluster = false → exec (.groupStart cluster) s = .next s)
    ∧ (s.suspended key = false → exec (.suspendWake launch index) s = .next s)
    ∧ (s.suspended key = true → v.loc.coreOf = none → ∃ t, exec (.suspendWake launch index) s = .next t
        ∧ (t.wispAt key).st = 0 ∧ (t.wispAt key).waitOn = .woken 0 0 none ∧ ∀ c, t.coreAt c = s.coreAt c)
    ∧ (∀ c, s.suspended key = true → v.loc = .core c → (s.coreAt c).stage = .wait → ∃ t, exec (.suspendWake launch index) s = .next t
        ∧ t.coreAt c = { s.coreAt c with stage := .run, waitOn := .woken 0 0 none } ∧ t.wisps = s.wisps)
    ∧ (v.aband = true → v.kept = false → ∃ t, exec (.resumeFromCarr launch index) s = .next t ∧ t.wispAt key = { v with kept := true })
    ∧ (v.aband = false → v.st = 1 → v.reason = 1 → s.suspended key = true →
        exec (.resumeFromCarr launch index) s = exec (.suspendWake launch index) s)
    ∧ (x.stage = .run → (s.gangCores core).length = s.gangSize core →
        (∀ c ∈ s.gangCores core, ∃ g w, (s.coreAt c).gang = some g ∧ g.issued = some w) →
        exec (.gangCollectivePairing core) s = .next { s with cur := core, evTurn := true })
    ∧ (∀ d t pend force, x.waitOn = .wfi d t pend force → x.stage = .wait → t ≠ 0 → t ≤ s.time →
        ∃ u, exec (.wfiTimeReached core) s = .next u ∧ (u.coreAt core).stage = .run ∧ (u.coreAt core).refill = false
          ∧ (u.coreAt core).waitOn = .woken (BitVec.ofNat 64 (1 + (if x.s.pend ≠ pend ∨ x.s.force ≠ force then 2 else 0)
            + (if x.kill.isSome then 4 else 0) + (if x.refill then 8 else 0))) d none
          ∧ ∀ c, c ≠ core → u.coreAt c = s.coreAt c)

/-! ## Lines and ranges -/

/-- R269 to R273, R286: the messages of line ownership, at the home and at the core. (That FWD and REVOKE leave a V line's dirty words
in the cluster cache is deduced, log 20; that owned words leave the core's own die and cluster caches, and that a FILL awaits the
revocations that its core has asked for, log 32; the poisoned answer over a link out of service is the model's choice, log 29.) -/
def Obligations.LineMessages : Prop :=
  ∀ (s : State) (core line : Nat) (words mask dirty : BitVec 16) (data : BitVec 512),
    let x := s.coreAt core
    let l := s.l1Line core line
    let r := s.regAt line
    let p := s.pendAt line core
    -- the words of the answer are at the home, but for those that a forwarded write wrote
    let merged (t : State) : Prop := ∀ i, i < 16 → t.homeRead (64 * line + 4 * i) 4 =
      if dirty.getLsbD i = true ∧ p.fwd.getLsbD i = false then lineBytes data (4 * i) 4 else s.homeRead (64 * line + 4 * i) 4
    let there := s.quietSpan (64 * line) 64 ∧ s.reqDown (dieOf core) (64 * line) = false ∧ ∀ k ∈ p.takes, k.core ≠ core
    -- a fill takes the words that the core's own die and cluster caches hold dirty, and the rest from the home
    ((s.dieLine (dieOf core) line).dirty = 0 → (s.cluLine (clusterOf core) line).dirty = 0 →
      (s.fillData core line).1 = BitVec.ofNat 512 (s.homeRead (64 * line) 64))
    ∧ (let free := ∀ e ∈ s.pending, e.1 / 16384 = line → ∀ k ∈ e.2.takes, k.core ≠ core
      (¬ free → ∃ t, exec (.fill core line) s = .next t ∧ t.sched = s.sched ∧ { t with pending := s.pending } = s)
      ∧ (free → s.reqDown (dieOf core) (64 * line) = true → ∃ t, exec (.fill core line) s = .next t
          ∧ t.sched = s.sched ++ [.data core line 0] ∧ Store.get 0 (t.coreAt core).fillPois line = BitVec.allOnes 16)
      ∧ (free → s.reqDown (dieOf core) (64 * line) = false → ∃ t, exec (.fill core line) s = .next t
        ∧ (∀ a, t.byteAt a = s.byteAt a) ∧ (t.regAt line).owners = r.owners
        ∧ Store.get 0 (t.coreAt core).fillPois line = (s.fillData core line).2
        ∧ (if r.words core = 0 then t.sched = s.sched ++ [.data core line (s.fillData core line).1]
           else t.sched = s.sched ++ [.grant core line (s.fillData core line).1 (r.words core)] ∧ core ∈ (t.regAt line).copies)))
    ∧ (s.reqDown (dieOf core) (64 * line) = true → ∃ t, exec (.ownreq core line words data dirty) s = .next t ∧ t.reg = s.reg
        ∧ ∀ a, t.byteAt a = s.byteAt a)
    ∧ (s.reqDown (dieOf core) (64 * line) = false → (∀ o ∈ r.ownersOf words, o = core ∨ o ∉ r.copies) → ∃ t, exec (.ownreq core line words data dirty) s = .next t
        ∧ (t.regAt line).words core = r.words core ||| words)
    ∧ (∀ o, s.reqDown (dieOf core) (64 * line) = false → o ∈ r.ownersOf words → o ≠ core → o ∈ r.copies →
        s.isPending line o = false → ∃ t m,
        exec (.ownreq core line words data dirty) s = .next t
        ∧ (∃ k ∈ (t.pendAt line o).takes, k.core = core ∧ k.words = r.words o &&& words)
        ∧ (.revoke o line m ∈ t.sched ∨ .fwd o line m ∈ t.sched))
    ∧ (∀ i ∈ ([(.grant core line data mask, .o), (.data core line data, .v)] : List (Instr × LineSt)),
        -- the answer that a forward overtook is dropped (R272)
        (line ∈ x.drop → ∃ t, exec i.1 s = .next t ∧ t.coreAt core = { x with drop := x.drop.erase line }
          ∧ (∀ c, c ≠ core → t.coreAt c = s.coreAt c) ∧ { t with cores := s.cores } = s)
        ∧ (line ∉ x.drop → l.st ≠ .io → exec i.1 s = .next s)
        ∧ (line ∉ x.drop → l.st = .io → x.leavingWords line = 0 → ∃ t, exec i.1 s = .next t ∧ OnlyCoreLine s t core line
            ∧ (let n := t.l1Line core line
               n.st = i.2 ∧ n.data = data ∧ n.valid = BitVec.allOnes 16 ∧ n.dirty = 0 ∧ n.rid = l.rid
               ∧ n.pois = Store.get 0 x.fillPois line)))
    -- a DISOWN that waits is applied when the answer arrives (R271)
    ∧ (line ∉ x.drop → l.st = .io → x.leavingWords line ≠ 0 → (s.requests core).length < 32 →
        (∃ t, exec (.grant core line data mask) s = .next t ∧ (t.l1Line core line).st = .ov
          ∧ .disownreq core line data 0 ∈ t.sched)
        ∧ ∃ t, exec (.data core line data) s = .next t ∧ (t.l1Line core line).st = .v
          ∧ (t.regAt line).words core = r.words core &&& ~~~ (x.leavingWords line))
    ∧ (∀ i ∈ ([.fwd core line words, .revoke core line words] : List Instr),
        let gone := s.setL1 core line {}
        (l.st = .o → exec i s = .next ((gone.updCore core (fun y => { y with
          sentPois := Store.set 0 y.sentPois line (l.dirty &&& l.pois) })).post (.yield core line l.data l.dirty)))
        ∧ (l.st = .io → exec i s = .next ((gone.updCore core (fun y => { y with drop := y.drop ++ [line] })).post (.yield core line 0 0)))
        ∧ (l.st = .oi → exec i s = .next s)
        ∧ (l.st = .ov → exec i s = .next (s.setL1 core line { l with st := .oi }))
        ∧ (l.st = .v → ∃ t, exec i s = .next t ∧ t.l1Line core line = (if l.valid = 0 then l else {})
            ∧ (l.valid ≠ 0 → r.owners = [] → ∀ w, w < 16 → l.dirty.getLsbD w = true →
              lineBytes (t.cluLine (clusterOf core) line).data (4 * w) 4 = lineBytes l.data (4 * w) 4
              ∧ (t.cluLine (clusterOf core) line).valid.getLsbD w = true)))
    ∧ (∃ t, exec (.yield core line data dirty) s = .next t
        ∧ (there → merged t ∧ core ∉ (t.regAt line).copies ∧ t.isPending line core = false
          ∧ (p.takes = [] → (t.regAt line).words core = 0)
          ∧ ∀ k, p.takes = [k] → (t.regAt line).words k.core = (r.words k.core ||| k.words) ∧ (t.regAt line).words core = 0))
    ∧ (∃ t, exec (.evict core line data dirty) s = .next t ∧ .ack core line ∈ t.sched
        ∧ (there → merged t ∧ core ∉ (t.regAt line).copies
          ∧ (s.isPending line core = false → (t.regAt line).words core = r.words core)))
    ∧ (∃ t, exec (.disownreq core line data dirty) s = .next t ∧ .ack core line ∈ t.sched
        ∧ (there → merged t ∧ core ∉ (t.regAt line).copies
          ∧ (s.isPending line core = false → (t.regAt line).words core = r.words core &&& x.ownRangeWords line)))
    -- a message over a link out of service does not arrive (R256)
    ∧ (s.reqDown (dieOf core) (64 * line) = true → p.takes = [] → ∃ t, exec (.yield core line data dirty) s = .next t
        ∧ ∀ a, t.byteAt a = s.byteAt a)
    ∧ (∃ t, exec (.ack core line) s = .next t ∧ OnlyCoreLine s t core line
        ∧ t.l1Line core line = match l.st with
          | .oi => {}
          | .ov => { l with st := .v }
          | _ => l)

/-- R86, R89, R92, R97: the walker fills a slot, and the Dredge's phases: it copies the range and its poison piece by piece (that a
piece is of 4 KiB and is admitted as one is the model's choice, log 46), switches the entry and everything that names a home, bumps
the generation, and releases. -/
def Obligations.WalksAndMoves : Prop :=
  ∀ (s : State) (core : Nat) (dva : BitVec 64) (m : Move) (rest : List Move),
    let x := s.coreAt core
    let w := s.walk (some core) x.rdirPa dva.toNat
    (∀ j e, canonical dva.toNat = true → x.findSlot dva.toNat = none → w = .found j e →
      let i := x.victimSlot
      ∃ t, exec (.rangeWalk core dva) s = .next t
        ∧ Store.get ({} : Slot) (t.coreAt core).slots i = { img := entStamp e x.s.asn.toNat x.s.asgen.toNat, dirIdx := some j }
        ∧ (∀ q, q ≠ i → Store.get ({} : Slot) (t.coreAt core).slots q = Store.get {} x.slots q)
        ∧ { t.coreAt core with slots := x.slots, age := x.age } = x ∧ ∀ c, c ≠ core → t.coreAt c = s.coreAt c)
    ∧ (canonical dva.toNat = false ∨ (x.findSlot dva.toNat).isSome = true ∨ (∀ j e, w ≠ .found j e) →
        exec (.rangeWalk core dva) s = .next s)
    ∧ (s.moves = [] → ∀ i ∈ ([.dredgeCopyPhase, .dredgeSwitchPhase, .dredgeBumpPhase, .dredgeReleasePhase] : List Instr), exec i s = .next s)
    ∧ (s.moves = m :: rest →
      -- while the directory is in edit, the phases that look at the entry wait (R89, R97)
      (s.moveEntry m = none →
        (m.phase = 1 → exec .dredgeCopyPhase s = .next (s.post .dredgeCopyPhase))
        ∧ (m.phase = 2 → exec .dredgeSwitchPhase s = .next (s.post .dredgeSwitchPhase))
        ∧ (m.phase = 4 → s.noticesDue m.part m.asn = false → exec .dredgeReleasePhase s = .next (s.post .dredgeReleasePhase)))
      ∧ (∀ r, s.moveEntry m = some r →
        -- the granules that the entry shows resident now
        let now : BitVec 64 := match r with | some (_, e) => BitVec.ofNat 64 (entRESID e) | none => m.resid
        (m.phase = 1 → m.len ≤ m.copied → ∃ t, exec .dredgeCopyPhase s = .next t ∧ t.moves = { m with phase := 2 } :: rest
          ∧ .dredgeSwitchPhase ∈ t.sched ∧ ∀ a, t.byteAt a = s.byteAt a)
        ∧ (m.phase = 1 → m.copied < m.len →
          let fin := min m.len (m.copied + 4096)
          let ask := s.admission leadIo leadUnit (piecesOf (fin - m.copied)) (s.pieceLinks m) .dredgeCopyPhase
          (ask.1 = false → exec .dredgeCopyPhase s = .next ask.2)
          ∧ (ask.1 = true → ∃ t, exec .dredgeCopyPhase s = .next t ∧ .dredgeCopyPhase ∈ t.sched
            ∧ t.moves = { m with copied := fin, resid := m.resid &&& now } :: rest
            ∧ (m.iov = 0 → m.len % 256 = 0 → m.copied % 256 = 0 → m.new % 256 = 0 → m.gran % 256 = 0 → 0 < m.gran →
                overlap m.old m.len m.new m.len = false → s.waiters = [] → rest = [] →
              (∀ i, m.copied ≤ i → i < fin → now.getLsbD (i / m.gran) = true → t.byteAt (m.new + i) = s.byteAt (m.old + i))
              ∧ ∀ a, a < m.new + m.copied ∨ m.new + fin ≤ a → t.byteAt a = s.byteAt a)))
        ∧ (m.phase = 2 → ∃ t, exec .dredgeSwitchPhase s = .next t ∧ .dredgeBumpPhase ∈ t.sched
          ∧ t.moves = { m with phase := 3, resid := now } :: rest
          -- the entry's OFFSET leads to the new place, and what the homes keep goes there with the lines
          ∧ (m.iov = 0 → s.waiters = [] → rest = [] → m.resid = now → overlap m.dir (64 + 64 * 65536) m.old m.len = false →
              m.new < 2 ^ 64 → (∀ j e, r = some (j, e) → entPA (t.dirEntry m.dir j) m.entry = m.new ∧ entMV (t.dirEntry m.dir j) = true)
              ∧ ∀ q ∈ s.tents, (if m.old ≤ q.pa ∧ q.pa < m.old + m.len then { q with pa := q.pa - m.old + m.new } else q) ∈ t.tents))
        ∧ (m.phase = 4 → s.noticesDue m.part m.asn = false →
            ∃ t, exec .dredgeReleasePhase s = .next t ∧ t.moves = rest ∧ (rest ≠ [] → .dredgeCopyPhase ∈ t.sched)))
      ∧ (m.phase = 3 → ∃ t, exec .dredgeBumpPhase s = .next t ∧ t.moves = { m with phase := 4 } :: rest ∧ .dredgeReleasePhase ∈ t.sched
        ∧ Store.get 0 t.gens (m.part * 65536 + m.asn) = Store.get 0 s.gens (m.part * 65536 + m.asn) + 1)
      ∧ (m.phase = 4 → s.noticesDue m.part m.asn = true → exec .dredgeReleasePhase s = .next (s.post .dredgeReleasePhase))
      ∧ (m.phase ≠ 1 → exec .dredgeCopyPhase s = .next s) ∧ (m.phase ≠ 2 → exec .dredgeSwitchPhase s = .next s)
      ∧ (m.phase ≠ 3 → exec .dredgeBumpPhase s = .next s) ∧ (m.phase ≠ 4 → exec .dredgeReleasePhase s = .next s))

/-! ## Clocks, links, signals to wisps -/

/-- R137, R251, R256, R258, R299, R300, R321, R324 to R326, R351: time requests and replies, dropped flits and links, join
deadlines, kills, postings of pre-emptions and the forced trap, and the end of a quantum. (The model's choices: TVAL 0 in the machine
check of an RDTIME whose reply is poisoned, log 29, and the unit and detail of a dropped flit, log 47; deduced: KGRACE counts from
the signal, log 34.) -/
def Obligations.SignalsAndClocks : Prop :=
  ∀ (s : State) (core launch index part unit x y dir site slot dl tm : Nat) (kind : PreemptKind),
    let z := s.coreAt core
    let key := wkey launch index
    let w := s.wispAt key
    let logged (t : State) (n dev p d : Nat) : Prop := ∃ e, t.log.getLast? = some e ∧ e.kind = n ∧ e.device = dev ∧ e.part = p
      ∧ e.detail = d ∧ e.time = s.time ∧ e.seq = s.logSeq
    -- a flit with another partition's number than its unit's is dropped and logged
    (let own := if unit < 160 then s.partOfDie unit else s.partOfSite (unit - 160)
     (own = some part → exec (.foreignFlitDrop part unit) s = .next s)
     ∧ (own ≠ some part → ∃ t, exec (.foreignFlitDrop part unit) s = .next t ∧ logged t 5 0 part unit
          ∧ { t with log := s.log, logSeq := s.logSeq } = s))
    ∧ (let down := dir < 4 ∧ s.linkLive (x, y) / 2 ^ dir % 2 = 1 ∧ s.linkDown (x, y, dir) = false
       (¬ down → exec (.linkOutOfService x y dir) s = .next s)
       ∧ (down → ∃ t, exec (.linkOutOfService x y dir) s = .next t ∧ t.linksDown = s.linksDown ++ [(x, y, dir)]
        ∧ { t with log := s.log, logSeq := s.logSeq, linksDown := s.linksDown } = s
        ∧ logged t 3 0 ((s.partOfXY (x, y)).getD 63) (x + y * 16 + dir * 512)))
    ∧ exec (.timeRequest core) s = .next { s with sched := s.sched ++ [.timeReply core s.time] }
    -- the reply's TIME and half the round trip on the die's clock, within 4 ns of TIME, and never below the last (R258)
    ∧ (z.waitOn = .time none → s.timeDown core = false → ∃ t v, exec (.timeReply core tm) s = .next t
        ∧ t.coreAt core = { z with waitOn := .time (some v), lastTime := v } ∧ (∀ c, c ≠ core → t.coreAt c = s.coreAt c)
        ∧ (let d := dieOf core
           let u := tm + (s.cycleOf d s.nowPs - z.timeC0) * 50000 / s.dieFreq d
           (s.time - 4 ≤ u → u ≤ s.time + 4 → v = max z.lastTime u))
        ∧ z.lastTime ≤ v ∧ s.time - 4 ≤ v ∧ v ≤ max z.lastTime (s.time + 4))
    ∧ (z.waitOn = .time none → s.timeDown core = true → ∃ t, exec (.timeReply core tm) s = .next t
        ∧ t.coreAt core = { z with waitOn := .none, lost := some 0 } ∧ (∀ c, c ≠ core → t.coreAt c = s.coreAt c))
    ∧ (slot < 1024 →
        let k := site * 1024 + slot
        let j := s.joinAt k
        (j.settling = none → (j.st ≠ .opened ∨ j.deadline = 0 ∨ s.time < j.deadline) → exec (.joinDeadline site slot) s = .next s)
        -- a substitute vector whose directory is in edit is waited for (R89, R301)
        ∧ (j.settling = none → j.st = .opened → j.deadline ≠ 0 → j.deadline ≤ s.time → s.subBusy j = true →
            j.qmin ≤ ((List.range 64).filter (fun i => j.arrived.getLsbD i)).length →
            ∃ t, exec (.joinDeadline site slot) s = .next t ∧ t.joinAt k = { j with settling := some (true, true) })
        ∧ (j.settling = none → j.st = .opened → j.deadline ≠ 0 → j.deadline ≤ s.time → s.subBusy j = false → ∃ t, exec (.joinDeadline site slot) s = .next t
          ∧ (let u := t.joinAt k
             u.st = (if j.qmin ≤ ((List.range 64).filter (fun i => j.arrived.getLsbD i)).length then .released else .failed)
             ∧ u.dline = true
             ∧ ∀ c, c < j.n → c < 64 → j.arrived.getLsbD c = false → j.left.getLsbD c = false → u.killed.getLsbD c = true)))
    -- kills
    ∧ (∀ c, w.loc = .core c → (s.coreAt c).stage = .run → (s.coreAt c).kill = none → ∃ t, exec (.killSignal launch index) s = .next t
        ∧ t.coreAt c = { s.coreAt c with kill := some (s.time + 1000 * (s.coreAt c).u.kgrace.toNat, 2) } ∧ t.wisps = s.wisps)
    ∧ (∀ d, w.loc = .pool d → w.launch = launch → w.index = index → s.waiters = [] → ∃ t, exec (.killSignal launch index) s = .next t
        ∧ (t.wispAt key).loc = .ended ∧ (t.wispAt key).st = 3 ∧ (t.wispAt key).reason = 9 ∧ (t.wispAt key).endCode = 2
        ∧ .wispEndCount launch index ∈ t.sched)
    ∧ (w.loc = .ended → exec (.killSignal launch index) s = .next s)
    ∧ (z.kill = none → exec (.kgraceExpiry core) s = .next s)
    -- an RDTIME, a GENBUMP or an access that has been issued completes first (R137)
    ∧ (∀ q, z.kill = some q → (s.time < q.1 ∨ z.bump.isSome = true ∨ z.hold = .firm ∨ (∃ v, z.waitOn = .time v)
        ∨ z.stage = .held) → exec (.kgraceExpiry core) s = .next s)
    ∧ (∀ t0 code l i, z.kill = some (t0, code) → t0 ≤ s.time → z.bump = none → z.hold ≠ .firm → z.waitOn = .none → z.stage = .run →
        z.wisp = some (l, i) → (s.wispAt (wkey l i)).launch = l → (s.wispAt (wkey l i)).index = i → s.waiters = [] →
        ∃ t, exec (.kgraceExpiry core) s = .next t
          ∧ (if s.seat core = none ∧ (s.wispAt (wkey l i)).pinned = false then
              -- with no pool entry and no overflow slot it is held, and killed once there is one (R35, R36)
              (t.coreAt core).wisp = some (l, i) ∧ (t.coreAt core).stage = .held ∧ (t.coreAt core).kill = some (s.time, code)
             else (t.coreAt core).wisp = none ∧ (t.coreAt core).stage = .idle
              ∧ (t.wispAt (wkey l i)).loc = .ended ∧ (t.wispAt (wkey l i)).st = 3 ∧ (t.wispAt (wkey l i)).endCode = code))
    -- postings
    ∧ (z.wisp = none → exec (.preemptPosting core kind dl) s = .next s)
    ∧ (z.wisp ≠ none → (s.launchAt (s.wispAt (s.wispKey core)).launch).pmode ≠ 3 → ∃ t, exec (.preemptPosting core kind dl) s = .next t
        ∧ (let by_ := if z.s.pend = true then min z.s.deadline.toNat dl else dl
           let u := t.coreAt core
           u.s = { z.s with pend := true, deadline := BitVec.ofNat 64 by_
                            force := z.s.force || (s.wispAt (s.wispKey core)).pinned || decide (by_ < s.time + 40000) }
           ∧ u.preKind = (if kind = .eviction then some .eviction else some (z.preKind.getD kind)) ∧ u.g = z.g ∧ u.pc = z.pc)
        ∧ ∀ c, c ≠ core → t.coreAt c = s.coreAt c)
    -- a CLUSTER group receives it as a whole, at one DEADLINE (R329)
    ∧ (z.wisp ≠ none → ∃ t, exec (.preemptPosting core kind dl) s = .next t
        ∧ ∀ c ∈ s.groupCores core, (s.coreAt c).wisp ≠ none → (s.coreAt c).s.pend = false →
          (t.coreAt c).s.pend = true ∧ (t.coreAt c).s.deadline = BitVec.ofNat 64 dl)
    ∧ (if z.wisp ≠ none ∧ z.s.pend = true ∧ z.s.force = false ∧ z.s.deadline.toNat ≤ s.time + 40000 then
        ∃ t, exec (.forceSet core) s = .next t ∧ (t.coreAt core).s = { z.s with force := true } ∧ (t.coreAt core).pc = z.pc
       else exec (.forceSet core) s = .next s)
    ∧ (z.forced = false → exec (.forcedPreemptionTrap core) s = .next s)
    ∧ (z.forced = true → z.wisp ≠ none → z.stage = .run ∨ z.stage = .wait → (z.waitOn = .none ∨ ∃ n, z.waitOn = .suspend n) →
        ∃ t, exec (.forcedPreemptionTrap core) s = .next t
          ∧ (let u := t.coreAt core
             u.pc = z.s.tvec ∧ u.sup = true ∧ u.s.inh = true ∧ u.s.tcause = 0x0D
             ∧ u.s.tval = (if z.preKind = some .eviction then 2 else 1) ∧ u.s.tepc = (if z.hold = .yielding then z.pc + 4 else z.pc) &&& ~~~ 3 ∧ u.s.ppriv = z.sup ∧ u.stage = .run)
          ∧ (∀ n, z.waitOn = .suspend n → (t.wispAt (s.wispKey core)).aband = true))
    -- quanta
    ∧ (∀ f, s.idleDeficits part = s → s.turnOf part = f + 1 →
        (0 < (s.vdevAt f).deficit → exec (.quantumEnd part) s = .next s)
        ∧ ((s.vdevAt f).deficit ≤ 0 → s.othersWork part f = true → ∃ t, exec (.quantumEnd part) s = .next t
            ∧ ∀ c, (s.coreAt c).wisp ≠ none → s.vdevOn c = f → (t.coreAt c).s.pend = true)
        ∧ ((s.vdevAt f).deficit ≤ 0 → s.othersWork part f = false → (s.hasWork f = true ∨ s.onAnyCore f = true) →
            ∃ t, exec (.quantumEnd part) s = .next t ∧ { t with vdevs := s.vdevs } = s
              ∧ (t.vdevAt f).deficit = (s.vdevAt f).deficit + (s.vdevAt f).share * (240000 * (s.lc part : Int))))

/-! ## Ends, errors, resets -/

/-- R197, R331, R333 to R337, R362 to R365: ends of wisps and of launches are counted and recorded, decisions of a deadline, the
checkpoint engine, soft errors and their repair. (The model's choices: the checkpoint engine's grain, its discard of an image that is
too long, and which granules it saves, log 26; the operand forms of an error, log 30.) -/
def Obligations.EndsCheckpointsAndErrors : Prop :=
  ∀ (s : State) (id index target pa : Nat) (isPart cor : Bool),
    let l := s.launchAt id
    let k := wkey id index
    let w := s.wispAt k
    let logged (t : State) (n d : Nat) : Prop := ∃ e, t.log.getLast? = some e ∧ e.kind = n ∧ e.detail = d
    (w.loc ≠ .ended ∨ w.endCode = 0 ∨ w.counted = true → exec (.wispEndCount id index) s = .next s)
    ∧ (w.loc = .ended → w.endCode ≠ 0 → w.counted = false → w.compDone = true → ∃ t, exec (.wispEndCount id index) s = .next t
        ∧ t.wispAt k = { w with counted := true }
        ∧ t.launchAt id = { l with
            nret := if w.endCode = 1 then l.nret + 1 else l.nret, nkill := if w.endCode = 1 then l.nkill else l.nkill + 1
            status := max l.status (endStatus w.endCode l.rclass), cycles := l.cycles + w.cycles }
        ∧ (t.launchOver id = true → .launchCompletion id ∈ t.sched))
    ∧ (s.launchOver id = false → exec (.launchCompletion id) s = .next s)
    ∧ (s.launchOver id = true → s.resets = [] → s.deadlines = [] → s.layout = none → ∃ t, exec (.launchCompletion id) s = .next t
        ∧ (∀ e ∈ t.launches, e.1 ≠ id) ∧ (∀ e ∈ t.wisps, e.2.launch ≠ id)
        ∧ (∀ q, l.queue = some q → (t.queueAt l.vdev q).qdone = ((s.queueAt l.vdev q).qdone + 1) % 2 ^ 32
            ∧ ((s.queueAt l.vdev q).qien = true → .msix l.vdev (1 + q) ∈ t.out))
        ∧ (l.parent ≠ 0 → l.parent ≠ id → s.launches.any (fun e => e.1 == l.parent) = true →
            (t.launchAt l.parent).nchild = (s.launchAt l.parent).nchild + 1)
        -- also of a parent that is saved
        ∧ (l.parent ≠ 0 → s.launches.any (fun e => e.1 == l.parent) = false → ∀ i ∈ s.images, i.id = l.parent →
            { i with launch := { i.launch with nchild := i.launch.nchild + 1 } } ∈ t.images)
        ∧ (let a := s.pkg * 2 ^ 44 + l.compl % 2 ^ 44
           l.compl ≠ 0 → s.quietSpan a 64 → s.linksDown = [] → t.homeRead a 4 = l.status % 2 ^ 32 ∧ t.homeRead (a + 4) 4 = id % 2 ^ 32
            ∧ t.homeRead (a + 8) 4 = l.nret % 2 ^ 32 ∧ t.homeRead (a + 0x38) 8 = 1))
    ∧ (∀ d, s.deadlineAt isPart target = some d →
        (s.time + 250000 < d.t → exec (.deadlineRecheck isPart target) s = .next s)
        ∧ (d.t ≤ s.time + 250000 → ∃ t, exec (.deadlineRecheck isPart target) s = .next t
            ∧ ∀ e ∈ s.undecided d .run, (t.launchAt e).decision ≠ .run))
    ∧ (l.decision ≠ .checkpoint ∨ s.time < l.vacateBy ∨ s.onCores id = [] → exec (.checkpointVacateTimeout id) s = .next s)
    ∧ (l.decision = .checkpoint → l.vacateBy ≤ s.time → s.onCores id ≠ [] → ∃ t, exec (.checkpointVacateTimeout id) s = .next t
        ∧ (t.launchAt id).decision = .discard ∧ (t.launchAt id).next = max l.next l.count ∧ (t.launchAt id).resv = 0)
    ∧ (l.decision ≠ .checkpoint ∨ s.onCores id ≠ [] ∨ l.nret + l.nkill = l.count → exec (.checkpointEngineCopy id) s = .next s)
    ∧ (l.decision = .checkpoint → s.onCores id = [] → l.nret + l.nkill ≠ l.count →
        let v := s.vdevAt l.vdev
        let gs := s.dirtyGranules l.vdev
        let ws := (s.wisps.filter (fun e => e.2.launch == id)).map Prod.snd
        let off := (s.images.filter (fun i => i.safe == v.safe && i.host == v.safeKind)).foldl (fun m i => max m (i.offset + i.length)) 0
        let len (pages : Nat) : Nat := 64 * ws.length + 4096 * pages + 128
        -- the granules are harvested, where the tier has room for the image
        (l.saving = none → ∃ t, exec (.checkpointEngineCopy id) s = .next t
          ∧ (if v.safeLen < off + len gs.length then (t.launchAt id).decision = .discard
             else t.launchAt id = { l with saving := some gs } ∧ (∀ a, t.byteAt a = s.byteAt a)
              ∧ ∀ g ∈ gs, Store.get false t.dirtyMap g = false))
        -- each is copied once its piece is admitted
        ∧ (∀ g l', l.saving = some (g :: l') →
          let at_ := s.pkg * 2 ^ 44 + g * 4096
          let ask := s.admission leadIo leadUnit [64] (s.routeLinks (s.homeNode at_) (.io 0)) (.checkpointEngineCopy id)
          (ask.1 = false → exec (.checkpointEngineCopy id) s = .next ask.2)
          ∧ (ask.1 = true → ∃ t b, exec (.checkpointEngineCopy id) s = .next t ∧ (t.launchAt id).saving = some l'
            ∧ (t.launchAt id).saved = l.saved ++ [(g, b)] ∧ b.length = 4096 ∧ ∀ j, j < 4096 → b.getD j 0 = s.byteAt (at_ + j)))
        -- with the last, the image is there and the launch is off the device
        ∧ (l.saving = some [] → ∃ t, exec (.checkpointEngineCopy id) s = .next t
          ∧ (∃ i ∈ t.images, i.id = id ∧ i.launch = { l with saving := none, saved := [], savedPois := [] } ∧ i.wisps = ws
              ∧ i.offset = off ∧ i.length = len l.saved.length ∧ i.pages = l.saved ∧ i.pois = l.savedPois)
          ∧ (∀ e ∈ t.launches, e.1 ≠ id) ∧ ∀ e ∈ t.wisps, e.2.launch ≠ id))
    ∧ (∃ t, exec (.eccError pa cor) s = .next t ∧ logged t (if cor then 1 else 2) pa
        ∧ (cor = true ∨ 2 ^ 60 ≤ pa → t.pois = s.pois)
        ∧ (cor = false → pa < 2 ^ 60 → (∀ q, Store.get false t.pois q = (decide (q = pa / 4) || Store.get false s.pois q)) ∧ t.cores = s.cores)
        ∧ (cor = false → 2 ^ 60 ≤ pa → pa < 2 ^ 61 →
            Store.get false (t.coreAt ((pa - 2 ^ 60) / 2 ^ 32)).typed.pois (pa % 2 ^ 32) = true)
        ∧ (cor = false → 2 ^ 61 ≤ pa → pa < 2 ^ 80 →
            let k := (pa - 2 ^ 61) / 2 ^ 16
            let y := t.clusterAt (k / 2)
            Store.get false (if k % 2 = 1 then y.bank1 else y.bank0).pois (pa % 2 ^ 16) = true)
        -- a word that a cache holds
        ∧ (cor = false → 2 ^ 80 ≤ pa → ∀ i, i < 16 →
            let u := pa / 2 ^ 56 % 2 ^ 24
            let a := pa % 2 ^ 56
            a % 64 = 4 * i → (pa / 2 ^ 80 = 1 → (s.l1Line u (a / 64)).valid.getLsbD i = true →
                (t.l1Line u (a / 64)).pois.getLsbD i = true)
              ∧ (pa / 2 ^ 80 = 2 → (s.cluLine u (a / 64)).valid.getLsbD i = true → (t.cluLine u (a / 64)).pois.getLsbD i = true)
              ∧ (pa / 2 ^ 80 = 3 → (s.dieLine u (a / 64)).valid.getLsbD i = true → (t.dieLine u (a / 64)).pois.getLsbD i = true))
        ∧ ∀ q, t.byteAt q = s.byteAt q)
    ∧ exec .scrub s = .next s
    ∧ (s.backingOf (64 * (pa / 64)) = none → exec (.backingRewrite pa) s = .next s)
    ∧ (∀ b, s.backingOf (64 * (pa / 64)) = some b → s.homePois b 64 = false → s.quietSpan (64 * (pa / 64)) 64 →
        ∃ t, exec (.backingRewrite pa) s = .next t
          ∧ (∀ q, t.byteAt q = if 64 * (pa / 64) ≤ q ∧ q < 64 * (pa / 64) + 64 then s.byteAt (b + (q - 64 * (pa / 64))) else s.byteAt q)
          ∧ t.homePois (64 * (pa / 64)) 64 = false
          ∧ ∀ c, pa / 64 ∈ (s.coreAt c).mc → (s.coreAt c).stage = .run → (t.coreAt c).refill = true ∧ pa / 64 ∉ (t.coreAt c).mc)

/-- R352, R374, R380, R381, R384, R385: boots, standby, function-level resets, escalation, and the clock of a die. A boot leaves
memory 0, nothing that runs, one partition over the whole grid and no device, whatever stood before; units that were not
live stay so. (The model's choices: the log entries of resets, and what standby and a boot keep in the schedule, log 35; a boot is
one step, log 27.) -/
def Obligations.BootsAndResets : Prop :=
  ∀ (s : State) (fn rung target queue die : Nat),
    (∃ t, exec .coldBoot s = .next t ∧ t.on = true ∧ t.time = 0 ∧ t.pkg = s.pkg
      ∧ (∀ a, t.byteAt a = if paPkg a = s.pkg then 0 else s.byteAt a)
      ∧ t.cores = [] ∧ t.clusters = [] ∧ t.dies = [] ∧ t.joins = [] ∧ t.gens = [] ∧ t.launches = [] ∧ t.wisps = [] ∧ t.vdevs = []
      ∧ t.binds = [] ∧ t.queues = [] ∧ t.mbox = [] ∧ t.deadlines = [] ∧ t.tdisp = [] ∧ t.ide = [] ∧ t.waiters = [] ∧ t.tents = []
      ∧ t.reg = [] ∧ t.dirtyMap = [] ∧ t.linksDown = [] ∧ t.moves = []
      ∧ t.parts = [(0, some { x0 := 0, y0 := 0, w := 16, h := t.rows })]
      ∧ t.fuse.grade = s.fuse.grade ∧ (∀ d i, (Store.get 0 s.fuse.dead d).getLsbD i = true → (Store.get 0 t.fuse.dead d).getLsbD i = true)
      ∧ s.fw.floor ≤ t.fw.floor ∧ (t.fw.loaded ≠ none → s.fw.floor ≤ t.fw.version)
      ∧ t.fw.slotA = s.fw.slotA ∧ t.fw.slotB = s.fw.slotB
      ∧ (exec (.overtempShutdown die) s = .next (t.logAdd 7 0 0 (4 + 256 * die))))
    ∧ (∃ t, exec .powerDown s = .next t ∧ t.on = false ∧ { t with on := s.on, sched := s.sched } = s ∧ ∀ e ∈ t.sched, e = .coldBoot)
    ∧ (2 ≤ fn → (s.vdevAt fn).live = false → exec (.functionLevelReset fn) s = .next s)
    ∧ (2 ≤ fn → (s.vdevAt fn).live = true → ∃ t, exec (.functionLevelReset fn) s = .next t
        ∧ ∀ q, q < 16 → (t.queueAt fn q).qen = false ∧ (t.queueAt fn q).qhead = (t.queueAt fn q).qtail)
    ∧ (fn < 2 → (∀ f, (s.vdevAt f).live = false) → exec (.functionLevelReset fn) s = .next s)
    ∧ ((∀ r ∈ s.resets, r.rung ≠ rung ∨ r.target ≠ target ∨ r.queue ≠ queue) → exec (.resetEscalation rung target queue) s = .next s)
    ∧ (∀ r, s.resets = [r] → r.rung = rung → r.target = target → r.queue = queue →
        let limit := [1000000, 10000000, 50000000, 200000000].getD rung 0
        (s.time < r.since + limit → exec (.resetEscalation rung target queue) s = .next s)
        ∧ (r.since + limit ≤ s.time → rung < 3 → ∃ t, exec (.resetEscalation rung target queue) s = .next t
          ∧ (t.resets = [] ∨ ∃ n, t.resets = [n] ∧ n.rung = rung + 1 ∧ n.since = s.time ∧ n.t0 = r.t0))
        ∧ (r.since + limit ≤ s.time → rung = 3 → ∃ u, exec .coldBoot s = .next u
          ∧ exec (.resetEscalation rung target queue) s = .next (u.logAdd 7 0 0 4)))
    -- CYCLE goes on from its value at every change of the clock (R259, R380)
    ∧ (let k := (s.dieAt die).clockStep
       let steps (n : Nat) (r : Res) : Prop := ∃ t, r = .next t ∧ (t.dieAt die).clockStep = n
         ∧ t.cycleOf die t.nowPs = s.cycleOf die s.nowPs ∧ { t with dies := s.dies, sched := s.sched, cores := s.cores } = s
         ∧ (∀ c, { t.coreAt c with timeC0 := (s.coreAt c).timeC0 } = s.coreAt c)
         ∧ (n ≠ k → ∀ c, dieOf c = die → (∃ e ∈ s.cores, e.1 = c) → (s.coreAt c).waitOn = .time none → .timeRequest c ∈ t.sched)
       steps (if k < 10 then k + 1 else k) (exec (.thermalThrottle die) s)
       ∧ steps (if 0 < k ∧ (s.dieAt die).hotAt + 1000000 ≤ s.time then k - 1 else k) (exec (.clockRestore die) s))

/-! ## The whole machine -/

/-- R60, R64, R77 and the tables of words: words written from the encodings of the spec decode to their instructions, one
or more of each family; a reserved major and an unassigned function code do not decode. -/
def Obligations.DecodeWords : Prop :=
  (∀ p ∈ ([(0x28820005, .slli 4 2 5), (0x04812000, .add 4 1 4), (0x10A00004, .addi 5 0 4), (0x7CC40000, .ld 6 4 0),
      (0x8CC40000, .sd 6 4 0), (0x10A5FFFF, .addi 5 5 0xFFFF), (0x44A0FFFB, .bne 5 0 0xFFFB), (0x94070401, .rel 7 2),
      (0x98000001, .retire), (0x08853002, .mulhu 4 5 6), (0x0CA6F070, .bfx 5 6 60 7), (0x601E0000, .jr 30),
      (0x63C50001, .jalr 30 5), (0x9C808010, .crd 4 0x801), (0xA0A40A00, .setvl 5 4 0x0A false), (0x98A0000C, .gang 5),
      (0xA8611000, .vaddVv 3 1 2 0 false false), (0xB0811220, .vfaddVv 4 1 2 4 false true), (0xB8442817, .vcmpfltVs 2 4 5 0 false),
      (0xBCC20007, .kpopvl 6 2 false), (0xCC45FD02, .viota 2 2 0x1FD 2), (0xD0880140, .vld 4 8 2 true),
      (0xE0003002, .mloadb 0 6 0), (0xE4853001, .cpy 4 5 6 0), (0xE9040000, .sbind 8 4), (0xF8042801, .rtwr 4 5),
      (0xF8E62808, .ctxsv 7 6 5)] : List (Nat × Instr)), decode (BitVec.ofNat 32 p.1) = .ok p.2)
  ∧ decode 0 = .error .reservedMajor ∧ decode 0x0400003F = .error .unassigned

/-- R60, R63, R65: encoding and decoding agree, for every well-formed instruction that has a word, with every operand at every
value; and a word that decodes is the encoding of the one instruction it decodes to, so no bit of it is without meaning. -/
def Obligations.DecodeAndEncodeAgree : Prop :=
  (∀ i : Instr, i.hasWord = true → i.wf = true → decode (encode i) = .ok i)
  ∧ ∀ (w : BitVec 32) (i : Instr), decode w = .ok i → i.hasWord = true ∧ i.wf = true ∧ encode i = w

/-- R53, R65, R338, R374, R381: what a step runs. A core whose turn it is fetches at its PC, and executes the instruction that the
word decodes to; a word that does not decode, and a fetch that fails, trap; a wait that has ended completes, and a forced
pre-emption is taken before an instruction. A step of the schedule runs the constructor of Instr that it names. A part without
power takes no step but a cold boot. (The model's choices: the order of cores and schedule, log 1; the fetch at the step that executes,
and that an instruction which waits is not fetched again, log 7; withFetchWord, log 2; the TVAL of a lost write-back, log 29.) -/
def Obligations.StepRuns : Prop :=
  ∀ (s : State),
    let c := s.cur
    let x := s.me
    let after (t : State) : Res := .next t.tick.rotate
    let u0 := s.updCore c (fun y => { y with hold := .free })
    (s.on = true → (s.evTurn = false ∨ s.nextEvent = none) → x.stage = .run →
      (∀ v d acq, s.waitResult x.waitOn = some (v, d, acq) →
        step s = after (if s.awaitsAnswer c = true then s else (s.endWait v d acq).stepHalt c x))
      ∧ (s.waitResult x.waitOn = none →
        (x.forced = true → step s = after (s.preemptTrap c))
        -- a write-back that was answered with poison (R256, R336)
        ∧ (x.forced = false → ∀ a, x.lost = some a → step s = after
            ((s.updCore c (fun y => { y with lost := none })).takeTrap c { cause := 0x0E, tval := BitVec.ofNat 64 a }))
        ∧ (x.forced = false → x.lost = none →
          -- an instruction that waits is tried again; else the word at the PC is fetched
          let f := s.issue c
          (x.hold ≠ .free → f = .ok x.ir.toNat u0)
          ∧ (x.hold = .free → (∀ u, u0.fetch c = .wait u → step s = after u)
            ∧ (∀ tr u, u0.fetch c = .trap tr u → step s = after (u.takeTrap c tr))
            ∧ ∀ w u, u0.fetch c = .ok w u → f = .ok w (u.updCore c (fun y => { y with ir := BitVec.ofNat 32 w })))
          ∧ (∀ w u, f = .ok w u → ∀ e, decode (BitVec.ofNat 32 w) = .error e →
              step s = after (u.takeTrap c (decodeTrap (BitVec.ofNat 32 w) x.sup)))
          ∧ (∀ w u i, f = .ok w u → decode (BitVec.ofNat 32 w) = .ok i → ∀ t, exec i u = .next t →
              step s = after (t.stepHalt c x)))))
    ∧ (∀ e l, s.on = true → (s.evTurn = true ∨ s.quiet = true) → s.nextEvent = some (e, l) →
        ∀ t, exec e.toInstr { s with sched := l, evCount := s.evCount + 1 } = .next t → step s = after t)
    ∧ (∀ e l, s.sched = e :: l → (s.dueTimer = none ∨ s.evCount % 2 = 0) → s.nextEvent = some (e, l))
    ∧ (∀ e, s.dueTimer = some e → (s.sched = [] ∨ s.evCount % 2 = 1) → s.nextEvent = some (e, s.sched))
    ∧ (s.dueTimer = none ↔ s.dueTimers = []) ∧ (∀ e, s.dueTimer = some e → e ∈ s.dueTimers)
    ∧ (∀ l, s.on = false → s.sched = .coldBoot :: l → step s = exec .coldBoot { s with sched := l })
    ∧ (s.on = false → s.sched.head? ≠ some .coldBoot → step s = .fault .powerOff)
    ∧ (∀ w, (s.withFetchWord 32 w).on = true ∧ (s.withFetchWord 32 w).evTurn = false
        ∧ (s.withFetchWord 32 w).me.stage = .run ∧ (s.withFetchWord 32 w).pc = s.pc)

/-- The running turn is never lost: after every step, whatever state it began in, the core whose turn it is issues
instructions, or no core does. (The order of the turns is the model's choice, log 1.) -/
def Obligations.EveryStepKeepsTheTurn : Prop :=
  ∀ s t : State, step s = .next t → t.turnOk = true

/-- Every step keeps memory in its canonical form: addresses strictly rising, and no byte listed that reads 0. -/
def Obligations.EveryStepKeepsMemoryCanonical : Prop :=
  ∀ s t : State, Memory.wf s.mem = true → step s = .next t → Memory.wf t.mem = true

/-- R69, R99, R196, R254, R257, R295, R374, R385: what reset leaves, where the spec says it. Memory and the typed buffers are zero, the
banks invalid, the caches empty, every core idle with no wisp; one partition over the whole grid, whose entries are those
of the live sites; TIME 0, every credit at home, no device, no launch, no join; and it meets the two invariants. (The model's
choices: g registers 0, privilege U and join generation 1, log 5; every unit live and dies at 2,400 MHz, log 4.) -/
def Obligations.ResetState : Prop :=
  let s := State.reset
  (∀ a, s.byteAt a = 0) ∧ (∀ a, s.homePois a 4 = false) ∧ s.time = 0 ∧ s.on = true
  ∧ (∀ c, (s.coreAt c).wisp = none ∧ (s.coreAt c).stage = .idle ∧ (s.coreAt c).sup = false ∧ (s.coreAt c).l1 = []
      ∧ (s.coreAt c).typed = {} ∧ (s.coreAt c).s.inh = false ∧ (s.coreAt c).u.kgrace = 100 ∧ (s.coreAt c).e.mq = [] ∧ (s.coreAt c).e.cq = []
      ∧ ∀ r, (s.coreAt c).gRead r = 0)
  ∧ (∀ k, (s.clusterAt k).cache = [] ∧ (s.clusterAt k).bank0.valid = false ∧ (s.clusterAt k).bank1.valid = false)
  ∧ (∀ d, (s.dieAt d).cache = [] ∧ (s.dieAt d).waiting = [] ∧ (s.dieAt d).flying = [] ∧ s.reportOf d = ⟨(s.liveCores d).length, 4096, 0⟩)
  ∧ (∀ f, (s.vdevAt f).live = false) ∧ (∀ k, (s.joinAt k).st = .free ∧ (s.joinAt k).gen = 1) ∧ s.launches = [] ∧ s.wisps = []
  ∧ s.partAt 0 = some { x0 := 0, y0 := 0, w := 16, h := 20 } ∧ (∀ p, p ≠ 0 → s.partAt p = none)
  ∧ (∀ e o, e < 36 * 160 → o < 2 ^ 30 → s.backing (e * 2 ^ 30 + o) = some 0)
  ∧ (∀ d, d < 160 → s.partOfDie d = some 0 ∧ (s.liveCores d).length = 64)
  ∧ s.turnOk = true ∧ Memory.wf s.mem = true
end

