-- ==== Sys2Proof/Laws/Store.lean ====
section
/-! SUPPORT. Laws of the sparse store: read after write at the same key and at another, and the canonical form. -/

namespace Sys2Proof.Machine

variable {α : Type} [DecidableEq α]

omit [DecidableEq α] in
theorem Store.get_filter_ne (d : α) (m : Store α) (k : Nat) :
    Store.get d (m.filter (fun e => !(e.1 == k))) k = d := by
  induction m with
  | nil => rfl
  | cons e m ih =>
    by_cases h : e.1 = k
    · simpa [h] using ih
    · simp [h, Store.get, Ne.symm h, ih]

omit [DecidableEq α] in
theorem Store.get_filter_other (d : α) (m : Store α) {k j : Nat} (hj : j ≠ k) :
    Store.get d (m.filter (fun e => !(e.1 == k))) j = Store.get d m j := by
  induction m with
  | nil => rfl
  | cons e m ih =>
    by_cases h : e.1 = k
    · have : j ≠ e.1 := by rw [h]; exact hj
      simp [h, Store.get, hj, ih]
    · by_cases hje : j = e.1 <;> simp [h, Store.get, hje, ih]

omit [DecidableEq α] in
theorem Store.get_put (d v : α) (m : Store α) (k j : Nat) :
    Store.get d (Store.put m k v) j = if j = k then v else Store.get d m j := by
  induction m with
  | nil => simp [Store.put, Store.get]
  | cons e m ih =>
    obtain ⟨k', v'⟩ := e
    simp only [Store.put]
    split
    · simp [Store.get]
    · split
      · subst k'; by_cases h : j = k <;> simp [Store.get, h]
      · by_cases h : j = k' <;> by_cases h2 : j = k <;> simp_all [Store.get]

/-- Read after write. -/
theorem Store.get_set (d v : α) (m : Store α) (k j : Nat) :
    Store.get d (Store.set d m k v) j = if j = k then v else Store.get d m j := by
  unfold Store.set
  split
  · rename_i h
    by_cases hj : j = k
    · subst hj; simp [Store.get_filter_ne, h]
    · simp [hj, Store.get_filter_other d m hj]
  · exact Store.get_put d v m k j

@[simp] theorem Store.get_set_same (d v : α) (m : Store α) (k : Nat) : Store.get d (Store.set d m k v) k = v := by
  simp [Store.get_set]

theorem Store.get_set_other (d v : α) (m : Store α) {k j : Nat} (h : j ≠ k) :
    Store.get d (Store.set d m k v) j = Store.get d m j := by simp [Store.get_set, h]

theorem Store.get_upd (d : α) (m : Store α) (k j : Nat) (f : α → α) :
    Store.get d (Store.upd d m k f) j = if j = k then f (Store.get d m k) else Store.get d m j := by
  simp [Store.upd, Store.get_set]

theorem Store.wfFrom_mono (d : α) {lo lo' : Nat} (m : Store α) (h : Store.wfFrom d lo m) (hl : lo' ≤ lo) :
    Store.wfFrom d lo' m := by
  cases m with
  | nil => rfl
  | cons e m => simp [Store.wfFrom] at h ⊢; exact ⟨⟨by omega, h.1.2⟩, h.2⟩

theorem Store.wfFrom_put (d v : α) (hv : v ≠ d) (m : Store α) (lo k : Nat) (h : Store.wfFrom d lo m) (hk : lo ≤ k) :
    Store.wfFrom d lo (Store.put m k v) := by
  induction m generalizing lo with
  | nil => simp [Store.put, Store.wfFrom, hk, hv]
  | cons e m ih =>
    obtain ⟨k', v'⟩ := e
    simp only [Store.wfFrom, Bool.and_eq_true, decide_eq_true_eq] at h
    simp only [Store.put]
    split
    · simp only [Store.wfFrom, Bool.and_eq_true, decide_eq_true_eq]
      exact ⟨⟨hk, hv⟩, ⟨by omega, h.1.2⟩, h.2⟩
    · split
      · simp only [Store.wfFrom, Bool.and_eq_true, decide_eq_true_eq]
        subst k'
        exact ⟨⟨hk, hv⟩, h.2⟩
      · simp only [Store.wfFrom, Bool.and_eq_true, decide_eq_true_eq]
        exact ⟨h.1, ih _ h.2 (by omega)⟩

theorem Store.wfFrom_filter (d : α) (p : Nat × α → Bool) (m : Store α) (lo : Nat) (h : Store.wfFrom d lo m) :
    Store.wfFrom d lo (m.filter p) := by
  induction m generalizing lo with
  | nil => rfl
  | cons e m ih =>
    simp only [Store.wfFrom, Bool.and_eq_true, decide_eq_true_eq] at h
    by_cases hp : p e
    · simp only [List.filter_cons, hp, if_true, Store.wfFrom, Bool.and_eq_true, decide_eq_true_eq]
      exact ⟨h.1, ih _ h.2⟩
    · simp only [List.filter_cons, hp]
      exact Store.wfFrom_mono d _ (ih _ h.2) (by omega)

/-- A write keeps the canonical form. -/
theorem Store.wf_set (d v : α) (m : Store α) (k : Nat) (h : Store.wf d m) : Store.wf d (Store.set d m k v) := by
  unfold Store.set
  split
  · exact Store.wfFrom_filter d _ m 0 h
  · rename_i hv
    exact Store.wfFrom_put d v hv m 0 k h (Nat.zero_le k)

theorem Store.wf_upd (d : α) (m : Store α) (k : Nat) (f : α → α) (h : Store.wf d m) : Store.wf d (Store.upd d m k f) :=
  Store.wf_set d _ m k h

theorem Store.get_lt (d : α) (m : Store α) (lo k : Nat) (h : Store.wfFrom d lo m) (hk : k < lo) : Store.get d m k = d := by
  induction m generalizing lo with
  | nil => rfl
  | cons e m ih =>
    simp only [Store.wfFrom, Bool.and_eq_true, decide_eq_true_eq] at h
    have : k ≠ e.1 := by omega
    simp [Store.get, this, ih _ h.2 (by omega)]

theorem Store.ext_from (d : α) (m m' : Store α) (lo : Nat) (h : Store.wfFrom d lo m) (h' : Store.wfFrom d lo m')
    (heq : ∀ k, Store.get d m k = Store.get d m' k) : m = m' := by
  induction m generalizing lo m' with
  | nil =>
    cases m' with
    | nil => rfl
    | cons e m' =>
      simp only [Store.wfFrom, Bool.and_eq_true, decide_eq_true_eq] at h'
      exact absurd (heq e.1).symm (by simpa [Store.get] using h'.1.2)
  | cons e m ih =>
    obtain ⟨k, v⟩ := e
    simp only [Store.wfFrom, Bool.and_eq_true, decide_eq_true_eq] at h
    cases m' with
    | nil => exact absurd (heq k) (by simpa [Store.get] using h.1.2)
    | cons e' m' =>
      obtain ⟨k', v'⟩ := e'
      simp only [Store.wfFrom, Bool.and_eq_true, decide_eq_true_eq] at h'
      have hk : k = k' := by
        rcases Nat.lt_trichotomy k k' with hlt | heq' | hgt
        · have := heq k
          simp only [Store.get, if_true] at this
          rw [if_neg (by omega), Store.get_lt d m' (k' + 1) k h'.2 (by omega)] at this
          exact absurd this h.1.2
        · exact heq'
        · have := heq k'
          simp only [Store.get, if_true] at this
          rw [if_neg (by omega), Store.get_lt d m (k + 1) k' h.2 (by omega)] at this
          exact absurd this.symm h'.1.2
      subst hk
      have hv : v = v' := by simpa [Store.get] using heq k
      subst hv
      have hm : m = m' := by
        refine ih m' (k + 1) h.2 h'.2 (fun j => ?_)
        by_cases hj : j = k
        · subst hj; rw [Store.get_lt d m _ _ h.2 (by omega), Store.get_lt d m' _ _ h'.2 (by omega)]
        · simpa [Store.get, hj] using heq j
      rw [hm]

/-- Two stores in canonical form that read alike everywhere are equal. -/
theorem Store.ext (d : α) (m m' : Store α) (h : Store.wf d m) (h' : Store.wf d m')
    (heq : ∀ k, Store.get d m k = Store.get d m' k) : m = m' := Store.ext_from d m m' 0 h h' heq

end Sys2Proof.Machine
end

