-- ==== Sys2Proof/Laws/State.lean ====
section
/-! SUPPORT. One lemma for each field of State under each named update, so that no proof unfolds a record update; what an
update leaves in the part it writes; registers after a write. -/

namespace Sys2Proof.Machine

/-! ### setCore -/

@[simp] theorem State.setCore_cur (s : State) (c : Nat) (x : Core) : (s.setCore c x).cur = s.cur := rfl
@[simp] theorem State.setCore_sched (s : State) (c : Nat) (x : Core) : (s.setCore c x).sched = s.sched := rfl
@[simp] theorem State.setCore_draw (s : State) (c : Nat) (x : Core) : (s.setCore c x).draw = s.draw := rfl
@[simp] theorem State.setCore_evTurn (s : State) (c : Nat) (x : Core) : (s.setCore c x).evTurn = s.evTurn := rfl
@[simp] theorem State.setCore_evCount (s : State) (c : Nat) (x : Core) : (s.setCore c x).evCount = s.evCount := rfl
@[simp] theorem State.setCore_ringDev (s : State) (c : Nat) (x : Core) : (s.setCore c x).ringDev = s.ringDev := rfl
@[simp] theorem State.setCore_identity (s : State) (c : Nat) (x : Core) : (s.setCore c x).identity = s.identity := rfl
@[simp] theorem State.setCore_on (s : State) (c : Nat) (x : Core) : (s.setCore c x).on = s.on := rfl
@[simp] theorem State.setCore_time (s : State) (c : Nat) (x : Core) : (s.setCore c x).time = s.time := rfl
@[simp] theorem State.setCore_ps (s : State) (c : Nat) (x : Core) : (s.setCore c x).ps = s.ps := rfl
@[simp] theorem State.setCore_pkg (s : State) (c : Nat) (x : Core) : (s.setCore c x).pkg = s.pkg := rfl
@[simp] theorem State.setCore_fuse (s : State) (c : Nat) (x : Core) : (s.setCore c x).fuse = s.fuse := rfl
@[simp] theorem State.setCore_mem (s : State) (c : Nat) (x : Core) : (s.setCore c x).mem = s.mem := rfl
@[simp] theorem State.setCore_pois (s : State) (c : Nat) (x : Core) : (s.setCore c x).pois = s.pois := rfl
@[simp] theorem State.setCore_dirtyMap (s : State) (c : Nat) (x : Core) : (s.setCore c x).dirtyMap = s.dirtyMap := rfl
@[simp] theorem State.setCore_reg (s : State) (c : Nat) (x : Core) : (s.setCore c x).reg = s.reg := rfl
@[simp] theorem State.setCore_pending (s : State) (c : Nat) (x : Core) : (s.setCore c x).pending = s.pending := rfl
@[simp] theorem State.setCore_tents (s : State) (c : Nat) (x : Core) : (s.setCore c x).tents = s.tents := rfl
@[simp] theorem State.setCore_waiters (s : State) (c : Nat) (x : Core) : (s.setCore c x).waiters = s.waiters := rfl
@[simp] theorem State.setCore_clusters (s : State) (c : Nat) (x : Core) : (s.setCore c x).clusters = s.clusters := rfl
@[simp] theorem State.setCore_dies (s : State) (c : Nat) (x : Core) : (s.setCore c x).dies = s.dies := rfl
@[simp] theorem State.setCore_joins (s : State) (c : Nat) (x : Core) : (s.setCore c x).joins = s.joins := rfl
@[simp] theorem State.setCore_gens (s : State) (c : Nat) (x : Core) : (s.setCore c x).gens = s.gens := rfl
@[simp] theorem State.setCore_parts (s : State) (c : Nat) (x : Core) : (s.setCore c x).parts = s.parts := rfl
@[simp] theorem State.setCore_linksDown (s : State) (c : Nat) (x : Core) : (s.setCore c x).linksDown = s.linksDown := rfl
@[simp] theorem State.setCore_relays (s : State) (c : Nat) (x : Core) : (s.setCore c x).relays = s.relays := rfl
@[simp] theorem State.setCore_relay (s : State) (c : Nat) (x : Core) : (s.setCore c x).relay = s.relay := rfl
@[simp] theorem State.setCore_mute (s : State) (c : Nat) (x : Core) : (s.setCore c x).mute = s.mute := rfl
@[simp] theorem State.setCore_hdm (s : State) (c : Nat) (x : Core) : (s.setCore c x).hdm = s.hdm := rfl
@[simp] theorem State.setCore_moves (s : State) (c : Nat) (x : Core) : (s.setCore c x).moves = s.moves := rfl
@[simp] theorem State.setCore_slotUse (s : State) (c : Nat) (x : Core) : (s.setCore c x).slotUse = s.slotUse := rfl
@[simp] theorem State.setCore_ioSlots (s : State) (c : Nat) (x : Core) : (s.setCore c x).ioSlots = s.ioSlots := rfl
@[simp] theorem State.setCore_geos (s : State) (c : Nat) (x : Core) : (s.setCore c x).geos = s.geos := rfl
@[simp] theorem State.setCore_insts (s : State) (c : Nat) (x : Core) : (s.setCore c x).insts = s.insts := rfl
@[simp] theorem State.setCore_binds (s : State) (c : Nat) (x : Core) : (s.setCore c x).binds = s.binds := rfl
@[simp] theorem State.setCore_vdevs (s : State) (c : Nat) (x : Core) : (s.setCore c x).vdevs = s.vdevs := rfl
@[simp] theorem State.setCore_queues (s : State) (c : Nat) (x : Core) : (s.setCore c x).queues = s.queues := rfl
@[simp] theorem State.setCore_turn (s : State) (c : Nat) (x : Core) : (s.setCore c x).turn = s.turn := rfl
@[simp] theorem State.setCore_launches (s : State) (c : Nat) (x : Core) : (s.setCore c x).launches = s.launches := rfl
@[simp] theorem State.setCore_wisps (s : State) (c : Nat) (x : Core) : (s.setCore c x).wisps = s.wisps := rfl
@[simp] theorem State.setCore_seq (s : State) (c : Nat) (x : Core) : (s.setCore c x).seq = s.seq := rfl
@[simp] theorem State.setCore_mbox (s : State) (c : Nat) (x : Core) : (s.setCore c x).mbox = s.mbox := rfl
@[simp] theorem State.setCore_deadlines (s : State) (c : Nat) (x : Core) : (s.setCore c x).deadlines = s.deadlines := rfl
@[simp] theorem State.setCore_measured (s : State) (c : Nat) (x : Core) : (s.setCore c x).measured = s.measured := rfl
@[simp] theorem State.setCore_layout (s : State) (c : Nat) (x : Core) : (s.setCore c x).layout = s.layout := rfl
@[simp] theorem State.setCore_images (s : State) (c : Nat) (x : Core) : (s.setCore c x).images = s.images := rfl
@[simp] theorem State.setCore_log (s : State) (c : Nat) (x : Core) : (s.setCore c x).log = s.log := rfl
@[simp] theorem State.setCore_logSeq (s : State) (c : Nat) (x : Core) : (s.setCore c x).logSeq = s.logSeq := rfl
@[simp] theorem State.setCore_losses (s : State) (c : Nat) (x : Core) : (s.setCore c x).losses = s.losses := rfl
@[simp] theorem State.setCore_tdisp (s : State) (c : Nat) (x : Core) : (s.setCore c x).tdisp = s.tdisp := rfl
@[simp] theorem State.setCore_ide (s : State) (c : Nat) (x : Core) : (s.setCore c x).ide = s.ide := rfl
@[simp] theorem State.setCore_spdmSession (s : State) (c : Nat) (x : Core) : (s.setCore c x).spdmSession = s.spdmSession := rfl
@[simp] theorem State.setCore_fw (s : State) (c : Nat) (x : Core) : (s.setCore c x).fw = s.fw := rfl
@[simp] theorem State.setCore_resets (s : State) (c : Nat) (x : Core) : (s.setCore c x).resets = s.resets := rfl
@[simp] theorem State.setCore_out (s : State) (c : Nat) (x : Core) : (s.setCore c x).out = s.out := rfl

/-! ### updCore -/

@[simp] theorem State.updCore_cur (s : State) (c : Nat) (f : Core → Core) : (s.updCore c f).cur = s.cur := rfl
@[simp] theorem State.updCore_sched (s : State) (c : Nat) (f : Core → Core) : (s.updCore c f).sched = s.sched := rfl
@[simp] theorem State.updCore_draw (s : State) (c : Nat) (f : Core → Core) : (s.updCore c f).draw = s.draw := rfl
@[simp] theorem State.updCore_evTurn (s : State) (c : Nat) (f : Core → Core) : (s.updCore c f).evTurn = s.evTurn := rfl
@[simp] theorem State.updCore_evCount (s : State) (c : Nat) (f : Core → Core) : (s.updCore c f).evCount = s.evCount := rfl
@[simp] theorem State.updCore_ringDev (s : State) (c : Nat) (f : Core → Core) : (s.updCore c f).ringDev = s.ringDev := rfl
@[simp] theorem State.updCore_identity (s : State) (c : Nat) (f : Core → Core) : (s.updCore c f).identity = s.identity := rfl
@[simp] theorem State.updCore_on (s : State) (c : Nat) (f : Core → Core) : (s.updCore c f).on = s.on := rfl
@[simp] theorem State.updCore_time (s : State) (c : Nat) (f : Core → Core) : (s.updCore c f).time = s.time := rfl
@[simp] theorem State.updCore_ps (s : State) (c : Nat) (f : Core → Core) : (s.updCore c f).ps = s.ps := rfl
@[simp] theorem State.updCore_pkg (s : State) (c : Nat) (f : Core → Core) : (s.updCore c f).pkg = s.pkg := rfl
@[simp] theorem State.updCore_fuse (s : State) (c : Nat) (f : Core → Core) : (s.updCore c f).fuse = s.fuse := rfl
@[simp] theorem State.updCore_mem (s : State) (c : Nat) (f : Core → Core) : (s.updCore c f).mem = s.mem := rfl
@[simp] theorem State.updCore_pois (s : State) (c : Nat) (f : Core → Core) : (s.updCore c f).pois = s.pois := rfl
@[simp] theorem State.updCore_dirtyMap (s : State) (c : Nat) (f : Core → Core) : (s.updCore c f).dirtyMap = s.dirtyMap := rfl
@[simp] theorem State.updCore_reg (s : State) (c : Nat) (f : Core → Core) : (s.updCore c f).reg = s.reg := rfl
@[simp] theorem State.updCore_pending (s : State) (c : Nat) (f : Core → Core) : (s.updCore c f).pending = s.pending := rfl
@[simp] theorem State.updCore_tents (s : State) (c : Nat) (f : Core → Core) : (s.updCore c f).tents = s.tents := rfl
@[simp] theorem State.updCore_waiters (s : State) (c : Nat) (f : Core → Core) : (s.updCore c f).waiters = s.waiters := rfl
@[simp] theorem State.updCore_clusters (s : State) (c : Nat) (f : Core → Core) : (s.updCore c f).clusters = s.clusters := rfl
@[simp] theorem State.updCore_dies (s : State) (c : Nat) (f : Core → Core) : (s.updCore c f).dies = s.dies := rfl
@[simp] theorem State.updCore_joins (s : State) (c : Nat) (f : Core → Core) : (s.updCore c f).joins = s.joins := rfl
@[simp] theorem State.updCore_gens (s : State) (c : Nat) (f : Core → Core) : (s.updCore c f).gens = s.gens := rfl
@[simp] theorem State.updCore_parts (s : State) (c : Nat) (f : Core → Core) : (s.updCore c f).parts = s.parts := rfl
@[simp] theorem State.updCore_linksDown (s : State) (c : Nat) (f : Core → Core) : (s.updCore c f).linksDown = s.linksDown := rfl
@[simp] theorem State.updCore_relays (s : State) (c : Nat) (f : Core → Core) : (s.updCore c f).relays = s.relays := rfl
@[simp] theorem State.updCore_relay (s : State) (c : Nat) (f : Core → Core) : (s.updCore c f).relay = s.relay := rfl
@[simp] theorem State.updCore_mute (s : State) (c : Nat) (f : Core → Core) : (s.updCore c f).mute = s.mute := rfl
@[simp] theorem State.updCore_hdm (s : State) (c : Nat) (f : Core → Core) : (s.updCore c f).hdm = s.hdm := rfl
@[simp] theorem State.updCore_moves (s : State) (c : Nat) (f : Core → Core) : (s.updCore c f).moves = s.moves := rfl
@[simp] theorem State.updCore_slotUse (s : State) (c : Nat) (f : Core → Core) : (s.updCore c f).slotUse = s.slotUse := rfl
@[simp] theorem State.updCore_ioSlots (s : State) (c : Nat) (f : Core → Core) : (s.updCore c f).ioSlots = s.ioSlots := rfl
@[simp] theorem State.updCore_geos (s : State) (c : Nat) (f : Core → Core) : (s.updCore c f).geos = s.geos := rfl
@[simp] theorem State.updCore_insts (s : State) (c : Nat) (f : Core → Core) : (s.updCore c f).insts = s.insts := rfl
@[simp] theorem State.updCore_binds (s : State) (c : Nat) (f : Core → Core) : (s.updCore c f).binds = s.binds := rfl
@[simp] theorem State.updCore_vdevs (s : State) (c : Nat) (f : Core → Core) : (s.updCore c f).vdevs = s.vdevs := rfl
@[simp] theorem State.updCore_queues (s : State) (c : Nat) (f : Core → Core) : (s.updCore c f).queues = s.queues := rfl
@[simp] theorem State.updCore_turn (s : State) (c : Nat) (f : Core → Core) : (s.updCore c f).turn = s.turn := rfl
@[simp] theorem State.updCore_launches (s : State) (c : Nat) (f : Core → Core) : (s.updCore c f).launches = s.launches := rfl
@[simp] theorem State.updCore_wisps (s : State) (c : Nat) (f : Core → Core) : (s.updCore c f).wisps = s.wisps := rfl
@[simp] theorem State.updCore_seq (s : State) (c : Nat) (f : Core → Core) : (s.updCore c f).seq = s.seq := rfl
@[simp] theorem State.updCore_mbox (s : State) (c : Nat) (f : Core → Core) : (s.updCore c f).mbox = s.mbox := rfl
@[simp] theorem State.updCore_deadlines (s : State) (c : Nat) (f : Core → Core) : (s.updCore c f).deadlines = s.deadlines := rfl
@[simp] theorem State.updCore_measured (s : State) (c : Nat) (f : Core → Core) : (s.updCore c f).measured = s.measured := rfl
@[simp] theorem State.updCore_layout (s : State) (c : Nat) (f : Core → Core) : (s.updCore c f).layout = s.layout := rfl
@[simp] theorem State.updCore_images (s : State) (c : Nat) (f : Core → Core) : (s.updCore c f).images = s.images := rfl
@[simp] theorem State.updCore_log (s : State) (c : Nat) (f : Core → Core) : (s.updCore c f).log = s.log := rfl
@[simp] theorem State.updCore_logSeq (s : State) (c : Nat) (f : Core → Core) : (s.updCore c f).logSeq = s.logSeq := rfl
@[simp] theorem State.updCore_losses (s : State) (c : Nat) (f : Core → Core) : (s.updCore c f).losses = s.losses := rfl
@[simp] theorem State.updCore_tdisp (s : State) (c : Nat) (f : Core → Core) : (s.updCore c f).tdisp = s.tdisp := rfl
@[simp] theorem State.updCore_ide (s : State) (c : Nat) (f : Core → Core) : (s.updCore c f).ide = s.ide := rfl
@[simp] theorem State.updCore_spdmSession (s : State) (c : Nat) (f : Core → Core) : (s.updCore c f).spdmSession = s.spdmSession := rfl
@[simp] theorem State.updCore_fw (s : State) (c : Nat) (f : Core → Core) : (s.updCore c f).fw = s.fw := rfl
@[simp] theorem State.updCore_resets (s : State) (c : Nat) (f : Core → Core) : (s.updCore c f).resets = s.resets := rfl
@[simp] theorem State.updCore_out (s : State) (c : Nat) (f : Core → Core) : (s.updCore c f).out = s.out := rfl

/-! ### updMe -/

@[simp] theorem State.updMe_cur (s : State) (f : Core → Core) : (s.updMe f).cur = s.cur := rfl
@[simp] theorem State.updMe_sched (s : State) (f : Core → Core) : (s.updMe f).sched = s.sched := rfl
@[simp] theorem State.updMe_draw (s : State) (f : Core → Core) : (s.updMe f).draw = s.draw := rfl
@[simp] theorem State.updMe_evTurn (s : State) (f : Core → Core) : (s.updMe f).evTurn = s.evTurn := rfl
@[simp] theorem State.updMe_evCount (s : State) (f : Core → Core) : (s.updMe f).evCount = s.evCount := rfl
@[simp] theorem State.updMe_ringDev (s : State) (f : Core → Core) : (s.updMe f).ringDev = s.ringDev := rfl
@[simp] theorem State.updMe_identity (s : State) (f : Core → Core) : (s.updMe f).identity = s.identity := rfl
@[simp] theorem State.updMe_on (s : State) (f : Core → Core) : (s.updMe f).on = s.on := rfl
@[simp] theorem State.updMe_time (s : State) (f : Core → Core) : (s.updMe f).time = s.time := rfl
@[simp] theorem State.updMe_ps (s : State) (f : Core → Core) : (s.updMe f).ps = s.ps := rfl
@[simp] theorem State.updMe_pkg (s : State) (f : Core → Core) : (s.updMe f).pkg = s.pkg := rfl
@[simp] theorem State.updMe_fuse (s : State) (f : Core → Core) : (s.updMe f).fuse = s.fuse := rfl
@[simp] theorem State.updMe_mem (s : State) (f : Core → Core) : (s.updMe f).mem = s.mem := rfl
@[simp] theorem State.updMe_pois (s : State) (f : Core → Core) : (s.updMe f).pois = s.pois := rfl
@[simp] theorem State.updMe_dirtyMap (s : State) (f : Core → Core) : (s.updMe f).dirtyMap = s.dirtyMap := rfl
@[simp] theorem State.updMe_reg (s : State) (f : Core → Core) : (s.updMe f).reg = s.reg := rfl
@[simp] theorem State.updMe_pending (s : State) (f : Core → Core) : (s.updMe f).pending = s.pending := rfl
@[simp] theorem State.updMe_tents (s : State) (f : Core → Core) : (s.updMe f).tents = s.tents := rfl
@[simp] theorem State.updMe_waiters (s : State) (f : Core → Core) : (s.updMe f).waiters = s.waiters := rfl
@[simp] theorem State.updMe_clusters (s : State) (f : Core → Core) : (s.updMe f).clusters = s.clusters := rfl
@[simp] theorem State.updMe_dies (s : State) (f : Core → Core) : (s.updMe f).dies = s.dies := rfl
@[simp] theorem State.updMe_joins (s : State) (f : Core → Core) : (s.updMe f).joins = s.joins := rfl
@[simp] theorem State.updMe_gens (s : State) (f : Core → Core) : (s.updMe f).gens = s.gens := rfl
@[simp] theorem State.updMe_parts (s : State) (f : Core → Core) : (s.updMe f).parts = s.parts := rfl
@[simp] theorem State.updMe_linksDown (s : State) (f : Core → Core) : (s.updMe f).linksDown = s.linksDown := rfl
@[simp] theorem State.updMe_relays (s : State) (f : Core → Core) : (s.updMe f).relays = s.relays := rfl
@[simp] theorem State.updMe_relay (s : State) (f : Core → Core) : (s.updMe f).relay = s.relay := rfl
@[simp] theorem State.updMe_mute (s : State) (f : Core → Core) : (s.updMe f).mute = s.mute := rfl
@[simp] theorem State.updMe_hdm (s : State) (f : Core → Core) : (s.updMe f).hdm = s.hdm := rfl
@[simp] theorem State.updMe_moves (s : State) (f : Core → Core) : (s.updMe f).moves = s.moves := rfl
@[simp] theorem State.updMe_slotUse (s : State) (f : Core → Core) : (s.updMe f).slotUse = s.slotUse := rfl
@[simp] theorem State.updMe_ioSlots (s : State) (f : Core → Core) : (s.updMe f).ioSlots = s.ioSlots := rfl
@[simp] theorem State.updMe_geos (s : State) (f : Core → Core) : (s.updMe f).geos = s.geos := rfl
@[simp] theorem State.updMe_insts (s : State) (f : Core → Core) : (s.updMe f).insts = s.insts := rfl
@[simp] theorem State.updMe_binds (s : State) (f : Core → Core) : (s.updMe f).binds = s.binds := rfl
@[simp] theorem State.updMe_vdevs (s : State) (f : Core → Core) : (s.updMe f).vdevs = s.vdevs := rfl
@[simp] theorem State.updMe_queues (s : State) (f : Core → Core) : (s.updMe f).queues = s.queues := rfl
@[simp] theorem State.updMe_turn (s : State) (f : Core → Core) : (s.updMe f).turn = s.turn := rfl
@[simp] theorem State.updMe_launches (s : State) (f : Core → Core) : (s.updMe f).launches = s.launches := rfl
@[simp] theorem State.updMe_wisps (s : State) (f : Core → Core) : (s.updMe f).wisps = s.wisps := rfl
@[simp] theorem State.updMe_seq (s : State) (f : Core → Core) : (s.updMe f).seq = s.seq := rfl
@[simp] theorem State.updMe_mbox (s : State) (f : Core → Core) : (s.updMe f).mbox = s.mbox := rfl
@[simp] theorem State.updMe_deadlines (s : State) (f : Core → Core) : (s.updMe f).deadlines = s.deadlines := rfl
@[simp] theorem State.updMe_measured (s : State) (f : Core → Core) : (s.updMe f).measured = s.measured := rfl
@[simp] theorem State.updMe_layout (s : State) (f : Core → Core) : (s.updMe f).layout = s.layout := rfl
@[simp] theorem State.updMe_images (s : State) (f : Core → Core) : (s.updMe f).images = s.images := rfl
@[simp] theorem State.updMe_log (s : State) (f : Core → Core) : (s.updMe f).log = s.log := rfl
@[simp] theorem State.updMe_logSeq (s : State) (f : Core → Core) : (s.updMe f).logSeq = s.logSeq := rfl
@[simp] theorem State.updMe_losses (s : State) (f : Core → Core) : (s.updMe f).losses = s.losses := rfl
@[simp] theorem State.updMe_tdisp (s : State) (f : Core → Core) : (s.updMe f).tdisp = s.tdisp := rfl
@[simp] theorem State.updMe_ide (s : State) (f : Core → Core) : (s.updMe f).ide = s.ide := rfl
@[simp] theorem State.updMe_spdmSession (s : State) (f : Core → Core) : (s.updMe f).spdmSession = s.spdmSession := rfl
@[simp] theorem State.updMe_fw (s : State) (f : Core → Core) : (s.updMe f).fw = s.fw := rfl
@[simp] theorem State.updMe_resets (s : State) (f : Core → Core) : (s.updMe f).resets = s.resets := rfl
@[simp] theorem State.updMe_out (s : State) (f : Core → Core) : (s.updMe f).out = s.out := rfl

/-! ### wg -/

@[simp] theorem State.wg_cur (s : State) (r : BitVec 5) (v : Word) : (s.wg r v).cur = s.cur := rfl
@[simp] theorem State.wg_sched (s : State) (r : BitVec 5) (v : Word) : (s.wg r v).sched = s.sched := rfl
@[simp] theorem State.wg_draw (s : State) (r : BitVec 5) (v : Word) : (s.wg r v).draw = s.draw := rfl
@[simp] theorem State.wg_evTurn (s : State) (r : BitVec 5) (v : Word) : (s.wg r v).evTurn = s.evTurn := rfl
@[simp] theorem State.wg_evCount (s : State) (r : BitVec 5) (v : Word) : (s.wg r v).evCount = s.evCount := rfl
@[simp] theorem State.wg_ringDev (s : State) (r : BitVec 5) (v : Word) : (s.wg r v).ringDev = s.ringDev := rfl
@[simp] theorem State.wg_identity (s : State) (r : BitVec 5) (v : Word) : (s.wg r v).identity = s.identity := rfl
@[simp] theorem State.wg_on (s : State) (r : BitVec 5) (v : Word) : (s.wg r v).on = s.on := rfl
@[simp] theorem State.wg_time (s : State) (r : BitVec 5) (v : Word) : (s.wg r v).time = s.time := rfl
@[simp] theorem State.wg_ps (s : State) (r : BitVec 5) (v : Word) : (s.wg r v).ps = s.ps := rfl
@[simp] theorem State.wg_pkg (s : State) (r : BitVec 5) (v : Word) : (s.wg r v).pkg = s.pkg := rfl
@[simp] theorem State.wg_fuse (s : State) (r : BitVec 5) (v : Word) : (s.wg r v).fuse = s.fuse := rfl
@[simp] theorem State.wg_mem (s : State) (r : BitVec 5) (v : Word) : (s.wg r v).mem = s.mem := rfl
@[simp] theorem State.wg_pois (s : State) (r : BitVec 5) (v : Word) : (s.wg r v).pois = s.pois := rfl
@[simp] theorem State.wg_dirtyMap (s : State) (r : BitVec 5) (v : Word) : (s.wg r v).dirtyMap = s.dirtyMap := rfl
@[simp] theorem State.wg_reg (s : State) (r : BitVec 5) (v : Word) : (s.wg r v).reg = s.reg := rfl
@[simp] theorem State.wg_pending (s : State) (r : BitVec 5) (v : Word) : (s.wg r v).pending = s.pending := rfl
@[simp] theorem State.wg_tents (s : State) (r : BitVec 5) (v : Word) : (s.wg r v).tents = s.tents := rfl
@[simp] theorem State.wg_waiters (s : State) (r : BitVec 5) (v : Word) : (s.wg r v).waiters = s.waiters := rfl
@[simp] theorem State.wg_clusters (s : State) (r : BitVec 5) (v : Word) : (s.wg r v).clusters = s.clusters := rfl
@[simp] theorem State.wg_dies (s : State) (r : BitVec 5) (v : Word) : (s.wg r v).dies = s.dies := rfl
@[simp] theorem State.wg_joins (s : State) (r : BitVec 5) (v : Word) : (s.wg r v).joins = s.joins := rfl
@[simp] theorem State.wg_gens (s : State) (r : BitVec 5) (v : Word) : (s.wg r v).gens = s.gens := rfl
@[simp] theorem State.wg_parts (s : State) (r : BitVec 5) (v : Word) : (s.wg r v).parts = s.parts := rfl
@[simp] theorem State.wg_linksDown (s : State) (r : BitVec 5) (v : Word) : (s.wg r v).linksDown = s.linksDown := rfl
@[simp] theorem State.wg_relays (s : State) (r : BitVec 5) (v : Word) : (s.wg r v).relays = s.relays := rfl
@[simp] theorem State.wg_relay (s : State) (r : BitVec 5) (v : Word) : (s.wg r v).relay = s.relay := rfl
@[simp] theorem State.wg_mute (s : State) (r : BitVec 5) (v : Word) : (s.wg r v).mute = s.mute := rfl
@[simp] theorem State.wg_hdm (s : State) (r : BitVec 5) (v : Word) : (s.wg r v).hdm = s.hdm := rfl
@[simp] theorem State.wg_moves (s : State) (r : BitVec 5) (v : Word) : (s.wg r v).moves = s.moves := rfl
@[simp] theorem State.wg_slotUse (s : State) (r : BitVec 5) (v : Word) : (s.wg r v).slotUse = s.slotUse := rfl
@[simp] theorem State.wg_ioSlots (s : State) (r : BitVec 5) (v : Word) : (s.wg r v).ioSlots = s.ioSlots := rfl
@[simp] theorem State.wg_geos (s : State) (r : BitVec 5) (v : Word) : (s.wg r v).geos = s.geos := rfl
@[simp] theorem State.wg_insts (s : State) (r : BitVec 5) (v : Word) : (s.wg r v).insts = s.insts := rfl
@[simp] theorem State.wg_binds (s : State) (r : BitVec 5) (v : Word) : (s.wg r v).binds = s.binds := rfl
@[simp] theorem State.wg_vdevs (s : State) (r : BitVec 5) (v : Word) : (s.wg r v).vdevs = s.vdevs := rfl
@[simp] theorem State.wg_queues (s : State) (r : BitVec 5) (v : Word) : (s.wg r v).queues = s.queues := rfl
@[simp] theorem State.wg_turn (s : State) (r : BitVec 5) (v : Word) : (s.wg r v).turn = s.turn := rfl
@[simp] theorem State.wg_launches (s : State) (r : BitVec 5) (v : Word) : (s.wg r v).launches = s.launches := rfl
@[simp] theorem State.wg_wisps (s : State) (r : BitVec 5) (v : Word) : (s.wg r v).wisps = s.wisps := rfl
@[simp] theorem State.wg_seq (s : State) (r : BitVec 5) (v : Word) : (s.wg r v).seq = s.seq := rfl
@[simp] theorem State.wg_mbox (s : State) (r : BitVec 5) (v : Word) : (s.wg r v).mbox = s.mbox := rfl
@[simp] theorem State.wg_deadlines (s : State) (r : BitVec 5) (v : Word) : (s.wg r v).deadlines = s.deadlines := rfl
@[simp] theorem State.wg_measured (s : State) (r : BitVec 5) (v : Word) : (s.wg r v).measured = s.measured := rfl
@[simp] theorem State.wg_layout (s : State) (r : BitVec 5) (v : Word) : (s.wg r v).layout = s.layout := rfl
@[simp] theorem State.wg_images (s : State) (r : BitVec 5) (v : Word) : (s.wg r v).images = s.images := rfl
@[simp] theorem State.wg_log (s : State) (r : BitVec 5) (v : Word) : (s.wg r v).log = s.log := rfl
@[simp] theorem State.wg_logSeq (s : State) (r : BitVec 5) (v : Word) : (s.wg r v).logSeq = s.logSeq := rfl
@[simp] theorem State.wg_losses (s : State) (r : BitVec 5) (v : Word) : (s.wg r v).losses = s.losses := rfl
@[simp] theorem State.wg_tdisp (s : State) (r : BitVec 5) (v : Word) : (s.wg r v).tdisp = s.tdisp := rfl
@[simp] theorem State.wg_ide (s : State) (r : BitVec 5) (v : Word) : (s.wg r v).ide = s.ide := rfl
@[simp] theorem State.wg_spdmSession (s : State) (r : BitVec 5) (v : Word) : (s.wg r v).spdmSession = s.spdmSession := rfl
@[simp] theorem State.wg_fw (s : State) (r : BitVec 5) (v : Word) : (s.wg r v).fw = s.fw := rfl
@[simp] theorem State.wg_resets (s : State) (r : BitVec 5) (v : Word) : (s.wg r v).resets = s.resets := rfl
@[simp] theorem State.wg_out (s : State) (r : BitVec 5) (v : Word) : (s.wg r v).out = s.out := rfl

/-! ### jump -/

@[simp] theorem State.jump_cur (s : State) (a : Word) : (s.jump a).cur = s.cur := rfl
@[simp] theorem State.jump_sched (s : State) (a : Word) : (s.jump a).sched = s.sched := rfl
@[simp] theorem State.jump_draw (s : State) (a : Word) : (s.jump a).draw = s.draw := rfl
@[simp] theorem State.jump_evTurn (s : State) (a : Word) : (s.jump a).evTurn = s.evTurn := rfl
@[simp] theorem State.jump_evCount (s : State) (a : Word) : (s.jump a).evCount = s.evCount := rfl
@[simp] theorem State.jump_ringDev (s : State) (a : Word) : (s.jump a).ringDev = s.ringDev := rfl
@[simp] theorem State.jump_identity (s : State) (a : Word) : (s.jump a).identity = s.identity := rfl
@[simp] theorem State.jump_on (s : State) (a : Word) : (s.jump a).on = s.on := rfl
@[simp] theorem State.jump_time (s : State) (a : Word) : (s.jump a).time = s.time := rfl
@[simp] theorem State.jump_ps (s : State) (a : Word) : (s.jump a).ps = s.ps := rfl
@[simp] theorem State.jump_pkg (s : State) (a : Word) : (s.jump a).pkg = s.pkg := rfl
@[simp] theorem State.jump_fuse (s : State) (a : Word) : (s.jump a).fuse = s.fuse := rfl
@[simp] theorem State.jump_mem (s : State) (a : Word) : (s.jump a).mem = s.mem := rfl
@[simp] theorem State.jump_pois (s : State) (a : Word) : (s.jump a).pois = s.pois := rfl
@[simp] theorem State.jump_dirtyMap (s : State) (a : Word) : (s.jump a).dirtyMap = s.dirtyMap := rfl
@[simp] theorem State.jump_reg (s : State) (a : Word) : (s.jump a).reg = s.reg := rfl
@[simp] theorem State.jump_pending (s : State) (a : Word) : (s.jump a).pending = s.pending := rfl
@[simp] theorem State.jump_tents (s : State) (a : Word) : (s.jump a).tents = s.tents := rfl
@[simp] theorem State.jump_waiters (s : State) (a : Word) : (s.jump a).waiters = s.waiters := rfl
@[simp] theorem State.jump_clusters (s : State) (a : Word) : (s.jump a).clusters = s.clusters := rfl
@[simp] theorem State.jump_dies (s : State) (a : Word) : (s.jump a).dies = s.dies := rfl
@[simp] theorem State.jump_joins (s : State) (a : Word) : (s.jump a).joins = s.joins := rfl
@[simp] theorem State.jump_gens (s : State) (a : Word) : (s.jump a).gens = s.gens := rfl
@[simp] theorem State.jump_parts (s : State) (a : Word) : (s.jump a).parts = s.parts := rfl
@[simp] theorem State.jump_linksDown (s : State) (a : Word) : (s.jump a).linksDown = s.linksDown := rfl
@[simp] theorem State.jump_relays (s : State) (a : Word) : (s.jump a).relays = s.relays := rfl
@[simp] theorem State.jump_relay (s : State) (a : Word) : (s.jump a).relay = s.relay := rfl
@[simp] theorem State.jump_mute (s : State) (a : Word) : (s.jump a).mute = s.mute := rfl
@[simp] theorem State.jump_hdm (s : State) (a : Word) : (s.jump a).hdm = s.hdm := rfl
@[simp] theorem State.jump_moves (s : State) (a : Word) : (s.jump a).moves = s.moves := rfl
@[simp] theorem State.jump_slotUse (s : State) (a : Word) : (s.jump a).slotUse = s.slotUse := rfl
@[simp] theorem State.jump_ioSlots (s : State) (a : Word) : (s.jump a).ioSlots = s.ioSlots := rfl
@[simp] theorem State.jump_geos (s : State) (a : Word) : (s.jump a).geos = s.geos := rfl
@[simp] theorem State.jump_insts (s : State) (a : Word) : (s.jump a).insts = s.insts := rfl
@[simp] theorem State.jump_binds (s : State) (a : Word) : (s.jump a).binds = s.binds := rfl
@[simp] theorem State.jump_vdevs (s : State) (a : Word) : (s.jump a).vdevs = s.vdevs := rfl
@[simp] theorem State.jump_queues (s : State) (a : Word) : (s.jump a).queues = s.queues := rfl
@[simp] theorem State.jump_turn (s : State) (a : Word) : (s.jump a).turn = s.turn := rfl
@[simp] theorem State.jump_launches (s : State) (a : Word) : (s.jump a).launches = s.launches := rfl
@[simp] theorem State.jump_wisps (s : State) (a : Word) : (s.jump a).wisps = s.wisps := rfl
@[simp] theorem State.jump_seq (s : State) (a : Word) : (s.jump a).seq = s.seq := rfl
@[simp] theorem State.jump_mbox (s : State) (a : Word) : (s.jump a).mbox = s.mbox := rfl
@[simp] theorem State.jump_deadlines (s : State) (a : Word) : (s.jump a).deadlines = s.deadlines := rfl
@[simp] theorem State.jump_measured (s : State) (a : Word) : (s.jump a).measured = s.measured := rfl
@[simp] theorem State.jump_layout (s : State) (a : Word) : (s.jump a).layout = s.layout := rfl
@[simp] theorem State.jump_images (s : State) (a : Word) : (s.jump a).images = s.images := rfl
@[simp] theorem State.jump_log (s : State) (a : Word) : (s.jump a).log = s.log := rfl
@[simp] theorem State.jump_logSeq (s : State) (a : Word) : (s.jump a).logSeq = s.logSeq := rfl
@[simp] theorem State.jump_losses (s : State) (a : Word) : (s.jump a).losses = s.losses := rfl
@[simp] theorem State.jump_tdisp (s : State) (a : Word) : (s.jump a).tdisp = s.tdisp := rfl
@[simp] theorem State.jump_ide (s : State) (a : Word) : (s.jump a).ide = s.ide := rfl
@[simp] theorem State.jump_spdmSession (s : State) (a : Word) : (s.jump a).spdmSession = s.spdmSession := rfl
@[simp] theorem State.jump_fw (s : State) (a : Word) : (s.jump a).fw = s.fw := rfl
@[simp] theorem State.jump_resets (s : State) (a : Word) : (s.jump a).resets = s.resets := rfl
@[simp] theorem State.jump_out (s : State) (a : Word) : (s.jump a).out = s.out := rfl

/-! ### nextPc -/

@[simp] theorem State.nextPc_cur (s : State) : (s.nextPc).cur = s.cur := rfl
@[simp] theorem State.nextPc_sched (s : State) : (s.nextPc).sched = s.sched := rfl
@[simp] theorem State.nextPc_draw (s : State) : (s.nextPc).draw = s.draw := rfl
@[simp] theorem State.nextPc_evTurn (s : State) : (s.nextPc).evTurn = s.evTurn := rfl
@[simp] theorem State.nextPc_evCount (s : State) : (s.nextPc).evCount = s.evCount := rfl
@[simp] theorem State.nextPc_ringDev (s : State) : (s.nextPc).ringDev = s.ringDev := rfl
@[simp] theorem State.nextPc_identity (s : State) : (s.nextPc).identity = s.identity := rfl
@[simp] theorem State.nextPc_on (s : State) : (s.nextPc).on = s.on := rfl
@[simp] theorem State.nextPc_time (s : State) : (s.nextPc).time = s.time := rfl
@[simp] theorem State.nextPc_ps (s : State) : (s.nextPc).ps = s.ps := rfl
@[simp] theorem State.nextPc_pkg (s : State) : (s.nextPc).pkg = s.pkg := rfl
@[simp] theorem State.nextPc_fuse (s : State) : (s.nextPc).fuse = s.fuse := rfl
@[simp] theorem State.nextPc_mem (s : State) : (s.nextPc).mem = s.mem := rfl
@[simp] theorem State.nextPc_pois (s : State) : (s.nextPc).pois = s.pois := rfl
@[simp] theorem State.nextPc_dirtyMap (s : State) : (s.nextPc).dirtyMap = s.dirtyMap := rfl
@[simp] theorem State.nextPc_reg (s : State) : (s.nextPc).reg = s.reg := rfl
@[simp] theorem State.nextPc_pending (s : State) : (s.nextPc).pending = s.pending := rfl
@[simp] theorem State.nextPc_tents (s : State) : (s.nextPc).tents = s.tents := rfl
@[simp] theorem State.nextPc_waiters (s : State) : (s.nextPc).waiters = s.waiters := rfl
@[simp] theorem State.nextPc_clusters (s : State) : (s.nextPc).clusters = s.clusters := rfl
@[simp] theorem State.nextPc_dies (s : State) : (s.nextPc).dies = s.dies := rfl
@[simp] theorem State.nextPc_joins (s : State) : (s.nextPc).joins = s.joins := rfl
@[simp] theorem State.nextPc_gens (s : State) : (s.nextPc).gens = s.gens := rfl
@[simp] theorem State.nextPc_parts (s : State) : (s.nextPc).parts = s.parts := rfl
@[simp] theorem State.nextPc_linksDown (s : State) : (s.nextPc).linksDown = s.linksDown := rfl
@[simp] theorem State.nextPc_relays (s : State) : (s.nextPc).relays = s.relays := rfl
@[simp] theorem State.nextPc_relay (s : State) : (s.nextPc).relay = s.relay := rfl
@[simp] theorem State.nextPc_mute (s : State) : (s.nextPc).mute = s.mute := rfl
@[simp] theorem State.nextPc_hdm (s : State) : (s.nextPc).hdm = s.hdm := rfl
@[simp] theorem State.nextPc_moves (s : State) : (s.nextPc).moves = s.moves := rfl
@[simp] theorem State.nextPc_slotUse (s : State) : (s.nextPc).slotUse = s.slotUse := rfl
@[simp] theorem State.nextPc_ioSlots (s : State) : (s.nextPc).ioSlots = s.ioSlots := rfl
@[simp] theorem State.nextPc_geos (s : State) : (s.nextPc).geos = s.geos := rfl
@[simp] theorem State.nextPc_insts (s : State) : (s.nextPc).insts = s.insts := rfl
@[simp] theorem State.nextPc_binds (s : State) : (s.nextPc).binds = s.binds := rfl
@[simp] theorem State.nextPc_vdevs (s : State) : (s.nextPc).vdevs = s.vdevs := rfl
@[simp] theorem State.nextPc_queues (s : State) : (s.nextPc).queues = s.queues := rfl
@[simp] theorem State.nextPc_turn (s : State) : (s.nextPc).turn = s.turn := rfl
@[simp] theorem State.nextPc_launches (s : State) : (s.nextPc).launches = s.launches := rfl
@[simp] theorem State.nextPc_wisps (s : State) : (s.nextPc).wisps = s.wisps := rfl
@[simp] theorem State.nextPc_seq (s : State) : (s.nextPc).seq = s.seq := rfl
@[simp] theorem State.nextPc_mbox (s : State) : (s.nextPc).mbox = s.mbox := rfl
@[simp] theorem State.nextPc_deadlines (s : State) : (s.nextPc).deadlines = s.deadlines := rfl
@[simp] theorem State.nextPc_measured (s : State) : (s.nextPc).measured = s.measured := rfl
@[simp] theorem State.nextPc_layout (s : State) : (s.nextPc).layout = s.layout := rfl
@[simp] theorem State.nextPc_images (s : State) : (s.nextPc).images = s.images := rfl
@[simp] theorem State.nextPc_log (s : State) : (s.nextPc).log = s.log := rfl
@[simp] theorem State.nextPc_logSeq (s : State) : (s.nextPc).logSeq = s.logSeq := rfl
@[simp] theorem State.nextPc_losses (s : State) : (s.nextPc).losses = s.losses := rfl
@[simp] theorem State.nextPc_tdisp (s : State) : (s.nextPc).tdisp = s.tdisp := rfl
@[simp] theorem State.nextPc_ide (s : State) : (s.nextPc).ide = s.ide := rfl
@[simp] theorem State.nextPc_spdmSession (s : State) : (s.nextPc).spdmSession = s.spdmSession := rfl
@[simp] theorem State.nextPc_fw (s : State) : (s.nextPc).fw = s.fw := rfl
@[simp] theorem State.nextPc_resets (s : State) : (s.nextPc).resets = s.resets := rfl
@[simp] theorem State.nextPc_out (s : State) : (s.nextPc).out = s.out := rfl

/-! ### block -/

@[simp] theorem State.block_cur (s : State) : (s.block).cur = s.cur := rfl
@[simp] theorem State.block_sched (s : State) : (s.block).sched = s.sched := rfl
@[simp] theorem State.block_draw (s : State) : (s.block).draw = s.draw := rfl
@[simp] theorem State.block_evTurn (s : State) : (s.block).evTurn = s.evTurn := rfl
@[simp] theorem State.block_evCount (s : State) : (s.block).evCount = s.evCount := rfl
@[simp] theorem State.block_ringDev (s : State) : (s.block).ringDev = s.ringDev := rfl
@[simp] theorem State.block_identity (s : State) : (s.block).identity = s.identity := rfl
@[simp] theorem State.block_on (s : State) : (s.block).on = s.on := rfl
@[simp] theorem State.block_time (s : State) : (s.block).time = s.time := rfl
@[simp] theorem State.block_ps (s : State) : (s.block).ps = s.ps := rfl
@[simp] theorem State.block_pkg (s : State) : (s.block).pkg = s.pkg := rfl
@[simp] theorem State.block_fuse (s : State) : (s.block).fuse = s.fuse := rfl
@[simp] theorem State.block_mem (s : State) : (s.block).mem = s.mem := rfl
@[simp] theorem State.block_pois (s : State) : (s.block).pois = s.pois := rfl
@[simp] theorem State.block_dirtyMap (s : State) : (s.block).dirtyMap = s.dirtyMap := rfl
@[simp] theorem State.block_reg (s : State) : (s.block).reg = s.reg := rfl
@[simp] theorem State.block_pending (s : State) : (s.block).pending = s.pending := rfl
@[simp] theorem State.block_tents (s : State) : (s.block).tents = s.tents := rfl
@[simp] theorem State.block_waiters (s : State) : (s.block).waiters = s.waiters := rfl
@[simp] theorem State.block_clusters (s : State) : (s.block).clusters = s.clusters := rfl
@[simp] theorem State.block_dies (s : State) : (s.block).dies = s.dies := rfl
@[simp] theorem State.block_joins (s : State) : (s.block).joins = s.joins := rfl
@[simp] theorem State.block_gens (s : State) : (s.block).gens = s.gens := rfl
@[simp] theorem State.block_parts (s : State) : (s.block).parts = s.parts := rfl
@[simp] theorem State.block_linksDown (s : State) : (s.block).linksDown = s.linksDown := rfl
@[simp] theorem State.block_relays (s : State) : (s.block).relays = s.relays := rfl
@[simp] theorem State.block_relay (s : State) : (s.block).relay = s.relay := rfl
@[simp] theorem State.block_mute (s : State) : (s.block).mute = s.mute := rfl
@[simp] theorem State.block_hdm (s : State) : (s.block).hdm = s.hdm := rfl
@[simp] theorem State.block_moves (s : State) : (s.block).moves = s.moves := rfl
@[simp] theorem State.block_slotUse (s : State) : (s.block).slotUse = s.slotUse := rfl
@[simp] theorem State.block_ioSlots (s : State) : (s.block).ioSlots = s.ioSlots := rfl
@[simp] theorem State.block_geos (s : State) : (s.block).geos = s.geos := rfl
@[simp] theorem State.block_insts (s : State) : (s.block).insts = s.insts := rfl
@[simp] theorem State.block_binds (s : State) : (s.block).binds = s.binds := rfl
@[simp] theorem State.block_vdevs (s : State) : (s.block).vdevs = s.vdevs := rfl
@[simp] theorem State.block_queues (s : State) : (s.block).queues = s.queues := rfl
@[simp] theorem State.block_turn (s : State) : (s.block).turn = s.turn := rfl
@[simp] theorem State.block_launches (s : State) : (s.block).launches = s.launches := rfl
@[simp] theorem State.block_wisps (s : State) : (s.block).wisps = s.wisps := rfl
@[simp] theorem State.block_seq (s : State) : (s.block).seq = s.seq := rfl
@[simp] theorem State.block_mbox (s : State) : (s.block).mbox = s.mbox := rfl
@[simp] theorem State.block_deadlines (s : State) : (s.block).deadlines = s.deadlines := rfl
@[simp] theorem State.block_measured (s : State) : (s.block).measured = s.measured := rfl
@[simp] theorem State.block_layout (s : State) : (s.block).layout = s.layout := rfl
@[simp] theorem State.block_images (s : State) : (s.block).images = s.images := rfl
@[simp] theorem State.block_log (s : State) : (s.block).log = s.log := rfl
@[simp] theorem State.block_logSeq (s : State) : (s.block).logSeq = s.logSeq := rfl
@[simp] theorem State.block_losses (s : State) : (s.block).losses = s.losses := rfl
@[simp] theorem State.block_tdisp (s : State) : (s.block).tdisp = s.tdisp := rfl
@[simp] theorem State.block_ide (s : State) : (s.block).ide = s.ide := rfl
@[simp] theorem State.block_spdmSession (s : State) : (s.block).spdmSession = s.spdmSession := rfl
@[simp] theorem State.block_fw (s : State) : (s.block).fw = s.fw := rfl
@[simp] theorem State.block_resets (s : State) : (s.block).resets = s.resets := rfl
@[simp] theorem State.block_out (s : State) : (s.block).out = s.out := rfl

/-! ### stall -/

@[simp] theorem State.stall_cur (s : State) : (s.stall).cur = s.cur := rfl
@[simp] theorem State.stall_sched (s : State) : (s.stall).sched = s.sched := rfl
@[simp] theorem State.stall_draw (s : State) : (s.stall).draw = s.draw := rfl
@[simp] theorem State.stall_evTurn (s : State) : (s.stall).evTurn = s.evTurn := rfl
@[simp] theorem State.stall_evCount (s : State) : (s.stall).evCount = s.evCount := rfl
@[simp] theorem State.stall_ringDev (s : State) : (s.stall).ringDev = s.ringDev := rfl
@[simp] theorem State.stall_identity (s : State) : (s.stall).identity = s.identity := rfl
@[simp] theorem State.stall_on (s : State) : (s.stall).on = s.on := rfl
@[simp] theorem State.stall_time (s : State) : (s.stall).time = s.time := rfl
@[simp] theorem State.stall_ps (s : State) : (s.stall).ps = s.ps := rfl
@[simp] theorem State.stall_pkg (s : State) : (s.stall).pkg = s.pkg := rfl
@[simp] theorem State.stall_fuse (s : State) : (s.stall).fuse = s.fuse := rfl
@[simp] theorem State.stall_mem (s : State) : (s.stall).mem = s.mem := rfl
@[simp] theorem State.stall_pois (s : State) : (s.stall).pois = s.pois := rfl
@[simp] theorem State.stall_dirtyMap (s : State) : (s.stall).dirtyMap = s.dirtyMap := rfl
@[simp] theorem State.stall_reg (s : State) : (s.stall).reg = s.reg := rfl
@[simp] theorem State.stall_pending (s : State) : (s.stall).pending = s.pending := rfl
@[simp] theorem State.stall_tents (s : State) : (s.stall).tents = s.tents := rfl
@[simp] theorem State.stall_waiters (s : State) : (s.stall).waiters = s.waiters := rfl
@[simp] theorem State.stall_clusters (s : State) : (s.stall).clusters = s.clusters := rfl
@[simp] theorem State.stall_dies (s : State) : (s.stall).dies = s.dies := rfl
@[simp] theorem State.stall_joins (s : State) : (s.stall).joins = s.joins := rfl
@[simp] theorem State.stall_gens (s : State) : (s.stall).gens = s.gens := rfl
@[simp] theorem State.stall_parts (s : State) : (s.stall).parts = s.parts := rfl
@[simp] theorem State.stall_linksDown (s : State) : (s.stall).linksDown = s.linksDown := rfl
@[simp] theorem State.stall_relays (s : State) : (s.stall).relays = s.relays := rfl
@[simp] theorem State.stall_relay (s : State) : (s.stall).relay = s.relay := rfl
@[simp] theorem State.stall_mute (s : State) : (s.stall).mute = s.mute := rfl
@[simp] theorem State.stall_hdm (s : State) : (s.stall).hdm = s.hdm := rfl
@[simp] theorem State.stall_moves (s : State) : (s.stall).moves = s.moves := rfl
@[simp] theorem State.stall_slotUse (s : State) : (s.stall).slotUse = s.slotUse := rfl
@[simp] theorem State.stall_ioSlots (s : State) : (s.stall).ioSlots = s.ioSlots := rfl
@[simp] theorem State.stall_geos (s : State) : (s.stall).geos = s.geos := rfl
@[simp] theorem State.stall_insts (s : State) : (s.stall).insts = s.insts := rfl
@[simp] theorem State.stall_binds (s : State) : (s.stall).binds = s.binds := rfl
@[simp] theorem State.stall_vdevs (s : State) : (s.stall).vdevs = s.vdevs := rfl
@[simp] theorem State.stall_queues (s : State) : (s.stall).queues = s.queues := rfl
@[simp] theorem State.stall_turn (s : State) : (s.stall).turn = s.turn := rfl
@[simp] theorem State.stall_launches (s : State) : (s.stall).launches = s.launches := rfl
@[simp] theorem State.stall_wisps (s : State) : (s.stall).wisps = s.wisps := rfl
@[simp] theorem State.stall_seq (s : State) : (s.stall).seq = s.seq := rfl
@[simp] theorem State.stall_mbox (s : State) : (s.stall).mbox = s.mbox := rfl
@[simp] theorem State.stall_deadlines (s : State) : (s.stall).deadlines = s.deadlines := rfl
@[simp] theorem State.stall_measured (s : State) : (s.stall).measured = s.measured := rfl
@[simp] theorem State.stall_layout (s : State) : (s.stall).layout = s.layout := rfl
@[simp] theorem State.stall_images (s : State) : (s.stall).images = s.images := rfl
@[simp] theorem State.stall_log (s : State) : (s.stall).log = s.log := rfl
@[simp] theorem State.stall_logSeq (s : State) : (s.stall).logSeq = s.logSeq := rfl
@[simp] theorem State.stall_losses (s : State) : (s.stall).losses = s.losses := rfl
@[simp] theorem State.stall_tdisp (s : State) : (s.stall).tdisp = s.tdisp := rfl
@[simp] theorem State.stall_ide (s : State) : (s.stall).ide = s.ide := rfl
@[simp] theorem State.stall_spdmSession (s : State) : (s.stall).spdmSession = s.spdmSession := rfl
@[simp] theorem State.stall_fw (s : State) : (s.stall).fw = s.fw := rfl
@[simp] theorem State.stall_resets (s : State) : (s.stall).resets = s.resets := rfl
@[simp] theorem State.stall_out (s : State) : (s.stall).out = s.out := rfl

/-! ### updCluster -/

@[simp] theorem State.updCluster_cur (s : State) (k : Nat) (f : Cluster → Cluster) : (s.updCluster k f).cur = s.cur := rfl
@[simp] theorem State.updCluster_sched (s : State) (k : Nat) (f : Cluster → Cluster) : (s.updCluster k f).sched = s.sched := rfl
@[simp] theorem State.updCluster_draw (s : State) (k : Nat) (f : Cluster → Cluster) : (s.updCluster k f).draw = s.draw := rfl
@[simp] theorem State.updCluster_evTurn (s : State) (k : Nat) (f : Cluster → Cluster) : (s.updCluster k f).evTurn = s.evTurn := rfl
@[simp] theorem State.updCluster_evCount (s : State) (k : Nat) (f : Cluster → Cluster) : (s.updCluster k f).evCount = s.evCount := rfl
@[simp] theorem State.updCluster_ringDev (s : State) (k : Nat) (f : Cluster → Cluster) : (s.updCluster k f).ringDev = s.ringDev := rfl
@[simp] theorem State.updCluster_identity (s : State) (k : Nat) (f : Cluster → Cluster) : (s.updCluster k f).identity = s.identity := rfl
@[simp] theorem State.updCluster_on (s : State) (k : Nat) (f : Cluster → Cluster) : (s.updCluster k f).on = s.on := rfl
@[simp] theorem State.updCluster_time (s : State) (k : Nat) (f : Cluster → Cluster) : (s.updCluster k f).time = s.time := rfl
@[simp] theorem State.updCluster_ps (s : State) (k : Nat) (f : Cluster → Cluster) : (s.updCluster k f).ps = s.ps := rfl
@[simp] theorem State.updCluster_pkg (s : State) (k : Nat) (f : Cluster → Cluster) : (s.updCluster k f).pkg = s.pkg := rfl
@[simp] theorem State.updCluster_fuse (s : State) (k : Nat) (f : Cluster → Cluster) : (s.updCluster k f).fuse = s.fuse := rfl
@[simp] theorem State.updCluster_mem (s : State) (k : Nat) (f : Cluster → Cluster) : (s.updCluster k f).mem = s.mem := rfl
@[simp] theorem State.updCluster_pois (s : State) (k : Nat) (f : Cluster → Cluster) : (s.updCluster k f).pois = s.pois := rfl
@[simp] theorem State.updCluster_dirtyMap (s : State) (k : Nat) (f : Cluster → Cluster) : (s.updCluster k f).dirtyMap = s.dirtyMap := rfl
@[simp] theorem State.updCluster_reg (s : State) (k : Nat) (f : Cluster → Cluster) : (s.updCluster k f).reg = s.reg := rfl
@[simp] theorem State.updCluster_pending (s : State) (k : Nat) (f : Cluster → Cluster) : (s.updCluster k f).pending = s.pending := rfl
@[simp] theorem State.updCluster_tents (s : State) (k : Nat) (f : Cluster → Cluster) : (s.updCluster k f).tents = s.tents := rfl
@[simp] theorem State.updCluster_waiters (s : State) (k : Nat) (f : Cluster → Cluster) : (s.updCluster k f).waiters = s.waiters := rfl
@[simp] theorem State.updCluster_cores (s : State) (k : Nat) (f : Cluster → Cluster) : (s.updCluster k f).cores = s.cores := rfl
@[simp] theorem State.updCluster_dies (s : State) (k : Nat) (f : Cluster → Cluster) : (s.updCluster k f).dies = s.dies := rfl
@[simp] theorem State.updCluster_joins (s : State) (k : Nat) (f : Cluster → Cluster) : (s.updCluster k f).joins = s.joins := rfl
@[simp] theorem State.updCluster_gens (s : State) (k : Nat) (f : Cluster → Cluster) : (s.updCluster k f).gens = s.gens := rfl
@[simp] theorem State.updCluster_parts (s : State) (k : Nat) (f : Cluster → Cluster) : (s.updCluster k f).parts = s.parts := rfl
@[simp] theorem State.updCluster_linksDown (s : State) (k : Nat) (f : Cluster → Cluster) : (s.updCluster k f).linksDown = s.linksDown := rfl
@[simp] theorem State.updCluster_relays (s : State) (k : Nat) (f : Cluster → Cluster) : (s.updCluster k f).relays = s.relays := rfl
@[simp] theorem State.updCluster_relay (s : State) (k : Nat) (f : Cluster → Cluster) : (s.updCluster k f).relay = s.relay := rfl
@[simp] theorem State.updCluster_mute (s : State) (k : Nat) (f : Cluster → Cluster) : (s.updCluster k f).mute = s.mute := rfl
@[simp] theorem State.updCluster_hdm (s : State) (k : Nat) (f : Cluster → Cluster) : (s.updCluster k f).hdm = s.hdm := rfl
@[simp] theorem State.updCluster_moves (s : State) (k : Nat) (f : Cluster → Cluster) : (s.updCluster k f).moves = s.moves := rfl
@[simp] theorem State.updCluster_slotUse (s : State) (k : Nat) (f : Cluster → Cluster) : (s.updCluster k f).slotUse = s.slotUse := rfl
@[simp] theorem State.updCluster_ioSlots (s : State) (k : Nat) (f : Cluster → Cluster) : (s.updCluster k f).ioSlots = s.ioSlots := rfl
@[simp] theorem State.updCluster_geos (s : State) (k : Nat) (f : Cluster → Cluster) : (s.updCluster k f).geos = s.geos := rfl
@[simp] theorem State.updCluster_insts (s : State) (k : Nat) (f : Cluster → Cluster) : (s.updCluster k f).insts = s.insts := rfl
@[simp] theorem State.updCluster_binds (s : State) (k : Nat) (f : Cluster → Cluster) : (s.updCluster k f).binds = s.binds := rfl
@[simp] theorem State.updCluster_vdevs (s : State) (k : Nat) (f : Cluster → Cluster) : (s.updCluster k f).vdevs = s.vdevs := rfl
@[simp] theorem State.updCluster_queues (s : State) (k : Nat) (f : Cluster → Cluster) : (s.updCluster k f).queues = s.queues := rfl
@[simp] theorem State.updCluster_turn (s : State) (k : Nat) (f : Cluster → Cluster) : (s.updCluster k f).turn = s.turn := rfl
@[simp] theorem State.updCluster_launches (s : State) (k : Nat) (f : Cluster → Cluster) : (s.updCluster k f).launches = s.launches := rfl
@[simp] theorem State.updCluster_wisps (s : State) (k : Nat) (f : Cluster → Cluster) : (s.updCluster k f).wisps = s.wisps := rfl
@[simp] theorem State.updCluster_seq (s : State) (k : Nat) (f : Cluster → Cluster) : (s.updCluster k f).seq = s.seq := rfl
@[simp] theorem State.updCluster_mbox (s : State) (k : Nat) (f : Cluster → Cluster) : (s.updCluster k f).mbox = s.mbox := rfl
@[simp] theorem State.updCluster_deadlines (s : State) (k : Nat) (f : Cluster → Cluster) : (s.updCluster k f).deadlines = s.deadlines := rfl
@[simp] theorem State.updCluster_measured (s : State) (k : Nat) (f : Cluster → Cluster) : (s.updCluster k f).measured = s.measured := rfl
@[simp] theorem State.updCluster_layout (s : State) (k : Nat) (f : Cluster → Cluster) : (s.updCluster k f).layout = s.layout := rfl
@[simp] theorem State.updCluster_images (s : State) (k : Nat) (f : Cluster → Cluster) : (s.updCluster k f).images = s.images := rfl
@[simp] theorem State.updCluster_log (s : State) (k : Nat) (f : Cluster → Cluster) : (s.updCluster k f).log = s.log := rfl
@[simp] theorem State.updCluster_logSeq (s : State) (k : Nat) (f : Cluster → Cluster) : (s.updCluster k f).logSeq = s.logSeq := rfl
@[simp] theorem State.updCluster_losses (s : State) (k : Nat) (f : Cluster → Cluster) : (s.updCluster k f).losses = s.losses := rfl
@[simp] theorem State.updCluster_tdisp (s : State) (k : Nat) (f : Cluster → Cluster) : (s.updCluster k f).tdisp = s.tdisp := rfl
@[simp] theorem State.updCluster_ide (s : State) (k : Nat) (f : Cluster → Cluster) : (s.updCluster k f).ide = s.ide := rfl
@[simp] theorem State.updCluster_spdmSession (s : State) (k : Nat) (f : Cluster → Cluster) : (s.updCluster k f).spdmSession = s.spdmSession := rfl
@[simp] theorem State.updCluster_fw (s : State) (k : Nat) (f : Cluster → Cluster) : (s.updCluster k f).fw = s.fw := rfl
@[simp] theorem State.updCluster_resets (s : State) (k : Nat) (f : Cluster → Cluster) : (s.updCluster k f).resets = s.resets := rfl
@[simp] theorem State.updCluster_out (s : State) (k : Nat) (f : Cluster → Cluster) : (s.updCluster k f).out = s.out := rfl

/-! ### updDie -/

@[simp] theorem State.updDie_cur (s : State) (d : Nat) (f : Die → Die) : (s.updDie d f).cur = s.cur := rfl
@[simp] theorem State.updDie_sched (s : State) (d : Nat) (f : Die → Die) : (s.updDie d f).sched = s.sched := rfl
@[simp] theorem State.updDie_draw (s : State) (d : Nat) (f : Die → Die) : (s.updDie d f).draw = s.draw := rfl
@[simp] theorem State.updDie_evTurn (s : State) (d : Nat) (f : Die → Die) : (s.updDie d f).evTurn = s.evTurn := rfl
@[simp] theorem State.updDie_evCount (s : State) (d : Nat) (f : Die → Die) : (s.updDie d f).evCount = s.evCount := rfl
@[simp] theorem State.updDie_ringDev (s : State) (d : Nat) (f : Die → Die) : (s.updDie d f).ringDev = s.ringDev := rfl
@[simp] theorem State.updDie_identity (s : State) (d : Nat) (f : Die → Die) : (s.updDie d f).identity = s.identity := rfl
@[simp] theorem State.updDie_on (s : State) (d : Nat) (f : Die → Die) : (s.updDie d f).on = s.on := rfl
@[simp] theorem State.updDie_time (s : State) (d : Nat) (f : Die → Die) : (s.updDie d f).time = s.time := rfl
@[simp] theorem State.updDie_ps (s : State) (d : Nat) (f : Die → Die) : (s.updDie d f).ps = s.ps := rfl
@[simp] theorem State.updDie_pkg (s : State) (d : Nat) (f : Die → Die) : (s.updDie d f).pkg = s.pkg := rfl
@[simp] theorem State.updDie_fuse (s : State) (d : Nat) (f : Die → Die) : (s.updDie d f).fuse = s.fuse := rfl
@[simp] theorem State.updDie_mem (s : State) (d : Nat) (f : Die → Die) : (s.updDie d f).mem = s.mem := rfl
@[simp] theorem State.updDie_pois (s : State) (d : Nat) (f : Die → Die) : (s.updDie d f).pois = s.pois := rfl
@[simp] theorem State.updDie_dirtyMap (s : State) (d : Nat) (f : Die → Die) : (s.updDie d f).dirtyMap = s.dirtyMap := rfl
@[simp] theorem State.updDie_reg (s : State) (d : Nat) (f : Die → Die) : (s.updDie d f).reg = s.reg := rfl
@[simp] theorem State.updDie_pending (s : State) (d : Nat) (f : Die → Die) : (s.updDie d f).pending = s.pending := rfl
@[simp] theorem State.updDie_tents (s : State) (d : Nat) (f : Die → Die) : (s.updDie d f).tents = s.tents := rfl
@[simp] theorem State.updDie_waiters (s : State) (d : Nat) (f : Die → Die) : (s.updDie d f).waiters = s.waiters := rfl
@[simp] theorem State.updDie_cores (s : State) (d : Nat) (f : Die → Die) : (s.updDie d f).cores = s.cores := rfl
@[simp] theorem State.updDie_clusters (s : State) (d : Nat) (f : Die → Die) : (s.updDie d f).clusters = s.clusters := rfl
@[simp] theorem State.updDie_joins (s : State) (d : Nat) (f : Die → Die) : (s.updDie d f).joins = s.joins := rfl
@[simp] theorem State.updDie_gens (s : State) (d : Nat) (f : Die → Die) : (s.updDie d f).gens = s.gens := rfl
@[simp] theorem State.updDie_parts (s : State) (d : Nat) (f : Die → Die) : (s.updDie d f).parts = s.parts := rfl
@[simp] theorem State.updDie_linksDown (s : State) (d : Nat) (f : Die → Die) : (s.updDie d f).linksDown = s.linksDown := rfl
@[simp] theorem State.updDie_relays (s : State) (d : Nat) (f : Die → Die) : (s.updDie d f).relays = s.relays := rfl
@[simp] theorem State.updDie_relay (s : State) (d : Nat) (f : Die → Die) : (s.updDie d f).relay = s.relay := rfl
@[simp] theorem State.updDie_mute (s : State) (d : Nat) (f : Die → Die) : (s.updDie d f).mute = s.mute := rfl
@[simp] theorem State.updDie_hdm (s : State) (d : Nat) (f : Die → Die) : (s.updDie d f).hdm = s.hdm := rfl
@[simp] theorem State.updDie_moves (s : State) (d : Nat) (f : Die → Die) : (s.updDie d f).moves = s.moves := rfl
@[simp] theorem State.updDie_slotUse (s : State) (d : Nat) (f : Die → Die) : (s.updDie d f).slotUse = s.slotUse := rfl
@[simp] theorem State.updDie_ioSlots (s : State) (d : Nat) (f : Die → Die) : (s.updDie d f).ioSlots = s.ioSlots := rfl
@[simp] theorem State.updDie_geos (s : State) (d : Nat) (f : Die → Die) : (s.updDie d f).geos = s.geos := rfl
@[simp] theorem State.updDie_insts (s : State) (d : Nat) (f : Die → Die) : (s.updDie d f).insts = s.insts := rfl
@[simp] theorem State.updDie_binds (s : State) (d : Nat) (f : Die → Die) : (s.updDie d f).binds = s.binds := rfl
@[simp] theorem State.updDie_vdevs (s : State) (d : Nat) (f : Die → Die) : (s.updDie d f).vdevs = s.vdevs := rfl
@[simp] theorem State.updDie_queues (s : State) (d : Nat) (f : Die → Die) : (s.updDie d f).queues = s.queues := rfl
@[simp] theorem State.updDie_turn (s : State) (d : Nat) (f : Die → Die) : (s.updDie d f).turn = s.turn := rfl
@[simp] theorem State.updDie_launches (s : State) (d : Nat) (f : Die → Die) : (s.updDie d f).launches = s.launches := rfl
@[simp] theorem State.updDie_wisps (s : State) (d : Nat) (f : Die → Die) : (s.updDie d f).wisps = s.wisps := rfl
@[simp] theorem State.updDie_seq (s : State) (d : Nat) (f : Die → Die) : (s.updDie d f).seq = s.seq := rfl
@[simp] theorem State.updDie_mbox (s : State) (d : Nat) (f : Die → Die) : (s.updDie d f).mbox = s.mbox := rfl
@[simp] theorem State.updDie_deadlines (s : State) (d : Nat) (f : Die → Die) : (s.updDie d f).deadlines = s.deadlines := rfl
@[simp] theorem State.updDie_measured (s : State) (d : Nat) (f : Die → Die) : (s.updDie d f).measured = s.measured := rfl
@[simp] theorem State.updDie_layout (s : State) (d : Nat) (f : Die → Die) : (s.updDie d f).layout = s.layout := rfl
@[simp] theorem State.updDie_images (s : State) (d : Nat) (f : Die → Die) : (s.updDie d f).images = s.images := rfl
@[simp] theorem State.updDie_log (s : State) (d : Nat) (f : Die → Die) : (s.updDie d f).log = s.log := rfl
@[simp] theorem State.updDie_logSeq (s : State) (d : Nat) (f : Die → Die) : (s.updDie d f).logSeq = s.logSeq := rfl
@[simp] theorem State.updDie_losses (s : State) (d : Nat) (f : Die → Die) : (s.updDie d f).losses = s.losses := rfl
@[simp] theorem State.updDie_tdisp (s : State) (d : Nat) (f : Die → Die) : (s.updDie d f).tdisp = s.tdisp := rfl
@[simp] theorem State.updDie_ide (s : State) (d : Nat) (f : Die → Die) : (s.updDie d f).ide = s.ide := rfl
@[simp] theorem State.updDie_spdmSession (s : State) (d : Nat) (f : Die → Die) : (s.updDie d f).spdmSession = s.spdmSession := rfl
@[simp] theorem State.updDie_fw (s : State) (d : Nat) (f : Die → Die) : (s.updDie d f).fw = s.fw := rfl
@[simp] theorem State.updDie_resets (s : State) (d : Nat) (f : Die → Die) : (s.updDie d f).resets = s.resets := rfl
@[simp] theorem State.updDie_out (s : State) (d : Nat) (f : Die → Die) : (s.updDie d f).out = s.out := rfl

/-! ### updWisp -/

@[simp] theorem State.updWisp_cur (s : State) (k : Nat) (f : Wisp → Wisp) : (s.updWisp k f).cur = s.cur := rfl
@[simp] theorem State.updWisp_sched (s : State) (k : Nat) (f : Wisp → Wisp) : (s.updWisp k f).sched = s.sched := rfl
@[simp] theorem State.updWisp_draw (s : State) (k : Nat) (f : Wisp → Wisp) : (s.updWisp k f).draw = s.draw := rfl
@[simp] theorem State.updWisp_evTurn (s : State) (k : Nat) (f : Wisp → Wisp) : (s.updWisp k f).evTurn = s.evTurn := rfl
@[simp] theorem State.updWisp_evCount (s : State) (k : Nat) (f : Wisp → Wisp) : (s.updWisp k f).evCount = s.evCount := rfl
@[simp] theorem State.updWisp_ringDev (s : State) (k : Nat) (f : Wisp → Wisp) : (s.updWisp k f).ringDev = s.ringDev := rfl
@[simp] theorem State.updWisp_identity (s : State) (k : Nat) (f : Wisp → Wisp) : (s.updWisp k f).identity = s.identity := rfl
@[simp] theorem State.updWisp_on (s : State) (k : Nat) (f : Wisp → Wisp) : (s.updWisp k f).on = s.on := rfl
@[simp] theorem State.updWisp_time (s : State) (k : Nat) (f : Wisp → Wisp) : (s.updWisp k f).time = s.time := rfl
@[simp] theorem State.updWisp_ps (s : State) (k : Nat) (f : Wisp → Wisp) : (s.updWisp k f).ps = s.ps := rfl
@[simp] theorem State.updWisp_pkg (s : State) (k : Nat) (f : Wisp → Wisp) : (s.updWisp k f).pkg = s.pkg := rfl
@[simp] theorem State.updWisp_fuse (s : State) (k : Nat) (f : Wisp → Wisp) : (s.updWisp k f).fuse = s.fuse := rfl
@[simp] theorem State.updWisp_mem (s : State) (k : Nat) (f : Wisp → Wisp) : (s.updWisp k f).mem = s.mem := rfl
@[simp] theorem State.updWisp_pois (s : State) (k : Nat) (f : Wisp → Wisp) : (s.updWisp k f).pois = s.pois := rfl
@[simp] theorem State.updWisp_dirtyMap (s : State) (k : Nat) (f : Wisp → Wisp) : (s.updWisp k f).dirtyMap = s.dirtyMap := rfl
@[simp] theorem State.updWisp_reg (s : State) (k : Nat) (f : Wisp → Wisp) : (s.updWisp k f).reg = s.reg := rfl
@[simp] theorem State.updWisp_pending (s : State) (k : Nat) (f : Wisp → Wisp) : (s.updWisp k f).pending = s.pending := rfl
@[simp] theorem State.updWisp_tents (s : State) (k : Nat) (f : Wisp → Wisp) : (s.updWisp k f).tents = s.tents := rfl
@[simp] theorem State.updWisp_waiters (s : State) (k : Nat) (f : Wisp → Wisp) : (s.updWisp k f).waiters = s.waiters := rfl
@[simp] theorem State.updWisp_cores (s : State) (k : Nat) (f : Wisp → Wisp) : (s.updWisp k f).cores = s.cores := rfl
@[simp] theorem State.updWisp_clusters (s : State) (k : Nat) (f : Wisp → Wisp) : (s.updWisp k f).clusters = s.clusters := rfl
@[simp] theorem State.updWisp_dies (s : State) (k : Nat) (f : Wisp → Wisp) : (s.updWisp k f).dies = s.dies := rfl
@[simp] theorem State.updWisp_joins (s : State) (k : Nat) (f : Wisp → Wisp) : (s.updWisp k f).joins = s.joins := rfl
@[simp] theorem State.updWisp_gens (s : State) (k : Nat) (f : Wisp → Wisp) : (s.updWisp k f).gens = s.gens := rfl
@[simp] theorem State.updWisp_parts (s : State) (k : Nat) (f : Wisp → Wisp) : (s.updWisp k f).parts = s.parts := rfl
@[simp] theorem State.updWisp_linksDown (s : State) (k : Nat) (f : Wisp → Wisp) : (s.updWisp k f).linksDown = s.linksDown := rfl
@[simp] theorem State.updWisp_relays (s : State) (k : Nat) (f : Wisp → Wisp) : (s.updWisp k f).relays = s.relays := rfl
@[simp] theorem State.updWisp_relay (s : State) (k : Nat) (f : Wisp → Wisp) : (s.updWisp k f).relay = s.relay := rfl
@[simp] theorem State.updWisp_mute (s : State) (k : Nat) (f : Wisp → Wisp) : (s.updWisp k f).mute = s.mute := rfl
@[simp] theorem State.updWisp_hdm (s : State) (k : Nat) (f : Wisp → Wisp) : (s.updWisp k f).hdm = s.hdm := rfl
@[simp] theorem State.updWisp_moves (s : State) (k : Nat) (f : Wisp → Wisp) : (s.updWisp k f).moves = s.moves := rfl
@[simp] theorem State.updWisp_slotUse (s : State) (k : Nat) (f : Wisp → Wisp) : (s.updWisp k f).slotUse = s.slotUse := rfl
@[simp] theorem State.updWisp_ioSlots (s : State) (k : Nat) (f : Wisp → Wisp) : (s.updWisp k f).ioSlots = s.ioSlots := rfl
@[simp] theorem State.updWisp_geos (s : State) (k : Nat) (f : Wisp → Wisp) : (s.updWisp k f).geos = s.geos := rfl
@[simp] theorem State.updWisp_insts (s : State) (k : Nat) (f : Wisp → Wisp) : (s.updWisp k f).insts = s.insts := rfl
@[simp] theorem State.updWisp_binds (s : State) (k : Nat) (f : Wisp → Wisp) : (s.updWisp k f).binds = s.binds := rfl
@[simp] theorem State.updWisp_vdevs (s : State) (k : Nat) (f : Wisp → Wisp) : (s.updWisp k f).vdevs = s.vdevs := rfl
@[simp] theorem State.updWisp_queues (s : State) (k : Nat) (f : Wisp → Wisp) : (s.updWisp k f).queues = s.queues := rfl
@[simp] theorem State.updWisp_turn (s : State) (k : Nat) (f : Wisp → Wisp) : (s.updWisp k f).turn = s.turn := rfl
@[simp] theorem State.updWisp_launches (s : State) (k : Nat) (f : Wisp → Wisp) : (s.updWisp k f).launches = s.launches := rfl
@[simp] theorem State.updWisp_seq (s : State) (k : Nat) (f : Wisp → Wisp) : (s.updWisp k f).seq = s.seq := rfl
@[simp] theorem State.updWisp_mbox (s : State) (k : Nat) (f : Wisp → Wisp) : (s.updWisp k f).mbox = s.mbox := rfl
@[simp] theorem State.updWisp_deadlines (s : State) (k : Nat) (f : Wisp → Wisp) : (s.updWisp k f).deadlines = s.deadlines := rfl
@[simp] theorem State.updWisp_measured (s : State) (k : Nat) (f : Wisp → Wisp) : (s.updWisp k f).measured = s.measured := rfl
@[simp] theorem State.updWisp_layout (s : State) (k : Nat) (f : Wisp → Wisp) : (s.updWisp k f).layout = s.layout := rfl
@[simp] theorem State.updWisp_images (s : State) (k : Nat) (f : Wisp → Wisp) : (s.updWisp k f).images = s.images := rfl
@[simp] theorem State.updWisp_log (s : State) (k : Nat) (f : Wisp → Wisp) : (s.updWisp k f).log = s.log := rfl
@[simp] theorem State.updWisp_logSeq (s : State) (k : Nat) (f : Wisp → Wisp) : (s.updWisp k f).logSeq = s.logSeq := rfl
@[simp] theorem State.updWisp_losses (s : State) (k : Nat) (f : Wisp → Wisp) : (s.updWisp k f).losses = s.losses := rfl
@[simp] theorem State.updWisp_tdisp (s : State) (k : Nat) (f : Wisp → Wisp) : (s.updWisp k f).tdisp = s.tdisp := rfl
@[simp] theorem State.updWisp_ide (s : State) (k : Nat) (f : Wisp → Wisp) : (s.updWisp k f).ide = s.ide := rfl
@[simp] theorem State.updWisp_spdmSession (s : State) (k : Nat) (f : Wisp → Wisp) : (s.updWisp k f).spdmSession = s.spdmSession := rfl
@[simp] theorem State.updWisp_fw (s : State) (k : Nat) (f : Wisp → Wisp) : (s.updWisp k f).fw = s.fw := rfl
@[simp] theorem State.updWisp_resets (s : State) (k : Nat) (f : Wisp → Wisp) : (s.updWisp k f).resets = s.resets := rfl
@[simp] theorem State.updWisp_out (s : State) (k : Nat) (f : Wisp → Wisp) : (s.updWisp k f).out = s.out := rfl

/-! ### updLaunch -/

@[simp] theorem State.updLaunch_cur (s : State) (l : Nat) (f : Launch → Launch) : (s.updLaunch l f).cur = s.cur := rfl
@[simp] theorem State.updLaunch_sched (s : State) (l : Nat) (f : Launch → Launch) : (s.updLaunch l f).sched = s.sched := rfl
@[simp] theorem State.updLaunch_draw (s : State) (l : Nat) (f : Launch → Launch) : (s.updLaunch l f).draw = s.draw := rfl
@[simp] theorem State.updLaunch_evTurn (s : State) (l : Nat) (f : Launch → Launch) : (s.updLaunch l f).evTurn = s.evTurn := rfl
@[simp] theorem State.updLaunch_evCount (s : State) (l : Nat) (f : Launch → Launch) : (s.updLaunch l f).evCount = s.evCount := rfl
@[simp] theorem State.updLaunch_ringDev (s : State) (l : Nat) (f : Launch → Launch) : (s.updLaunch l f).ringDev = s.ringDev := rfl
@[simp] theorem State.updLaunch_identity (s : State) (l : Nat) (f : Launch → Launch) : (s.updLaunch l f).identity = s.identity := rfl
@[simp] theorem State.updLaunch_on (s : State) (l : Nat) (f : Launch → Launch) : (s.updLaunch l f).on = s.on := rfl
@[simp] theorem State.updLaunch_time (s : State) (l : Nat) (f : Launch → Launch) : (s.updLaunch l f).time = s.time := rfl
@[simp] theorem State.updLaunch_ps (s : State) (l : Nat) (f : Launch → Launch) : (s.updLaunch l f).ps = s.ps := rfl
@[simp] theorem State.updLaunch_pkg (s : State) (l : Nat) (f : Launch → Launch) : (s.updLaunch l f).pkg = s.pkg := rfl
@[simp] theorem State.updLaunch_fuse (s : State) (l : Nat) (f : Launch → Launch) : (s.updLaunch l f).fuse = s.fuse := rfl
@[simp] theorem State.updLaunch_mem (s : State) (l : Nat) (f : Launch → Launch) : (s.updLaunch l f).mem = s.mem := rfl
@[simp] theorem State.updLaunch_pois (s : State) (l : Nat) (f : Launch → Launch) : (s.updLaunch l f).pois = s.pois := rfl
@[simp] theorem State.updLaunch_dirtyMap (s : State) (l : Nat) (f : Launch → Launch) : (s.updLaunch l f).dirtyMap = s.dirtyMap := rfl
@[simp] theorem State.updLaunch_reg (s : State) (l : Nat) (f : Launch → Launch) : (s.updLaunch l f).reg = s.reg := rfl
@[simp] theorem State.updLaunch_pending (s : State) (l : Nat) (f : Launch → Launch) : (s.updLaunch l f).pending = s.pending := rfl
@[simp] theorem State.updLaunch_tents (s : State) (l : Nat) (f : Launch → Launch) : (s.updLaunch l f).tents = s.tents := rfl
@[simp] theorem State.updLaunch_waiters (s : State) (l : Nat) (f : Launch → Launch) : (s.updLaunch l f).waiters = s.waiters := rfl
@[simp] theorem State.updLaunch_cores (s : State) (l : Nat) (f : Launch → Launch) : (s.updLaunch l f).cores = s.cores := rfl
@[simp] theorem State.updLaunch_clusters (s : State) (l : Nat) (f : Launch → Launch) : (s.updLaunch l f).clusters = s.clusters := rfl
@[simp] theorem State.updLaunch_dies (s : State) (l : Nat) (f : Launch → Launch) : (s.updLaunch l f).dies = s.dies := rfl
@[simp] theorem State.updLaunch_joins (s : State) (l : Nat) (f : Launch → Launch) : (s.updLaunch l f).joins = s.joins := rfl
@[simp] theorem State.updLaunch_gens (s : State) (l : Nat) (f : Launch → Launch) : (s.updLaunch l f).gens = s.gens := rfl
@[simp] theorem State.updLaunch_parts (s : State) (l : Nat) (f : Launch → Launch) : (s.updLaunch l f).parts = s.parts := rfl
@[simp] theorem State.updLaunch_linksDown (s : State) (l : Nat) (f : Launch → Launch) : (s.updLaunch l f).linksDown = s.linksDown := rfl
@[simp] theorem State.updLaunch_relays (s : State) (l : Nat) (f : Launch → Launch) : (s.updLaunch l f).relays = s.relays := rfl
@[simp] theorem State.updLaunch_relay (s : State) (l : Nat) (f : Launch → Launch) : (s.updLaunch l f).relay = s.relay := rfl
@[simp] theorem State.updLaunch_mute (s : State) (l : Nat) (f : Launch → Launch) : (s.updLaunch l f).mute = s.mute := rfl
@[simp] theorem State.updLaunch_hdm (s : State) (l : Nat) (f : Launch → Launch) : (s.updLaunch l f).hdm = s.hdm := rfl
@[simp] theorem State.updLaunch_moves (s : State) (l : Nat) (f : Launch → Launch) : (s.updLaunch l f).moves = s.moves := rfl
@[simp] theorem State.updLaunch_slotUse (s : State) (l : Nat) (f : Launch → Launch) : (s.updLaunch l f).slotUse = s.slotUse := rfl
@[simp] theorem State.updLaunch_ioSlots (s : State) (l : Nat) (f : Launch → Launch) : (s.updLaunch l f).ioSlots = s.ioSlots := rfl
@[simp] theorem State.updLaunch_geos (s : State) (l : Nat) (f : Launch → Launch) : (s.updLaunch l f).geos = s.geos := rfl
@[simp] theorem State.updLaunch_insts (s : State) (l : Nat) (f : Launch → Launch) : (s.updLaunch l f).insts = s.insts := rfl
@[simp] theorem State.updLaunch_binds (s : State) (l : Nat) (f : Launch → Launch) : (s.updLaunch l f).binds = s.binds := rfl
@[simp] theorem State.updLaunch_vdevs (s : State) (l : Nat) (f : Launch → Launch) : (s.updLaunch l f).vdevs = s.vdevs := rfl
@[simp] theorem State.updLaunch_queues (s : State) (l : Nat) (f : Launch → Launch) : (s.updLaunch l f).queues = s.queues := rfl
@[simp] theorem State.updLaunch_turn (s : State) (l : Nat) (f : Launch → Launch) : (s.updLaunch l f).turn = s.turn := rfl
@[simp] theorem State.updLaunch_wisps (s : State) (l : Nat) (f : Launch → Launch) : (s.updLaunch l f).wisps = s.wisps := rfl
@[simp] theorem State.updLaunch_seq (s : State) (l : Nat) (f : Launch → Launch) : (s.updLaunch l f).seq = s.seq := rfl
@[simp] theorem State.updLaunch_mbox (s : State) (l : Nat) (f : Launch → Launch) : (s.updLaunch l f).mbox = s.mbox := rfl
@[simp] theorem State.updLaunch_deadlines (s : State) (l : Nat) (f : Launch → Launch) : (s.updLaunch l f).deadlines = s.deadlines := rfl
@[simp] theorem State.updLaunch_measured (s : State) (l : Nat) (f : Launch → Launch) : (s.updLaunch l f).measured = s.measured := rfl
@[simp] theorem State.updLaunch_layout (s : State) (l : Nat) (f : Launch → Launch) : (s.updLaunch l f).layout = s.layout := rfl
@[simp] theorem State.updLaunch_images (s : State) (l : Nat) (f : Launch → Launch) : (s.updLaunch l f).images = s.images := rfl
@[simp] theorem State.updLaunch_log (s : State) (l : Nat) (f : Launch → Launch) : (s.updLaunch l f).log = s.log := rfl
@[simp] theorem State.updLaunch_logSeq (s : State) (l : Nat) (f : Launch → Launch) : (s.updLaunch l f).logSeq = s.logSeq := rfl
@[simp] theorem State.updLaunch_losses (s : State) (l : Nat) (f : Launch → Launch) : (s.updLaunch l f).losses = s.losses := rfl
@[simp] theorem State.updLaunch_tdisp (s : State) (l : Nat) (f : Launch → Launch) : (s.updLaunch l f).tdisp = s.tdisp := rfl
@[simp] theorem State.updLaunch_ide (s : State) (l : Nat) (f : Launch → Launch) : (s.updLaunch l f).ide = s.ide := rfl
@[simp] theorem State.updLaunch_spdmSession (s : State) (l : Nat) (f : Launch → Launch) : (s.updLaunch l f).spdmSession = s.spdmSession := rfl
@[simp] theorem State.updLaunch_fw (s : State) (l : Nat) (f : Launch → Launch) : (s.updLaunch l f).fw = s.fw := rfl
@[simp] theorem State.updLaunch_resets (s : State) (l : Nat) (f : Launch → Launch) : (s.updLaunch l f).resets = s.resets := rfl
@[simp] theorem State.updLaunch_out (s : State) (l : Nat) (f : Launch → Launch) : (s.updLaunch l f).out = s.out := rfl

/-! ### updVdev -/

@[simp] theorem State.updVdev_cur (s : State) (n : Nat) (f : VDev → VDev) : (s.updVdev n f).cur = s.cur := rfl
@[simp] theorem State.updVdev_sched (s : State) (n : Nat) (f : VDev → VDev) : (s.updVdev n f).sched = s.sched := rfl
@[simp] theorem State.updVdev_draw (s : State) (n : Nat) (f : VDev → VDev) : (s.updVdev n f).draw = s.draw := rfl
@[simp] theorem State.updVdev_evTurn (s : State) (n : Nat) (f : VDev → VDev) : (s.updVdev n f).evTurn = s.evTurn := rfl
@[simp] theorem State.updVdev_evCount (s : State) (n : Nat) (f : VDev → VDev) : (s.updVdev n f).evCount = s.evCount := rfl
@[simp] theorem State.updVdev_ringDev (s : State) (n : Nat) (f : VDev → VDev) : (s.updVdev n f).ringDev = s.ringDev := rfl
@[simp] theorem State.updVdev_identity (s : State) (n : Nat) (f : VDev → VDev) : (s.updVdev n f).identity = s.identity := rfl
@[simp] theorem State.updVdev_on (s : State) (n : Nat) (f : VDev → VDev) : (s.updVdev n f).on = s.on := rfl
@[simp] theorem State.updVdev_time (s : State) (n : Nat) (f : VDev → VDev) : (s.updVdev n f).time = s.time := rfl
@[simp] theorem State.updVdev_ps (s : State) (n : Nat) (f : VDev → VDev) : (s.updVdev n f).ps = s.ps := rfl
@[simp] theorem State.updVdev_pkg (s : State) (n : Nat) (f : VDev → VDev) : (s.updVdev n f).pkg = s.pkg := rfl
@[simp] theorem State.updVdev_fuse (s : State) (n : Nat) (f : VDev → VDev) : (s.updVdev n f).fuse = s.fuse := rfl
@[simp] theorem State.updVdev_mem (s : State) (n : Nat) (f : VDev → VDev) : (s.updVdev n f).mem = s.mem := rfl
@[simp] theorem State.updVdev_pois (s : State) (n : Nat) (f : VDev → VDev) : (s.updVdev n f).pois = s.pois := rfl
@[simp] theorem State.updVdev_dirtyMap (s : State) (n : Nat) (f : VDev → VDev) : (s.updVdev n f).dirtyMap = s.dirtyMap := rfl
@[simp] theorem State.updVdev_reg (s : State) (n : Nat) (f : VDev → VDev) : (s.updVdev n f).reg = s.reg := rfl
@[simp] theorem State.updVdev_pending (s : State) (n : Nat) (f : VDev → VDev) : (s.updVdev n f).pending = s.pending := rfl
@[simp] theorem State.updVdev_tents (s : State) (n : Nat) (f : VDev → VDev) : (s.updVdev n f).tents = s.tents := rfl
@[simp] theorem State.updVdev_waiters (s : State) (n : Nat) (f : VDev → VDev) : (s.updVdev n f).waiters = s.waiters := rfl
@[simp] theorem State.updVdev_cores (s : State) (n : Nat) (f : VDev → VDev) : (s.updVdev n f).cores = s.cores := rfl
@[simp] theorem State.updVdev_clusters (s : State) (n : Nat) (f : VDev → VDev) : (s.updVdev n f).clusters = s.clusters := rfl
@[simp] theorem State.updVdev_dies (s : State) (n : Nat) (f : VDev → VDev) : (s.updVdev n f).dies = s.dies := rfl
@[simp] theorem State.updVdev_joins (s : State) (n : Nat) (f : VDev → VDev) : (s.updVdev n f).joins = s.joins := rfl
@[simp] theorem State.updVdev_gens (s : State) (n : Nat) (f : VDev → VDev) : (s.updVdev n f).gens = s.gens := rfl
@[simp] theorem State.updVdev_parts (s : State) (n : Nat) (f : VDev → VDev) : (s.updVdev n f).parts = s.parts := rfl
@[simp] theorem State.updVdev_linksDown (s : State) (n : Nat) (f : VDev → VDev) : (s.updVdev n f).linksDown = s.linksDown := rfl
@[simp] theorem State.updVdev_relays (s : State) (n : Nat) (f : VDev → VDev) : (s.updVdev n f).relays = s.relays := rfl
@[simp] theorem State.updVdev_relay (s : State) (n : Nat) (f : VDev → VDev) : (s.updVdev n f).relay = s.relay := rfl
@[simp] theorem State.updVdev_mute (s : State) (n : Nat) (f : VDev → VDev) : (s.updVdev n f).mute = s.mute := rfl
@[simp] theorem State.updVdev_hdm (s : State) (n : Nat) (f : VDev → VDev) : (s.updVdev n f).hdm = s.hdm := rfl
@[simp] theorem State.updVdev_moves (s : State) (n : Nat) (f : VDev → VDev) : (s.updVdev n f).moves = s.moves := rfl
@[simp] theorem State.updVdev_slotUse (s : State) (n : Nat) (f : VDev → VDev) : (s.updVdev n f).slotUse = s.slotUse := rfl
@[simp] theorem State.updVdev_ioSlots (s : State) (n : Nat) (f : VDev → VDev) : (s.updVdev n f).ioSlots = s.ioSlots := rfl
@[simp] theorem State.updVdev_geos (s : State) (n : Nat) (f : VDev → VDev) : (s.updVdev n f).geos = s.geos := rfl
@[simp] theorem State.updVdev_insts (s : State) (n : Nat) (f : VDev → VDev) : (s.updVdev n f).insts = s.insts := rfl
@[simp] theorem State.updVdev_binds (s : State) (n : Nat) (f : VDev → VDev) : (s.updVdev n f).binds = s.binds := rfl
@[simp] theorem State.updVdev_queues (s : State) (n : Nat) (f : VDev → VDev) : (s.updVdev n f).queues = s.queues := rfl
@[simp] theorem State.updVdev_turn (s : State) (n : Nat) (f : VDev → VDev) : (s.updVdev n f).turn = s.turn := rfl
@[simp] theorem State.updVdev_launches (s : State) (n : Nat) (f : VDev → VDev) : (s.updVdev n f).launches = s.launches := rfl
@[simp] theorem State.updVdev_wisps (s : State) (n : Nat) (f : VDev → VDev) : (s.updVdev n f).wisps = s.wisps := rfl
@[simp] theorem State.updVdev_seq (s : State) (n : Nat) (f : VDev → VDev) : (s.updVdev n f).seq = s.seq := rfl
@[simp] theorem State.updVdev_mbox (s : State) (n : Nat) (f : VDev → VDev) : (s.updVdev n f).mbox = s.mbox := rfl
@[simp] theorem State.updVdev_deadlines (s : State) (n : Nat) (f : VDev → VDev) : (s.updVdev n f).deadlines = s.deadlines := rfl
@[simp] theorem State.updVdev_measured (s : State) (n : Nat) (f : VDev → VDev) : (s.updVdev n f).measured = s.measured := rfl
@[simp] theorem State.updVdev_layout (s : State) (n : Nat) (f : VDev → VDev) : (s.updVdev n f).layout = s.layout := rfl
@[simp] theorem State.updVdev_images (s : State) (n : Nat) (f : VDev → VDev) : (s.updVdev n f).images = s.images := rfl
@[simp] theorem State.updVdev_log (s : State) (n : Nat) (f : VDev → VDev) : (s.updVdev n f).log = s.log := rfl
@[simp] theorem State.updVdev_logSeq (s : State) (n : Nat) (f : VDev → VDev) : (s.updVdev n f).logSeq = s.logSeq := rfl
@[simp] theorem State.updVdev_losses (s : State) (n : Nat) (f : VDev → VDev) : (s.updVdev n f).losses = s.losses := rfl
@[simp] theorem State.updVdev_tdisp (s : State) (n : Nat) (f : VDev → VDev) : (s.updVdev n f).tdisp = s.tdisp := rfl
@[simp] theorem State.updVdev_ide (s : State) (n : Nat) (f : VDev → VDev) : (s.updVdev n f).ide = s.ide := rfl
@[simp] theorem State.updVdev_spdmSession (s : State) (n : Nat) (f : VDev → VDev) : (s.updVdev n f).spdmSession = s.spdmSession := rfl
@[simp] theorem State.updVdev_fw (s : State) (n : Nat) (f : VDev → VDev) : (s.updVdev n f).fw = s.fw := rfl
@[simp] theorem State.updVdev_resets (s : State) (n : Nat) (f : VDev → VDev) : (s.updVdev n f).resets = s.resets := rfl
@[simp] theorem State.updVdev_out (s : State) (n : Nat) (f : VDev → VDev) : (s.updVdev n f).out = s.out := rfl

/-! ### updQueue -/

@[simp] theorem State.updQueue_cur (s : State) (fn q : Nat) (f : Queue → Queue) : (s.updQueue fn q f).cur = s.cur := rfl
@[simp] theorem State.updQueue_sched (s : State) (fn q : Nat) (f : Queue → Queue) : (s.updQueue fn q f).sched = s.sched := rfl
@[simp] theorem State.updQueue_draw (s : State) (fn q : Nat) (f : Queue → Queue) : (s.updQueue fn q f).draw = s.draw := rfl
@[simp] theorem State.updQueue_evTurn (s : State) (fn q : Nat) (f : Queue → Queue) : (s.updQueue fn q f).evTurn = s.evTurn := rfl
@[simp] theorem State.updQueue_evCount (s : State) (fn q : Nat) (f : Queue → Queue) : (s.updQueue fn q f).evCount = s.evCount := rfl
@[simp] theorem State.updQueue_ringDev (s : State) (fn q : Nat) (f : Queue → Queue) : (s.updQueue fn q f).ringDev = s.ringDev := rfl
@[simp] theorem State.updQueue_identity (s : State) (fn q : Nat) (f : Queue → Queue) : (s.updQueue fn q f).identity = s.identity := rfl
@[simp] theorem State.updQueue_on (s : State) (fn q : Nat) (f : Queue → Queue) : (s.updQueue fn q f).on = s.on := rfl
@[simp] theorem State.updQueue_time (s : State) (fn q : Nat) (f : Queue → Queue) : (s.updQueue fn q f).time = s.time := rfl
@[simp] theorem State.updQueue_ps (s : State) (fn q : Nat) (f : Queue → Queue) : (s.updQueue fn q f).ps = s.ps := rfl
@[simp] theorem State.updQueue_pkg (s : State) (fn q : Nat) (f : Queue → Queue) : (s.updQueue fn q f).pkg = s.pkg := rfl
@[simp] theorem State.updQueue_fuse (s : State) (fn q : Nat) (f : Queue → Queue) : (s.updQueue fn q f).fuse = s.fuse := rfl
@[simp] theorem State.updQueue_mem (s : State) (fn q : Nat) (f : Queue → Queue) : (s.updQueue fn q f).mem = s.mem := rfl
@[simp] theorem State.updQueue_pois (s : State) (fn q : Nat) (f : Queue → Queue) : (s.updQueue fn q f).pois = s.pois := rfl
@[simp] theorem State.updQueue_dirtyMap (s : State) (fn q : Nat) (f : Queue → Queue) : (s.updQueue fn q f).dirtyMap = s.dirtyMap := rfl
@[simp] theorem State.updQueue_reg (s : State) (fn q : Nat) (f : Queue → Queue) : (s.updQueue fn q f).reg = s.reg := rfl
@[simp] theorem State.updQueue_pending (s : State) (fn q : Nat) (f : Queue → Queue) : (s.updQueue fn q f).pending = s.pending := rfl
@[simp] theorem State.updQueue_tents (s : State) (fn q : Nat) (f : Queue → Queue) : (s.updQueue fn q f).tents = s.tents := rfl
@[simp] theorem State.updQueue_waiters (s : State) (fn q : Nat) (f : Queue → Queue) : (s.updQueue fn q f).waiters = s.waiters := rfl
@[simp] theorem State.updQueue_cores (s : State) (fn q : Nat) (f : Queue → Queue) : (s.updQueue fn q f).cores = s.cores := rfl
@[simp] theorem State.updQueue_clusters (s : State) (fn q : Nat) (f : Queue → Queue) : (s.updQueue fn q f).clusters = s.clusters := rfl
@[simp] theorem State.updQueue_dies (s : State) (fn q : Nat) (f : Queue → Queue) : (s.updQueue fn q f).dies = s.dies := rfl
@[simp] theorem State.updQueue_joins (s : State) (fn q : Nat) (f : Queue → Queue) : (s.updQueue fn q f).joins = s.joins := rfl
@[simp] theorem State.updQueue_gens (s : State) (fn q : Nat) (f : Queue → Queue) : (s.updQueue fn q f).gens = s.gens := rfl
@[simp] theorem State.updQueue_parts (s : State) (fn q : Nat) (f : Queue → Queue) : (s.updQueue fn q f).parts = s.parts := rfl
@[simp] theorem State.updQueue_linksDown (s : State) (fn q : Nat) (f : Queue → Queue) : (s.updQueue fn q f).linksDown = s.linksDown := rfl
@[simp] theorem State.updQueue_relays (s : State) (fn q : Nat) (f : Queue → Queue) : (s.updQueue fn q f).relays = s.relays := rfl
@[simp] theorem State.updQueue_relay (s : State) (fn q : Nat) (f : Queue → Queue) : (s.updQueue fn q f).relay = s.relay := rfl
@[simp] theorem State.updQueue_mute (s : State) (fn q : Nat) (f : Queue → Queue) : (s.updQueue fn q f).mute = s.mute := rfl
@[simp] theorem State.updQueue_hdm (s : State) (fn q : Nat) (f : Queue → Queue) : (s.updQueue fn q f).hdm = s.hdm := rfl
@[simp] theorem State.updQueue_moves (s : State) (fn q : Nat) (f : Queue → Queue) : (s.updQueue fn q f).moves = s.moves := rfl
@[simp] theorem State.updQueue_slotUse (s : State) (fn q : Nat) (f : Queue → Queue) : (s.updQueue fn q f).slotUse = s.slotUse := rfl
@[simp] theorem State.updQueue_ioSlots (s : State) (fn q : Nat) (f : Queue → Queue) : (s.updQueue fn q f).ioSlots = s.ioSlots := rfl
@[simp] theorem State.updQueue_geos (s : State) (fn q : Nat) (f : Queue → Queue) : (s.updQueue fn q f).geos = s.geos := rfl
@[simp] theorem State.updQueue_insts (s : State) (fn q : Nat) (f : Queue → Queue) : (s.updQueue fn q f).insts = s.insts := rfl
@[simp] theorem State.updQueue_binds (s : State) (fn q : Nat) (f : Queue → Queue) : (s.updQueue fn q f).binds = s.binds := rfl
@[simp] theorem State.updQueue_vdevs (s : State) (fn q : Nat) (f : Queue → Queue) : (s.updQueue fn q f).vdevs = s.vdevs := rfl
@[simp] theorem State.updQueue_turn (s : State) (fn q : Nat) (f : Queue → Queue) : (s.updQueue fn q f).turn = s.turn := rfl
@[simp] theorem State.updQueue_launches (s : State) (fn q : Nat) (f : Queue → Queue) : (s.updQueue fn q f).launches = s.launches := rfl
@[simp] theorem State.updQueue_wisps (s : State) (fn q : Nat) (f : Queue → Queue) : (s.updQueue fn q f).wisps = s.wisps := rfl
@[simp] theorem State.updQueue_seq (s : State) (fn q : Nat) (f : Queue → Queue) : (s.updQueue fn q f).seq = s.seq := rfl
@[simp] theorem State.updQueue_mbox (s : State) (fn q : Nat) (f : Queue → Queue) : (s.updQueue fn q f).mbox = s.mbox := rfl
@[simp] theorem State.updQueue_deadlines (s : State) (fn q : Nat) (f : Queue → Queue) : (s.updQueue fn q f).deadlines = s.deadlines := rfl
@[simp] theorem State.updQueue_measured (s : State) (fn q : Nat) (f : Queue → Queue) : (s.updQueue fn q f).measured = s.measured := rfl
@[simp] theorem State.updQueue_layout (s : State) (fn q : Nat) (f : Queue → Queue) : (s.updQueue fn q f).layout = s.layout := rfl
@[simp] theorem State.updQueue_images (s : State) (fn q : Nat) (f : Queue → Queue) : (s.updQueue fn q f).images = s.images := rfl
@[simp] theorem State.updQueue_log (s : State) (fn q : Nat) (f : Queue → Queue) : (s.updQueue fn q f).log = s.log := rfl
@[simp] theorem State.updQueue_logSeq (s : State) (fn q : Nat) (f : Queue → Queue) : (s.updQueue fn q f).logSeq = s.logSeq := rfl
@[simp] theorem State.updQueue_losses (s : State) (fn q : Nat) (f : Queue → Queue) : (s.updQueue fn q f).losses = s.losses := rfl
@[simp] theorem State.updQueue_tdisp (s : State) (fn q : Nat) (f : Queue → Queue) : (s.updQueue fn q f).tdisp = s.tdisp := rfl
@[simp] theorem State.updQueue_ide (s : State) (fn q : Nat) (f : Queue → Queue) : (s.updQueue fn q f).ide = s.ide := rfl
@[simp] theorem State.updQueue_spdmSession (s : State) (fn q : Nat) (f : Queue → Queue) : (s.updQueue fn q f).spdmSession = s.spdmSession := rfl
@[simp] theorem State.updQueue_fw (s : State) (fn q : Nat) (f : Queue → Queue) : (s.updQueue fn q f).fw = s.fw := rfl
@[simp] theorem State.updQueue_resets (s : State) (fn q : Nat) (f : Queue → Queue) : (s.updQueue fn q f).resets = s.resets := rfl
@[simp] theorem State.updQueue_out (s : State) (fn q : Nat) (f : Queue → Queue) : (s.updQueue fn q f).out = s.out := rfl

/-! ### updMbox -/

@[simp] theorem State.updMbox_cur (s : State) (n : Nat) (f : Mbox → Mbox) : (s.updMbox n f).cur = s.cur := rfl
@[simp] theorem State.updMbox_sched (s : State) (n : Nat) (f : Mbox → Mbox) : (s.updMbox n f).sched = s.sched := rfl
@[simp] theorem State.updMbox_draw (s : State) (n : Nat) (f : Mbox → Mbox) : (s.updMbox n f).draw = s.draw := rfl
@[simp] theorem State.updMbox_evTurn (s : State) (n : Nat) (f : Mbox → Mbox) : (s.updMbox n f).evTurn = s.evTurn := rfl
@[simp] theorem State.updMbox_evCount (s : State) (n : Nat) (f : Mbox → Mbox) : (s.updMbox n f).evCount = s.evCount := rfl
@[simp] theorem State.updMbox_ringDev (s : State) (n : Nat) (f : Mbox → Mbox) : (s.updMbox n f).ringDev = s.ringDev := rfl
@[simp] theorem State.updMbox_identity (s : State) (n : Nat) (f : Mbox → Mbox) : (s.updMbox n f).identity = s.identity := rfl
@[simp] theorem State.updMbox_on (s : State) (n : Nat) (f : Mbox → Mbox) : (s.updMbox n f).on = s.on := rfl
@[simp] theorem State.updMbox_time (s : State) (n : Nat) (f : Mbox → Mbox) : (s.updMbox n f).time = s.time := rfl
@[simp] theorem State.updMbox_ps (s : State) (n : Nat) (f : Mbox → Mbox) : (s.updMbox n f).ps = s.ps := rfl
@[simp] theorem State.updMbox_pkg (s : State) (n : Nat) (f : Mbox → Mbox) : (s.updMbox n f).pkg = s.pkg := rfl
@[simp] theorem State.updMbox_fuse (s : State) (n : Nat) (f : Mbox → Mbox) : (s.updMbox n f).fuse = s.fuse := rfl
@[simp] theorem State.updMbox_mem (s : State) (n : Nat) (f : Mbox → Mbox) : (s.updMbox n f).mem = s.mem := rfl
@[simp] theorem State.updMbox_pois (s : State) (n : Nat) (f : Mbox → Mbox) : (s.updMbox n f).pois = s.pois := rfl
@[simp] theorem State.updMbox_dirtyMap (s : State) (n : Nat) (f : Mbox → Mbox) : (s.updMbox n f).dirtyMap = s.dirtyMap := rfl
@[simp] theorem State.updMbox_reg (s : State) (n : Nat) (f : Mbox → Mbox) : (s.updMbox n f).reg = s.reg := rfl
@[simp] theorem State.updMbox_pending (s : State) (n : Nat) (f : Mbox → Mbox) : (s.updMbox n f).pending = s.pending := rfl
@[simp] theorem State.updMbox_tents (s : State) (n : Nat) (f : Mbox → Mbox) : (s.updMbox n f).tents = s.tents := rfl
@[simp] theorem State.updMbox_waiters (s : State) (n : Nat) (f : Mbox → Mbox) : (s.updMbox n f).waiters = s.waiters := rfl
@[simp] theorem State.updMbox_cores (s : State) (n : Nat) (f : Mbox → Mbox) : (s.updMbox n f).cores = s.cores := rfl
@[simp] theorem State.updMbox_clusters (s : State) (n : Nat) (f : Mbox → Mbox) : (s.updMbox n f).clusters = s.clusters := rfl
@[simp] theorem State.updMbox_dies (s : State) (n : Nat) (f : Mbox → Mbox) : (s.updMbox n f).dies = s.dies := rfl
@[simp] theorem State.updMbox_joins (s : State) (n : Nat) (f : Mbox → Mbox) : (s.updMbox n f).joins = s.joins := rfl
@[simp] theorem State.updMbox_gens (s : State) (n : Nat) (f : Mbox → Mbox) : (s.updMbox n f).gens = s.gens := rfl
@[simp] theorem State.updMbox_parts (s : State) (n : Nat) (f : Mbox → Mbox) : (s.updMbox n f).parts = s.parts := rfl
@[simp] theorem State.updMbox_linksDown (s : State) (n : Nat) (f : Mbox → Mbox) : (s.updMbox n f).linksDown = s.linksDown := rfl
@[simp] theorem State.updMbox_relays (s : State) (n : Nat) (f : Mbox → Mbox) : (s.updMbox n f).relays = s.relays := rfl
@[simp] theorem State.updMbox_relay (s : State) (n : Nat) (f : Mbox → Mbox) : (s.updMbox n f).relay = s.relay := rfl
@[simp] theorem State.updMbox_mute (s : State) (n : Nat) (f : Mbox → Mbox) : (s.updMbox n f).mute = s.mute := rfl
@[simp] theorem State.updMbox_hdm (s : State) (n : Nat) (f : Mbox → Mbox) : (s.updMbox n f).hdm = s.hdm := rfl
@[simp] theorem State.updMbox_moves (s : State) (n : Nat) (f : Mbox → Mbox) : (s.updMbox n f).moves = s.moves := rfl
@[simp] theorem State.updMbox_slotUse (s : State) (n : Nat) (f : Mbox → Mbox) : (s.updMbox n f).slotUse = s.slotUse := rfl
@[simp] theorem State.updMbox_ioSlots (s : State) (n : Nat) (f : Mbox → Mbox) : (s.updMbox n f).ioSlots = s.ioSlots := rfl
@[simp] theorem State.updMbox_geos (s : State) (n : Nat) (f : Mbox → Mbox) : (s.updMbox n f).geos = s.geos := rfl
@[simp] theorem State.updMbox_insts (s : State) (n : Nat) (f : Mbox → Mbox) : (s.updMbox n f).insts = s.insts := rfl
@[simp] theorem State.updMbox_binds (s : State) (n : Nat) (f : Mbox → Mbox) : (s.updMbox n f).binds = s.binds := rfl
@[simp] theorem State.updMbox_vdevs (s : State) (n : Nat) (f : Mbox → Mbox) : (s.updMbox n f).vdevs = s.vdevs := rfl
@[simp] theorem State.updMbox_queues (s : State) (n : Nat) (f : Mbox → Mbox) : (s.updMbox n f).queues = s.queues := rfl
@[simp] theorem State.updMbox_turn (s : State) (n : Nat) (f : Mbox → Mbox) : (s.updMbox n f).turn = s.turn := rfl
@[simp] theorem State.updMbox_launches (s : State) (n : Nat) (f : Mbox → Mbox) : (s.updMbox n f).launches = s.launches := rfl
@[simp] theorem State.updMbox_wisps (s : State) (n : Nat) (f : Mbox → Mbox) : (s.updMbox n f).wisps = s.wisps := rfl
@[simp] theorem State.updMbox_seq (s : State) (n : Nat) (f : Mbox → Mbox) : (s.updMbox n f).seq = s.seq := rfl
@[simp] theorem State.updMbox_deadlines (s : State) (n : Nat) (f : Mbox → Mbox) : (s.updMbox n f).deadlines = s.deadlines := rfl
@[simp] theorem State.updMbox_measured (s : State) (n : Nat) (f : Mbox → Mbox) : (s.updMbox n f).measured = s.measured := rfl
@[simp] theorem State.updMbox_layout (s : State) (n : Nat) (f : Mbox → Mbox) : (s.updMbox n f).layout = s.layout := rfl
@[simp] theorem State.updMbox_images (s : State) (n : Nat) (f : Mbox → Mbox) : (s.updMbox n f).images = s.images := rfl
@[simp] theorem State.updMbox_log (s : State) (n : Nat) (f : Mbox → Mbox) : (s.updMbox n f).log = s.log := rfl
@[simp] theorem State.updMbox_logSeq (s : State) (n : Nat) (f : Mbox → Mbox) : (s.updMbox n f).logSeq = s.logSeq := rfl
@[simp] theorem State.updMbox_losses (s : State) (n : Nat) (f : Mbox → Mbox) : (s.updMbox n f).losses = s.losses := rfl
@[simp] theorem State.updMbox_tdisp (s : State) (n : Nat) (f : Mbox → Mbox) : (s.updMbox n f).tdisp = s.tdisp := rfl
@[simp] theorem State.updMbox_ide (s : State) (n : Nat) (f : Mbox → Mbox) : (s.updMbox n f).ide = s.ide := rfl
@[simp] theorem State.updMbox_spdmSession (s : State) (n : Nat) (f : Mbox → Mbox) : (s.updMbox n f).spdmSession = s.spdmSession := rfl
@[simp] theorem State.updMbox_fw (s : State) (n : Nat) (f : Mbox → Mbox) : (s.updMbox n f).fw = s.fw := rfl
@[simp] theorem State.updMbox_resets (s : State) (n : Nat) (f : Mbox → Mbox) : (s.updMbox n f).resets = s.resets := rfl
@[simp] theorem State.updMbox_out (s : State) (n : Nat) (f : Mbox → Mbox) : (s.updMbox n f).out = s.out := rfl

/-! ### post -/

@[simp] theorem State.post_cur (s : State) (e : Event) : (s.post e).cur = s.cur := rfl
@[simp] theorem State.post_draw (s : State) (e : Event) : (s.post e).draw = s.draw := rfl
@[simp] theorem State.post_evTurn (s : State) (e : Event) : (s.post e).evTurn = s.evTurn := rfl
@[simp] theorem State.post_evCount (s : State) (e : Event) : (s.post e).evCount = s.evCount := rfl
@[simp] theorem State.post_ringDev (s : State) (e : Event) : (s.post e).ringDev = s.ringDev := rfl
@[simp] theorem State.post_identity (s : State) (e : Event) : (s.post e).identity = s.identity := rfl
@[simp] theorem State.post_on (s : State) (e : Event) : (s.post e).on = s.on := rfl
@[simp] theorem State.post_time (s : State) (e : Event) : (s.post e).time = s.time := rfl
@[simp] theorem State.post_ps (s : State) (e : Event) : (s.post e).ps = s.ps := rfl
@[simp] theorem State.post_pkg (s : State) (e : Event) : (s.post e).pkg = s.pkg := rfl
@[simp] theorem State.post_fuse (s : State) (e : Event) : (s.post e).fuse = s.fuse := rfl
@[simp] theorem State.post_mem (s : State) (e : Event) : (s.post e).mem = s.mem := rfl
@[simp] theorem State.post_pois (s : State) (e : Event) : (s.post e).pois = s.pois := rfl
@[simp] theorem State.post_dirtyMap (s : State) (e : Event) : (s.post e).dirtyMap = s.dirtyMap := rfl
@[simp] theorem State.post_reg (s : State) (e : Event) : (s.post e).reg = s.reg := rfl
@[simp] theorem State.post_pending (s : State) (e : Event) : (s.post e).pending = s.pending := rfl
@[simp] theorem State.post_tents (s : State) (e : Event) : (s.post e).tents = s.tents := rfl
@[simp] theorem State.post_waiters (s : State) (e : Event) : (s.post e).waiters = s.waiters := rfl
@[simp] theorem State.post_cores (s : State) (e : Event) : (s.post e).cores = s.cores := rfl
@[simp] theorem State.post_clusters (s : State) (e : Event) : (s.post e).clusters = s.clusters := rfl
@[simp] theorem State.post_dies (s : State) (e : Event) : (s.post e).dies = s.dies := rfl
@[simp] theorem State.post_joins (s : State) (e : Event) : (s.post e).joins = s.joins := rfl
@[simp] theorem State.post_gens (s : State) (e : Event) : (s.post e).gens = s.gens := rfl
@[simp] theorem State.post_parts (s : State) (e : Event) : (s.post e).parts = s.parts := rfl
@[simp] theorem State.post_linksDown (s : State) (e : Event) : (s.post e).linksDown = s.linksDown := rfl
@[simp] theorem State.post_relays (s : State) (e : Event) : (s.post e).relays = s.relays := rfl
@[simp] theorem State.post_relay (s : State) (e : Event) : (s.post e).relay = s.relay := rfl
@[simp] theorem State.post_mute (s : State) (e : Event) : (s.post e).mute = s.mute := rfl
@[simp] theorem State.post_hdm (s : State) (e : Event) : (s.post e).hdm = s.hdm := rfl
@[simp] theorem State.post_moves (s : State) (e : Event) : (s.post e).moves = s.moves := rfl
@[simp] theorem State.post_slotUse (s : State) (e : Event) : (s.post e).slotUse = s.slotUse := rfl
@[simp] theorem State.post_ioSlots (s : State) (e : Event) : (s.post e).ioSlots = s.ioSlots := rfl
@[simp] theorem State.post_geos (s : State) (e : Event) : (s.post e).geos = s.geos := rfl
@[simp] theorem State.post_insts (s : State) (e : Event) : (s.post e).insts = s.insts := rfl
@[simp] theorem State.post_binds (s : State) (e : Event) : (s.post e).binds = s.binds := rfl
@[simp] theorem State.post_vdevs (s : State) (e : Event) : (s.post e).vdevs = s.vdevs := rfl
@[simp] theorem State.post_queues (s : State) (e : Event) : (s.post e).queues = s.queues := rfl
@[simp] theorem State.post_turn (s : State) (e : Event) : (s.post e).turn = s.turn := rfl
@[simp] theorem State.post_launches (s : State) (e : Event) : (s.post e).launches = s.launches := rfl
@[simp] theorem State.post_wisps (s : State) (e : Event) : (s.post e).wisps = s.wisps := rfl
@[simp] theorem State.post_seq (s : State) (e : Event) : (s.post e).seq = s.seq := rfl
@[simp] theorem State.post_mbox (s : State) (e : Event) : (s.post e).mbox = s.mbox := rfl
@[simp] theorem State.post_deadlines (s : State) (e : Event) : (s.post e).deadlines = s.deadlines := rfl
@[simp] theorem State.post_measured (s : State) (e : Event) : (s.post e).measured = s.measured := rfl
@[simp] theorem State.post_layout (s : State) (e : Event) : (s.post e).layout = s.layout := rfl
@[simp] theorem State.post_images (s : State) (e : Event) : (s.post e).images = s.images := rfl
@[simp] theorem State.post_log (s : State) (e : Event) : (s.post e).log = s.log := rfl
@[simp] theorem State.post_logSeq (s : State) (e : Event) : (s.post e).logSeq = s.logSeq := rfl
@[simp] theorem State.post_losses (s : State) (e : Event) : (s.post e).losses = s.losses := rfl
@[simp] theorem State.post_tdisp (s : State) (e : Event) : (s.post e).tdisp = s.tdisp := rfl
@[simp] theorem State.post_ide (s : State) (e : Event) : (s.post e).ide = s.ide := rfl
@[simp] theorem State.post_spdmSession (s : State) (e : Event) : (s.post e).spdmSession = s.spdmSession := rfl
@[simp] theorem State.post_fw (s : State) (e : Event) : (s.post e).fw = s.fw := rfl
@[simp] theorem State.post_resets (s : State) (e : Event) : (s.post e).resets = s.resets := rfl
@[simp] theorem State.post_out (s : State) (e : Event) : (s.post e).out = s.out := rfl

/-! ### emit -/

@[simp] theorem State.emit_cur (s : State) (o : Out) : (s.emit o).cur = s.cur := rfl
@[simp] theorem State.emit_sched (s : State) (o : Out) : (s.emit o).sched = s.sched := rfl
@[simp] theorem State.emit_draw (s : State) (o : Out) : (s.emit o).draw = s.draw := rfl
@[simp] theorem State.emit_evTurn (s : State) (o : Out) : (s.emit o).evTurn = s.evTurn := rfl
@[simp] theorem State.emit_evCount (s : State) (o : Out) : (s.emit o).evCount = s.evCount := rfl
@[simp] theorem State.emit_ringDev (s : State) (o : Out) : (s.emit o).ringDev = s.ringDev := rfl
@[simp] theorem State.emit_identity (s : State) (o : Out) : (s.emit o).identity = s.identity := rfl
@[simp] theorem State.emit_on (s : State) (o : Out) : (s.emit o).on = s.on := rfl
@[simp] theorem State.emit_time (s : State) (o : Out) : (s.emit o).time = s.time := rfl
@[simp] theorem State.emit_ps (s : State) (o : Out) : (s.emit o).ps = s.ps := rfl
@[simp] theorem State.emit_pkg (s : State) (o : Out) : (s.emit o).pkg = s.pkg := rfl
@[simp] theorem State.emit_fuse (s : State) (o : Out) : (s.emit o).fuse = s.fuse := rfl
@[simp] theorem State.emit_mem (s : State) (o : Out) : (s.emit o).mem = s.mem := rfl
@[simp] theorem State.emit_pois (s : State) (o : Out) : (s.emit o).pois = s.pois := rfl
@[simp] theorem State.emit_dirtyMap (s : State) (o : Out) : (s.emit o).dirtyMap = s.dirtyMap := rfl
@[simp] theorem State.emit_reg (s : State) (o : Out) : (s.emit o).reg = s.reg := rfl
@[simp] theorem State.emit_pending (s : State) (o : Out) : (s.emit o).pending = s.pending := rfl
@[simp] theorem State.emit_tents (s : State) (o : Out) : (s.emit o).tents = s.tents := rfl
@[simp] theorem State.emit_waiters (s : State) (o : Out) : (s.emit o).waiters = s.waiters := rfl
@[simp] theorem State.emit_cores (s : State) (o : Out) : (s.emit o).cores = s.cores := rfl
@[simp] theorem State.emit_clusters (s : State) (o : Out) : (s.emit o).clusters = s.clusters := rfl
@[simp] theorem State.emit_dies (s : State) (o : Out) : (s.emit o).dies = s.dies := rfl
@[simp] theorem State.emit_joins (s : State) (o : Out) : (s.emit o).joins = s.joins := rfl
@[simp] theorem State.emit_gens (s : State) (o : Out) : (s.emit o).gens = s.gens := rfl
@[simp] theorem State.emit_parts (s : State) (o : Out) : (s.emit o).parts = s.parts := rfl
@[simp] theorem State.emit_linksDown (s : State) (o : Out) : (s.emit o).linksDown = s.linksDown := rfl
@[simp] theorem State.emit_relays (s : State) (o : Out) : (s.emit o).relays = s.relays := rfl
@[simp] theorem State.emit_relay (s : State) (o : Out) : (s.emit o).relay = s.relay := rfl
@[simp] theorem State.emit_mute (s : State) (o : Out) : (s.emit o).mute = s.mute := rfl
@[simp] theorem State.emit_hdm (s : State) (o : Out) : (s.emit o).hdm = s.hdm := rfl
@[simp] theorem State.emit_moves (s : State) (o : Out) : (s.emit o).moves = s.moves := rfl
@[simp] theorem State.emit_slotUse (s : State) (o : Out) : (s.emit o).slotUse = s.slotUse := rfl
@[simp] theorem State.emit_ioSlots (s : State) (o : Out) : (s.emit o).ioSlots = s.ioSlots := rfl
@[simp] theorem State.emit_geos (s : State) (o : Out) : (s.emit o).geos = s.geos := rfl
@[simp] theorem State.emit_insts (s : State) (o : Out) : (s.emit o).insts = s.insts := rfl
@[simp] theorem State.emit_binds (s : State) (o : Out) : (s.emit o).binds = s.binds := rfl
@[simp] theorem State.emit_vdevs (s : State) (o : Out) : (s.emit o).vdevs = s.vdevs := rfl
@[simp] theorem State.emit_queues (s : State) (o : Out) : (s.emit o).queues = s.queues := rfl
@[simp] theorem State.emit_turn (s : State) (o : Out) : (s.emit o).turn = s.turn := rfl
@[simp] theorem State.emit_launches (s : State) (o : Out) : (s.emit o).launches = s.launches := rfl
@[simp] theorem State.emit_wisps (s : State) (o : Out) : (s.emit o).wisps = s.wisps := rfl
@[simp] theorem State.emit_seq (s : State) (o : Out) : (s.emit o).seq = s.seq := rfl
@[simp] theorem State.emit_mbox (s : State) (o : Out) : (s.emit o).mbox = s.mbox := rfl
@[simp] theorem State.emit_deadlines (s : State) (o : Out) : (s.emit o).deadlines = s.deadlines := rfl
@[simp] theorem State.emit_measured (s : State) (o : Out) : (s.emit o).measured = s.measured := rfl
@[simp] theorem State.emit_layout (s : State) (o : Out) : (s.emit o).layout = s.layout := rfl
@[simp] theorem State.emit_images (s : State) (o : Out) : (s.emit o).images = s.images := rfl
@[simp] theorem State.emit_log (s : State) (o : Out) : (s.emit o).log = s.log := rfl
@[simp] theorem State.emit_logSeq (s : State) (o : Out) : (s.emit o).logSeq = s.logSeq := rfl
@[simp] theorem State.emit_losses (s : State) (o : Out) : (s.emit o).losses = s.losses := rfl
@[simp] theorem State.emit_tdisp (s : State) (o : Out) : (s.emit o).tdisp = s.tdisp := rfl
@[simp] theorem State.emit_ide (s : State) (o : Out) : (s.emit o).ide = s.ide := rfl
@[simp] theorem State.emit_spdmSession (s : State) (o : Out) : (s.emit o).spdmSession = s.spdmSession := rfl
@[simp] theorem State.emit_fw (s : State) (o : Out) : (s.emit o).fw = s.fw := rfl
@[simp] theorem State.emit_resets (s : State) (o : Out) : (s.emit o).resets = s.resets := rfl

/-! ### rawWrite -/

@[simp] theorem State.rawWrite_cur (s : State) (pa n v : Nat) : (s.rawWrite pa n v).cur = s.cur := rfl
@[simp] theorem State.rawWrite_sched (s : State) (pa n v : Nat) : (s.rawWrite pa n v).sched = s.sched := rfl
@[simp] theorem State.rawWrite_draw (s : State) (pa n v : Nat) : (s.rawWrite pa n v).draw = s.draw := rfl
@[simp] theorem State.rawWrite_evTurn (s : State) (pa n v : Nat) : (s.rawWrite pa n v).evTurn = s.evTurn := rfl
@[simp] theorem State.rawWrite_evCount (s : State) (pa n v : Nat) : (s.rawWrite pa n v).evCount = s.evCount := rfl
@[simp] theorem State.rawWrite_ringDev (s : State) (pa n v : Nat) : (s.rawWrite pa n v).ringDev = s.ringDev := rfl
@[simp] theorem State.rawWrite_identity (s : State) (pa n v : Nat) : (s.rawWrite pa n v).identity = s.identity := rfl
@[simp] theorem State.rawWrite_on (s : State) (pa n v : Nat) : (s.rawWrite pa n v).on = s.on := rfl
@[simp] theorem State.rawWrite_time (s : State) (pa n v : Nat) : (s.rawWrite pa n v).time = s.time := rfl
@[simp] theorem State.rawWrite_ps (s : State) (pa n v : Nat) : (s.rawWrite pa n v).ps = s.ps := rfl
@[simp] theorem State.rawWrite_pkg (s : State) (pa n v : Nat) : (s.rawWrite pa n v).pkg = s.pkg := rfl
@[simp] theorem State.rawWrite_fuse (s : State) (pa n v : Nat) : (s.rawWrite pa n v).fuse = s.fuse := rfl
@[simp] theorem State.rawWrite_pois (s : State) (pa n v : Nat) : (s.rawWrite pa n v).pois = s.pois := rfl
@[simp] theorem State.rawWrite_dirtyMap (s : State) (pa n v : Nat) : (s.rawWrite pa n v).dirtyMap = s.dirtyMap := rfl
@[simp] theorem State.rawWrite_reg (s : State) (pa n v : Nat) : (s.rawWrite pa n v).reg = s.reg := rfl
@[simp] theorem State.rawWrite_pending (s : State) (pa n v : Nat) : (s.rawWrite pa n v).pending = s.pending := rfl
@[simp] theorem State.rawWrite_tents (s : State) (pa n v : Nat) : (s.rawWrite pa n v).tents = s.tents := rfl
@[simp] theorem State.rawWrite_waiters (s : State) (pa n v : Nat) : (s.rawWrite pa n v).waiters = s.waiters := rfl
@[simp] theorem State.rawWrite_cores (s : State) (pa n v : Nat) : (s.rawWrite pa n v).cores = s.cores := rfl
@[simp] theorem State.rawWrite_clusters (s : State) (pa n v : Nat) : (s.rawWrite pa n v).clusters = s.clusters := rfl
@[simp] theorem State.rawWrite_dies (s : State) (pa n v : Nat) : (s.rawWrite pa n v).dies = s.dies := rfl
@[simp] theorem State.rawWrite_joins (s : State) (pa n v : Nat) : (s.rawWrite pa n v).joins = s.joins := rfl
@[simp] theorem State.rawWrite_gens (s : State) (pa n v : Nat) : (s.rawWrite pa n v).gens = s.gens := rfl
@[simp] theorem State.rawWrite_parts (s : State) (pa n v : Nat) : (s.rawWrite pa n v).parts = s.parts := rfl
@[simp] theorem State.rawWrite_linksDown (s : State) (pa n v : Nat) : (s.rawWrite pa n v).linksDown = s.linksDown := rfl
@[simp] theorem State.rawWrite_relays (s : State) (pa n v : Nat) : (s.rawWrite pa n v).relays = s.relays := rfl
@[simp] theorem State.rawWrite_relay (s : State) (pa n v : Nat) : (s.rawWrite pa n v).relay = s.relay := rfl
@[simp] theorem State.rawWrite_mute (s : State) (pa n v : Nat) : (s.rawWrite pa n v).mute = s.mute := rfl
@[simp] theorem State.rawWrite_hdm (s : State) (pa n v : Nat) : (s.rawWrite pa n v).hdm = s.hdm := rfl
@[simp] theorem State.rawWrite_moves (s : State) (pa n v : Nat) : (s.rawWrite pa n v).moves = s.moves := rfl
@[simp] theorem State.rawWrite_slotUse (s : State) (pa n v : Nat) : (s.rawWrite pa n v).slotUse = s.slotUse := rfl
@[simp] theorem State.rawWrite_ioSlots (s : State) (pa n v : Nat) : (s.rawWrite pa n v).ioSlots = s.ioSlots := rfl
@[simp] theorem State.rawWrite_geos (s : State) (pa n v : Nat) : (s.rawWrite pa n v).geos = s.geos := rfl
@[simp] theorem State.rawWrite_insts (s : State) (pa n v : Nat) : (s.rawWrite pa n v).insts = s.insts := rfl
@[simp] theorem State.rawWrite_binds (s : State) (pa n v : Nat) : (s.rawWrite pa n v).binds = s.binds := rfl
@[simp] theorem State.rawWrite_vdevs (s : State) (pa n v : Nat) : (s.rawWrite pa n v).vdevs = s.vdevs := rfl
@[simp] theorem State.rawWrite_queues (s : State) (pa n v : Nat) : (s.rawWrite pa n v).queues = s.queues := rfl
@[simp] theorem State.rawWrite_turn (s : State) (pa n v : Nat) : (s.rawWrite pa n v).turn = s.turn := rfl
@[simp] theorem State.rawWrite_launches (s : State) (pa n v : Nat) : (s.rawWrite pa n v).launches = s.launches := rfl
@[simp] theorem State.rawWrite_wisps (s : State) (pa n v : Nat) : (s.rawWrite pa n v).wisps = s.wisps := rfl
@[simp] theorem State.rawWrite_seq (s : State) (pa n v : Nat) : (s.rawWrite pa n v).seq = s.seq := rfl
@[simp] theorem State.rawWrite_mbox (s : State) (pa n v : Nat) : (s.rawWrite pa n v).mbox = s.mbox := rfl
@[simp] theorem State.rawWrite_deadlines (s : State) (pa n v : Nat) : (s.rawWrite pa n v).deadlines = s.deadlines := rfl
@[simp] theorem State.rawWrite_measured (s : State) (pa n v : Nat) : (s.rawWrite pa n v).measured = s.measured := rfl
@[simp] theorem State.rawWrite_layout (s : State) (pa n v : Nat) : (s.rawWrite pa n v).layout = s.layout := rfl
@[simp] theorem State.rawWrite_images (s : State) (pa n v : Nat) : (s.rawWrite pa n v).images = s.images := rfl
@[simp] theorem State.rawWrite_log (s : State) (pa n v : Nat) : (s.rawWrite pa n v).log = s.log := rfl
@[simp] theorem State.rawWrite_logSeq (s : State) (pa n v : Nat) : (s.rawWrite pa n v).logSeq = s.logSeq := rfl
@[simp] theorem State.rawWrite_losses (s : State) (pa n v : Nat) : (s.rawWrite pa n v).losses = s.losses := rfl
@[simp] theorem State.rawWrite_tdisp (s : State) (pa n v : Nat) : (s.rawWrite pa n v).tdisp = s.tdisp := rfl
@[simp] theorem State.rawWrite_ide (s : State) (pa n v : Nat) : (s.rawWrite pa n v).ide = s.ide := rfl
@[simp] theorem State.rawWrite_spdmSession (s : State) (pa n v : Nat) : (s.rawWrite pa n v).spdmSession = s.spdmSession := rfl
@[simp] theorem State.rawWrite_fw (s : State) (pa n v : Nat) : (s.rawWrite pa n v).fw = s.fw := rfl
@[simp] theorem State.rawWrite_resets (s : State) (pa n v : Nat) : (s.rawWrite pa n v).resets = s.resets := rfl
@[simp] theorem State.rawWrite_out (s : State) (pa n v : Nat) : (s.rawWrite pa n v).out = s.out := rfl

/-! ### The part written -/

theorem State.coreAt_setCore (s : State) (c e : Nat) (x : Core) :
    (s.setCore c x).coreAt e = if e = c then x else s.coreAt e := Store.get_set _ _ _ _ _
@[simp] theorem State.coreAt_setCore_same (s : State) (c : Nat) (x : Core) : (s.setCore c x).coreAt c = x := by
  simp [State.coreAt_setCore]
theorem State.coreAt_updCore (s : State) (c e : Nat) (f : Core → Core) :
    (s.updCore c f).coreAt e = if e = c then f (s.coreAt c) else s.coreAt e := State.coreAt_setCore ..
@[simp] theorem State.coreAt_updCore_same (s : State) (c : Nat) (f : Core → Core) :
    (s.updCore c f).coreAt c = f (s.coreAt c) := by simp [State.coreAt_updCore]
theorem State.coreAt_updCore_other (s : State) {c e : Nat} (f : Core → Core) (h : e ≠ c) :
    (s.updCore c f).coreAt e = s.coreAt e := by simp [State.coreAt_updCore, h]
@[simp] theorem State.me_updMe (s : State) (f : Core → Core) : (s.updMe f).me = f s.me := by
  simp [State.me, State.updMe]
theorem State.coreAt_updMe (s : State) (e : Nat) (f : Core → Core) :
    (s.updMe f).coreAt e = if e = s.cur then f s.me else s.coreAt e := State.coreAt_updCore ..
theorem State.clusterAt_updCluster (s : State) (k j : Nat) (f : Cluster → Cluster) :
    (s.updCluster k f).clusterAt j = if j = k then f (s.clusterAt k) else s.clusterAt j := Store.get_upd ..
theorem State.dieAt_updDie (s : State) (k j : Nat) (f : Die → Die) :
    (s.updDie k f).dieAt j = if j = k then f (s.dieAt k) else s.dieAt j := Store.get_upd ..
theorem State.wispAt_updWisp (s : State) (k j : Nat) (f : Wisp → Wisp) :
    (s.updWisp k f).wispAt j = if j = k then f (s.wispAt k) else s.wispAt j := Store.get_upd ..
theorem State.launchAt_updLaunch (s : State) (k j : Nat) (f : Launch → Launch) :
    (s.updLaunch k f).launchAt j = if j = k then f (s.launchAt k) else s.launchAt j := Store.get_upd ..
theorem State.vdevAt_updVdev (s : State) (k j : Nat) (f : VDev → VDev) :
    (s.updVdev k f).vdevAt j = if j = k then f (s.vdevAt k) else s.vdevAt j := Store.get_upd ..
theorem State.mboxAt_updMbox (s : State) (k j : Nat) (f : Mbox → Mbox) :
    (s.updMbox k f).mboxAt j = if j = k then f (s.mboxAt k) else s.mboxAt j := Store.get_upd ..
theorem State.queueAt_updQueue (s : State) (n q m r : Nat) (f : Queue → Queue) :
    (s.updQueue n q f).queueAt m r = if m * 16 + r = n * 16 + q then f (s.queueAt n q) else s.queueAt m r :=
  Store.get_upd ..

/-- Two updates of one core are one. -/
theorem Store.put_put {α : Type} (m : Store α) (k : Nat) (v w : α) : Store.put (Store.put m k v) k w = Store.put m k w := by
  induction m with
  | nil => simp [Store.put]
  | cons e m ih =>
    obtain ⟨k', v'⟩ := e
    simp only [Store.put]
    split
    · simp [Store.put]
    · split
      · simp [Store.put]
      · simp only [Store.put]; rw [if_neg (by assumption), if_neg (by assumption), ih]

/-! ### Registers -/

theorem Core.gRead_gWrite (x : Core) (d r : Nat) (v : Word) :
    (x.gWrite d v).gRead r = if r = 0 then 0 else if r = d then v else x.gRead r := by
  unfold Core.gWrite
  by_cases hr : r = 0
  · simp [Core.gRead, hr]
  · simp only [hr, if_false]
    by_cases hd : d = 0
    · subst hd; simp [hr]
    · simp only [hd, if_false]
      split
      · rename_i h
        by_cases hrd : r = d
        · subst hrd; simp [Core.gRead, hr, h]
        · simp [Core.gRead, hr, hrd, Store.get_set]
      · rename_i h
        by_cases hrd : r = d
        · subst hrd; simp only [Core.gRead, hr, if_false, if_true]; rw [if_neg h]; simp
        · simp [Core.gRead, hr, hrd, Store.get_set]
@[simp] theorem Core.gRead_zero (x : Core) : x.gRead 0 = 0 := rfl
theorem Core.vRead_vWrite (x : Core) (d r : Nat) (v : VReg) :
    (x.vWrite d v).vRead r = if r = d then v else x.vRead r := Store.get_set ..
theorem Core.kRead_kWrite (x : Core) (d r : Nat) (v : KReg) :
    (x.kWrite d v).kRead r = if r = d then v else x.kRead r := Store.get_set ..

/-- A write of a g register changes nothing of the core but the g registers. -/
theorem Core.gWrite_rest (x : Core) (d : Nat) (v : Word) : { x.gWrite d v with g := x.g, sg := x.sg } = x := by
  unfold Core.gWrite; split
  · rfl
  · split <;> rfl

@[simp] theorem Core.gWrite_wisp (x : Core) (d : Nat) (v : Word) : (x.gWrite d v).wisp = x.wisp := by
  unfold Core.gWrite; split <;> [rfl; (split <;> rfl)]
@[simp] theorem Core.gWrite_stage (x : Core) (d : Nat) (v : Word) : (x.gWrite d v).stage = x.stage := by
  unfold Core.gWrite; split <;> [rfl; (split <;> rfl)]
@[simp] theorem Core.gWrite_waitOn (x : Core) (d : Nat) (v : Word) : (x.gWrite d v).waitOn = x.waitOn := by
  unfold Core.gWrite; split <;> [rfl; (split <;> rfl)]
@[simp] theorem Core.gWrite_hold (x : Core) (d : Nat) (v : Word) : (x.gWrite d v).hold = x.hold := by
  unfold Core.gWrite; split <;> [rfl; (split <;> rfl)]
@[simp] theorem Core.gWrite_ir (x : Core) (d : Nat) (v : Word) : (x.gWrite d v).ir = x.ir := by
  unfold Core.gWrite; split <;> [rfl; (split <;> rfl)]
@[simp] theorem Core.gWrite_fillPois (x : Core) (d : Nat) (v : Word) : (x.gWrite d v).fillPois = x.fillPois := by
  unfold Core.gWrite; split <;> [rfl; (split <;> rfl)]
@[simp] theorem Core.gWrite_pc (x : Core) (d : Nat) (v : Word) : (x.gWrite d v).pc = x.pc := by
  unfold Core.gWrite; split <;> [rfl; (split <;> rfl)]
@[simp] theorem Core.gWrite_sup (x : Core) (d : Nat) (v : Word) : (x.gWrite d v).sup = x.sup := by
  unfold Core.gWrite; split <;> [rfl; (split <;> rfl)]
@[simp] theorem Core.gWrite_v (x : Core) (d : Nat) (v : Word) : (x.gWrite d v).v = x.v := by
  unfold Core.gWrite; split <;> [rfl; (split <;> rfl)]
@[simp] theorem Core.gWrite_k (x : Core) (d : Nat) (v : Word) : (x.gWrite d v).k = x.k := by
  unfold Core.gWrite; split <;> [rfl; (split <;> rfl)]
@[simp] theorem Core.gWrite_u (x : Core) (d : Nat) (v : Word) : (x.gWrite d v).u = x.u := by
  unfold Core.gWrite; split <;> [rfl; (split <;> rfl)]
@[simp] theorem Core.gWrite_s (x : Core) (d : Nat) (v : Word) : (x.gWrite d v).s = x.s := by
  unfold Core.gWrite; split <;> [rfl; (split <;> rfl)]
@[simp] theorem Core.gWrite_slots (x : Core) (d : Nat) (v : Word) : (x.gWrite d v).slots = x.slots := by
  unfold Core.gWrite; split <;> [rfl; (split <;> rfl)]
@[simp] theorem Core.gWrite_age (x : Core) (d : Nat) (v : Word) : (x.gWrite d v).age = x.age := by
  unfold Core.gWrite; split <;> [rfl; (split <;> rfl)]
@[simp] theorem Core.gWrite_frec (x : Core) (d : Nat) (v : Word) : (x.gWrite d v).frec = x.frec := by
  unfold Core.gWrite; split <;> [rfl; (split <;> rfl)]
@[simp] theorem Core.gWrite_l1 (x : Core) (d : Nat) (v : Word) : (x.gWrite d v).l1 = x.l1 := by
  unfold Core.gWrite; split <;> [rfl; (split <;> rfl)]
@[simp] theorem Core.gWrite_sentPois (x : Core) (d : Nat) (v : Word) : (x.gWrite d v).sentPois = x.sentPois := by
  unfold Core.gWrite; split <;> [rfl; (split <;> rfl)]
@[simp] theorem Core.gWrite_drop (x : Core) (d : Nat) (v : Word) : (x.gWrite d v).drop = x.drop := by
  unfold Core.gWrite; split <;> [rfl; (split <;> rfl)]
@[simp] theorem Core.gWrite_lost (x : Core) (d : Nat) (v : Word) : (x.gWrite d v).lost = x.lost := by
  unfold Core.gWrite; split <;> [rfl; (split <;> rfl)]
@[simp] theorem Core.gWrite_owned (x : Core) (d : Nat) (v : Word) : (x.gWrite d v).owned = x.owned := by
  unfold Core.gWrite; split <;> [rfl; (split <;> rfl)]
@[simp] theorem Core.gWrite_typed (x : Core) (d : Nat) (v : Word) : (x.gWrite d v).typed = x.typed := by
  unfold Core.gWrite; split <;> [rfl; (split <;> rfl)]
@[simp] theorem Core.gWrite_e (x : Core) (d : Nat) (v : Word) : (x.gWrite d v).e = x.e := by
  unfold Core.gWrite; split <;> [rfl; (split <;> rfl)]
@[simp] theorem Core.gWrite_gang (x : Core) (d : Nat) (v : Word) : (x.gWrite d v).gang = x.gang := by
  unfold Core.gWrite; split <;> [rfl; (split <;> rfl)]
@[simp] theorem Core.gWrite_gangWait (x : Core) (d : Nat) (v : Word) : (x.gWrite d v).gangWait = x.gangWait := by
  unfold Core.gWrite; split <;> [rfl; (split <;> rfl)]
@[simp] theorem Core.gWrite_kill (x : Core) (d : Nat) (v : Word) : (x.gWrite d v).kill = x.kill := by
  unfold Core.gWrite; split <;> [rfl; (split <;> rfl)]
@[simp] theorem Core.gWrite_preKind (x : Core) (d : Nat) (v : Word) : (x.gWrite d v).preKind = x.preKind := by
  unfold Core.gWrite; split <;> [rfl; (split <;> rfl)]
@[simp] theorem Core.gWrite_lastTime (x : Core) (d : Nat) (v : Word) : (x.gWrite d v).lastTime = x.lastTime := by
  unfold Core.gWrite; split <;> [rfl; (split <;> rfl)]
@[simp] theorem Core.gWrite_timeC0 (x : Core) (d : Nat) (v : Word) : (x.gWrite d v).timeC0 = x.timeC0 := by
  unfold Core.gWrite; split <;> [rfl; (split <;> rfl)]
@[simp] theorem Core.gWrite_popped (x : Core) (d : Nat) (v : Word) : (x.gWrite d v).popped = x.popped := by
  unfold Core.gWrite; split <;> [rfl; (split <;> rfl)]
@[simp] theorem Core.gWrite_pushed (x : Core) (d : Nat) (v : Word) : (x.gWrite d v).pushed = x.pushed := by
  unfold Core.gWrite; split <;> [rfl; (split <;> rfl)]
@[simp] theorem Core.gWrite_lastVdev (x : Core) (d : Nat) (v : Word) : (x.gWrite d v).lastVdev = x.lastVdev := by
  unfold Core.gWrite; split <;> [rfl; (split <;> rfl)]
@[simp] theorem Core.gWrite_saved (x : Core) (d : Nat) (v : Word) : (x.gWrite d v).saved = x.saved := by
  unfold Core.gWrite; split <;> [rfl; (split <;> rfl)]
@[simp] theorem Core.gWrite_inval (x : Core) (d : Nat) (v : Word) : (x.gWrite d v).inval = x.inval := by
  unfold Core.gWrite; split <;> [rfl; (split <;> rfl)]
@[simp] theorem Core.gWrite_refill (x : Core) (d : Nat) (v : Word) : (x.gWrite d v).refill = x.refill := by
  unfold Core.gWrite; split <;> [rfl; (split <;> rfl)]
@[simp] theorem Core.gWrite_cycles (x : Core) (d : Nat) (v : Word) : (x.gWrite d v).cycles = x.cycles := by
  unfold Core.gWrite; split <;> [rfl; (split <;> rfl)]
@[simp] theorem Core.gWrite_dbgKilled (x : Core) (d : Nat) (v : Word) : (x.gWrite d v).dbgKilled = x.dbgKilled := by
  unfold Core.gWrite; split <;> [rfl; (split <;> rfl)]
@[simp] theorem Core.gWrite_dbgEvicted (x : Core) (d : Nat) (v : Word) : (x.gWrite d v).dbgEvicted = x.dbgEvicted := by
  unfold Core.gWrite; split <;> [rfl; (split <;> rfl)]
@[simp] theorem Core.gWrite_csel (x : Core) (d : Nat) (v : Word) : (x.gWrite d v).csel = x.csel := by
  unfold Core.gWrite; split <;> [rfl; (split <;> rfl)]
@[simp] theorem Core.gWrite_bump (x : Core) (d : Nat) (v : Word) : (x.gWrite d v).bump = x.bump := by
  unfold Core.gWrite; split <;> [rfl; (split <;> rfl)]
@[simp] theorem Core.gWrite_mc (x : Core) (d : Nat) (v : Word) : (x.gWrite d v).mc = x.mc := by
  unfold Core.gWrite; split <;> [rfl; (split <;> rfl)]

/-! ### Memory -/

theorem get_memPut (m : Store Byte) (pa v n a : Nat) :
    Store.get 0 (memPut m pa v n) a = if pa ≤ a ∧ a < pa + n then BitVec.ofNat 8 (v / 256 ^ (a - pa)) else Store.get 0 m a := by
  induction n generalizing m pa v with
  | zero => rw [if_neg (by omega)]; rfl
  | succ n ih =>
    rw [memPut, ih]
    by_cases h : pa + 1 ≤ a ∧ a < pa + 1 + n
    · rw [if_pos h, if_pos (by omega), Nat.div_div_eq_div_mul, ← Nat.pow_succ']
      congr 3; omega
    · rw [if_neg h, Store.get_set]
      by_cases ha : a = pa
      · subst ha; simp
      · rw [if_neg ha, if_neg (by omega)]

/-- Reading a byte after a write: the bytes written, and every other byte as before. -/
theorem State.byteAt_rawWrite (s : State) (pa n v a : Nat) :
    (s.rawWrite pa n v).byteAt a = if pa ≤ a ∧ a < pa + n then BitVec.ofNat 8 (v / 256 ^ (a - pa)) else s.byteAt a :=
  get_memPut ..

theorem wf_memPut (m : Store Byte) (pa v n : Nat) (h : Store.wf 0 m) : Store.wf 0 (memPut m pa v n) := by
  induction n generalizing m pa v with
  | zero => exact h
  | succ n ih => exact ih _ _ _ (Store.wf_set 0 _ m pa h)

theorem State.rawWrite_wf (s : State) (pa n v : Nat) (h : Store.wf 0 s.mem) : Store.wf 0 (s.rawWrite pa n v).mem :=
  wf_memPut _ _ _ _ h

end Sys2Proof.Machine
end

