-- ==== Sys2Proof/Laws/Scalar.lean ====
section
/-! SUPPORT. What the shared shapes of the scalar instructions do, said once. -/

namespace Sys2Proof.Machine

theorem State.updMe_samePackage (s : State) (f : Core → Core) : SamePackage s (s.updMe f) := ⟨rfl, fun _ => rfl⟩
theorem State.updMe_onlyCore (s : State) (f : Core → Core) : OnlyCore s (s.updMe f) :=
  ⟨s.updMe_samePackage f, fun c h => by rw [State.coreAt_updMe, if_neg h]⟩
theorem OnlyCore.trans {s t u : State} (h : OnlyCore s t) (hc : t.cur = s.cur) (k : OnlyCore t u) : OnlyCore s u := by
  refine ⟨⟨?_, fun a => (k.1.2 a).trans (h.1.2 a)⟩, fun c hne => (k.2 c (hc ▸ hne)).trans (h.2 c hne)⟩
  have h1 := h.1.1
  have h2 := k.1.1
  rw [← h1, ← h2]
@[simp] theorem State.nextPc_me (s : State) : s.nextPc.me = { s.me with pc := s.pc + 4 } := by
  simp [State.nextPc, State.jump]
@[simp] theorem State.jump_me (s : State) (p : Word) : (s.jump p).me = { s.me with pc := p } := by simp [State.jump]
@[simp] theorem State.wg_me (s : State) (d : BitVec 5) (v : Word) : (s.wg d v).me = s.me.gWrite d.toNat v := by
  simp [State.wg]
@[simp] theorem State.wg_pc (s : State) (d : BitVec 5) (v : Word) : (s.wg d v).pc = s.pc := by simp [State.pc]
@[simp] theorem State.nextPc_pc (s : State) : s.nextPc.pc = s.pc + 4 := by simp [State.pc]
@[simp] theorem State.jump_pc (s : State) (p : Word) : (s.jump p).pc = p := by simp [State.pc]

theorem Core.gOther_gWrite (x : Core) (d q : Nat) (v : Word) (h4 : 4 ≤ q) (h7 : q ≤ 7) :
    (x.gWrite d v).gOther q = x.gOther q := by
  unfold Core.gOther Core.gWrite
  have hq : q ≠ 0 := by omega
  split
  · rfl
  · split
    · rename_i h
      have hs : x.sup = true := by simp_all
      simp [Core.gRead, hs, hq]
    · rename_i hd h
      by_cases hs : x.sup = true
      · have : q ≠ d := by rintro rfl; simp_all
        simp [Core.gRead, hs, hq, Store.get_set, this]
      · simp [Core.gRead, hs, hq, h4, h7]

theorem Core.wroteG (x : Core) (d : BitVec 5) (v p : Word) : x.WroteG { x.gWrite d.toNat v with pc := p } d v := by
  refine ⟨fun q => ?_, fun q h4 h7 => ?_, ?_⟩
  · have := Core.gRead_gWrite x d.toNat q.toNat v
    have h : ({ x.gWrite d.toNat v with pc := p } : Core).gRead q.toNat = (x.gWrite d.toNat v).gRead q.toNat := rfl
    rw [h, this]
    have h0 : (q.toNat = 0) = (q = 0) := by
      rw [show (0 : Nat) = (0 : BitVec 5).toNat from rfl, BitVec.toNat_inj]
    simp only [h0, BitVec.toNat_inj]
  · exact Core.gOther_gWrite x d.toNat q v h4 h7
  · have := Core.gWrite_rest x d.toNat v
    calc _ = { ({ x.gWrite d.toNat v with g := x.g, sg := x.sg } : Core) with pc := x.pc } := rfl
      _ = x := by rw [this]

/-- An instruction whose whole effect is a value in gd, with the PC at p. -/
theorem wg_jump_out (s : State) (d : BitVec 5) (v p : Word) : GPcOut s d v p (.next ((s.wg d v).jump p)) := by
  refine ⟨_, rfl, ?_, by simp, ?_⟩
  · exact (s.updMe_onlyCore _).trans rfl (State.updMe_onlyCore _ _)
  · simpa using s.me.wroteG d v p
theorem setG_out (s : State) (d : BitVec 5) (v : Word) : GOut s d v (setG d v s) := by
  have := wg_jump_out s d v (s.pc + 4)
  simpa [GOut, setG, State.nextPc] using this
theorem jump_out (s : State) (p : Word) : PcOut s p (.next (s.jump p)) :=
  ⟨_, rfl, s.updMe_onlyCore _, by simp, by simp⟩
theorem nextPc_out (s : State) : PcOut s (s.pc + 4) (.next s.nextPc) := jump_out s _
theorem branchTo_out {n : Nat} (s : State) (b : Bool) (off : BitVec n) :
    PcOut s (if b then s.target off else s.pc + 4) (branchTo b off s) := by
  unfold branchTo; cases b <;> exact jump_out s _

/-- How an access ends the instruction. -/
@[simp] theorem finish_ok (u : Unit) (s : State) : finish (.ok u s) = .next s.nextPc := rfl
@[simp] theorem finish_trap (t : Trap) (s : State) : finish (.trap t s) = .next (s.trap t) := rfl
@[simp] theorem finish_wait (s : State) : finish (.wait s) = .next s.block := rfl
@[simp] theorem finishG_ok (d : BitVec 5) (v : Word) (s : State) : finishG d (.ok v s) = setG d v s := rfl
@[simp] theorem finishG_trap (d : BitVec 5) (t : Trap) (s : State) : finishG d (.trap t s) = .next (s.trap t) := rfl
@[simp] theorem finishG_wait (d : BitVec 5) (s : State) : finishG d (.wait s) = .next s.block := rfl
@[simp] theorem Acc.bind_ok {α β : Type} (a : α) (s : State) (f : α → State → Acc β) : (Acc.ok a s).bind f = f a s := rfl
@[simp] theorem Acc.bind_trap {α β : Type} (t : Trap) (s : State) (f : α → State → Acc β) :
    (Acc.trap t s : Acc α).bind f = .trap t s := rfl
@[simp] theorem Acc.bind_wait {α β : Type} (s : State) (f : α → State → Acc β) : (Acc.wait s : Acc α).bind f = .wait s := rfl

end Sys2Proof.Machine
end

