-- ==== Sys2Proof/Laws/Access.lean ====
section
/-! SUPPORT. What the operations on memory may change (MemOnly): one lemma for each, up to the accesses of R90 and the
releases and acquires of R266 and R267. -/

namespace Sys2Proof.Machine

theorem Core.SameRegs.rfl' (x : Core) : x.SameRegs x := rfl
theorem Core.SameRegs.trans {x y z : Core} (h : x.SameRegs y) (k : y.SameRegs z) : x.SameRegs z := by
  unfold Core.SameRegs at *
  rw [← h, ← k]

theorem MemOnly.refl (s : State) : MemOnly s s := ⟨rfl, fun _ => rfl, id⟩
theorem MemOnly.trans {s t u : State} (h : MemOnly s t) (k : MemOnly t u) : MemOnly s u := by
  refine ⟨?_, fun c => (h.2.1 c).trans (k.2.1 c), fun w => k.2.2 (h.2.2 w)⟩
  have h1 := h.1
  have h2 := k.1
  rw [← h1, ← h2]
/-- A fold of steps each of which is MemOnly. -/
theorem MemOnly.foldl {β : Type} (f : State → β → State) (hf : ∀ s b, MemOnly s (f s b)) (l : List β) (s : State) :
    MemOnly s (l.foldl f s) := by
  induction l generalizing s with
  | nil => exact MemOnly.refl s
  | cons b l ih => exact (hf s b).trans (ih _)

theorem Acc.FromMem.bind {α β : Type} {s : State} {x : Acc α} {f : α → State → Acc β} (h : x.FromMem s)
    (hf : ∀ a t, (f a t).FromMem t) : (x.bind f).FromMem s := by
  cases x with
  | ok a t =>
    have := hf a t
    show (f a t).FromMem s
    cases hft : f a t <;> rw [hft] at this <;> exact MemOnly.trans h this
  | trap _ _ => exact h
  | wait _ => exact h

theorem MemOnly.updCore (s : State) (c : Nat) (f : Core → Core) (hf : ∀ x, Core.SameRegs x (f x)) :
    MemOnly s (s.updCore c f) := by
  refine ⟨rfl, fun e => ?_, id⟩
  rw [State.coreAt_updCore]
  split
  · subst e; exact hf _
  · rfl
theorem MemOnly.setCore (s : State) (c : Nat) (x : Core) (hx : (s.coreAt c).SameRegs x) : MemOnly s (s.setCore c x) := by
  refine ⟨rfl, fun e => ?_, id⟩
  rw [State.coreAt_setCore]
  split
  · subst e; exact hx
  · rfl
theorem MemOnly.setL1 (s : State) (c line : Nat) (l : Line) : MemOnly s (s.setL1 c line l) := MemOnly.updCore _ _ _ (fun _ => rfl)
theorem MemOnly.updCluster (s : State) (k : Nat) (f : Cluster → Cluster) : MemOnly s (s.updCluster k f) := ⟨rfl, fun _ => rfl, id⟩
theorem MemOnly.updDie (s : State) (d : Nat) (f : Die → Die) : MemOnly s (s.updDie d f) := ⟨rfl, fun _ => rfl, id⟩
theorem MemOnly.draw (s : State) (n : Nat) : MemOnly s ({ s with draw := n } : State) := ⟨rfl, fun _ => rfl, id⟩
theorem MemOnly.post (s : State) (e : Event) : MemOnly s (s.post e) := ⟨rfl, fun _ => rfl, id⟩
theorem MemOnly.emit (s : State) (o : Out) : MemOnly s (s.emit o) := ⟨rfl, fun _ => rfl, id⟩
theorem MemOnly.postOnce (s : State) (e : Event) : MemOnly s (s.postOnce e) := by
  unfold State.postOnce; split <;> [exact .refl s; exact .post s e]
theorem MemOnly.updReg (s : State) (line : Nat) (f : Reg → Reg) : MemOnly s (s.updReg line f) := ⟨rfl, fun _ => rfl, id⟩
theorem MemOnly.updWisp (s : State) (k : Nat) (f : Wisp → Wisp) : MemOnly s (s.updWisp k f) := ⟨rfl, fun _ => rfl, id⟩
theorem MemOnly.rawWrite (s : State) (pa n v : Nat) : MemOnly s (s.rawWrite pa n v) :=
  ⟨rfl, fun _ => rfl, s.rawWrite_wf pa n v⟩
theorem MemOnly.homePoison (s : State) (line : Nat) (m : BitVec 16) : MemOnly s (s.homePoison line m) := ⟨rfl, fun _ => rfl, id⟩
theorem MemOnly.putHome (s : State) (pa n v : Nat) : MemOnly s (s.putHome pa n v) :=
  ⟨rfl, fun _ => rfl, s.rawWrite_wf pa n v⟩
theorem MemOnly.dirtyMap (s : State) (l : List (Nat × Bool)) : MemOnly s ({ s with dirtyMap := l } : State) := ⟨rfl, fun _ => rfl, id⟩
theorem MemOnly.pending (s : State) (l : List (Nat × Pending)) : MemOnly s ({ s with pending := l } : State) := ⟨rfl, fun _ => rfl, id⟩
theorem MemOnly.writeRecord (s : State) (k : Nat) : MemOnly s (s.writeRecord k) := by
  unfold State.writeRecord
  dsimp only
  split <;> [exact .refl s; exact MemOnly.trans (.rawWrite ..) (.dirtyMap ..)]
theorem MemOnly.sendRemote (s : State) (op : PeerOp) (pa n v : Nat) : MemOnly s (s.sendRemote op pa n v) := by
  unfold State.sendRemote; split <;> [exact .refl s; exact .emit ..]

theorem MemOnly.offer (s : State) (d : Nat) : MemOnly s (s.offer d) := by
  unfold State.offer
  extract_lets s1 s2
  have h1 : MemOnly s s1 := MemOnly.foldl _ (fun s k => .postOnce s _) _ s
  have h2 : MemOnly s1 s2 := by
    show MemOnly s1 (if _ then s1.postOnce _ else s1)
    split <;> [exact .postOnce _ _; exact .refl _]
  refine h1.trans (h2.trans ?_)
  split <;> [exact .postOnce _ _; exact .refl _]
theorem MemOnly.markReady (s : State) (k : Nat) : MemOnly s (s.markReady k) := by
  unfold State.markReady
  extract_lets w x s1 s2
  have h1 : MemOnly s s1 := ⟨rfl, fun _ => rfl, id⟩
  have h2 : MemOnly s1 s2 := .writeRecord _ _
  refine h1.trans (h2.trans ?_)
  split
  · exact .offer _ _
  · split <;> [exact .post _ _; exact .refl _]
theorem MemOnly.wakeCore (s : State) (c : Nat) (v : Word) (d : Nat) (acq : Option Nat) : MemOnly s (s.wakeCore c v d acq) :=
  MemOnly.updCore _ _ _ (fun _ => rfl)
theorem MemOnly.wakeParked (s : State) (k : Nat) (v : Word) (d : Nat) (acq : Option Nat) :
    MemOnly s (s.wakeParked k v d acq) := MemOnly.trans (.updWisp _ _ _) (.markReady _ _)
theorem MemOnly.wakeWaiter (s : State) (w : Waiter) : MemOnly s (s.wakeWaiter w) := by
  unfold State.wakeWaiter
  dsimp only
  have h : MemOnly s ({ s with waiters := s.waiters.erase w } : State) := ⟨rfl, fun _ => rfl, id⟩
  refine h.trans ?_
  split <;> split <;> first | exact .refl _ | exact .wakeCore .. | exact .wakeParked ..
theorem MemOnly.wakeWaiters (s : State) (pa n : Nat) : MemOnly s (s.wakeWaiters pa n) :=
  MemOnly.foldl _ (fun s w => by split <;> [exact .refl _; exact .wakeWaiter _ _]) _ s

/-! ## Homes -/

theorem MemOnly.askOwner (s : State) (line o : Nat) (m : BitVec 16) (t : Option Take) (w : Option Awaiter) :
    MemOnly s (s.askOwner line o m t w) := by
  unfold State.askOwner
  extract_lets p had p2 s2
  have h : MemOnly s s2 := ⟨rfl, fun _ => rfl, id⟩
  split <;> [exact h; exact h.trans (.post _ _)]
theorem MemOnly.foreignWrite (s : State) (who : Option Nat) (w : Option Awaiter) (pa n : Nat) : MemOnly s (s.foreignWrite who w pa n) :=
  MemOnly.foldl _ (fun s o => by split <;> [exact .refl _; exact .askOwner ..]) _ s
theorem MemOnly.putForeign (s : State) (who : Option Nat) (w : Option Awaiter) (pa n v : Nat) :
    MemOnly s ((s.putHome pa n v).foreignWrite who w pa n) := MemOnly.trans (.putHome ..) (.foreignWrite ..)
theorem MemOnly.register (s : State) (who : Option Nat) (w : Option Awaiter) (pa n v : Nat) :
    MemOnly s (s.register who w pa n v) := by
  unfold State.register
  dsimp only
  split <;> [exact MemOnly.trans (.putForeign ..) (.putForeign ..); exact .putForeign ..]
theorem MemOnly.homeUpdate (s : State) (who : Option Nat) (w : Option Awaiter) (pa n v : Nat) : MemOnly s (s.homeUpdate who w pa n v) :=
  MemOnly.trans (.register ..) (.wakeWaiters ..)
/-- One registered write. -/
theorem MemOnly.homeWrite1 (s : State) (who : Option Nat) (w : Option Awaiter) (pa n v : Nat) : MemOnly s (s.homeWrite1 who w pa n v) :=
  MemOnly.trans (.sendRemote ..) (.homeUpdate ..)
theorem MemOnly.homeWriteN (k : Nat) (s : State) (who : Option Nat) (w : Option Awaiter) (pa n v : Nat) :
    MemOnly s (State.homeWriteN k s who w pa n v) := by
  induction k generalizing s pa n v with
  | zero => exact .refl s
  | succ k ih =>
    unfold State.homeWriteN
    dsimp only
    split <;> [exact .refl s; exact MemOnly.trans (.homeWrite1 ..) (ih ..)]
theorem MemOnly.homeWrite (s : State) (who : Option Nat) (w : Option Awaiter) (pa n v : Nat) : MemOnly s (s.homeWrite who w pa n v) :=
  MemOnly.homeWriteN ..
theorem MemOnly.homeWriteWords (s : State) (who : Option Nat) (w : Option Awaiter) (line : Nat) (data : BitVec 512) (m p : BitVec 16) :
    MemOnly s (s.homeWriteWords who w line data m p) := by
  unfold State.homeWriteWords
  extract_lets words s1
  have h1 : MemOnly s s1 := MemOnly.foldl _ (fun s i => MemOnly.trans (.sendRemote ..) (.register ..)) _ s
  exact h1.trans (MemOnly.trans (.homePoison ..) (MemOnly.foldl _ (fun s i => .wakeWaiters ..) _ _))

/-! ## Tiers -/

theorem MemOnly.loseWords (s : State) (d v line : Nat) : MemOnly s (s.loseWords d v line) :=
  MemOnly.foldl _ (fun s c => .updCore s c (fun x => { x with lost := some (64 * line) }) (fun _ => rfl)) _ s
theorem MemOnly.dieRoom (s : State) (d v : Nat) : MemOnly s (s.dieRoom d v) := by
  unfold State.dieRoom
  dsimp only
  split
  · exact .refl s
  · split
    · exact .refl s
    · rename_i line l _
      have h := (MemOnly.updDie s d (fun x => { x with cache := Store.set {} x.cache line {} })).trans (.draw _ (s.draw + 1))
      split
      · exact h
      · split <;> [exact h.trans (.loseWords ..); exact h.trans (.homeWriteWords ..)]
theorem MemOnly.setDieLine (s : State) (d line : Nat) (l : Line) : MemOnly s (s.setDieLine d line l) := by
  unfold State.setDieLine
  split <;> [exact MemOnly.trans (.dieRoom ..) (.updDie ..); exact .updDie ..]
theorem MemOnly.cluRoom (s : State) (k : Nat) : MemOnly s (s.cluRoom k) := by
  unfold State.cluRoom
  dsimp only
  split
  · exact .refl s
  · split
    · exact .refl s
    · split <;> [exact MemOnly.trans (.updCluster ..) (.draw ..);
        exact MemOnly.trans (.updCluster ..) (MemOnly.trans (.draw ..) (.setDieLine ..))]
theorem MemOnly.setCluLine (s : State) (k line : Nat) (l : Line) : MemOnly s (s.setCluLine k line l) := by
  unfold State.setCluLine
  split <;> [exact MemOnly.trans (.cluRoom ..) (.updCluster ..); exact .updCluster ..]
theorem MemOnly.fillDie (s : State) (c line : Nat) (t : LineTag) : MemOnly s (s.fillDie c line t).2 := by
  unfold State.fillDie; dsimp only; split <;> [exact .refl s; exact MemOnly.trans (.sendRemote ..) (.setDieLine ..)]
theorem MemOnly.fillClu (s : State) (c line : Nat) (t : LineTag) : MemOnly s (s.fillClu c line t).2 := by
  unfold State.fillClu; dsimp only; split <;> [exact .refl s; exact MemOnly.trans (.fillDie ..) (.setCluLine ..)]

/-! ## Messages at the home -/

theorem MemOnly.passTiers (s : State) (c line : Nat) (data : BitVec 512) (m p : BitVec 16) (b : Bool) :
    MemOnly s (s.passTiers c line data m p b) := by
  unfold State.passTiers
  extract_lets d s1 k
  have h1 : MemOnly s s1 := by show MemOnly s (if _ then s else _); split <;> [exact .refl s; exact .setDieLine ..]
  split <;> [exact h1; exact h1.trans (.setCluLine ..)]
theorem MemOnly.sendLine (s : State) (c line : Nat) (p : BitVec 16) (e : Event) : MemOnly s (s.sendLine c line p e) :=
  MemOnly.trans (.updCore s c (fun x => { x with fillPois := Store.set 0 x.fillPois line p }) (fun _ => rfl)) (.post ..)
theorem MemOnly.answerFill (s : State) (c line : Nat) : MemOnly s (s.answerFill c line) := by
  unfold State.answerFill
  split
  · exact .sendLine ..
  · dsimp only
    have h := fun p => MemOnly.trans (.sendRemote s .read (64 * line) 64 0)
      (.passTiers (s.sendRemote .read (64 * line) 64 0) c line (s.fillData c line).1 (BitVec.allOnes 16) p false)
    split <;> [exact (h _).trans (.sendLine ..); exact (h _).trans (MemOnly.trans (.updReg ..) (.sendLine ..))]
theorem MemOnly.flushOwned (s : State) (c line : Nat) (m : BitVec 16) : MemOnly s (s.flushOwned c line m) := by
  unfold State.flushOwned
  extract_lets d k s1 s2 d2 s3
  have h1 : MemOnly s s1 := by
    show MemOnly s (if _ then s else _)
    split <;> [exact .refl s; exact MemOnly.trans (.setDieLine ..) (.homeWriteWords ..)]
  split
  · exact h1
  · exact h1.trans (MemOnly.trans (.setCluLine ..) (MemOnly.trans (.setDieLine ..) (.homeWriteWords ..)))
theorem MemOnly.arriveWords (s : State) (c line : Nat) (data : BitVec 512) (m : BitVec 16) :
    MemOnly s (s.arriveWords c line data m) := by
  unfold State.arriveWords
  split
  · exact .refl s
  · extract_lets p s1 s2
    have h1 : MemOnly s s1 := .updCore _ _ _ (fun _ => rfl)
    split <;> [exact h1.trans (.updCore _ _ _ (fun _ => rfl)); exact h1.trans (MemOnly.trans (.homeWriteWords ..) (.passTiers ..))]
theorem MemOnly.mergeAnswer (s : State) (c line : Nat) (data : BitVec 512) (m : BitVec 16) :
    MemOnly s (s.mergeAnswer c line data m) := .arriveWords ..
theorem MemOnly.onOwnreq (s : State) (c line : Nat) (w : BitVec 16) (data : BitVec 512) (dirty : BitVec 16) :
    MemOnly s (s.onOwnreq c line w data dirty) := by
  unfold State.onOwnreq
  extract_lets awaits s0 s1 r held taken s2 s3
  have h0 : MemOnly s s0 := .mergeAnswer ..
  have h1 : MemOnly s s1 := MemOnly.trans (.flushOwned ..) (.mergeAnswer ..)
  have h3 : MemOnly s s3 := h1.trans (MemOnly.trans (.updReg ..) (MemOnly.foldl _ (fun s o => .askOwner ..) _ _))
  split <;> split <;> [exact h0.trans (.answerFill ..); exact h0; exact h3.trans (.answerFill ..); exact h3]
theorem MemOnly.endOwner (s : State) (c line : Nat) : MemOnly s (s.endOwner c line) := by
  unfold State.endOwner
  extract_lets p s1 s2 s3 cores
  have h1 : MemOnly s s1 := ⟨rfl, fun _ => rfl, id⟩
  have h3 : MemOnly s s3 := h1.trans (MemOnly.trans (.updReg ..) (MemOnly.foldl _ (fun s t => .updReg ..) _ _))
  exact h3.trans (MemOnly.foldl _ (fun s t => by split <;> [exact .answerFill ..; exact .refl _]) _ _)
theorem MemOnly.onFill (s : State) (c line : Nat) : MemOnly s (s.onFill c line) := by
  unfold State.onFill; split <;> [exact .pending ..; exact .answerFill ..]
theorem MemOnly.deregister (s : State) (c line : Nat) (m : BitVec 16) : MemOnly s (s.deregister c line m) := by
  unfold State.deregister
  exact MemOnly.trans (.updReg ..) (.pending ..)
theorem MemOnly.copyLeft (s : State) (c line : Nat) (data : BitVec 512) (dirty m : BitVec 16) :
    MemOnly s (s.copyLeft c line data dirty m) := by
  unfold State.copyLeft
  extract_lets had s1
  have h1 : MemOnly s s1 := .mergeAnswer ..
  split <;> [exact h1.trans (.endOwner ..); exact h1.trans (MemOnly.trans (.deregister ..) (.updReg ..))]
theorem MemOnly.atHome (s : State) (e : Event) : MemOnly s (s.atHome e) := by
  unfold State.atHome
  split
  · exact .onFill ..
  · exact .onOwnreq ..
  · exact MemOnly.trans (.mergeAnswer ..) (.endOwner ..)
  · exact MemOnly.trans (.copyLeft ..) (.post ..)
  · exact MemOnly.trans (.copyLeft ..) (.post ..)
  · exact .refl s
theorem MemOnly.sched (s : State) (l : List Event) : MemOnly s ({ s with sched := l } : State) := ⟨rfl, fun _ => rfl, id⟩
theorem MemOnly.eraseAtHome (s : State) (e : Event) :
    MemOnly s (({ s with sched := s.sched.erase e } : State).atHome e) :=
  MemOnly.trans (.sched s _) (.atHome ..)
theorem MemOnly.perform (s : State) (p : Nat → Nat → Bool) : MemOnly s (s.perform p) :=
  MemOnly.foldl _ (fun s e => .eraseAtHome s e) _ s
theorem MemOnly.bankOrder (s : State) (c line : Nat) : MemOnly s (s.bankOrder c line) := by
  unfold State.bankOrder; split <;> [exact .refl s; exact .perform ..]
theorem MemOnly.request (s : State) (c : Nat) (e : Event) : MemOnly s (s.request c e) := by
  unfold State.request
  refine MemOnly.trans ?_ (.post ..)
  split <;> [exact .eraseAtHome ..; exact .refl s]
theorem MemOnly.writeBack (s : State) (c : Nat) (who : Option Nat) (line : Nat) (data : BitVec 512) (m p : BitVec 16) :
    MemOnly s (s.writeBack c who line data m p) := by
  unfold State.writeBack
  split
  · exact .refl s
  · extract_lets s1 s2
    have h2 : MemOnly s s2 := by
      show MemOnly s (if _ then s1 else _)
      split <;> [exact .bankOrder ..; exact MemOnly.trans (.bankOrder ..) (.homeWriteWords ..)]
    split <;> [exact h2.trans (.updCore _ _ _ (fun _ => rfl)); exact h2]

/-! ## Lines that leave and enter the L1 -/

theorem MemOnly.writeOut (s : State) (c line sc : Nat) (l : Line) (m : BitVec 16) : MemOnly s (s.writeOut c line sc l m) := by
  unfold State.writeOut
  extract_lets k d r mine toHome sc' clu die home s2 rest
  have hc : ∀ s m, MemOnly s (clu s m) := fun s m => .setCluLine ..
  have hh : ∀ s m, MemOnly s (home s m) := fun s m => (hc s m).trans (MemOnly.trans (.setDieLine ..) (.writeBack ..))
  split
  · exact hh ..
  · have h2 : MemOnly s s2 := by
      show MemOnly s (if mine = 0 then s else home s mine)
      split <;> [exact .refl s; exact hh ..]
    split
    · exact h2
    · split
      · exact h2.trans ((hc ..).trans (.setDieLine ..))
      · exact h2.trans (.setCluLine ..)
theorem MemOnly.sendDirty (s : State) (c line : Nat) (st : LineSt) (msg : BitVec 512 → BitVec 16 → Event) :
    MemOnly s (s.sendDirty c line st msg) := by
  unfold State.sendDirty
  extract_lets l s1
  have h1 : MemOnly s s1 := MemOnly.trans (.setL1 s c line { l with st := st, dirty := 0 }) (.updCore _ _ _ (fun _ => rfl))
  exact h1.trans (.request ..)
theorem MemOnly.evictOne (s : State) (c : Nat) : MemOnly s (s.evictOne c) := by
  unfold State.evictOne
  dsimp only
  split
  · exact .refl s
  · split
    · exact .refl s
    · split
      · exact (MemOnly.draw s _).trans (.sendDirty ..)
      · exact (MemOnly.draw s _).trans ((MemOnly.writeOut ..).trans (.setL1 ..))

/-! ## Messages at the core -/

theorem MemOnly.onLine (s : State) (c line : Nat) (data : BitVec 512) (st : LineSt) : MemOnly s (s.onLine c line data st) := by
  unfold State.onLine
  dsimp only
  split
  · exact .updCore _ _ _ (fun _ => rfl)
  · split
    · have h := MemOnly.setL1 s c line { s.l1Line c line with
        st := st, data := data, valid := BitVec.allOnes 16, dirty := 0, pois := Store.get 0 (s.coreAt c).fillPois line }
      split
      · exact h
      · split <;> [exact h.trans (.sendDirty ..); exact h.trans (.deregister ..)]
    · exact .refl s
theorem MemOnly.yieldLine (s : State) (c line : Nat) (f : Core → Core) (hf : ∀ x, Core.SameRegs x (f x)) (e : Event) :
    MemOnly s (((s.setL1 c line {}).updCore c f).post e) :=
  MemOnly.trans (.setL1 ..) (MemOnly.trans (.updCore _ _ _ hf) (.post ..))
theorem MemOnly.onFwd (s : State) (c line : Nat) : MemOnly s (s.onFwd c line) := by
  unfold State.onFwd
  dsimp only
  split
  · split <;> [exact .refl s; exact MemOnly.trans (.writeOut ..) (.setL1 ..)]
  · exact .yieldLine s c line (fun x => { x with
      sentPois := Store.set 0 x.sentPois line ((s.l1Line c line).dirty &&& (s.l1Line c line).pois) }) (fun _ => rfl) _
  · exact .yieldLine s c line (fun x => { x with drop := x.drop ++ [line] }) (fun _ => rfl) _
  · exact .refl s
  · exact .setL1 ..
theorem MemOnly.onAck (s : State) (c line : Nat) : MemOnly s (s.onAck c line) := by
  unfold State.onAck
  dsimp only
  split <;> [exact .setL1 ..; exact .setL1 ..; exact .refl s]
theorem MemOnly.message (s : State) (e : Event) : MemOnly s ((s.message e).getD s) := by
  unfold State.message
  split
  · exact .onLine ..
  · exact .onLine ..
  · exact .onFwd ..
  · exact .onFwd ..
  · exact .onAck ..
  · split <;> [exact .atHome ..; exact .refl s]
theorem MemOnly.settleN (k : Nat) (s : State) : MemOnly s (State.settleN k s) := by
  induction k generalizing s with
  | zero => exact .refl s
  | succ k ih =>
    unfold State.settleN
    split
    · exact .refl s
    · rename_i e _
      refine MemOnly.trans (.sched s (s.sched.erase e)) (MemOnly.trans ?_ (ih _))
      exact .message ({ s with sched := s.sched.erase e } : State) e
theorem MemOnly.settle (s : State) : MemOnly s s.settle := .settleN ..

theorem Acc.FromMem.l1Get (s : State) (c line : Nat) (t : LineTag) (st : Bool) : (s.l1Get c line t st).FromMem s := by
  unfold State.l1Get
  extract_lets l s1 s2
  have h1 : MemOnly s s1 := .evictOne ..
  have h2 : MemOnly s s2 := by
    show MemOnly s (State.bankOrder (if _ then s1 else s) c line)
    split <;> [exact h1.trans (.bankOrder ..); exact .bankOrder ..]
  split
  · exact MemOnly.refl s
  · split
    · exact MemOnly.refl s
    · split
      · exact h1.trans (MemOnly.trans (.setL1 ..) (.request ..))
      · exact h2.trans (MemOnly.trans (.fillClu ..) (.setL1 ..))

/-! ## Translation -/

theorem Core.touchSlot_same (x : Core) (i : Nat) : x.SameRegs (x.touchSlot i) := by
  unfold Core.touchSlot; split <;> rfl
theorem Core.fillSlot_same (x : Core) (i j : Nat) (e : BitVec 512) : x.SameRegs (x.fillSlot i j e) :=
  Core.SameRegs.trans (y := x.setSlot i _) rfl (Core.touchSlot_same ..)

theorem Acc.FromMem.lookup (s : State) (c dva : Nat) (k : AKind) (sup : Bool) : (s.lookup c dva k sup).FromMem s := by
  unfold State.lookup
  dsimp only
  split
  · exact .refl s
  · split
    · exact .setCore _ _ _ (Core.touchSlot_same ..)
    · split <;> first | exact .refl s | exact .setCore _ _ _ (Core.fillSlot_same ..)
theorem Acc.FromMem.finishXlat (s : State) (c dva : Nat) (k : AKind) (sc sup : Bool) (e : BitVec 512) (i : Option Nat)
    (slot : Nat) : (s.finishXlat c dva k sc sup e i slot).FromMem s := by
  unfold State.finishXlat
  dsimp only
  split
  · exact .refl s
  · split
    · exact .refl s
    · split
      · exact .refl s
      · exact .refl s
      · split
        · have h : ∀ (b : Prop) [Decidable b] x, (s.coreAt c).SameRegs x → MemOnly s (if b then s else s.setCore c x) := by
            intro b _ x hx; split <;> [exact .refl s; exact .setCore _ _ _ hx]
          split <;> exact h _ _ (Core.fillSlot_same ..)
        · exact .refl s
      · exact .refl s
theorem Acc.FromMem.xlat (s : State) (c dva : Nat) (k : AKind) (sc sup : Bool) : (s.xlat c dva k sc sup).FromMem s :=
  Acc.FromMem.bind (.lookup ..) (fun _ _ => .finishXlat ..)

/-! ## Accesses -/

theorem Acc.FromMem.readRaw (s : State) (c : Nat) (t : Xl) (n : Nat) : (s.readRaw c t n).FromMem s := by
  unfold State.readRaw
  split
  · exact Acc.FromMem.bind (.l1Get ..) (fun _ t => MemOnly.refl t)
  · exact MemOnly.trans (.bankOrder ..) (.sendRemote ..)
theorem Acc.FromMem.loadAt (s : State) (c dva : Nat) (t : Xl) (n : Nat) : (s.loadAt c dva t n).FromMem s := by
  unfold State.loadAt
  refine Acc.FromMem.bind (.readRaw ..) (fun r t => ?_)
  dsimp only; split <;> exact MemOnly.refl t
theorem MemOnly.putTent (s : State) (t : Tent) : MemOnly s (s.putTent t) := ⟨rfl, fun _ => rfl, id⟩
theorem MemOnly.tentStore (s : State) (c : Nat) (t : Xl) (n v old : Nat) (m : BitVec 16) (j ix : Nat) :
    MemOnly s (s.tentStore c t n v old m j ix) :=
  MemOnly.foldl _ (fun s _ => .putTent s _) _ s
theorem MemOnly.hideTents (s : State) (c pa n : Nat) : MemOnly s (s.hideTents c pa n) := ⟨rfl, fun _ => rfl, id⟩
theorem Acc.FromMem.storePlain (s : State) (c dva : Nat) (t : Xl) (n v : Nat) : (s.storePlain c dva t n v).FromMem s := by
  unfold State.storePlain
  dsimp only
  split
  · exact Acc.FromMem.bind (.l1Get ..) (fun _ t => MemOnly.setL1 ..)
  · have h : ∀ b : Prop, [Decidable b] → MemOnly s (if b then s.bankOrder c (t.pa / 64)
        else (s.bankOrder c (t.pa / 64)).homeWrite (some c) (some (.core c)) t.pa n v) := by
      intro b _
      split <;> [exact .bankOrder ..; exact MemOnly.trans (.bankOrder ..) (.homeWrite ..)]
    split <;> exact h _
theorem Acc.FromMem.storeAt (s : State) (c dva : Nat) (t : Xl) (n v : Nat) : (s.storeAt c dva t n v).FromMem s := by
  unfold State.storeAt
  dsimp only
  split
  · exact Acc.FromMem.bind (.readRaw ..) (fun _ t => MemOnly.tentStore ..)
  · split
    · exact .storePlain ..
    · refine Acc.FromMem.bind (.readRaw ..) (fun r t => ?_)
      split <;> [exact .storePlain ..; exact Acc.FromMem.bind (.storePlain ..) (fun _ _ => MemOnly.hideTents ..)]
/-- A scalar load, and a scalar store. -/
theorem Acc.FromMem.load (s : State) (c dva n : Nat) (sc sup : Bool) : (s.load c dva n sc sup).FromMem s :=
  Acc.FromMem.bind (.xlat ..) (fun _ _ => .loadAt ..)
theorem Acc.FromMem.store (s : State) (c dva n v : Nat) (sc sup : Bool) : (s.store c dva n v sc sup).FromMem s :=
  Acc.FromMem.bind (.xlat ..) (fun _ _ => .storeAt ..)

/-! ## Releases and acquires -/

theorem MemOnly.releaseL1 (s : State) (c r sc : Nat) : MemOnly s (s.releaseL1 c r sc) :=
  MemOnly.foldl _ (fun s e => by
    dsimp only; split <;> [exact MemOnly.trans (.writeOut ..) (.setL1 ..); exact .refl s]) _ s
theorem MemOnly.releaseClu (s : State) (c r sc : Nat) : MemOnly s (s.releaseClu c r sc) :=
  MemOnly.foldl _ (fun s e => by
    dsimp only
    split
    · split
      · exact MemOnly.trans (.setCluLine ..) (MemOnly.trans (.setDieLine ..) (.writeBack ..))
      · exact MemOnly.trans (.setCluLine ..) (.setDieLine ..)
    · exact .refl s) _ s
theorem MemOnly.releaseDie (s : State) (c r sc : Nat) : MemOnly s (s.releaseDie c r sc) :=
  MemOnly.foldl _ (fun s e => by
    dsimp only
    split <;> [exact MemOnly.trans (.setDieLine ..) (.writeBack ..); exact .refl s]) _ s
theorem MemOnly.releaseNow (s : State) (c r sc : Nat) : MemOnly s (s.releaseNow c r sc) := by
  unfold State.releaseNow
  dsimp only
  have h : MemOnly s ((s.performSent c).releaseL1 c r sc) := MemOnly.trans (.perform ..) (.releaseL1 ..)
  split <;> split <;> first | exact h | exact h.trans (.releaseClu ..) | exact h.trans (.releaseDie ..) |
    exact h.trans (MemOnly.trans (.releaseClu ..) (.releaseDie ..))
theorem Acc.FromMem.release (s : State) (c r sc : Nat) : (s.release c r sc).FromMem s := by
  unfold State.release; dsimp only; split <;> exact MemOnly.releaseNow ..

theorem MemOnly.acquireL1 (s : State) (c r : Nat) (z : Bool) : MemOnly s (s.acquireL1 c r z) :=
  MemOnly.foldl _ (fun s e => by
    dsimp only
    split
    · split
      · exact MemOnly.trans (.writeOut ..) (.setL1 ..)
      · split <;> [exact .setL1 ..; exact MemOnly.trans (.writeOut ..) (.setL1 ..)]
      · exact .setL1 ..
      · exact .refl s
      · exact .refl s
    · exact .refl s) _ s
theorem MemOnly.acquireClu (s : State) (c r : Nat) (z : Bool) : MemOnly s (s.acquireClu c r z) :=
  MemOnly.foldl _ (fun s e => by
    dsimp only
    split
    · split <;> [exact .setCluLine ..; exact MemOnly.trans (.setDieLine ..) (.setCluLine ..)]
    · exact .refl s) _ s
theorem MemOnly.acquireDie (s : State) (c r sc : Nat) (z : Bool) : MemOnly s (s.acquireDie c r sc z) :=
  MemOnly.foldl _ (fun s e => by
    split <;> [exact MemOnly.trans (.writeBack ..) (.setDieLine ..); exact .refl s]) _ s
theorem MemOnly.acquireZ (s : State) (c r sc : Nat) (z : Bool) : MemOnly s (s.acquireZ c r sc z) := by
  unfold State.acquireZ
  extract_lets s1 s2 s3
  have h1 : MemOnly s s1 := by show MemOnly s (if _ then s.settle else s); split <;> [exact .settle s; exact .refl s]
  have h2 : MemOnly s s2 := h1.trans (MemOnly.trans (.perform ..) (.acquireL1 ..))
  have h3 : MemOnly s s3 := by show MemOnly s (if _ then _ else s2); split <;> [exact h2.trans (.acquireClu ..); exact h2]
  split <;> [exact h3.trans (.acquireDie ..); exact h3]
theorem MemOnly.acquire (s : State) (c r sc : Nat) : MemOnly s (s.acquire c r sc) := MemOnly.acquireZ ..

/-- Memory after any sequence of such changes keeps its canonical form. -/
theorem MemOnly.wf {s t : State} (h : MemOnly s t) (w : Memory.wf s.mem = true) : Memory.wf t.mem = true := h.2.2 w
theorem State.reset_mem_wf : Memory.wf State.reset.mem = true := rfl

end Sys2Proof.Machine
end

