-- ==== Sys2Proof/Laws/PerInstr.lean ====
section
/-! SUPPORT. Per-instruction facts about the syntax. WordFits: the number that encodeNat gives an instruction has at most 32
bits, so encode, which keeps 32 bits of it, drops none of its fields (04_encoding.md R60). -/

namespace Sys2Proof.Laws.WordFits

/-- The encoded number fits a 32-bit word (R60). -/
def Statement (i : Instr) : Prop := encodeNat i < 2 ^ 32

theorem add (d a b : BitVec 5) : Statement (.add d a b) := by
  change _ + _ < 2 ^ 32; omega
theorem sub (d a b : BitVec 5) : Statement (.sub d a b) := by
  change _ + _ < 2 ^ 32; omega
theorem and (d a b : BitVec 5) : Statement (.and d a b) := by
  change _ + _ < 2 ^ 32; omega
theorem or (d a b : BitVec 5) : Statement (.or d a b) := by
  change _ + _ < 2 ^ 32; omega
theorem xor (d a b : BitVec 5) : Statement (.xor d a b) := by
  change _ + _ < 2 ^ 32; omega
theorem andn (d a b : BitVec 5) : Statement (.andn d a b) := by
  change _ + _ < 2 ^ 32; omega
theorem orn (d a b : BitVec 5) : Statement (.orn d a b) := by
  change _ + _ < 2 ^ 32; omega
theorem sll (d a b : BitVec 5) : Statement (.sll d a b) := by
  change _ + _ < 2 ^ 32; omega
theorem srl (d a b : BitVec 5) : Statement (.srl d a b) := by
  change _ + _ < 2 ^ 32; omega
theorem sra (d a b : BitVec 5) : Statement (.sra d a b) := by
  change _ + _ < 2 ^ 32; omega
theorem rol (d a b : BitVec 5) : Statement (.rol d a b) := by
  change _ + _ < 2 ^ 32; omega
theorem ror (d a b : BitVec 5) : Statement (.ror d a b) := by
  change _ + _ < 2 ^ 32; omega
theorem slt (d a b : BitVec 5) : Statement (.slt d a b) := by
  change _ + _ < 2 ^ 32; omega
theorem sltu (d a b : BitVec 5) : Statement (.sltu d a b) := by
  change _ + _ < 2 ^ 32; omega
theorem min (d a b : BitVec 5) : Statement (.min d a b) := by
  change _ + _ < 2 ^ 32; omega
theorem max (d a b : BitVec 5) : Statement (.max d a b) := by
  change _ + _ < 2 ^ 32; omega
theorem minu (d a b : BitVec 5) : Statement (.minu d a b) := by
  change _ + _ < 2 ^ 32; omega
theorem maxu (d a b : BitVec 5) : Statement (.maxu d a b) := by
  change _ + _ < 2 ^ 32; omega
theorem addw (d a b : BitVec 5) : Statement (.addw d a b) := by
  change _ + _ < 2 ^ 32; omega
theorem subw (d a b : BitVec 5) : Statement (.subw d a b) := by
  change _ + _ < 2 ^ 32; omega
theorem clz (d a : BitVec 5) : Statement (.clz d a) := by
  change _ + _ < 2 ^ 32; omega
theorem ctz (d a : BitVec 5) : Statement (.ctz d a) := by
  change _ + _ < 2 ^ 32; omega
theorem popc (d a : BitVec 5) : Statement (.popc d a) := by
  change _ + _ < 2 ^ 32; omega
theorem brev (d a : BitVec 5) : Statement (.brev d a) := by
  change _ + _ < 2 ^ 32; omega
theorem bswap (d a : BitVec 5) : Statement (.bswap d a) := by
  change _ + _ < 2 ^ 32; omega
theorem sext (d a x : BitVec 5) : Statement (.sext d a x) := by
  change _ + _ < 2 ^ 32; omega
theorem zext (d a x : BitVec 5) : Statement (.zext d a x) := by
  change _ + _ < 2 ^ 32; omega
theorem bfxv (d a b : BitVec 5) : Statement (.bfxv d a b) := by
  change _ + _ < 2 ^ 32; omega
theorem bfxzv (d a b : BitVec 5) : Statement (.bfxzv d a b) := by
  change _ + _ < 2 ^ 32; omega
theorem bfiv (d a b : BitVec 5) : Statement (.bfiv d a b) := by
  change _ + _ < 2 ^ 32; omega
theorem selnz (d a b : BitVec 5) : Statement (.selnz d a b) := by
  change _ + _ < 2 ^ 32; omega
theorem selz (d a b : BitVec 5) : Statement (.selz d a b) := by
  change _ + _ < 2 ^ 32; omega
theorem mul (d a b : BitVec 5) : Statement (.mul d a b) := by
  change _ + _ < 2 ^ 32; omega
theorem mulh (d a b : BitVec 5) : Statement (.mulh d a b) := by
  change _ + _ < 2 ^ 32; omega
theorem mulhu (d a b : BitVec 5) : Statement (.mulhu d a b) := by
  change _ + _ < 2 ^ 32; omega
theorem mulhsu (d a b : BitVec 5) : Statement (.mulhsu d a b) := by
  change _ + _ < 2 ^ 32; omega
theorem mulw (d a b : BitVec 5) : Statement (.mulw d a b) := by
  change _ + _ < 2 ^ 32; omega
theorem div (d a b : BitVec 5) : Statement (.div d a b) := by
  change _ + _ < 2 ^ 32; omega
theorem divu (d a b : BitVec 5) : Statement (.divu d a b) := by
  change _ + _ < 2 ^ 32; omega
theorem rem (d a b : BitVec 5) : Statement (.rem d a b) := by
  change _ + _ < 2 ^ 32; omega
theorem remu (d a b : BitVec 5) : Statement (.remu d a b) := by
  change _ + _ < 2 ^ 32; omega
theorem divw (d a b : BitVec 5) : Statement (.divw d a b) := by
  change _ + _ < 2 ^ 32; omega
theorem bfx (d a : BitVec 5) (pos wm1 : BitVec 6) : Statement (.bfx d a pos wm1) := by
  change _ + _ < 2 ^ 32; omega
theorem bfxz (d a : BitVec 5) (pos wm1 : BitVec 6) : Statement (.bfxz d a pos wm1) := by
  change _ + _ < 2 ^ 32; omega
theorem bfi (d a : BitVec 5) (pos wm1 : BitVec 6) : Statement (.bfi d a pos wm1) := by
  change _ + _ < 2 ^ 32; omega
theorem addi (d a : BitVec 5) (imm : BitVec 16) : Statement (.addi d a imm) := by
  change _ + _ < 2 ^ 32; omega
theorem andi (d a : BitVec 5) (imm : BitVec 16) : Statement (.andi d a imm) := by
  change _ + _ < 2 ^ 32; omega
theorem ori (d a : BitVec 5) (imm : BitVec 16) : Statement (.ori d a imm) := by
  change _ + _ < 2 ^ 32; omega
theorem xori (d a : BitVec 5) (imm : BitVec 16) : Statement (.xori d a imm) := by
  change _ + _ < 2 ^ 32; omega
theorem slti (d a : BitVec 5) (imm : BitVec 16) : Statement (.slti d a imm) := by
  change _ + _ < 2 ^ 32; omega
theorem sltiu (d a : BitVec 5) (imm : BitVec 16) : Statement (.sltiu d a imm) := by
  change _ + _ < 2 ^ 32; omega
theorem slli (d a : BitVec 5) (amt : BitVec 6) : Statement (.slli d a amt) := by
  change _ + _ < 2 ^ 32; omega
theorem srli (d a : BitVec 5) (amt : BitVec 6) : Statement (.srli d a amt) := by
  change _ + _ < 2 ^ 32; omega
theorem srai (d a : BitVec 5) (amt : BitVec 6) : Statement (.srai d a amt) := by
  change _ + _ < 2 ^ 32; omega
theorem rori (d a : BitVec 5) (amt : BitVec 6) : Statement (.rori d a amt) := by
  change _ + _ < 2 ^ 32; omega
theorem movz (d : BitVec 5) (hw : BitVec 2) (v : BitVec 16) : Statement (.movz d hw v) := by
  change _ + _ < 2 ^ 32; omega
theorem movk (d : BitVec 5) (hw : BitVec 2) (v : BitVec 16) : Statement (.movk d hw v) := by
  change _ + _ < 2 ^ 32; omega
theorem lapc (d : BitVec 5) (imm : BitVec 21) : Statement (.lapc d imm) := by
  change _ + _ < 2 ^ 32; omega
theorem bfs (sel : BitVec 10) (off : BitVec 16) : Statement (.bfs sel off) := by
  change _ + _ < 2 ^ 32; omega
theorem bfc (sel : BitVec 10) (off : BitVec 16) : Statement (.bfc sel off) := by
  change _ + _ < 2 ^ 32; omega
theorem beq (a b : BitVec 5) (off : BitVec 16) : Statement (.beq a b off) := by
  change _ + _ < 2 ^ 32; omega
theorem bne (a b : BitVec 5) (off : BitVec 16) : Statement (.bne a b off) := by
  change _ + _ < 2 ^ 32; omega
theorem blt (a b : BitVec 5) (off : BitVec 16) : Statement (.blt a b off) := by
  change _ + _ < 2 ^ 32; omega
theorem bge (a b : BitVec 5) (off : BitVec 16) : Statement (.bge a b off) := by
  change _ + _ < 2 ^ 32; omega
theorem bltu (a b : BitVec 5) (off : BitVec 16) : Statement (.bltu a b off) := by
  change _ + _ < 2 ^ 32; omega
theorem bgeu (a b : BitVec 5) (off : BitVec 16) : Statement (.bgeu a b off) := by
  change _ + _ < 2 ^ 32; omega
theorem j (off : BitVec 26) : Statement (.j off) := by
  change _ + _ < 2 ^ 32; omega
theorem jal (off : BitVec 26) : Statement (.jal off) := by
  change _ + _ < 2 ^ 32; omega
theorem jr (a : BitVec 5) : Statement (.jr a) := by
  change _ + _ < 2 ^ 32; omega
theorem jalr (d a : BitVec 5) : Statement (.jalr d a) := by
  change _ + _ < 2 ^ 32; omega
theorem lb (t base : BitVec 5) (off : BitVec 16) : Statement (.lb t base off) := by
  change _ + _ < 2 ^ 32; omega
theorem lbz (t base : BitVec 5) (off : BitVec 16) : Statement (.lbz t base off) := by
  change _ + _ < 2 ^ 32; omega
theorem lh (t base : BitVec 5) (off : BitVec 16) : Statement (.lh t base off) := by
  change _ + _ < 2 ^ 32; omega
theorem lhz (t base : BitVec 5) (off : BitVec 16) : Statement (.lhz t base off) := by
  change _ + _ < 2 ^ 32; omega
theorem lw (t base : BitVec 5) (off : BitVec 16) : Statement (.lw t base off) := by
  change _ + _ < 2 ^ 32; omega
theorem lwz (t base : BitVec 5) (off : BitVec 16) : Statement (.lwz t base off) := by
  change _ + _ < 2 ^ 32; omega
theorem ld (t base : BitVec 5) (off : BitVec 16) : Statement (.ld t base off) := by
  change _ + _ < 2 ^ 32; omega
theorem sb (t base : BitVec 5) (off : BitVec 16) : Statement (.sb t base off) := by
  change _ + _ < 2 ^ 32; omega
theorem sh (t base : BitVec 5) (off : BitVec 16) : Statement (.sh t base off) := by
  change _ + _ < 2 ^ 32; omega
theorem sw (t base : BitVec 5) (off : BitVec 16) : Statement (.sw t base off) := by
  change _ + _ < 2 ^ 32; omega
theorem sd (t base : BitVec 5) (off : BitVec 16) : Statement (.sd t base off) := by
  change _ + _ < 2 ^ 32; omega
theorem amoadd (d a b : BitVec 5) (scope order : BitVec 2) (width : Bool) : Statement (.amoadd d a b scope order width) := by
  change _ + _ < 2 ^ 32; have := Bool.toNat_le width; omega
theorem amoand (d a b : BitVec 5) (scope order : BitVec 2) (width : Bool) : Statement (.amoand d a b scope order width) := by
  change _ + _ < 2 ^ 32; have := Bool.toNat_le width; omega
theorem amoor (d a b : BitVec 5) (scope order : BitVec 2) (width : Bool) : Statement (.amoor d a b scope order width) := by
  change _ + _ < 2 ^ 32; have := Bool.toNat_le width; omega
theorem amoxor (d a b : BitVec 5) (scope order : BitVec 2) (width : Bool) : Statement (.amoxor d a b scope order width) := by
  change _ + _ < 2 ^ 32; have := Bool.toNat_le width; omega
theorem amomin (d a b : BitVec 5) (scope order : BitVec 2) (width : Bool) : Statement (.amomin d a b scope order width) := by
  change _ + _ < 2 ^ 32; have := Bool.toNat_le width; omega
theorem amomax (d a b : BitVec 5) (scope order : BitVec 2) (width : Bool) : Statement (.amomax d a b scope order width) := by
  change _ + _ < 2 ^ 32; have := Bool.toNat_le width; omega
theorem amominu (d a b : BitVec 5) (scope order : BitVec 2) (width : Bool) : Statement (.amominu d a b scope order width) := by
  change _ + _ < 2 ^ 32; have := Bool.toNat_le width; omega
theorem amomaxu (d a b : BitVec 5) (scope order : BitVec 2) (width : Bool) : Statement (.amomaxu d a b scope order width) := by
  change _ + _ < 2 ^ 32; have := Bool.toNat_le width; omega
theorem amoswap (d a b : BitVec 5) (scope order : BitVec 2) (width : Bool) : Statement (.amoswap d a b scope order width) := by
  change _ + _ < 2 ^ 32; have := Bool.toNat_le width; omega
theorem amocas (d a b : BitVec 5) (scope order : BitVec 2) (width : Bool) : Statement (.amocas d a b scope order width) := by
  change _ + _ < 2 ^ 32; have := Bool.toNat_le width; omega
theorem amold (d a : BitVec 5) (scope order : BitVec 2) (width : Bool) : Statement (.amold d a scope order width) := by
  change _ + _ < 2 ^ 32; have := Bool.toNat_le width; omega
theorem amost (a b : BitVec 5) (scope order : BitVec 2) (width : Bool) : Statement (.amost a b scope order width) := by
  change _ + _ < 2 ^ 32; have := Bool.toNat_le width; omega
theorem amowait (d a b : BitVec 5) (scope order : BitVec 2) (width : Bool) : Statement (.amowait d a b scope order width) := by
  change _ + _ < 2 ^ 32; have := Bool.toNat_le width; omega
theorem acq (a : BitVec 5) (scope : BitVec 2) : Statement (.acq a scope) := by
  change _ + _ < 2 ^ 32; omega
theorem rel (a : BitVec 5) (scope : BitVec 2) : Statement (.rel a scope) := by
  change _ + _ < 2 ^ 32; omega
theorem fence (scope : BitVec 2) : Statement (.fence scope) := by
  change _ + _ < 2 ^ 32; omega
theorem own (d a b : BitVec 5) : Statement (.own d a b) := by
  change _ + _ < 2 ^ 32; omega
theorem disown (d a : BitVec 5) : Statement (.disown d a) := by
  change _ + _ < 2 ^ 32; omega
theorem ifence (a : BitVec 5) (scope : BitVec 2) : Statement (.ifence a scope) := by
  change _ + _ < 2 ^ 32; omega
theorem arrive (d a : BitVec 5) (scope : BitVec 2) : Statement (.arrive d a scope) := by
  change _ + _ < 2 ^ 32; omega
theorem waitb (d a b : BitVec 5) (scope : BitVec 2) : Statement (.waitb d a b scope) := by
  change _ + _ < 2 ^ 32; omega
theorem vote (d a b : BitVec 5) (scope : BitVec 2) : Statement (.vote d a b scope) := by
  change _ + _ < 2 ^ 32; omega
theorem jinit (d a : BitVec 5) : Statement (.jinit d a) := by
  change _ + _ < 2 ^ 32; omega
theorem jarrive (d a : BitVec 5) : Statement (.jarrive d a) := by
  change _ + _ < 2 ^ 32; omega
theorem jwait (d a : BitVec 5) : Statement (.jwait d a) := by
  change _ + _ < 2 ^ 32; omega
theorem jkpt : Statement (.jkpt) := by
  change (0x9400040C : Nat) < 2 ^ 32; decide
theorem jstat (d a b : BitVec 5) : Statement (.jstat d a b) := by
  change _ + _ < 2 ^ 32; omega
theorem jleave (d : BitVec 5) : Statement (.jleave d) := by
  change _ + _ < 2 ^ 32; omega
theorem suspend (a : BitVec 5) : Statement (.suspend a) := by
  change _ + _ < 2 ^ 32; omega
theorem retire : Statement (.retire) := by
  change (0x98000001 : Nat) < 2 ^ 32; decide
theorem launch (d a : BitVec 5) : Statement (.launch d a) := by
  change _ + _ < 2 ^ 32; omega
theorem qry (d a : BitVec 5) : Statement (.qry d a) := by
  change _ + _ < 2 ^ 32; omega
theorem locq (d a : BitVec 5) : Statement (.locq d a) := by
  change _ + _ < 2 ^ 32; omega
theorem rdtime (d : BitVec 5) : Statement (.rdtime d) := by
  change _ + _ < 2 ^ 32; omega
theorem rdcyc (d : BitVec 5) : Statement (.rdcyc d) := by
  change _ + _ < 2 ^ 32; omega
theorem trap (a : BitVec 5) : Statement (.trap a) := by
  change _ + _ < 2 ^ 32; omega
theorem brk : Statement (.brk) := by
  change (0x98000008 : Nat) < 2 ^ 32; decide
theorem nop : Statement (.nop) := by
  change (0x98000009 : Nat) < 2 ^ 32; decide
theorem engwait (a : BitVec 5) : Statement (.engwait a) := by
  change _ + _ < 2 ^ 32; omega
theorem engstat (d : BitVec 5) : Statement (.engstat d) := by
  change _ + _ < 2 ^ 32; omega
theorem gang (d : BitVec 5) : Statement (.gang d) := by
  change _ + _ < 2 ^ 32; omega
theorem disband : Statement (.disband) := by
  change (0x9800000D : Nat) < 2 ^ 32; decide
theorem crd (d : BitVec 5) (creg : BitVec 12) : Statement (.crd d creg) := by
  change _ + _ < 2 ^ 32; omega
theorem cwr (d a : BitVec 5) (creg : BitVec 12) : Statement (.cwr d a creg) := by
  change _ + _ < 2 ^ 32; omega
theorem cset (d a : BitVec 5) (creg : BitVec 12) : Statement (.cset d a creg) := by
  change _ + _ < 2 ^ 32; omega
theorem cclr (d a : BitVec 5) (creg : BitVec 12) : Statement (.cclr d a creg) := by
  change _ + _ < 2 ^ 32; omega
theorem setvl (d a : BitVec 5) (vtype : BitVec 8) (y : Bool) : Statement (.setvl d a vtype y) := by
  change _ + _ < 2 ^ 32; have := Bool.toNat_le y; omega
theorem setvlMax (d : BitVec 5) (vtype : BitVec 8) (y : Bool) : Statement (.setvlMax d vtype y) := by
  change _ + _ < 2 ^ 32; have := Bool.toNat_le y; omega
theorem setvlType (d : BitVec 5) (vtype : BitVec 8) (y : Bool) : Statement (.setvlType d vtype y) := by
  change _ + _ < 2 ^ 32; have := Bool.toNat_le y; omega
theorem setd (a b : BitVec 5) (dim : BitVec 2) : Statement (.setd a b dim) := by
  change _ + _ < 2 ^ 32; omega
theorem vaddVv (d a b : BitVec 5) (msk : BitVec 4) (ca cb : Bool) : Statement (.vaddVv d a b msk ca cb) := by
  change _ + _ < 2 ^ 32; have := Bool.toNat_le ca; have := Bool.toNat_le cb; omega
theorem vaddVs (d a b : BitVec 5) (msk : BitVec 4) (ca : Bool) : Statement (.vaddVs d a b msk ca) := by
  change _ + _ < 2 ^ 32; have := Bool.toNat_le ca; omega
theorem vsubVv (d a b : BitVec 5) (msk : BitVec 4) (ca cb : Bool) : Statement (.vsubVv d a b msk ca cb) := by
  change _ + _ < 2 ^ 32; have := Bool.toNat_le ca; have := Bool.toNat_le cb; omega
theorem vsubVs (d a b : BitVec 5) (msk : BitVec 4) (ca : Bool) : Statement (.vsubVs d a b msk ca) := by
  change _ + _ < 2 ^ 32; have := Bool.toNat_le ca; omega
theorem vrsubVv (d a b : BitVec 5) (msk : BitVec 4) (ca cb : Bool) : Statement (.vrsubVv d a b msk ca cb) := by
  change _ + _ < 2 ^ 32; have := Bool.toNat_le ca; have := Bool.toNat_le cb; omega
theorem vrsubVs (d a b : BitVec 5) (msk : BitVec 4) (ca : Bool) : Statement (.vrsubVs d a b msk ca) := by
  change _ + _ < 2 ^ 32; have := Bool.toNat_le ca; omega
theorem vmulVv (d a b : BitVec 5) (msk : BitVec 4) (ca cb : Bool) : Statement (.vmulVv d a b msk ca cb) := by
  change _ + _ < 2 ^ 32; have := Bool.toNat_le ca; have := Bool.toNat_le cb; omega
theorem vmulVs (d a b : BitVec 5) (msk : BitVec 4) (ca : Bool) : Statement (.vmulVs d a b msk ca) := by
  change _ + _ < 2 ^ 32; have := Bool.toNat_le ca; omega
theorem vmulhVv (d a b : BitVec 5) (msk : BitVec 4) (ca cb : Bool) : Statement (.vmulhVv d a b msk ca cb) := by
  change _ + _ < 2 ^ 32; have := Bool.toNat_le ca; have := Bool.toNat_le cb; omega
theorem vmulhVs (d a b : BitVec 5) (msk : BitVec 4) (ca : Bool) : Statement (.vmulhVs d a b msk ca) := by
  change _ + _ < 2 ^ 32; have := Bool.toNat_le ca; omega
theorem vmulhuVv (d a b : BitVec 5) (msk : BitVec 4) (ca cb : Bool) : Statement (.vmulhuVv d a b msk ca cb) := by
  change _ + _ < 2 ^ 32; have := Bool.toNat_le ca; have := Bool.toNat_le cb; omega
theorem vmulhuVs (d a b : BitVec 5) (msk : BitVec 4) (ca : Bool) : Statement (.vmulhuVs d a b msk ca) := by
  change _ + _ < 2 ^ 32; have := Bool.toNat_le ca; omega
theorem vminVv (d a b : BitVec 5) (msk : BitVec 4) (ca cb : Bool) : Statement (.vminVv d a b msk ca cb) := by
  change _ + _ < 2 ^ 32; have := Bool.toNat_le ca; have := Bool.toNat_le cb; omega
theorem vminVs (d a b : BitVec 5) (msk : BitVec 4) (ca : Bool) : Statement (.vminVs d a b msk ca) := by
  change _ + _ < 2 ^ 32; have := Bool.toNat_le ca; omega
theorem vmaxVv (d a b : BitVec 5) (msk : BitVec 4) (ca cb : Bool) : Statement (.vmaxVv d a b msk ca cb) := by
  change _ + _ < 2 ^ 32; have := Bool.toNat_le ca; have := Bool.toNat_le cb; omega
theorem vmaxVs (d a b : BitVec 5) (msk : BitVec 4) (ca : Bool) : Statement (.vmaxVs d a b msk ca) := by
  change _ + _ < 2 ^ 32; have := Bool.toNat_le ca; omega
theorem vminuVv (d a b : BitVec 5) (msk : BitVec 4) (ca cb : Bool) : Statement (.vminuVv d a b msk ca cb) := by
  change _ + _ < 2 ^ 32; have := Bool.toNat_le ca; have := Bool.toNat_le cb; omega
theorem vminuVs (d a b : BitVec 5) (msk : BitVec 4) (ca : Bool) : Statement (.vminuVs d a b msk ca) := by
  change _ + _ < 2 ^ 32; have := Bool.toNat_le ca; omega
theorem vmaxuVv (d a b : BitVec 5) (msk : BitVec 4) (ca cb : Bool) : Statement (.vmaxuVv d a b msk ca cb) := by
  change _ + _ < 2 ^ 32; have := Bool.toNat_le ca; have := Bool.toNat_le cb; omega
theorem vmaxuVs (d a b : BitVec 5) (msk : BitVec 4) (ca : Bool) : Statement (.vmaxuVs d a b msk ca) := by
  change _ + _ < 2 ^ 32; have := Bool.toNat_le ca; omega
theorem vandVv (d a b : BitVec 5) (msk : BitVec 4) (ca cb : Bool) : Statement (.vandVv d a b msk ca cb) := by
  change _ + _ < 2 ^ 32; have := Bool.toNat_le ca; have := Bool.toNat_le cb; omega
theorem vandVs (d a b : BitVec 5) (msk : BitVec 4) (ca : Bool) : Statement (.vandVs d a b msk ca) := by
  change _ + _ < 2 ^ 32; have := Bool.toNat_le ca; omega
theorem vorVv (d a b : BitVec 5) (msk : BitVec 4) (ca cb : Bool) : Statement (.vorVv d a b msk ca cb) := by
  change _ + _ < 2 ^ 32; have := Bool.toNat_le ca; have := Bool.toNat_le cb; omega
theorem vorVs (d a b : BitVec 5) (msk : BitVec 4) (ca : Bool) : Statement (.vorVs d a b msk ca) := by
  change _ + _ < 2 ^ 32; have := Bool.toNat_le ca; omega
theorem vxorVv (d a b : BitVec 5) (msk : BitVec 4) (ca cb : Bool) : Statement (.vxorVv d a b msk ca cb) := by
  change _ + _ < 2 ^ 32; have := Bool.toNat_le ca; have := Bool.toNat_le cb; omega
theorem vxorVs (d a b : BitVec 5) (msk : BitVec 4) (ca : Bool) : Statement (.vxorVs d a b msk ca) := by
  change _ + _ < 2 ^ 32; have := Bool.toNat_le ca; omega
theorem vsllVv (d a b : BitVec 5) (msk : BitVec 4) (ca cb : Bool) : Statement (.vsllVv d a b msk ca cb) := by
  change _ + _ < 2 ^ 32; have := Bool.toNat_le ca; have := Bool.toNat_le cb; omega
theorem vsllVs (d a b : BitVec 5) (msk : BitVec 4) (ca : Bool) : Statement (.vsllVs d a b msk ca) := by
  change _ + _ < 2 ^ 32; have := Bool.toNat_le ca; omega
theorem vsrlVv (d a b : BitVec 5) (msk : BitVec 4) (ca cb : Bool) : Statement (.vsrlVv d a b msk ca cb) := by
  change _ + _ < 2 ^ 32; have := Bool.toNat_le ca; have := Bool.toNat_le cb; omega
theorem vsrlVs (d a b : BitVec 5) (msk : BitVec 4) (ca : Bool) : Statement (.vsrlVs d a b msk ca) := by
  change _ + _ < 2 ^ 32; have := Bool.toNat_le ca; omega
theorem vsraVv (d a b : BitVec 5) (msk : BitVec 4) (ca cb : Bool) : Statement (.vsraVv d a b msk ca cb) := by
  change _ + _ < 2 ^ 32; have := Bool.toNat_le ca; have := Bool.toNat_le cb; omega
theorem vsraVs (d a b : BitVec 5) (msk : BitVec 4) (ca : Bool) : Statement (.vsraVs d a b msk ca) := by
  change _ + _ < 2 ^ 32; have := Bool.toNat_le ca; omega
theorem vaddsatVv (d a b : BitVec 5) (msk : BitVec 4) (ca cb : Bool) : Statement (.vaddsatVv d a b msk ca cb) := by
  change _ + _ < 2 ^ 32; have := Bool.toNat_le ca; have := Bool.toNat_le cb; omega
theorem vaddsatVs (d a b : BitVec 5) (msk : BitVec 4) (ca : Bool) : Statement (.vaddsatVs d a b msk ca) := by
  change _ + _ < 2 ^ 32; have := Bool.toNat_le ca; omega
theorem vsubsatVv (d a b : BitVec 5) (msk : BitVec 4) (ca cb : Bool) : Statement (.vsubsatVv d a b msk ca cb) := by
  change _ + _ < 2 ^ 32; have := Bool.toNat_le ca; have := Bool.toNat_le cb; omega
theorem vsubsatVs (d a b : BitVec 5) (msk : BitVec 4) (ca : Bool) : Statement (.vsubsatVs d a b msk ca) := by
  change _ + _ < 2 ^ 32; have := Bool.toNat_le ca; omega
theorem vaddsatuVv (d a b : BitVec 5) (msk : BitVec 4) (ca cb : Bool) : Statement (.vaddsatuVv d a b msk ca cb) := by
  change _ + _ < 2 ^ 32; have := Bool.toNat_le ca; have := Bool.toNat_le cb; omega
theorem vaddsatuVs (d a b : BitVec 5) (msk : BitVec 4) (ca : Bool) : Statement (.vaddsatuVs d a b msk ca) := by
  change _ + _ < 2 ^ 32; have := Bool.toNat_le ca; omega
theorem vsubsatuVv (d a b : BitVec 5) (msk : BitVec 4) (ca cb : Bool) : Statement (.vsubsatuVv d a b msk ca cb) := by
  change _ + _ < 2 ^ 32; have := Bool.toNat_le ca; have := Bool.toNat_le cb; omega
theorem vsubsatuVs (d a b : BitVec 5) (msk : BitVec 4) (ca : Bool) : Statement (.vsubsatuVs d a b msk ca) := by
  change _ + _ < 2 ^ 32; have := Bool.toNat_le ca; omega
theorem vabsdVv (d a b : BitVec 5) (msk : BitVec 4) (ca cb : Bool) : Statement (.vabsdVv d a b msk ca cb) := by
  change _ + _ < 2 ^ 32; have := Bool.toNat_le ca; have := Bool.toNat_le cb; omega
theorem vabsdVs (d a b : BitVec 5) (msk : BitVec 4) (ca : Bool) : Statement (.vabsdVs d a b msk ca) := by
  change _ + _ < 2 ^ 32; have := Bool.toNat_le ca; omega
theorem vmaccVv (d a b : BitVec 5) (msk : BitVec 4) (ca cb : Bool) : Statement (.vmaccVv d a b msk ca cb) := by
  change _ + _ < 2 ^ 32; have := Bool.toNat_le ca; have := Bool.toNat_le cb; omega
theorem vmaccVs (d a b : BitVec 5) (msk : BitVec 4) (ca : Bool) : Statement (.vmaccVs d a b msk ca) := by
  change _ + _ < 2 ^ 32; have := Bool.toNat_le ca; omega
theorem vdivVv (d a b : BitVec 5) (msk : BitVec 4) (ca cb : Bool) : Statement (.vdivVv d a b msk ca cb) := by
  change _ + _ < 2 ^ 32; have := Bool.toNat_le ca; have := Bool.toNat_le cb; omega
theorem vdivVs (d a b : BitVec 5) (msk : BitVec 4) (ca : Bool) : Statement (.vdivVs d a b msk ca) := by
  change _ + _ < 2 ^ 32; have := Bool.toNat_le ca; omega
theorem vremVv (d a b : BitVec 5) (msk : BitVec 4) (ca cb : Bool) : Statement (.vremVv d a b msk ca cb) := by
  change _ + _ < 2 ^ 32; have := Bool.toNat_le ca; have := Bool.toNat_le cb; omega
theorem vremVs (d a b : BitVec 5) (msk : BitVec 4) (ca : Bool) : Statement (.vremVs d a b msk ca) := by
  change _ + _ < 2 ^ 32; have := Bool.toNat_le ca; omega
theorem vfaddVv (d a b : BitVec 5) (msk : BitVec 4) (ca cb : Bool) : Statement (.vfaddVv d a b msk ca cb) := by
  change _ + _ < 2 ^ 32; have := Bool.toNat_le ca; have := Bool.toNat_le cb; omega
theorem vfaddVs (d a b : BitVec 5) (msk : BitVec 4) (ca : Bool) : Statement (.vfaddVs d a b msk ca) := by
  change _ + _ < 2 ^ 32; have := Bool.toNat_le ca; omega
theorem vfsubVv (d a b : BitVec 5) (msk : BitVec 4) (ca cb : Bool) : Statement (.vfsubVv d a b msk ca cb) := by
  change _ + _ < 2 ^ 32; have := Bool.toNat_le ca; have := Bool.toNat_le cb; omega
theorem vfsubVs (d a b : BitVec 5) (msk : BitVec 4) (ca : Bool) : Statement (.vfsubVs d a b msk ca) := by
  change _ + _ < 2 ^ 32; have := Bool.toNat_le ca; omega
theorem vfmulVv (d a b : BitVec 5) (msk : BitVec 4) (ca cb : Bool) : Statement (.vfmulVv d a b msk ca cb) := by
  change _ + _ < 2 ^ 32; have := Bool.toNat_le ca; have := Bool.toNat_le cb; omega
theorem vfmulVs (d a b : BitVec 5) (msk : BitVec 4) (ca : Bool) : Statement (.vfmulVs d a b msk ca) := by
  change _ + _ < 2 ^ 32; have := Bool.toNat_le ca; omega
theorem vfdivVv (d a b : BitVec 5) (msk : BitVec 4) (ca cb : Bool) : Statement (.vfdivVv d a b msk ca cb) := by
  change _ + _ < 2 ^ 32; have := Bool.toNat_le ca; have := Bool.toNat_le cb; omega
theorem vfdivVs (d a b : BitVec 5) (msk : BitVec 4) (ca : Bool) : Statement (.vfdivVs d a b msk ca) := by
  change _ + _ < 2 ^ 32; have := Bool.toNat_le ca; omega
theorem vfmaVv (d a b : BitVec 5) (msk : BitVec 4) (ca cb : Bool) : Statement (.vfmaVv d a b msk ca cb) := by
  change _ + _ < 2 ^ 32; have := Bool.toNat_le ca; have := Bool.toNat_le cb; omega
theorem vfmaVs (d a b : BitVec 5) (msk : BitVec 4) (ca : Bool) : Statement (.vfmaVs d a b msk ca) := by
  change _ + _ < 2 ^ 32; have := Bool.toNat_le ca; omega
theorem vfmsVv (d a b : BitVec 5) (msk : BitVec 4) (ca cb : Bool) : Statement (.vfmsVv d a b msk ca cb) := by
  change _ + _ < 2 ^ 32; have := Bool.toNat_le ca; have := Bool.toNat_le cb; omega
theorem vfmsVs (d a b : BitVec 5) (msk : BitVec 4) (ca : Bool) : Statement (.vfmsVs d a b msk ca) := by
  change _ + _ < 2 ^ 32; have := Bool.toNat_le ca; omega
theorem vfnmaVv (d a b : BitVec 5) (msk : BitVec 4) (ca cb : Bool) : Statement (.vfnmaVv d a b msk ca cb) := by
  change _ + _ < 2 ^ 32; have := Bool.toNat_le ca; have := Bool.toNat_le cb; omega
theorem vfnmaVs (d a b : BitVec 5) (msk : BitVec 4) (ca : Bool) : Statement (.vfnmaVs d a b msk ca) := by
  change _ + _ < 2 ^ 32; have := Bool.toNat_le ca; omega
theorem vfminVv (d a b : BitVec 5) (msk : BitVec 4) (ca cb : Bool) : Statement (.vfminVv d a b msk ca cb) := by
  change _ + _ < 2 ^ 32; have := Bool.toNat_le ca; have := Bool.toNat_le cb; omega
theorem vfminVs (d a b : BitVec 5) (msk : BitVec 4) (ca : Bool) : Statement (.vfminVs d a b msk ca) := by
  change _ + _ < 2 ^ 32; have := Bool.toNat_le ca; omega
theorem vfmaxVv (d a b : BitVec 5) (msk : BitVec 4) (ca cb : Bool) : Statement (.vfmaxVv d a b msk ca cb) := by
  change _ + _ < 2 ^ 32; have := Bool.toNat_le ca; have := Bool.toNat_le cb; omega
theorem vfmaxVs (d a b : BitVec 5) (msk : BitVec 4) (ca : Bool) : Statement (.vfmaxVs d a b msk ca) := by
  change _ + _ < 2 ^ 32; have := Bool.toNat_le ca; omega
theorem vfsqrtVv (d a : BitVec 5) (msk : BitVec 4) (ca : Bool) : Statement (.vfsqrtVv d a msk ca) := by
  change _ + _ < 2 ^ 32; have := Bool.toNat_le ca; omega
theorem vfsqrtVs (d a : BitVec 5) (msk : BitVec 4) (ca : Bool) : Statement (.vfsqrtVs d a msk ca) := by
  change _ + _ < 2 ^ 32; have := Bool.toNat_le ca; omega
theorem vfrcpVv (d a : BitVec 5) (msk : BitVec 4) (ca : Bool) : Statement (.vfrcpVv d a msk ca) := by
  change _ + _ < 2 ^ 32; have := Bool.toNat_le ca; omega
theorem vfrcpVs (d a : BitVec 5) (msk : BitVec 4) (ca : Bool) : Statement (.vfrcpVs d a msk ca) := by
  change _ + _ < 2 ^ 32; have := Bool.toNat_le ca; omega
theorem vfrsqVv (d a : BitVec 5) (msk : BitVec 4) (ca : Bool) : Statement (.vfrsqVv d a msk ca) := by
  change _ + _ < 2 ^ 32; have := Bool.toNat_le ca; omega
theorem vfrsqVs (d a : BitVec 5) (msk : BitVec 4) (ca : Bool) : Statement (.vfrsqVs d a msk ca) := by
  change _ + _ < 2 ^ 32; have := Bool.toNat_le ca; omega
theorem vfexp2Vv (d a : BitVec 5) (msk : BitVec 4) (ca : Bool) : Statement (.vfexp2Vv d a msk ca) := by
  change _ + _ < 2 ^ 32; have := Bool.toNat_le ca; omega
theorem vfexp2Vs (d a : BitVec 5) (msk : BitVec 4) (ca : Bool) : Statement (.vfexp2Vs d a msk ca) := by
  change _ + _ < 2 ^ 32; have := Bool.toNat_le ca; omega
theorem vflog2Vv (d a : BitVec 5) (msk : BitVec 4) (ca : Bool) : Statement (.vflog2Vv d a msk ca) := by
  change _ + _ < 2 ^ 32; have := Bool.toNat_le ca; omega
theorem vflog2Vs (d a : BitVec 5) (msk : BitVec 4) (ca : Bool) : Statement (.vflog2Vs d a msk ca) := by
  change _ + _ < 2 ^ 32; have := Bool.toNat_le ca; omega
theorem vftanhVv (d a : BitVec 5) (msk : BitVec 4) (ca : Bool) : Statement (.vftanhVv d a msk ca) := by
  change _ + _ < 2 ^ 32; have := Bool.toNat_le ca; omega
theorem vftanhVs (d a : BitVec 5) (msk : BitVec 4) (ca : Bool) : Statement (.vftanhVs d a msk ca) := by
  change _ + _ < 2 ^ 32; have := Bool.toNat_le ca; omega
theorem vfabsVv (d a : BitVec 5) (msk : BitVec 4) (ca : Bool) : Statement (.vfabsVv d a msk ca) := by
  change _ + _ < 2 ^ 32; have := Bool.toNat_le ca; omega
theorem vfabsVs (d a : BitVec 5) (msk : BitVec 4) (ca : Bool) : Statement (.vfabsVs d a msk ca) := by
  change _ + _ < 2 ^ 32; have := Bool.toNat_le ca; omega
theorem vfnegVv (d a : BitVec 5) (msk : BitVec 4) (ca : Bool) : Statement (.vfnegVv d a msk ca) := by
  change _ + _ < 2 ^ 32; have := Bool.toNat_le ca; omega
theorem vfnegVs (d a : BitVec 5) (msk : BitVec 4) (ca : Bool) : Statement (.vfnegVs d a msk ca) := by
  change _ + _ < 2 ^ 32; have := Bool.toNat_le ca; omega
theorem vfsgnjVv (d a b : BitVec 5) (msk : BitVec 4) (ca cb : Bool) : Statement (.vfsgnjVv d a b msk ca cb) := by
  change _ + _ < 2 ^ 32; have := Bool.toNat_le ca; have := Bool.toNat_le cb; omega
theorem vfsgnjVs (d a b : BitVec 5) (msk : BitVec 4) (ca : Bool) : Statement (.vfsgnjVs d a b msk ca) := by
  change _ + _ < 2 ^ 32; have := Bool.toNat_le ca; omega
theorem vfclassVv (d a : BitVec 5) (msk : BitVec 4) (ca : Bool) : Statement (.vfclassVv d a msk ca) := by
  change _ + _ < 2 ^ 32; have := Bool.toNat_le ca; omega
theorem vfclassVs (d a : BitVec 5) (msk : BitVec 4) (ca : Bool) : Statement (.vfclassVs d a msk ca) := by
  change _ + _ < 2 ^ 32; have := Bool.toNat_le ca; omega
theorem vcmpeqVv (d : BitVec 4) (a b : BitVec 5) (msk : BitVec 4) (ca cb : Bool) : Statement (.vcmpeqVv d a b msk ca cb) := by
  change _ + _ < 2 ^ 32; have := Bool.toNat_le ca; have := Bool.toNat_le cb; omega
theorem vcmpeqVs (d : BitVec 4) (a b : BitVec 5) (msk : BitVec 4) (ca : Bool) : Statement (.vcmpeqVs d a b msk ca) := by
  change _ + _ < 2 ^ 32; have := Bool.toNat_le ca; omega
theorem vcmpneVv (d : BitVec 4) (a b : BitVec 5) (msk : BitVec 4) (ca cb : Bool) : Statement (.vcmpneVv d a b msk ca cb) := by
  change _ + _ < 2 ^ 32; have := Bool.toNat_le ca; have := Bool.toNat_le cb; omega
theorem vcmpneVs (d : BitVec 4) (a b : BitVec 5) (msk : BitVec 4) (ca : Bool) : Statement (.vcmpneVs d a b msk ca) := by
  change _ + _ < 2 ^ 32; have := Bool.toNat_le ca; omega
theorem vcmpltVv (d : BitVec 4) (a b : BitVec 5) (msk : BitVec 4) (ca cb : Bool) : Statement (.vcmpltVv d a b msk ca cb) := by
  change _ + _ < 2 ^ 32; have := Bool.toNat_le ca; have := Bool.toNat_le cb; omega
theorem vcmpltVs (d : BitVec 4) (a b : BitVec 5) (msk : BitVec 4) (ca : Bool) : Statement (.vcmpltVs d a b msk ca) := by
  change _ + _ < 2 ^ 32; have := Bool.toNat_le ca; omega
theorem vcmpgeVv (d : BitVec 4) (a b : BitVec 5) (msk : BitVec 4) (ca cb : Bool) : Statement (.vcmpgeVv d a b msk ca cb) := by
  change _ + _ < 2 ^ 32; have := Bool.toNat_le ca; have := Bool.toNat_le cb; omega
theorem vcmpgeVs (d : BitVec 4) (a b : BitVec 5) (msk : BitVec 4) (ca : Bool) : Statement (.vcmpgeVs d a b msk ca) := by
  change _ + _ < 2 ^ 32; have := Bool.toNat_le ca; omega
theorem vcmpltuVv (d : BitVec 4) (a b : BitVec 5) (msk : BitVec 4) (ca cb : Bool) : Statement (.vcmpltuVv d a b msk ca cb) := by
  change _ + _ < 2 ^ 32; have := Bool.toNat_le ca; have := Bool.toNat_le cb; omega
theorem vcmpltuVs (d : BitVec 4) (a b : BitVec 5) (msk : BitVec 4) (ca : Bool) : Statement (.vcmpltuVs d a b msk ca) := by
  change _ + _ < 2 ^ 32; have := Bool.toNat_le ca; omega
theorem vcmpgeuVv (d : BitVec 4) (a b : BitVec 5) (msk : BitVec 4) (ca cb : Bool) : Statement (.vcmpgeuVv d a b msk ca cb) := by
  change _ + _ < 2 ^ 32; have := Bool.toNat_le ca; have := Bool.toNat_le cb; omega
theorem vcmpgeuVs (d : BitVec 4) (a b : BitVec 5) (msk : BitVec 4) (ca : Bool) : Statement (.vcmpgeuVs d a b msk ca) := by
  change _ + _ < 2 ^ 32; have := Bool.toNat_le ca; omega
theorem vcmpfeqVv (d : BitVec 4) (a b : BitVec 5) (msk : BitVec 4) (ca cb : Bool) : Statement (.vcmpfeqVv d a b msk ca cb) := by
  change _ + _ < 2 ^ 32; have := Bool.toNat_le ca; have := Bool.toNat_le cb; omega
theorem vcmpfeqVs (d : BitVec 4) (a b : BitVec 5) (msk : BitVec 4) (ca : Bool) : Statement (.vcmpfeqVs d a b msk ca) := by
  change _ + _ < 2 ^ 32; have := Bool.toNat_le ca; omega
theorem vcmpfltVv (d : BitVec 4) (a b : BitVec 5) (msk : BitVec 4) (ca cb : Bool) : Statement (.vcmpfltVv d a b msk ca cb) := by
  change _ + _ < 2 ^ 32; have := Bool.toNat_le ca; have := Bool.toNat_le cb; omega
theorem vcmpfltVs (d : BitVec 4) (a b : BitVec 5) (msk : BitVec 4) (ca : Bool) : Statement (.vcmpfltVs d a b msk ca) := by
  change _ + _ < 2 ^ 32; have := Bool.toNat_le ca; omega
theorem vcmpfleVv (d : BitVec 4) (a b : BitVec 5) (msk : BitVec 4) (ca cb : Bool) : Statement (.vcmpfleVv d a b msk ca cb) := by
  change _ + _ < 2 ^ 32; have := Bool.toNat_le ca; have := Bool.toNat_le cb; omega
theorem vcmpfleVs (d : BitVec 4) (a b : BitVec 5) (msk : BitVec 4) (ca : Bool) : Statement (.vcmpfleVs d a b msk ca) := by
  change _ + _ < 2 ^ 32; have := Bool.toNat_le ca; omega
theorem vcmpfunoVv (d : BitVec 4) (a b : BitVec 5) (msk : BitVec 4) (ca cb : Bool) : Statement (.vcmpfunoVv d a b msk ca cb) := by
  change _ + _ < 2 ^ 32; have := Bool.toNat_le ca; have := Bool.toNat_le cb; omega
theorem vcmpfunoVs (d : BitVec 4) (a b : BitVec 5) (msk : BitVec 4) (ca : Bool) : Statement (.vcmpfunoVs d a b msk ca) := by
  change _ + _ < 2 ^ 32; have := Bool.toNat_le ca; omega
theorem kand (d a b : BitVec 5) (ca cb : Bool) : Statement (.kand d a b ca cb) := by
  change _ + _ < 2 ^ 32; have := Bool.toNat_le ca; have := Bool.toNat_le cb; omega
theorem kor (d a b : BitVec 5) (ca cb : Bool) : Statement (.kor d a b ca cb) := by
  change _ + _ < 2 ^ 32; have := Bool.toNat_le ca; have := Bool.toNat_le cb; omega
theorem kxor (d a b : BitVec 5) (ca cb : Bool) : Statement (.kxor d a b ca cb) := by
  change _ + _ < 2 ^ 32; have := Bool.toNat_le ca; have := Bool.toNat_le cb; omega
theorem kandn (d a b : BitVec 5) (ca cb : Bool) : Statement (.kandn d a b ca cb) := by
  change _ + _ < 2 ^ 32; have := Bool.toNat_le ca; have := Bool.toNat_le cb; omega
theorem knot (d a : BitVec 5) (ca : Bool) : Statement (.knot d a ca) := by
  change _ + _ < 2 ^ 32; have := Bool.toNat_le ca; omega
theorem kmov (d a : BitVec 5) (ca : Bool) : Statement (.kmov d a ca) := by
  change _ + _ < 2 ^ 32; have := Bool.toNat_le ca; omega
theorem kpop (d a : BitVec 5) (ca : Bool) : Statement (.kpop d a ca) := by
  change _ + _ < 2 ^ 32; have := Bool.toNat_le ca; omega
theorem kpopvl (d a : BitVec 5) (ca : Bool) : Statement (.kpopvl d a ca) := by
  change _ + _ < 2 ^ 32; have := Bool.toNat_le ca; omega
theorem kfirst (d a : BitVec 5) (ca : Bool) : Statement (.kfirst d a ca) := by
  change _ + _ < 2 ^ 32; have := Bool.toNat_le ca; omega
theorem kfromg (d a b : BitVec 5) : Statement (.kfromg d a b) := by
  change _ + _ < 2 ^ 32; omega
theorem ktog (d a b : BitVec 5) (ca : Bool) : Statement (.ktog d a b ca) := by
  change _ + _ < 2 ^ 32; have := Bool.toNat_le ca; omega
theorem kprefix (d a : BitVec 5) (ca : Bool) : Statement (.kprefix d a ca) := by
  change _ + _ < 2 ^ 32; have := Bool.toNat_le ca; omega
theorem ksbf (d a : BitVec 5) (ca : Bool) : Statement (.ksbf d a ca) := by
  change _ + _ < 2 ^ 32; have := Bool.toNat_le ca; omega
theorem vmerge (d a b : BitVec 5) (msk : BitVec 4) (ca cb : Bool) : Statement (.vmerge d a b msk ca cb) := by
  change _ + _ < 2 ^ 32; have := Bool.toNat_le ca; have := Bool.toNat_le cb; omega
theorem vslideup (d a b : BitVec 5) (msk : BitVec 4) (ca : Bool) : Statement (.vslideup d a b msk ca) := by
  change _ + _ < 2 ^ 32; have := Bool.toNat_le ca; omega
theorem vslidedn (d a b : BitVec 5) (msk : BitVec 4) (ca : Bool) : Statement (.vslidedn d a b msk ca) := by
  change _ + _ < 2 ^ 32; have := Bool.toNat_le ca; omega
theorem vpermx (d a b : BitVec 5) (msk : BitVec 4) (ca cb : Bool) : Statement (.vpermx d a b msk ca cb) := by
  change _ + _ < 2 ^ 32; have := Bool.toNat_le ca; have := Bool.toNat_le cb; omega
theorem vcompress (d a : BitVec 5) (msk : BitVec 4) (ca : Bool) : Statement (.vcompress d a msk ca) := by
  change _ + _ < 2 ^ 32; have := Bool.toNat_le ca; omega
theorem vexpand (d a : BitVec 5) (msk : BitVec 4) (ca : Bool) : Statement (.vexpand d a msk ca) := by
  change _ + _ < 2 ^ 32; have := Bool.toNat_le ca; omega
theorem vbcast (d a b : BitVec 5) (msk : BitVec 4) (ca : Bool) : Statement (.vbcast d a b msk ca) := by
  change _ + _ < 2 ^ 32; have := Bool.toNat_le ca; omega
theorem vins (d a b : BitVec 5) : Statement (.vins d a b) := by
  change _ + _ < 2 ^ 32; omega
theorem vext (d a b : BitVec 5) (ca : Bool) : Statement (.vext d a b ca) := by
  change _ + _ < 2 ^ 32; have := Bool.toNat_le ca; omega
theorem vmov (d a : BitVec 5) (msk : BitVec 4) (ca : Bool) : Statement (.vmov d a msk ca) := by
  change _ + _ < 2 ^ 32; have := Bool.toNat_le ca; omega
theorem vzip (d a b : BitVec 5) (msk : BitVec 4) (ca cb : Bool) : Statement (.vzip d a b msk ca cb) := by
  change _ + _ < 2 ^ 32; have := Bool.toNat_le ca; have := Bool.toNat_le cb; omega
theorem vunzip (d a b : BitVec 5) (msk : BitVec 4) (ca cb : Bool) : Statement (.vunzip d a b msk ca cb) := by
  change _ + _ < 2 ^ 32; have := Bool.toNat_le ca; have := Bool.toNat_le cb; omega
theorem vcvt (d a p : BitVec 5) (msk : BitVec 4) (ca : Bool) (fmt : BitVec 5) : Statement (.vcvt d a p msk ca fmt) := by
  change _ + _ < 2 ^ 32; have := Bool.toNat_le ca; omega
theorem vredsum (d a b : BitVec 5) (msk : BitVec 4) (ca cb : Bool) : Statement (.vredsum d a b msk ca cb) := by
  change _ + _ < 2 ^ 32; have := Bool.toNat_le ca; have := Bool.toNat_le cb; omega
theorem vredmax (d a b : BitVec 5) (msk : BitVec 4) (ca cb : Bool) : Statement (.vredmax d a b msk ca cb) := by
  change _ + _ < 2 ^ 32; have := Bool.toNat_le ca; have := Bool.toNat_le cb; omega
theorem vredmin (d a b : BitVec 5) (msk : BitVec 4) (ca cb : Bool) : Statement (.vredmin d a b msk ca cb) := by
  change _ + _ < 2 ^ 32; have := Bool.toNat_le ca; have := Bool.toNat_le cb; omega
theorem vredand (d a b : BitVec 5) (msk : BitVec 4) (ca cb : Bool) : Statement (.vredand d a b msk ca cb) := by
  change _ + _ < 2 ^ 32; have := Bool.toNat_le ca; have := Bool.toNat_le cb; omega
theorem vredor (d a b : BitVec 5) (msk : BitVec 4) (ca cb : Bool) : Statement (.vredor d a b msk ca cb) := by
  change _ + _ < 2 ^ 32; have := Bool.toNat_le ca; have := Bool.toNat_le cb; omega
theorem vredxor (d a b : BitVec 5) (msk : BitVec 4) (ca cb : Bool) : Statement (.vredxor d a b msk ca cb) := by
  change _ + _ < 2 ^ 32; have := Bool.toNat_le ca; have := Bool.toNat_le cb; omega
theorem vscan (d a b : BitVec 5) (msk : BitVec 4) (ca cb : Bool) : Statement (.vscan d a b msk ca cb) := by
  change _ + _ < 2 ^ 32; have := Bool.toNat_le ca; have := Bool.toNat_le cb; omega
theorem vscanmax (d a b : BitVec 5) (msk : BitVec 4) (ca cb : Bool) : Statement (.vscanmax d a b msk ca cb) := by
  change _ + _ < 2 ^ 32; have := Bool.toNat_le ca; have := Bool.toNat_le cb; omega
theorem vsegred (d a b : BitVec 5) (msk : BitVec 4) (ca : Bool) : Statement (.vsegred d a b msk ca) := by
  change _ + _ < 2 ^ 32; have := Bool.toNat_le ca; omega
theorem vsegscan (d a b : BitVec 5) (msk : BitVec 4) (ca : Bool) : Statement (.vsegscan d a b msk ca) := by
  change _ + _ < 2 ^ 32; have := Bool.toNat_le ca; omega
theorem vsegmax (d a b : BitVec 5) (msk : BitVec 4) (ca : Bool) : Statement (.vsegmax d a b msk ca) := by
  change _ + _ < 2 ^ 32; have := Bool.toNat_le ca; omega
theorem viota (d : BitVec 5) (msk : BitVec 4) (start : BitVec 9) (incr : BitVec 8) : Statement (.viota d msk start incr) := by
  change _ + _ < 2 ^ 32; omega
theorem vld (t base : BitVec 5) (msk : BitVec 4) (ff : Bool) : Statement (.vld t base msk ff) := by
  change _ + _ < 2 ^ 32; have := Bool.toNat_le ff; omega
theorem vlds (t base x : BitVec 5) (msk : BitVec 4) (ff : Bool) : Statement (.vlds t base x msk ff) := by
  change _ + _ < 2 ^ 32; have := Bool.toNat_le ff; omega
theorem vldx (t base x : BitVec 5) (msk : BitVec 4) (ff c : Bool) : Statement (.vldx t base x msk ff c) := by
  change _ + _ < 2 ^ 32; have := Bool.toNat_le ff; have := Bool.toNat_le c; omega
theorem vldn (t base : BitVec 5) (msk : BitVec 4) (ff : Bool) : Statement (.vldn t base msk ff) := by
  change _ + _ < 2 ^ 32; have := Bool.toNat_le ff; omega
theorem vldk (t base : BitVec 5) : Statement (.vldk t base) := by
  change _ + _ < 2 ^ 32; omega
theorem vldb (t base : BitVec 5) (msk : BitVec 4) : Statement (.vldb t base msk) := by
  change _ + _ < 2 ^ 32; omega
theorem vldt (t base x : BitVec 5) (msk : BitVec 4) : Statement (.vldt t base x msk) := by
  change _ + _ < 2 ^ 32; omega
theorem vst (t base : BitVec 5) (msk : BitVec 4) (c : Bool) : Statement (.vst t base msk c) := by
  change _ + _ < 2 ^ 32; have := Bool.toNat_le c; omega
theorem vsts (t base x : BitVec 5) (msk : BitVec 4) (c : Bool) : Statement (.vsts t base x msk c) := by
  change _ + _ < 2 ^ 32; have := Bool.toNat_le c; omega
theorem vstx (t base x : BitVec 5) (msk : BitVec 4) (c : Bool) : Statement (.vstx t base x msk c) := by
  change _ + _ < 2 ^ 32; have := Bool.toNat_le c; omega
theorem vstn (t base : BitVec 5) (msk : BitVec 4) (c : Bool) : Statement (.vstn t base msk c) := by
  change _ + _ < 2 ^ 32; have := Bool.toNat_le c; omega
theorem vstk (t base : BitVec 5) : Statement (.vstk t base) := by
  change _ + _ < 2 ^ 32; omega
theorem vstt (t base x : BitVec 5) (msk : BitVec 4) (c : Bool) : Statement (.vstt t base x msk c) := by
  change _ + _ < 2 ^ 32; have := Bool.toNat_le c; omega
theorem mctx (a : BitVec 5) : Statement (.mctx a) := by
  change _ + _ < 2 ^ 32; omega
theorem mgeo (a : BitVec 5) : Statement (.mgeo a) := by
  change _ + _ < 2 ^ 32; omega
theorem mloadb (a b tag : BitVec 5) : Statement (.mloadb a b tag) := by
  change _ + _ < 2 ^ 32; omega
theorem mswap (tag : BitVec 5) : Statement (.mswap tag) := by
  change _ + _ < 2 ^ 32; omega
theorem mrun (tag : BitVec 5) : Statement (.mrun tag) := by
  change _ + _ < 2 ^ 32; omega
theorem mclr (tag : BitVec 5) : Statement (.mclr tag) := by
  change _ + _ < 2 ^ 32; omega
theorem cpcfg (a : BitVec 5) : Statement (.cpcfg a) := by
  change _ + _ < 2 ^ 32; omega
theorem cpy (d a b tag : BitVec 5) : Statement (.cpy d a b tag) := by
  change _ + _ < 2 ^ 32; omega
theorem cpyn (d a b tag : BitVec 5) : Statement (.cpyn d a b tag) := by
  change _ + _ < 2 ^ 32; omega
theorem publ (a tag : BitVec 5) : Statement (.publ a tag) := by
  change _ + _ < 2 ^ 32; omega
theorem cpabort : Statement (.cpabort) := by
  change (0xE4000004 : Nat) < 2 ^ 32; decide
theorem sbind (d a : BitVec 5) : Statement (.sbind d a) := by
  change _ + _ < 2 ^ 32; omega
theorem sunbind (d : BitVec 5) : Statement (.sunbind d) := by
  change _ + _ < 2 ^ 32; omega
theorem ssync (d : BitVec 5) : Statement (.ssync d) := by
  change _ + _ < 2 ^ 32; omega
theorem sstat (d a : BitVec 5) : Statement (.sstat d a) := by
  change _ + _ < 2 ^ 32; omega
theorem gdef (a b tag : BitVec 5) : Statement (.gdef a b tag) := by
  change _ + _ < 2 ^ 32; omega
theorem gwait (tag : BitVec 5) : Statement (.gwait tag) := by
  change _ + _ < 2 ^ 32; omega
theorem gqry (d tag : BitVec 5) : Statement (.gqry d tag) := by
  change _ + _ < 2 ^ 32; omega
theorem eret : Statement (.eret) := by
  change (0xF8000000 : Nat) < 2 ^ 32; decide
theorem rtwr (a b : BitVec 5) : Statement (.rtwr a b) := by
  change _ + _ < 2 ^ 32; omega
theorem rtrd (a b : BitVec 5) : Statement (.rtrd a b) := by
  change _ + _ < 2 ^ 32; omega
theorem rtinv (a b : BitVec 5) : Statement (.rtinv a b) := by
  change _ + _ < 2 ^ 32; omega
theorem rsplit (d a : BitVec 5) : Statement (.rsplit d a) := by
  change _ + _ < 2 ^ 32; omega
theorem rmerge (d a : BitVec 5) : Statement (.rmerge d a) := by
  change _ + _ < 2 ^ 32; omega
theorem genbump (d a : BitVec 5) : Statement (.genbump d a) := by
  change _ + _ < 2 ^ 32; omega
theorem rcompact (d a b : BitVec 5) : Statement (.rcompact d a b) := by
  change _ + _ < 2 ^ 32; omega
theorem ctxsv (d a b : BitVec 5) : Statement (.ctxsv d a b) := by
  change _ + _ < 2 ^ 32; omega
theorem ctxld (d a b : BitVec 5) : Statement (.ctxld d a b) := by
  change _ + _ < 2 ^ 32; omega
theorem ipost (d a : BitVec 5) : Statement (.ipost d a) := by
  change _ + _ < 2 ^ 32; omega
theorem wfi (d a : BitVec 5) : Statement (.wfi d a) := by
  change _ + _ < 2 ^ 32; omega
theorem haltc (d a : BitVec 5) : Statement (.haltc d a) := by
  change _ + _ < 2 ^ 32; omega
theorem qtailWrite (fn q : Nat) (v : BitVec 64) : Statement (.qtailWrite fn q v) := by
  change (0 : Nat) < 2 ^ 32; decide
theorem queueConfigWrite (fn q off : Nat) (v : BitVec 64) : Statement (.queueConfigWrite fn q off v) := by
  change (0 : Nat) < 2 ^ 32; decide
theorem registerWrite (fn bar off : Nat) (v : BitVec 64) : Statement (.registerWrite fn bar off v) := by
  change (0 : Nat) < 2 ^ 32; decide
theorem debugHaltRelease (core : Nat) : Statement (.debugHaltRelease core) := by
  change (0 : Nat) < 2 ^ 32; decide
theorem queryEnum (fn : Nat) : Statement (.queryEnum fn) := by
  change (0 : Nat) < 2 ^ 32; decide
theorem createVdev (fn : Nat) : Statement (.createVdev fn) := by
  change (0 : Nat) < 2 ^ 32; decide
theorem destroyVdev (fn : Nat) : Statement (.destroyVdev fn) := by
  change (0 : Nat) < 2 ^ 32; decide
theorem bind (fn : Nat) : Statement (.bind fn) := by
  change (0 : Nat) < 2 ^ 32; decide
theorem setWeight (fn : Nat) : Statement (.setWeight fn) := by
  change (0 : Nat) < 2 ^ 32; decide
theorem postDeadline (fn : Nat) : Statement (.postDeadline fn) := by
  change (0 : Nat) < 2 ^ 32; decide
theorem partitionMode (fn : Nat) : Statement (.partitionMode fn) := by
  change (0 : Nat) < 2 ^ 32; decide
theorem reset (fn : Nat) : Statement (.reset fn) := by
  change (0 : Nat) < 2 ^ 32; decide
theorem checkpoint (fn : Nat) : Statement (.checkpoint fn) := by
  change (0 : Nat) < 2 ^ 32; decide
theorem restore (fn : Nat) : Statement (.restore fn) := by
  change (0 : Nat) < 2 ^ 32; decide
theorem attest (fn : Nat) (req : SpdmReq) : Statement (.attest fn req) := by
  change (0 : Nat) < 2 ^ 32; decide
theorem tdispOp (fn : Nat) (req : TdispReq) : Statement (.tdispOp fn req) := by
  change (0 : Nat) < 2 ^ 32; decide
theorem resync (fn : Nat) : Statement (.resync fn) := by
  change (0 : Nat) < 2 ^ 32; decide
theorem logRead (fn : Nat) : Statement (.logRead fn) := by
  change (0 : Nat) < 2 ^ 32; decide
theorem getVersion (fn : Nat) : Statement (.getVersion fn) := by
  change (0 : Nat) < 2 ^ 32; decide
theorem getCapabilities (fn : Nat) : Statement (.getCapabilities fn) := by
  change (0 : Nat) < 2 ^ 32; decide
theorem negotiateAlgorithms (fn : Nat) : Statement (.negotiateAlgorithms fn) := by
  change (0 : Nat) < 2 ^ 32; decide
theorem getDigests (fn : Nat) : Statement (.getDigests fn) := by
  change (0 : Nat) < 2 ^ 32; decide
theorem getCertificate (fn : Nat) : Statement (.getCertificate fn) := by
  change (0 : Nat) < 2 ^ 32; decide
theorem challenge (fn : Nat) : Statement (.challenge fn) := by
  change (0 : Nat) < 2 ^ 32; decide
theorem getMeasurements (fn : Nat) : Statement (.getMeasurements fn) := by
  change (0 : Nat) < 2 ^ 32; decide
theorem keyExchange (fn : Nat) : Statement (.keyExchange fn) := by
  change (0 : Nat) < 2 ^ 32; decide
theorem finish (fn : Nat) : Statement (.finish fn) := by
  change (0 : Nat) < 2 ^ 32; decide
theorem ideKm (fn port stream : Nat) (key : BitVec 256) : Statement (.ideKm fn port stream key) := by
  change (0 : Nat) < 2 ^ 32; decide
theorem lockInterfaceRequest (fn : Nat) : Statement (.lockInterfaceRequest fn) := by
  change (0 : Nat) < 2 ^ 32; decide
theorem startInterfaceRequest (fn : Nat) : Statement (.startInterfaceRequest fn) := by
  change (0 : Nat) < 2 ^ 32; decide
theorem stopInterfaceRequest (fn : Nat) : Statement (.stopInterfaceRequest fn) := by
  change (0 : Nat) < 2 ^ 32; decide
theorem ideIntegrityFailure (fn port stream : Nat) : Statement (.ideIntegrityFailure fn port stream) := by
  change (0 : Nat) < 2 ^ 32; decide
theorem firmwareImageWrite (off : Nat) (v : BitVec 64) : Statement (.firmwareImageWrite off v) := by
  change (0 : Nat) < 2 ^ 32; decide
theorem hostWrite (port pa : Nat) (bytes : List (BitVec 8)) : Statement (.hostWrite port pa bytes) := by
  change (0 : Nat) < 2 ^ 32; decide
theorem hostRead (port pa n : Nat) : Statement (.hostRead port pa n) := by
  change (0 : Nat) < 2 ^ 32; decide
theorem peerTransaction (src : Nat) (op : PeerOp) (pa n : Nat) (v : BitVec 64) : Statement (.peerTransaction src op pa n v) := by
  change (0 : Nat) < 2 ^ 32; decide
theorem podRelayForward (src : Nat) (op : PeerOp) (pa n : Nat) (v : BitVec 64) : Statement (.podRelayForward src op pa n v) := by
  change (0 : Nat) < 2 ^ 32; decide
theorem ualinkReplyTimeout (core : Nat) (dva : BitVec 64) : Statement (.ualinkReplyTimeout core dva) := by
  change (0 : Nat) < 2 ^ 32; decide
theorem launchSelection (part : Nat) : Statement (.launchSelection part) := by
  change (0 : Nat) < 2 ^ 32; decide
theorem wispPlacement (launch : Nat) : Statement (.wispPlacement launch) := by
  change (0 : Nat) < 2 ^ 32; decide
theorem expansionResume (launch : Nat) : Statement (.expansionResume launch) := by
  change (0 : Nat) < 2 ^ 32; decide
theorem wispRecordArrival (launch index die : Nat) : Statement (.wispRecordArrival launch index die) := by
  change (0 : Nat) < 2 ^ 32; decide
theorem freeResourceReport (die : Nat) : Statement (.freeResourceReport die) := by
  change (0 : Nat) < 2 ^ 32; decide
theorem reportArrival (die idle free : Nat) (occ : List (Nat × Nat)) : Statement (.reportArrival die idle free occ) := by
  change (0 : Nat) < 2 ^ 32; decide
theorem overflowDrain (vdev : Nat) : Statement (.overflowDrain vdev) := by
  change (0 : Nat) < 2 ^ 32; decide
theorem heldWispDepart (core : Nat) : Statement (.heldWispDepart core) := by
  change (0 : Nat) < 2 ^ 32; decide
theorem wispPickup (core : Nat) : Statement (.wispPickup core) := by
  change (0 : Nat) < 2 ^ 32; decide
theorem wispResume (core : Nat) : Statement (.wispResume core) := by
  change (0 : Nat) < 2 ^ 32; decide
theorem priorityAging (launch index : Nat) : Statement (.priorityAging launch index) := by
  change (0 : Nat) < 2 ^ 32; decide
theorem clusterReservation (die : Nat) : Statement (.clusterReservation die) := by
  change (0 : Nat) < 2 ^ 32; decide
theorem groupStart (cluster : Nat) : Statement (.groupStart cluster) := by
  change (0 : Nat) < 2 ^ 32; decide
theorem suspendWake (launch index : Nat) : Statement (.suspendWake launch index) := by
  change (0 : Nat) < 2 ^ 32; decide
theorem gangCollectivePairing (core : Nat) : Statement (.gangCollectivePairing core) := by
  change (0 : Nat) < 2 ^ 32; decide
theorem fill (core line : Nat) : Statement (.fill core line) := by
  change (0 : Nat) < 2 ^ 32; decide
theorem ownreq (core line : Nat) (words : BitVec 16) (data : BitVec 512) (dirty : BitVec 16) : Statement (.ownreq core line words data dirty) := by
  change (0 : Nat) < 2 ^ 32; decide
theorem grant (core line : Nat) (data : BitVec 512) (mask : BitVec 16) : Statement (.grant core line data mask) := by
  change (0 : Nat) < 2 ^ 32; decide
theorem data (core line : Nat) (data : BitVec 512) : Statement (.data core line data) := by
  change (0 : Nat) < 2 ^ 32; decide
theorem fwd (core line : Nat) (words : BitVec 16) : Statement (.fwd core line words) := by
  change (0 : Nat) < 2 ^ 32; decide
theorem revoke (core line : Nat) (words : BitVec 16) : Statement (.revoke core line words) := by
  change (0 : Nat) < 2 ^ 32; decide
theorem yield (core line : Nat) (data : BitVec 512) (dirty : BitVec 16) : Statement (.yield core line data dirty) := by
  change (0 : Nat) < 2 ^ 32; decide
theorem evict (core line : Nat) (data : BitVec 512) (dirty : BitVec 16) : Statement (.evict core line data dirty) := by
  change (0 : Nat) < 2 ^ 32; decide
theorem disownreq (core line : Nat) (data : BitVec 512) (dirty : BitVec 16) : Statement (.disownreq core line data dirty) := by
  change (0 : Nat) < 2 ^ 32; decide
theorem ack (core line : Nat) : Statement (.ack core line) := by
  change (0 : Nat) < 2 ^ 32; decide
theorem rangeWalk (core : Nat) (dva : BitVec 64) : Statement (.rangeWalk core dva) := by
  change (0 : Nat) < 2 ^ 32; decide
theorem generationNotice (core asn : Nat) : Statement (.generationNotice core asn) := by
  change (0 : Nat) < 2 ^ 32; decide
theorem rangeInvalidation (core asn base limit issuer : Nat) : Statement (.rangeInvalidation core asn base limit issuer) := by
  change (0 : Nat) < 2 ^ 32; decide
theorem dredgeCopyPhase : Statement (.dredgeCopyPhase) := by
  change (0 : Nat) < 2 ^ 32; decide
theorem dredgeSwitchPhase : Statement (.dredgeSwitchPhase) := by
  change (0 : Nat) < 2 ^ 32; decide
theorem dredgeBumpPhase : Statement (.dredgeBumpPhase) := by
  change (0 : Nat) < 2 ^ 32; decide
theorem dredgeReleasePhase : Statement (.dredgeReleasePhase) := by
  change (0 : Nat) < 2 ^ 32; decide
theorem pieceAdmission (die : Nat) : Statement (.pieceAdmission die) := by
  change (0 : Nat) < 2 ^ 32; decide
theorem creditReturn (die flits : Nat) : Statement (.creditReturn die flits) := by
  change (0 : Nat) < 2 ^ 32; decide
theorem foreignFlitDrop (part unit : Nat) : Statement (.foreignFlitDrop part unit) := by
  change (0 : Nat) < 2 ^ 32; decide
theorem linkOutOfService (x y dir : Nat) : Statement (.linkOutOfService x y dir) := by
  change (0 : Nat) < 2 ^ 32; decide
theorem timeRequest (core : Nat) : Statement (.timeRequest core) := by
  change (0 : Nat) < 2 ^ 32; decide
theorem timeReply (core time : Nat) : Statement (.timeReply core time) := by
  change (0 : Nat) < 2 ^ 32; decide
theorem copyCommandStart (core : Nat) : Statement (.copyCommandStart core) := by
  change (0 : Nat) < 2 ^ 32; decide
theorem copyCompletion (core : Nat) : Statement (.copyCompletion core) := by
  change (0 : Nat) < 2 ^ 32; decide
theorem publicationSwap (core : Nat) : Statement (.publicationSwap core) := by
  change (0 : Nat) < 2 ^ 32; decide
theorem matrixRowStep (cluster : Nat) : Statement (.matrixRowStep cluster) := by
  change (0 : Nat) < 2 ^ 32; decide
theorem mloadbExecution (core : Nat) : Statement (.mloadbExecution core) := by
  change (0 : Nat) < 2 ^ 32; decide
theorem mswapExecution (core : Nat) : Statement (.mswapExecution core) := by
  change (0 : Nat) < 2 ^ 32; decide
theorem mclrExecution (core : Nat) : Statement (.mclrExecution core) := by
  change (0 : Nat) < 2 ^ 32; decide
theorem matrixCommandCompletion (core : Nat) : Statement (.matrixCommandCompletion core) := by
  change (0 : Nat) < 2 ^ 32; decide
theorem streamPrefetch (core bix : Nat) : Statement (.streamPrefetch core bix) := by
  change (0 : Nat) < 2 ^ 32; decide
theorem streamStorePerform (core bix : Nat) : Statement (.streamStorePerform core bix) := by
  change (0 : Nat) < 2 ^ 32; decide
theorem sendChunk (core bix : Nat) : Statement (.sendChunk core bix) := by
  change (0 : Nat) < 2 ^ 32; decide
theorem ringProducedUpdate (pa count : Nat) : Statement (.ringProducedUpdate pa count) := by
  change (0 : Nat) < 2 ^ 32; decide
theorem streamWaitEnd (core : Nat) : Statement (.streamWaitEnd core) := by
  change (0 : Nat) < 2 ^ 32; decide
theorem streamWatchdog (core bix : Nat) : Statement (.streamWatchdog core bix) := by
  change (0 : Nat) < 2 ^ 32; decide
theorem collectiveCombine (anchor : Nat) : Statement (.collectiveCombine anchor) := by
  change (0 : Nat) < 2 ^ 32; decide
theorem slotRequest (anchor : Nat) : Statement (.slotRequest anchor) := by
  change (0 : Nat) < 2 ^ 32; decide
theorem slotReturn (anchor : Nat) : Statement (.slotReturn anchor) := by
  change (0 : Nat) < 2 ^ 32; decide
theorem quorumStreamArrival (core bix : Nat) : Statement (.quorumStreamArrival core bix) := by
  change (0 : Nat) < 2 ^ 32; decide
theorem joinDeadline (site slot : Nat) : Statement (.joinDeadline site slot) := by
  change (0 : Nat) < 2 ^ 32; decide
theorem killSignal (launch index : Nat) : Statement (.killSignal launch index) := by
  change (0 : Nat) < 2 ^ 32; decide
theorem kgraceExpiry (core : Nat) : Statement (.kgraceExpiry core) := by
  change (0 : Nat) < 2 ^ 32; decide
theorem preemptPosting (core : Nat) (kind : PreemptKind) (deadline : Nat) : Statement (.preemptPosting core kind deadline) := by
  change (0 : Nat) < 2 ^ 32; decide
theorem forceSet (core : Nat) : Statement (.forceSet core) := by
  change (0 : Nat) < 2 ^ 32; decide
theorem forcedPreemptionTrap (core : Nat) : Statement (.forcedPreemptionTrap core) := by
  change (0 : Nat) < 2 ^ 32; decide
theorem quantumEnd (part : Nat) : Statement (.quantumEnd part) := by
  change (0 : Nat) < 2 ^ 32; decide
theorem checkpointVacateTimeout (launch : Nat) : Statement (.checkpointVacateTimeout launch) := by
  change (0 : Nat) < 2 ^ 32; decide
theorem deadlineRecheck (isPart : Bool) (target : Nat) : Statement (.deadlineRecheck isPart target) := by
  change (0 : Nat) < 2 ^ 32; decide
theorem checkpointEngineCopy (launch : Nat) : Statement (.checkpointEngineCopy launch) := by
  change (0 : Nat) < 2 ^ 32; decide
theorem wispEndCount (launch index : Nat) : Statement (.wispEndCount launch index) := by
  change (0 : Nat) < 2 ^ 32; decide
theorem launchCompletion (launch : Nat) : Statement (.launchCompletion launch) := by
  change (0 : Nat) < 2 ^ 32; decide
theorem eccError (pa : Nat) (correctable : Bool) : Statement (.eccError pa correctable) := by
  change (0 : Nat) < 2 ^ 32; decide
theorem scrub : Statement (.scrub) := by
  change (0 : Nat) < 2 ^ 32; decide
theorem backingRewrite (pa : Nat) : Statement (.backingRewrite pa) := by
  change (0 : Nat) < 2 ^ 32; decide
theorem coldBoot : Statement (.coldBoot) := by
  change (0 : Nat) < 2 ^ 32; decide
theorem powerDown : Statement (.powerDown) := by
  change (0 : Nat) < 2 ^ 32; decide
theorem functionLevelReset (fn : Nat) : Statement (.functionLevelReset fn) := by
  change (0 : Nat) < 2 ^ 32; decide
theorem resetEscalation (rung target queue : Nat) : Statement (.resetEscalation rung target queue) := by
  change (0 : Nat) < 2 ^ 32; decide
theorem thermalThrottle (die : Nat) : Statement (.thermalThrottle die) := by
  change (0 : Nat) < 2 ^ 32; decide
theorem clockRestore (die : Nat) : Statement (.clockRestore die) := by
  change (0 : Nat) < 2 ^ 32; decide
theorem overtempShutdown (die : Nat) : Statement (.overtempShutdown die) := by
  change (0 : Nat) < 2 ^ 32; decide
theorem wfiTimeReached (core : Nat) : Statement (.wfiTimeReached core) := by
  change (0 : Nat) < 2 ^ 32; decide
theorem resumeFromCarr (launch index : Nat) : Statement (.resumeFromCarr launch index) := by
  change (0 : Nat) < 2 ^ 32; decide

end Sys2Proof.Laws.WordFits
end

