-- ==== Sys2Proof/Tests/Slice0.lean ====
section
/-! SUPPORT. Tests: the decoder on words that the spec writes out, the checks of WellFormed on ill-formed terms, small steps
with results that the spec states, and for each obligation a state and operands that meet its hypotheses. -/

namespace Sys2Proof.Tests

open Sys2Proof.Machine

/-! ## Words written out in the spec -/

/-- Every word of the list decodes to the instruction beside it. -/
abbrev DecodesTo (l : List (Nat × Instr)) : Prop := ∀ p ∈ l, decode (BitVec.ofNat 32 p.1) = .ok p.2

/-- The example program of 04_encoding.md. -/
theorem test_decode_encoding_examples : DecodesTo [(0x28820005, .slli 4 2 5), (0x04812000, .add 4 1 4),
    (0x10A00004, .addi 5 0 4), (0x7CC40000, .ld 6 4 0), (0x8CC40000, .sd 6 4 0), (0x44A0FFFB, .bne 5 0 0xFFFB),
    (0x94070401, .rel 7 2), (0x98000001, .retire), (0xB0811220, .vfaddVv 4 1 2 4 false true), (0x29298003, .srai 9 9 3)] := by
  decide +kernel

/-- 06_scalar.md: words of R110 to R119, R292 and the control registers. -/
theorem test_decode_scalar : DecodesTo [(0x08853002, .mulhu 4 5 6), (0x0CA6F070, .bfx 5 6 60 7), (0x601E0000, .jr 30),
    (0x63C50001, .jalr 30 5), (0x3C05FFFF, .bfc 5 0xFFFF), (0x9C800040, .crd 4 4), (0x9C050043, .cclr 0 5 4),
    (0x48A00006, .blt 5 0 6), (0x44A00006, .bne 5 0 6), (0x10C607D0, .addi 6 6 2000), (0x5BFFFFF9, .j 0x3FFFFF9),
    (0x098C5006, .divu 12 12 10), (0x05CE5810, .minu 14 14 11), (0x06529801, .sub 18 18 19), (0x8AB10000, .sw 21 17 0),
    (0x14820003, .andi 4 2 3), (0x2C800002, .movz 4 0 2), (0x30811000, .movk 4 1 0x1000), (0x30A30010, .movk 5 3 0x10)] := by
  decide +kernel

/-- 06_scalar.md: the wisp instructions. -/
theorem test_decode_wisp : DecodesTo [(0x98060000, .suspend 6), (0x98A40002, .launch 5 4), (0x98850003, .qry 4 5),
    (0x98850004, .locq 4 5), (0x98C00005, .rdtime 6), (0x98E00006, .rdcyc 7), (0x98050007, .trap 5), (0x98000008, .brk),
    (0x98000009, .nop), (0x9800000A, .engwait 0), (0x9900000B, .engstat 8)] := by
  decide +kernel

/-- 08_vector_arith.md. -/
theorem test_decode_vector_arithmetic : DecodesTo [(0xA0A40A00, .setvl 5 4 0x0A false), (0xA0A40A80, .setvl 5 4 0x0A true),
    (0xA0A00910, .setvlMax 5 0x09 false), (0xA0001020, .setvlType 0 0x10 false), (0xA8611000, .vaddVv 3 1 2 0 false false),
    (0xACC44815, .vmaccVs 6 4 9 0 false), (0xB10110C4, .vfmaVv 8 1 2 1 true false), (0xB0410862, .vfmulVv 2 1 1 0 true true),
    (0xB8023857, .vcmpfltVs 0 2 7 0 true), (0xBCC20007, .kpopvl 6 2 false), (0xBCC00047, .kpopvl 6 0 true),
    (0xBD20000A, .ktog 9 0 0 false), (0xCC400001, .viota 2 0 0 1), (0xCC45FD02, .viota 2 2 0x1FD 2),
    (0xB0620009, .vfsqrtVv 3 2 0 false), (0xC585180C, .vcvt 12 5 3 0 false 12), (0xC441000A, .vcvt 2 1 0 0 false 10),
    (0x9C080031, .cwr 0 8 3)] := by
  decide +kernel

/-- 09_vector_data.md. -/
theorem test_decode_vector_data : DecodesTo [(0xD0880000, .vld 4 8 0 false), (0xD0880140, .vld 4 8 2 true),
    (0xD0A84801, .vlds 5 8 9 0 false), (0xD0C83822, .vldx 6 8 7 0 false true), (0xD04A0003, .vldn 2 10 0 false),
    (0xD0680004, .vldk 3 8), (0xD0280005, .vldb 1 8 0), (0xD12B0806, .vldt 9 11 1 0), (0xD4880000, .vst 4 8 0 false),
    (0xD4A84801, .vsts 5 8 9 0 false), (0xD4C83802, .vstx 6 8 7 0 false), (0xD44A0003, .vstn 2 10 0 false),
    (0xD4680004, .vstk 3 8), (0xD52B1005, .vstt 9 11 2 0 false), (0xC0611080, .vmerge 3 1 2 1 false false),
    (0xC0612801, .vslideup 3 1 5 0 false), (0xC0612802, .vslidedn 3 1 5 0 false), (0xC0611003, .vpermx 3 1 2 0 false false),
    (0xC0610184, .vcompress 3 1 3 false), (0xC0612806, .vbcast 3 1 5 0 false), (0xC0642807, .vins 3 4 5),
    (0xC0C12808, .vext 6 1 5 false), (0xC0610009, .vmov 3 1 0 false), (0xC061100A, .vzip 3 1 2 0 false false),
    (0xC061100B, .vunzip 3 1 2 0 false false), (0xC8611000, .vredsum 3 1 2 0 false false),
    (0xC8611007, .vscanmax 3 1 2 0 false false), (0xC8611008, .vsegred 3 1 2 0 false), (0xC8611009, .vsegscan 3 1 2 0 false),
    (0xC861100A, .vsegmax 3 1 2 0 false), (0x98A0000C, .gang 5)] := by
  decide +kernel

/-- 10_matrix.md and 11_engines.md. -/
theorem test_decode_engines : DecodesTo [(0xE0040000, .mctx 4), (0xE0050001, .mgeo 5), (0xE0003002, .mloadb 0 6 0),
    (0xE0000003, .mswap 0), (0xE0000004, .mrun 0), (0xE0000005, .mclr 0), (0xE4040000, .cpcfg 4), (0xE4853001, .cpy 4 5 6 0),
    (0xE4853082, .cpyn 4 5 6 2), (0xE4070143, .publ 7 5), (0xE4000004, .cpabort), (0xE9040000, .sbind 8 4),
    (0xE9000001, .sunbind 8), (0xE9000002, .ssync 8), (0xE8A80003, .sstat 5 8), (0xEC042880, .gdef 4 5 2),
    (0xECC00082, .gqry 6 2)] := by
  decide +kernel

/-- 14_sync_joins.md. -/
theorem test_decode_synchronisation : DecodesTo [(0x94070200, .acq 7 1), (0x94080601, .rel 8 3), (0x94A63C03, .own 5 6 7),
    (0x94A60404, .disown 5 6), (0x94070205, .ifence 7 1), (0x94850006, .arrive 4 5 0), (0x94252007, .waitb 1 5 4 0),
    (0x94853008, .vote 4 5 6 0), (0x94640409, .jinit 3 4), (0x94A6040A, .jarrive 5 6), (0x9427040B, .jwait 1 7),
    (0x9400040C, .jkpt), (0x94A63C0D, .jstat 5 6 7), (0x94A0040E, .jleave 5), (0x90853440, .amoadd 4 5 6 2 0 true),
    (0x908537C9, .amocas 4 5 6 3 3 true), (0x9085028A, .amold 4 5 1 1 false), (0x9005330B, .amost 5 6 1 2 false),
    (0x9025348C, .amowait 1 5 6 2 1 false)] := by
  decide +kernel

/-- 05_ranges.md and 16_interruption.md. -/
theorem test_decode_system : DecodesTo [(0xF8000000, .eret), (0xF8042801, .rtwr 4 5), (0xF8042802, .rtrd 4 5),
    (0xF8084803, .rtinv 8 9), (0xF8850004, .rsplit 4 5), (0xF8850005, .rmerge 4 5), (0xF8C70006, .genbump 6 7),
    (0xF94B6007, .rcompact 10 11 12), (0xF8E62808, .ctxsv 7 6 5), (0xF8E62809, .ctxld 7 6 5), (0xF8A6000A, .ipost 5 6),
    (0xF8A6000B, .wfi 5 6), (0xF8E5000C, .haltc 7 5), (0x9C808010, .crd 4 0x801), (0x9C808020, .crd 4 0x802)] := by
  decide +kernel

/-- The steps of R65 that reject a word: a reserved major (two), no function of this number, a reserved field that is not
0, a k register above 11 (R66), VMERGE without a mask (R184). -/
theorem test_decode_rejects : decode 0 = .error .reservedMajor ∧ decode 0xFC000000 = .error .reservedMajor
    ∧ decode 0x0400003F = .error .unassigned ∧ decode 0x04812040 = .error .unassigned
    ∧ decode 0xBCCC0007 = .error .operandLimit ∧ decode 0xC0611000 = .error .operandLimit := by
  decide +kernel

/-- Bytes in, the lowest first (R3): NOP and the byte that follows it; three bytes are no word. -/
theorem test_decode_bytes : decodeBytes [0x09, 0, 0, 0x98, 0x55] = .ok (.nop, [0x55])
    ∧ decodeBytes [0x09, 0, 0] = .error .truncated ∧ decodeTableWord 32 0x98000009 = some .nop := by
  decide +kernel

/-! ## WellFormed: an ill-formed term for each check -/

/-- Operand limits of scalar and control instructions (R66, R109, R120, R161, R287). -/
theorem test_illformed_scalar : ([.sext 1 2 3, .zext 1 2 3, .bfs 3 0, .bfc 11 0, .bfs 0x0D 0, .bfs 0x27 0, .bfs 0x40 0,
    .bfc 0x60 0, .bfc 0x82 0, .ifence 1 0, .setd 1 2 3] : List Instr).all (fun i => !i.wf) = true := by
  decide +kernel

/-- A mask field above 12, a k register above 11, a mask that must be named, and formats and buffers out of range (R61, R66,
R171, R181, R184). -/
theorem test_illformed_vector : ([.vaddVv 1 2 3 13 false false, .vaddVs 1 2 3 14 false, .vfaddVv 1 2 3 15 false false,
    .vcmpeqVv 12 2 3 0 false false, .vcmpeqVs 1 2 3 13 false, .kand 12 0 0 false false, .kand 0 12 0 false false,
    .kand 0 0 12 false false, .knot 0 31 false, .kpop 1 12 false, .kfromg 12 0 0, .ktog 0 12 0 false, .kprefix 12 0 false,
    .vmerge 1 2 3 0 false false, .vcompress 1 2 0 false, .vexpand 1 2 13 false, .vcvt 1 2 0 0 false 13, .viota 1 13 0 0,
    .vsegred 1 2 12 0 false, .vsegscan 1 2 3 13 false, .vsegmax 1 2 31 0 false, .vredsum 1 2 3 13 false false,
    .vld 1 2 13 false, .vldk 12 1, .vstk 31 1, .vldt 1 2 3 0, .vstt 1 2 4 0 false, .vstt 1 2 0 13 false] : List Instr).all
      (fun i => !i.wf) = true := by
  decide +kernel

/-- A graph node 0 (R244). -/
theorem test_illformed_engine : ([.gdef 1 2 0, .gqry 1 0] : List Instr).all (fun i => !i.wf) = true := by
  decide +kernel

/-- Steps of other agents: a function, a queue, a port, a core, a die, a cluster, a partition, a join slot and a binding beyond
the last one (R1, R296, R349, R365). -/
theorem test_illformed_steps : ([.qtailWrite 98 0 0, .qtailWrite 0 16 0, .queueConfigWrite 98 0 0 0, .registerWrite 98 0 0 0,
    .createVdev 98, .attest 98 .other, .ideKm 0 2 0 0, .hostWrite 2 0 [], .hostRead 2 0 1, .debugHaltRelease 10240,
    .ualinkReplyTimeout 10240 0, .launchSelection 40, .wispRecordArrival 0 0 160, .reportArrival 160 0 0 [], .overflowDrain 98,
    .groupStart 2560, .fill 10240 0, .grant 10240 0 0 0, .generationNotice 0 65536, .rangeInvalidation 0 65536 0 0 0,
    .pieceAdmission 160, .foreignFlitDrop 40 0, .matrixRowStep 2560, .streamPrefetch 0 4, .sendChunk 10240 0, .joinDeadline 160 0,
    .joinDeadline 0 1024, .quantumEnd 40, .functionLevelReset 98, .thermalThrottle 160] : List Instr).all (fun i => !i.wf)
      = true := by
  decide +kernel

/-- Terms within the limits are well formed. -/
theorem test_wellformed : ([.sext 1 2 2, .bfs 0x5F 0, .bfc 0x81 0, .ifence 1 3, .setd 1 2 2, .vaddVv 1 2 3 12 false false,
    .vcmpeqVv 11 2 3 0 false false, .kand 11 11 11 false false, .vcvt 1 2 0 0 false 12, .gqry 1 31, .qtailWrite 97 15 0,
    .joinDeadline 159 1023, .streamPrefetch 10239 3, .quantumEnd 39] : List Instr).all (fun i => i.wf) = true := by
  decide +kernel

/-! ## Witnesses

For each statement with hypotheses, states and operands that meet them, one for each clause, at the ends of its ranges where
it has ranges. The states are small: core 0 runs wisp (1, 0) of device 5, with 1 MiB of plain memory in a wired slot and a
directory of six entries at 0x10000. -/

-- One at a time: each is a long kernel evaluation.
set_option Elab.async false

/-- Whether an access completes, traps or waits; the state it leaves, and its value. -/
def fine {α : Type} (x : Acc α) : Bool := match x with | .ok _ _ => true | _ => false
def traps {α : Type} (x : Acc α) : Bool := match x with | .trap _ _ => true | _ => false
def waits {α : Type} (x : Acc α) : Bool := match x with | .wait _ => true | _ => false
def left {α : Type} (x : Acc α) : State := match x with | .ok _ s => s | .trap _ s => s | .wait s => s
def value {α : Type} (d : α) (x : Acc α) : α := match x with | .ok a _ => a | _ => d

def noXl : Xl := { pa := 0 }

/-- A range entry (R82): its bounds, what it maps to, its bits V, PR, PW, PX, PS, CA, DEV, CLK, its RID and RESID. -/
def entry (base limit at_ flags rid : Nat) (resid : Nat := 2 ^ 64 - 1) : BitVec 512 :=
  let e := imgPut (imgPut (imgPut 0 0 63 0 base) 8 63 0 limit) 0x10 63 0 ((2 ^ 64 + at_ - base) % 2 ^ 64)
  imgPut (imgPut (imgPut e 0x18 7 0 flags) 0x18 23 16 rid) 0x20 63 0 resid
/-- Entries that only S may use, read-only, of a device, with its second granule not resident, of no package-local address,
and malformed. -/
def entries : List (BitVec 512) := [entry 0x200000 0x201000 0x200000 0x3F 1, entry 0x201000 0x202000 0x201000 0x23 1,
  entry 0x202000 0x203000 0x202000 0x47 1, entry 0x203000 0x243000 0x203000 0x2F 2 1,
  entry 0x243000 0x244000 (2 ^ 56) 0x2F 2, entry 0x244001 0x245000 0x244000 0x2F 2]
/-- Writes words of n bytes into memory. -/
def place (s : State) (l : List (Nat × Nat × Nat)) : State := l.foldl (fun s e => s.rawWrite e.1 e.2.1 e.2.2) s
/-- The state of the witnesses. -/
def st : State :=
  let core : Core := { wisp := some (1, 0), stage := .run, pc := 0x1000, slots := [(0, { img := entry 0 0x100000 0 0x2F 1 })],
                       s := { rdir := 0x10000, tvec := 0x5000 } }
  let s : State := { evTurn := false, cores := [(0, core)], wisps := [(wkey 1 0, { launch := 1, loc := .core 0, started := true })],
                     launches := [(1, { vdev := 5, group := 1 })],
                     vdevs := [(5, { live := true, part := some 0, share := 1, asnCnt := 4, ovfBase := 0x60000, ovfCap := 20000 })] }
  (place s ([(0x10000, 8, 6), (0x10008, 4, 2)] ++ (List.range 6).map (fun j => (0x10040 + 64 * j, 64, ((entries.getD j 0).toNat)))))
/-- Core 0 with its registers set, its other fields changed by f. -/
def regs (l : List (Nat × Word)) (f : Core → Core := id) (s : State := st) : State :=
  s.updMe (fun x => f { x with g := l.foldl (fun g e => Store.set 0 g e.1 e.2) x.g })

/-- A target that is a multiple of 4 and one that is not. -/
theorem wit_BranchesAndJumps : let s := regs [(1, 0x1000), (2, 0x1002)]
    (s.rg 1).toNat % 4 = 0 ∧ (s.rg 2).toNat % 4 ≠ 0 := by decide +kernel

/-- An aligned access and a misaligned one; a load and a store that complete, that trap, and that wait for an edit. -/
theorem wit_ScalarLoadsAndStores :
    let e := place st [(0x10008, 4, 3)]
    (0x20000 % 8 = 0 ∧ 0x20001 % 8 ≠ 0) ∧ fine (st.load 0 0x20000 8 true false) = true ∧ traps (st.load 0 0x300000 8 true false) = true
    ∧ waits (e.load 0 0x300000 8 true false) = true ∧ fine (st.store 0 0xFFFF8 8 5 true false) = true
    ∧ traps (st.store 0 0x201000 8 5 true false) = true ∧ waits (e.store 0 0x200000 8 5 true true) = true := by decide +kernel

/-- A load and a store that complete while no cache is full and nothing is under way; stores that are not cached, into plain
memory and into a device. -/
theorem wit_AccessesChangeMemoryStateOnly :
    let x := value noXl (st.xlat 0 0x20000 .write true false)
    let s := left (st.xlat 0 0x20000 .write true false)
    (st.coreAt 0).l1.length < 1024 ∧ (st.clusterAt (clusterOf 0)).cache.length < 8192
    ∧ (st.dieAt (dieOf 0)).cache.length < st.dieCap (dieOf 0) ∧ st.requests 0 = []
    ∧ fine (st.load 0 0x20000 8 true false) = true ∧ fine (st.xlat 0 0x20000 .write true false) = true ∧ x.ca = true
    ∧ fine (s.storeAt 0 0x20000 x 8 5) = true ∧ st.tents = [] ∧ st.moves = [] ∧ st.waiters = []
    ∧ (∀ f ∈ ([0x0F, 0x4F] : List Nat),
        let u := regs [] (fun x => { x with slots := [(0, { img := entry 0 0x100000 0 f 1 })] })
        let y := value noXl (u.xlat 0 0xFFFF8 .write true false)
        fine (u.xlat 0 0xFFFF8 .write true false) = true ∧ y.ca = false ∧ (y.dev = (f == 0x4F)) ∧ u.tentTag 0 y.rid = none ∧ u.requests 0 = []
        ∧ fine ((left (u.xlat 0 0xFFFF8 .write true false)).storeAt 0 0xFFFF8 y 8 5) = true) := by decide +kernel

/-- Values of each kind, in each format, and products and sums of them, zero and not; a code that FZ flushes and one that it
does not; for the format m8, numbers beyond its greatest, in its range, and down to half its least. -/
theorem wit_FloatArithmetic :
    let x : FVal := .fin false 3 (-1)
    let y : FVal := .fin true 1 2
    let v (a : FVal) : ℚ := a.num.getD 0
    ((0 : Nat) < 5 ∧ (4 : Nat) < 5 ∧ f16 ∈ ([f16, bf16, f32, f64] : List FFmt) ∧ f64 ∈ ([f16, bf16, f32, f64] : List FFmt))
    ∧ ((0 : Nat) < 3 ∧ (.nan true : FVal).isNan = true ∧ (.inf true : FVal).isInf = true ∧ (.zero true : FVal).isZero = true
        ∧ x.isNan = false ∧ x.isInf = false ∧ x.isZero = false ∧ (.zero false : FVal).isInf = false)
    ∧ (x.num = some (3 / 2) ∧ y.num = some (-4) ∧ (.zero true : FVal).num = some 0 ∧ (0 : ℚ) < 3 / 2 ∧ (-4 : ℚ) < 0
        ∧ (3 / 2 : ℚ) + (-4) ≠ 0 ∧ (3 / 2 : ℚ) * (-4) + 0 ≠ 0)
    ∧ (1 < 2 ^ f16.width ∧ 0x3C00 < 2 ^ f16.width ∧ f16.decode 1 = .fin false 1 (-24) ∧ f16.decode 0x3C00 = .fin false 1024 (-10)
        ∧ |v (.fin false 1 (-24))| < 2 ^ (1 - (15 : ℤ)) ∧ ¬ |v (.fin false 1024 (-10))| < 2 ^ (1 - (15 : ℤ)))
    ∧ (v x ≠ 0 ∧ v y ≠ 0 ∧ (2 : ℚ) ^ (0 : ℤ) * 31 / 16 < |v y| ∧ |v x| ≤ 2 ^ (0 : ℤ) * 31 / 16 ∧ 2 ^ ((0 : ℤ) - 22) / 2 < |v x|
        ∧ |v (.fin true 1 (-23))| ≤ 2 ^ ((0 : ℤ) - 22) / 2) := by
  refine ⟨by decide, by decide, ?_, ⟨by decide, by decide, by decide, by decide, ?_, ?_⟩, ?_⟩ <;>
    norm_num [FVal.num, abs_of_pos, abs_of_neg]

/-- Where a walk ends. -/
def walkEnd : Walk → Nat
  | .edit => 0 | .poison => 1 | .miss => 2 | .malformed _ _ => 3 | .found _ _ => 4
/-- Slots 8 to 31 all valid; slot 8 with an entry of which the directory now has the second granule resident. -/
def full : Core → Core := fun x => { x with slots := (List.range 24).map (fun i => (i + 8, { img := entry 0x900000 0x901000 0 0x2F 1 })) }
def stale : State :=
  let s := regs [] (fun x => { x with slots := x.slots ++ [(8, { img := entry 0x203000 0x243000 0x203000 0x2F 2 1, dirIdx := some 3 })] })
  place s [(0x10040 + 64 * 3 + 0x20, 8, 3)]

theorem wit_Translation_walks :
    let w (s : State) (dva : Nat) : Nat := walkEnd (s.walk (some 0) s.me.rdirPa dva)
    w st 0x1FFFFF = 2 ∧ w st 0x300000 = 2 ∧ w st 0x244001 = 3 ∧ w st 0x200000 = 4 ∧ w st 0x200FFF = 4 := by decide +kernel
theorem wit_Translation_order : st.dirSeq 0x10000 % 2 = 0 ∧ st.dirCount 0x10000 = 6
    ∧ ∀ j, j < 6 → ∀ i, i < j → entBase (st.dirEntry 0x10000 i) ≤ entBase (st.dirEntry 0x10000 j) := by decide +kernel
theorem wit_Translation_recheck : (stale.me.findSlot 0x204000).map Prod.fst = some 8
    ∧ walkEnd (stale.walk (some 0) stale.me.rdirPa 0x204000) = 4
    ∧ entResident (stale.dirEntry stale.me.rdirPa 3) 0x204000 = true := by decide +kernel
/-- A DVA that is not canonical; one that a slot holds, and with its granule resident in the directory alone; each end of a walk;
an entry that passes, and one for each check that fails: KIND 3 to 7, and 8. A core with a free slot and one without. -/
theorem wit_Translation :
    let e := place st [(0x10008, 4, 3)]
    let p : State := { st with pois := [(0x4000, true)] }
    let w (s : State) (dva : Nat) : Nat := walkEnd (s.walk (some 0) s.me.rdirPa dva)
    let none_ (dva : Nat) : Bool := canonical dva && (st.me.findSlot dva).isNone
    let far := entry 0x200000 0x201000 (2 ^ 43) 0x2F 1
    (canonical (2 ^ 56) = false ∧ canonical (2 ^ 56 - 1) = true ∧ canonical (255 * 2 ^ 56) = true)
    ∧ ((st.me.findSlot 0).isSome = true ∧ (st.me.findSlot 0xFFFFF).isSome = true ∧ none_ 0x100000 = true)
    ∧ (w e 0x200000 = 0 ∧ w p 0x200000 = 1)
    ∧ (none_ 0x1FFFFF = true ∧ none_ 0x200000 = true ∧ none_ 0x244001 = true ∧ none_ 0x300000 = true)
    ∧ (entPS (entries.getD 0 0) = true ∧ entPW (entries.getD 1 0) = false ∧ entDEV (entries.getD 2 0) = true
        ∧ (0x243000 + entOffset (entries.getD 4 0)) % 2 ^ 64 / 2 ^ 56 ≠ 0
        ∧ st.ownPa ((0x200000 + entOffset far) % 2 ^ 64) = true ∧ st.backing ((0x200000 + entOffset far) % 2 ^ 64) ≠ some 0)
    ∧ (entResident (entries.getD 3 0) 0x203FFF = true ∧ entResident (entries.getD 3 0) 0x204000 = false)
    ∧ (entV (Store.get ({} : Slot) st.me.slots 8).img = false
        ∧ ∀ n, n < 32 → 8 ≤ n → entV (Store.get ({} : Slot) (regs [] full).me.slots n).img = true) := by decide +kernel
/-- Nothing of its directory is poisoned. -/
theorem wit_Translation_clean : ∀ a m, st.dirPois none a m = false := by
  have h : st.pois = [] := by decide +kernel
  intro a m; simp [State.dirPois, State.homePois, h]

/-- A whole line in V that no join tags, with and without a poisoned word; a store of 4 and of 8 bytes that completes; and an
access without caches of the last bytes of a line, to plain memory and to a device, with a poisoned word and without. -/
theorem wit_AccessesInL1 :
    let line : Line := { rid := 1, valid := BitVec.allOnes 16, pois := 2 }
    let s := st.setL1 0 0x800 line
    let x : Xl := { pa := 0x20000, rid := 1, ca := true }
    let y : Xl := { x with pa := 0x20004 }
    let z : Xl := { pa := 0x2003F, rid := 1 }
    let p : State := { st with pois := [(0x800F, true)] }
    (z.ca = false ∧ z.pa % 64 + 1 ≤ 64 ∧ z.dev = false ∧ st.tents = [] ∧ st.requests 0 = [] ∧ st.cutOff 0 z.pa = false
      ∧ (st.homeLine 0x800).2 &&& wordsTouched z.pa 1 = 0 ∧ (p.homeLine 0x800).2 &&& wordsTouched z.pa 1 ≠ 0)
    ∧ (s.l1Line 0 0x800).valid = BitVec.allOnes 16 ∧ (s.l1Line 0 0x800).st = .v ∧ s.tents = [] ∧ s.tentTag 0 1 = none
    ∧ x.pa % 64 + 64 ≤ 64 ∧ (s.l1Line 0 0x800).pois &&& wordsTouched 0x20000 4 = 0
    ∧ (s.l1Line 0 0x800).pois &&& wordsTouched 0x20004 4 ≠ 0
    ∧ y.pa % 4 = 0 ∧ fine (s.storeAt 0 0x20004 y 4 7) = true ∧ x.pa % 8 = 0 ∧ fine (st.storeAt 0 0x20000 x 8 7) = true := by
  decide +kernel

/-- No waiter; and one of a word that ends where the write begins, and one that begins where it ends. -/
theorem wit_HomeWriteReadsBack :
    let s : State := { st with waiters := [⟨0x1FFF8, true, 0, 1, 0, none⟩, ⟨0x20004, false, 0, 1, 0, none⟩] }
    st.moves = [] ∧ st.waiters = [] ∧ s.moves = []
    ∧ ∀ q ∈ s.waiters, overlap 0x20000 4 q.pa (if q.wide then 8 else 4) = false := by decide +kernel

/-- An address of a multiple of the width and not; a word that completes, one that is poisoned, one over a route out of
service, and one whose reply is poisoned. -/
theorem wit_AtomicResults :
    let s := regs [(1, 0x20000), (2, 0x20004)]
    let ok (s : State) : Bool := fine (s.atomicPrelude 0x20000 0 3 true)
    let p : State := { s with pois := [(0x8000, true)] }
    let d : State := { s with linksDown := [(0, 0, 1)] }
    let m : State := { s with mute := [(0, 0x800)] }
    (s.rg 1).toNat % 8 = 0 ∧ (s.rg 2).toNat % 8 ≠ 0 ∧ (s.rg 2).toNat % 4 = 0
    ∧ ok s = true ∧ traps (s.atomicPrelude 0x201000 0 0 true) = true ∧ waits ((place s [(0x10008, 4, 3)]).atomicPrelude 0x300000 0 0 true) = true
    ∧ ok p = true ∧ p.homePois 0x20000 8 = true ∧ ok d = true ∧ d.reqDown 0 0x20000 = true
    ∧ ok m = true ∧ m.reqDown 0 0x20000 = false ∧ m.cutOff 0 0x20000 = true := by decide +kernel

/-- A word with the value watched for and with another; with poison; a wisp that leaves, one that stays, and one for which a
kill is signalled. -/
theorem wit_AmowaitResults :
    let s := regs [(1, 0x20000), (2, 5)]
    let t := left (s.atomicPrelude 0x20000 0 0 true)
    let e := place t [(0x20000, 8, 5)]
    let p : State := { t with pois := [(0x8000, true)] }
    let k := s.updMe (fun x => { x with kill := some (100, 2) })
    fine (s.atomicPrelude 0x20000 0 0 true) = true ∧ t.homePois 0x20000 8 = false ∧ t.cutOff 0 0x20000 = false
    ∧ t.watched 0x20000 true ≠ 5 ∧ e.watched 0x20000 true = 5 ∧ e.queueFull 0x20000 = false ∧ e.killDue = false ∧ e.staysPut = false
    ∧ fine ((place s [(0x20000, 8, 5)]).atomicPrelude 0x20000 0 0 true) = true ∧ p.homePois 0x20000 8 = true
    ∧ (e.updWisp (wkey 1 0) ({ · with pinned := true })).staysPut = true
    ∧ fine (k.atomicPrelude 0x20000 0 0 true) = true ∧ k.me.s.inh = false ∧ k.killDue = true := by decide +kernel

/-- Regions 1 and 255 and those beside them; a release that completes and one that waits; a FENCE with an acknowledgement of a
wider scope to come, of its own scope, and with an answer to come. A dirty word of a line that nobody owns. -/
theorem wit_RegionFences :
    let s := regs [(1, 1), (2, 255), (3, 0), (4, 256)]
    let line : Line := { rid := 1, valid := BitVec.allOnes 16, dirty := 0x8001, data := 7 }
    let a : State := { s with pending := [(0, { owner := 3, waiters := [.core 0] })] }
    let q (n : Nat) := s.updMe (fun x => { x with inval := [⟨n, 0, 0, 4096, 1⟩] })
    let u := (s.setL1 0 0x800 line).performSent 0
    let ok (n : Nat) : Prop := 1 ≤ n ∧ n ≤ 255
    (ok (s.rg 1).toNat ∧ ok (s.rg 2).toNat ∧ ¬ ok (s.rg 3).toNat ∧ ¬ ok (s.rg 4).toNat)
    ∧ (s.releaseNow 0 1 0).awaitsAnswer 0 = false ∧ (a.releaseNow 0 1 0).awaitsAnswer 0 = true
    ∧ (s.performSent 0).awaitsAnswer 0 = false ∧ (a.performSent 0).awaitsAnswer 0 = true
    ∧ (∀ i ∈ ((q 2).performSent 0).me.inval, 1 < i.scope) ∧ (∃ i ∈ ((q 2).performSent 0).me.inval, i.scope ≤ 2)
    ∧ (u.l1Line 0 0x800).st = .v ∧ (u.l1Line 0 0x800).rid = 1 ∧ (u.l1Line 0 0x800).own = true ∧ (u.l1Line 0 0x800).valid ≠ 0
    ∧ (u.l1Line 0 0x800).dirty.getLsbD 0 = true ∧ (u.l1Line 0 0x800).dirty.getLsbD 15 = true ∧ u.waiters = [] ∧ u.moves = []
    ∧ u.reqDown 0 0x20000 = false ∧ (u.regAt 0x800).owners = []
    ∧ Store.wf ({} : Line) (u.coreAt 0).l1 = true ∧ Store.wf ({} : Line) (u.clusterAt 0).cache = true
    ∧ Store.wf ({} : Line) (u.dieAt 0).cache = true
    ∧ (u.dieAt 0).cache.length + (u.clusterAt 0).cache.length + (u.coreAt 0).l1.length ≤ u.dieCap 0
    ∧ (u.clusterAt 0).cache.length + (u.coreAt 0).l1.length ≤ 8192 := by decide +kernel

/-- The ends of the range of regions that an acquire names; a line of region 1 in each state. -/
theorem wit_AcquireDropsLines :
    let l (st : LineSt) : Line := { rid := 1, valid := 3, st := st }
    let s := ((st.setL1 0 0x800 (l .io)).setL1 0 0x801 (l .oi)).setL1 0 0x802 (l .ov)
    let u := (s.setL1 0 0x803 (l .o)).performSent 0
    ((1 ≤ 1 ∧ 1 ≤ 255) ∧ (1 ≤ 255 ∧ 255 ≤ 255)) ∧ (s.setL1 0 0x803 (l .o)).awaited .port = false
    ∧ Store.wf ({} : Line) (u.coreAt 0).l1 = true ∧ (u.l1Line 0 0x800).rid = 1 ∧ (u.l1Line 0 0x800).st = .io
    ∧ (u.l1Line 0 0x801).st = .oi ∧ (u.l1Line 0 0x802).st = .ov ∧ (u.l1Line 0 0x803).st = .o := by decide +kernel

/-- Descriptors within the limits and not; a range that is granted, with all eight slots taken, over two entries, in memory
without a cache; slots of DISOWN that are empty, held, in transit, and beyond the last. -/
theorem wit_OwnAndDisown :
    let two := regs [] (fun x => { x with slots := x.slots ++ [(1, { img := entry 0x100000 0x200000 0x300000 0x0F 3 })] })
    let one : Word := 2 ^ 32 + 6 * 2 ^ 48
    let pair : Word := 64 + 2 * 2 ^ 32 + 6 * 2 ^ 48
    let range : OwnRange := { base := 0x20000, count := 1, width := 64, cells := [(0x800, BitVec.allOnes 16)] }
    let held := regs [(1, 7)] (fun x => { x with owned := (List.range 8).map (fun i => (i, range)) })
    let moving := held.setL1 0 0x800 { st := .io }
    let x1 := value noXl (two.xlat 0 0xFFFC0 .write true false)
    let x2 := value noXl (two.xlat 0 0x100000 .write true false)
    (ownLegal 0x20000 one = true ∧ ownLegal 0xFFFC0 pair = true ∧ ownLegal 0x20004 one = false ∧ ownLegal 0x20000 (2 ^ 51) = false)
    ∧ fine (two.xlat 0 0xFFFC0 .write true false) = true ∧ fine (two.xlat 0 0x100000 .write true false) = true
    ∧ x1.base ≠ x2.base ∧ x2.ca = false ∧ x1.ca = true ∧ x1.own = true ∧ two.me.freeOwnSlot = some 0 ∧ held.me.freeOwnSlot = none
    ∧ two.tentTag 0 1 = none
    ∧ (∀ e ∈ two.ownCells 0x20000 0 0 1 64, ((two.setL1 0 0x800 {}).l1Line 0 e.1).st = .v)
    ∧ (held.rg 1).toNat < 8 ∧ (Store.get ({} : OwnRange) held.me.owned 7).count ≠ 0 ∧ (Store.get ({} : OwnRange) st.me.owned 7).count = 0
    ∧ (held.beginDisown 0 7).disownWaits 0 7 = false ∧ (moving.beginDisown 0 7).disownWaits 0 7 = true ∧ 8 ≤ (8 : Nat) := by decide +kernel

/-- A structure in memory, from its fields: byte, bit, value. -/
def record (l : List (Nat × Nat × Nat)) : Nat := l.foldl (fun a e => a + e.2.2 * 2 ^ (8 * e.1 + e.2.1)) 0

/-- Operands at the ends of their limits and beyond; a release that completes; a count of 1, which completes the phase, and
of 2, which does not; a barrier of the own device, and one of another; a package's barrier over routes in service and not. -/
theorem wit_BarrierArrivals :
    let ok (v : Nat) (scope : BitVec 2) : Bool := v / 2 ^ 32 == 0 && v / 2 ^ 16 % 2 ^ 16 != 0 && barLegal (v % 2 ^ 16) scope
    (ok (3 + 2 ^ 16) 0 = true ∧ ok (2 ^ 14 + 31 + 65535 * 2 ^ 16) 1 = true ∧ ok (2 ^ 15 + 2 ^ 16) 2 = true)
    ∧ (ok 3 0 = false ∧ ok (4 + 2 ^ 16) 0 = false ∧ ok (2 ^ 14 + 32 + 2 ^ 16) 1 = false ∧ ok (2 ^ 14 + 2 ^ 16) 0 = false
      ∧ ok (2 ^ 32 + 2 ^ 16) 0 = false)
    ∧ fine (st.release 0 255 0) = true ∧ ((st.barAt (st.barKey 0 3)).ownedBy (st.vdevOn 0)).isSome = true
    ∧ ((({ owner := some 6, arrived := 1 } : Barrier)).ownedBy 5).isSome = false
    ∧ (let d : State := { st with linksDown := [(0, 0, 1)] }
       let m : State := { st with mute := [(0, (st.barKey 0 (2 ^ 15) - 2 ^ 61) / 64)] }
       let k := st.barKey 0 (2 ^ 15)
       fine (d.release 0 255 0) = true ∧ fine (m.release 0 255 0) = true ∧ st.barReqDown 0 (2 ^ 15) k = false ∧ st.barCut 0 (2 ^ 15) k = false
       ∧ d.barReqDown 0 (2 ^ 15) k = true ∧ m.barReqDown 0 (2 ^ 15) k = false ∧ m.barCut 0 (2 ^ 15) k = true)
    ∧ (({} : Barrier).arrive 1 true false).2.2 = true ∧ (({} : Barrier).arrive 2 true false).2.2 = false := by decide +kernel

/-- A barrier that exists and one that does not; a phase just complete, the oldest that counts as complete, the present one,
and the youngest that counts as to come; a signalled kill; a reply that does not come. -/
theorem wit_WaitForBarrier :
    let k := st.updMe (fun x => { x with kill := some (100, 2) })
    barLegal 3 0 = true ∧ barLegal 4 0 = false ∧ st.killDue = false ∧ (st.barAt (st.barKey 0 3)).phase = 0
    ∧ phaseDone 7 6 = true ∧ phaseDone 0 (2 ^ 32 - 1) = true ∧ phaseDone (2 ^ 31 - 1) 0 = true
    ∧ phaseDone 7 7 = false ∧ phaseDone (2 ^ 31) 0 = false ∧ barLegal (2 ^ 15) 2 = true
    ∧ (({ st with mute := [(0, (st.barKey 0 (2 ^ 15) - 2 ^ 61) / 64)] } : State).barSend (2 ^ 15) (st.barKey 0 (2 ^ 15))).barCut 0 (2 ^ 15) (st.barKey 0 (2 ^ 15)) = true
    ∧ (st.barSend 3 (st.barKey 0 3)).barCut 0 3 (st.barKey 0 3) = false ∧ k.me.s.inh = false ∧ k.me.kill = some (100, 2) := by decide +kernel

/-- A join record of two contributors whose quorum is one; and core 0 as contributor 1 of the join in slot 0 of site 0. -/
def joinRec (more : List (Nat × Nat × Nat) := []) : Nat :=
  record ([(0, 0, 2), (0, 8, 1), (0, 16, 1), (0x10, 8, 0x0A), (0x18, 0, 0x30000)] ++ more)
def joining (j : Join) (s : State := st) : State :=
  { s.updMe (fun x => x.updU ({ · with joinctx := BitVec.ofNat 64 (2 ^ 18 + 2 ^ 48) })) with joins := [(0, j)] }
def join0 : Join := { st := .opened, img := BitVec.ofNat 512 (joinRec) }
/-- A state whose JINIT record is r, the record read, and the place of its accumulator. -/
def initing (r : Nat) : State := place (regs [(1, 0x20000)]) [(0x20000, 64, r)]
def initRec (r : Nat) : Join := { img := BitVec.ofNat 512 (wordsToNat (value [] ((initing r).homeWords 0 0x20000 16))) }
/-- A store that holds the one value v at every key from a on, n of them. -/
theorem get_range (d v : Join) (n : Nat) : ∀ a k, a ≤ k → k < a + n →
    Store.get d ((List.range' a n).map (fun i => (i, v))) k = v := by
  induction n with
  | zero => intro a k h1 h2; omega
  | succ n ih =>
    intro a k h1 h2
    simp only [List.range'_succ, List.map_cons, Store.get]
    split
    · rfl
    · exact ih (a + 1) k (by omega) (by omega)
/-- Every join slot of site 0 taken. -/
def taken : State := { st with joins := (List.range' 0 1024).map (fun i => (i, join0)) }
/-- A site without a free slot. -/
theorem wit_JoinInitialise_full : taken.freeSlot 0 = none := by
  have h : ∀ k, k < 1024 → taken.joinAt k = join0 := fun k hk => get_range {} join0 1024 0 k (by omega) (by omega)
  simp only [State.freeSlot, List.find?_eq_none, List.mem_map, List.mem_range]
  rintro _ ⟨i, hi, rfl⟩
  rw [Nat.zero_mul, Nat.zero_add, h i hi]
  decide
/-- JINIT: an address of a multiple of 64 and not; a record that is not legal, one whose accumulator is another package's, one whose parent is no join, a
DEADLINE that has passed and not, and a record that is accepted. -/
theorem wit_JoinInitialise :
    let x := value noXl (st.xlat 0 0x30000 .write true false)
    let away := regs [] (fun x => { x with slots := [(0, { img := entry 0 0x100000 (2 ^ 44) 0x2F 1 })] })
    let late := joinRec [(8, 0, 5)]
    ([fine ((initing joinRec).release 0 255 2), fine ((initing joinRec).homeWords 0 0x20000 16),
      fine (st.xlat 0 0x30000 .write true false), (initRec joinRec).legal, !(initRec (joinRec [(0, 15, 1)])).legal, x.own,
      !(value noXl (away.xlat 0 0x30000 .write true false)).own, st.parentOk (initRec joinRec),
      !st.parentOk (initRec (joinRec [(0x28, 0, 2 ^ 18)])), (st.freeSlot (st.homeSite x.pa)).isSome,
      (initRec late).deadline == 5, decide (0x20000 % 64 = 0), decide (0x20020 % 64 ≠ 0), !st.cutOff 0 x.pa, ({ st with linksDown := [(0, 0, 1)] } : State).cutOff 0 x.pa,
      ({ st with linksDown := [(0, 0, 1)] } : State).joinCut 0 (2 ^ 18), decide (st.time < 5), decide (5 ≤ ({ st with time := 5 }).time), !st.subBusy (initRec late)]
      : List Bool).all id = true := by decide +kernel
/-- JARRIVE and JLEAVE: a join beyond a link out of service, no join, each status, and a contribution that lies in one entry, and in two. -/
theorem wit_JoinArrive :
    let n (s : State) : Option Nat := (s.joinNamed (2 ^ 18)).map (fun j => j.status 1)
    let s := joining { join0 with img := BitVec.ofNat 512 (joinRec [(0x10, 16, 2)]) }
      (regs [] (fun x => { x with slots := x.slots ++ [(1, { img := entry 0x100000 0x200000 0x300000 0x2F 3 })] }))
    st.joinCut 0 (2 ^ 18) = false ∧ ({ st with linksDown := [(0, 0, 1)] } : State).joinCut 0 (2 ^ 18) = true ∧ ctxId s.me.u.joinctx = 2 ^ 18 ∧ ctxIndex s.me.u.joinctx = 1 ∧ st.joinNamed (2 ^ 18) = none
    ∧ n (joining join0) = some 0 ∧ n (joining { join0 with img := BitVec.ofNat 512 (joinRec [] - 1) }) = some 2
    ∧ n (joining { join0 with arrived := 2 }) = some 3 ∧ n (joining { join0 with st := .released }) = some 4
    ∧ (s.joinNamed (2 ^ 18)).map Join.alen = some 2
    ∧ fine (s.contribution 0 0xFFFC0 2) = true ∧ fine (s.contribution 0 0xFFFC0 17) = true
    ∧ value false (s.contribution 0 0xFFFC0 2) = true
    ∧ value true (s.contribution 0 0xFFFC0 17) = false
    ∧ fine ((left (s.contribution 0 0xFFFC0 2)).release 0 255 2) = true ∧ fine (s.homeWords 0 0xFFFC0 2) = true := by decide +kernel

/-- An id within 32 bits and beyond; no join, an open and a settled one; a kill that is due and none; selectors; a join beyond a link out of service. -/
theorem wit_JoinWaitAndStatus :
    let s := joining join0
    let r := joining { join0 with st := .released }
    let k := s.updMe (fun x => { x with kill := some (100, 2) })
    (s.joinCut 0 (2 ^ 18) = false ∧ ({ s with linksDown := [(0, 0, 1)] } : State).joinCut 0 (2 ^ 18) = true
      ∧ ¬ ((4 : Nat) ≤ 3 ∨ (4 : Nat) = 15) ∧ ¬ ((16 : Nat) ≤ 3 ∨ (16 : Nat) = 15))
    ∧ (2 ^ 32 - 1 < 2 ^ 32 ∧ 2 ^ 32 ≤ (2 ^ 32 : Nat)) ∧ s.killDue = false ∧ k.me.s.inh = false ∧ k.me.kill = some (100, 2)
    ∧ s.joinNamed (2 ^ 19) = none ∧ (s.joinNamed (2 ^ 18)).map Join.st = some .opened ∧ (r.joinNamed (2 ^ 18)).map Join.st = some .released
    ∧ r.killsPending (joinSlotKey (2 ^ 18)) = false := by decide +kernel

/-- An open join without a parent, for its last index, with a tentative word of that index and one of another. -/
theorem wit_TentativeWordsAtArrival :
    let s : State := { joining join0 with tents := [⟨1, 0, 2 ^ 18, 1, 1, 0x20000, 9, false, false⟩, ⟨1, 1, 2 ^ 18, 0, 1, 0x20000, 8, true, false⟩] }
    let j := s.joinAt 0
    j.st = .opened ∧ j.settling = none ∧ j.openFor 1 = true ∧ j.parent = 0 ∧ joinId 0 j.gen = 2 ^ 18 ∧ s.moves = [] ∧ s.waiters = []
    ∧ s.routeDown (joinNode (joinSlotKey (2 ^ 18))) (s.homeNode 0x20000) = false ∧ (∀ x ∈ s.tents, x.pa % 4 = 0)
    ∧ ∀ y ∈ s.tents, y.join = 2 ^ 18 → y.cindex = 1 → y.pa = 0x20000 → y = ⟨1, 0, 2 ^ 18, 1, 1, 0x20000, 9, false, false⟩ := by decide +kernel

/-- The die's pool full, and the device without a place in its overflow queue. -/
def crowded : State :=
  ({ st with wisps := st.wisps ++ (List.range' 1 4096).map (fun i => (wkey 1 i, ({ launch := 1, index := i, loc := .pool 0 } : Wisp))) }).updVdev 5
    ({ · with ovfCap := 0 })
/-- A resume that is kept and none; a kill; at RETIRE, a handler, a fault, an engine that works, and none of these; a wisp
whose pool has room, and one without a seat. -/
theorem wit_SuspendRetireAndDepart :
    let kept := st.updWisp (wkey 1 0) ({ · with kept := true })
    let k := st.updMe (fun x => { x with kill := some (100, 2) })
    let eng (f : Eng → Eng) := st.updMe (·.updE f)
    let bad := eng ({ · with mfault := some 1 })
    let busy := eng ({ · with mq := [{ kind := .swap, tag := 0 }] })
    let bound := eng ({ · with bind := [(0, { used := true, img := BitVec.ofNat 512 (record [(0, 0, 1)]), unsent := [5] })] })
    let after (s : State) := (s.liveBinds 0).foldl (fun s i => s.stallClear 0 i) (s.acquire 0 255 0)
    st.killDue = false ∧ (kept.wispAt (wkey 1 0)).kept = true ∧ (st.wispAt (wkey 1 0)).kept = false ∧ k.me.s.inh = false
    ∧ k.me.kill.isSome = true ∧ (st.updMe (fun x => x.updS ({ · with inh := true }))).me.s.inh = true
    ∧ st.engIdle 0 0 = true ∧ (after st).me.pendingFault = none ∧ bad.engIdle 0 0 = true ∧ (after bad).me.pendingFault = some 1
    ∧ busy.engIdle 0 0 = false ∧ (busy.engStall 0 0).1.isSome = false ∧ bound.engIdle 0 0 = false
    ∧ st.me.wisp = some (1, 0) ∧ (st.wispAt (wkey 1 0)).launch = 1 ∧ (st.wispAt (wkey 1 0)).index = 0 ∧ st.waiters = []
    ∧ st.seat 0 = some (.pool 0) ∧ (1 : Nat) ≠ 0 ∧ ((after st).retireActs 0).noSeat 0 = false ∧ crowded.me.wisp ≠ none
    ∧ crowded.seat 0 = none ∧ crowded.engIdle 0 0 = true ∧ crowded.me.s.inh = false ∧ (after crowded).me.pendingFault = none
    ∧ ((after crowded).retireActs 0).noSeat 0 = true := by decide +kernel

/-- A debugger that has asked and none; masks 15 and 16; engines idle, with a fault pending and without. -/
theorem wit_TrapBreakNopEngwait :
    let bad := st.updMe (·.updE ({ · with cfault := some 1 }))
    let after (s : State) := (s.liveBinds 0).foldl (fun s i => s.stallClear 0 i) (s.acquire 0 255 0)
    st.me.s.brkhalt = false ∧ (st.updMe (fun x => x.updS ({ · with brkhalt := true }))).me.s.brkhalt = true
    ∧ (15 < 16 ∧ 16 ≤ (16 : Nat)) ∧ st.engIdle 0 15 = true ∧ (after st).me.pendingFault = none ∧ bad.engIdle 0 15 = true
    ∧ (after bad).me.pendingFault = some 1 := by decide +kernel

/-- A partition and none; a logical die within it, the last, and one beyond; a clock that has changed and one that has not; a
request that is not sent, sent, and answered. -/
theorem wit_QueriesAndClocks :
    let none_ : State := { st with parts := [] }
    let dies := (List.range st.ndie).filter (fun e => st.partOfDie e == some 0)
    let z := st.updDie 0 ({ · with clock := some (5, 7) })
    let w (o : WaitOn) := st.updMe ({ · with waitOn := o })
    (st.partAt 0).isSome = true ∧ none_.partAt ((none_.partOfCore 0).getD 0) = none ∧ none_.partOfCore 0 = none ∧ st.partOfCore 0 ≠ none
    ∧ dies[0]? = some 0 ∧ dies[159]? = some 159 ∧ dies.length ≤ 160 ∧ (st.dieAt 0).clock = none ∧ (z.dieAt 0).clock = some (5, 7)
    ∧ st.me.waitOn = .none ∧ (w (.time none)).me.waitOn = .time none ∧ (w (.time (some 9))).me.waitOn = .time (some 9) := by
  decide +kernel

/-- A launch record without fault: an entry at 0x1000, one wisp, FRAME of 256 bytes, stack of 512. -/
def launchRec (more : List (Nat × Nat × Nat) := []) : Nat :=
  record ([(0, 0, 0x1000), (0x10, 0, 1), (0x10, 16, 1), (0x10, 32, 1), (0x50, 0, 256), (0x50, 32, 512), (0x58, 0, 0x80000),
    (0x60, 0, 0x90000)] ++ more)
def toLaunch (r : Nat) : Acc Xl := (place (regs [(1, 0x20000)]) [(0x20000, 128, r)]).xlat 0 0x20000 .read true false
def launchCode (r : Nat) : Nat :=
  let t := left (toLaunch r)
  t.checkRecord { img := BitVec.ofNat 1024 (t.spanRead 0x20000 128), vdev := 5, part := 0, parent := 1 } (some (st.launchAt 1).asn)
theorem wit_LaunchResults_legal : launchCode launchRec = 0 := by decide +kernel
theorem wit_LaunchResults_malformed : launchCode (launchRec [(0, 0, 1)]) = 1 := by decide +kernel
/-- A record that LAUNCH accepts, one that is rejected, a device without room, and one under a deadline. -/
theorem wit_LaunchResults :
    let t := left (toLaunch launchRec)
    let small := t.updVdev 5 ({ · with ovfCap := 64 })
    (0x20000 % 128 = 0) ∧ fine (toLaunch launchRec) = true ∧ (t.wispOn 0).1 = 1
    ∧ t.ovfOpenNew 5 = true ∧ t.underDeadline 5 = false ∧ small.ovfOpenNew 5 = false
    ∧ ({ st with deadlines := [{ isPart := false, target := 5, t := 9, t0 := 0, fns := [] }] }).underDeadline 5 = true := by decide +kernel

/-- A selector that names a flag (of the engines, of FSTAT, of a node) and those beside them, which name none. -/
theorem wit_FlagBranches : (∀ n ∈ [0, 1, 0xC, 0x20, 0x26, 0x41, 0x5F, 0x80, 0x81], (st.flag 0 n).isSome = true)
    ∧ ∀ n ∈ [3, 0xB, 0xD, 0x1F, 0x27, 0x40, 0x60, 0x7F, 0x82], st.flag 0 n = none := by decide +kernel

/-- A supervisor register at U and at S, a user register, one that is in no map, and one without a writable field. -/
theorem wit_ControlRegisterAccess :
    let s := st.updMe (fun x => { x with sup := true })
    st.me.sup = false ∧ s.me.sup = true ∧ (0x7FF < 0x800 ∧ 0x800 ≤ (0x800 : Nat)) ∧ (st.cregRead 0 0x002).isSome = true
    ∧ (s.cregRead 0 0x800).isSome = true ∧ st.cregRead 0 0x7FF = none ∧ (st.cregWrite 0 0x002 1).isSome = true
    ∧ (st.cregRead 0 0x018).isSome = true ∧ st.cregWrite 0 0x018 1 = none := by decide +kernel
/-- Every register that the statement lists takes a write. -/
theorem wit_ControlRegistersReadBack : let s := st.updMe (fun x => { x with sup := true })
    ∀ n ∈ [0x002, 0x003, 0x004, 0x005, 0x006, 0x008, 0x009, 0x00A, 0x00C, 0x00D, 0x00E, 0x031, 0x800, 0x801, 0x802, 0x803, 0x804,
      0x810, 0x812, 0x830], (s.cregWrite 0 n (BitVec.allOnes 64)).isSome = true := by decide +kernel

/-- A gang of two: wisps (1, 0) and (1, 1) on cores 0 and 1, each core changed by f. -/
def pair (f : Core → Core) : State :=
  let w : Wisp := { launch := 1, index := 1, loc := .core 1, started := true }
  { st with
    cores := [(0, f st.me), (1, f { st.me with wisp := some (1, 1) })]
    wisps := [(wkey 1 0, st.wispAt (wkey 1 0)), (wkey 1 1, w)]
    launches := [(1, { vdev := 5, group := 1, img := BitVec.ofNat 1024 (record [(0x18, 32, 1)]) })] }
/-- In the gang, with word w issued. -/
def ganged (w : BitVec 32) (f : Core → Core := id) : State :=
  pair (fun x => f { x with gang := some { member := (x.wisp.getD (0, 0)).2, issued := some w } })
/-- The group of both cores runs word w. -/
def together (s : State) (w : BitVec 32) : Bool :=
  (match s.me.gang with | some g => g.failed == none | none => false) && s.me.stage == .run && s.gangCores 0 == [0, 1] && s.gangSize 0 == 2
    && (s.coreAt 1).stage == .run && (match (s.coreAt 1).gang with | some h => h.issued == some w | none => false)

/-- A launch of single wisps, one of pairs that have all issued GANG, and a gang that has issued DISBAND, or has not. -/
theorem wit_GangAndDisband :
    let w := encode (.gang 5)
    let s := pair (fun x => { x with gangWait := some w })
    let d := ganged 0x9800000D
    st.me.gang = none ∧ st.gangSize 0 = 1 ∧ s.me.gang = none ∧ s.gangSize 0 = 2 ∧ s.gangCores 0 = [0, 1]
    ∧ (∀ e ∈ s.gangCores 0, (s.coreAt e).stage = .run ∧ (s.coreAt e).gangWait = some w) ∧ [0, 1].Nodup
    ∧ d.me.gang.isSome = true ∧ together d 0x9800000D = true := by decide +kernel

/-- VTYPE legal and not; SETVL on one core and in a gang, with a member that has issued another word, and with one that has issued
none, and after a failure; y = 1 with nothing asked, with a kill, with a pre-emption, with a fault, with a binding that waits and one that has waited too long, and
with a spill that completes and one that traps. -/
theorem wit_VectorLengthAndDimensions :
    let w := encode (.setvl 5 4 0x0A true)
    let s (f : Core → Core) := st.updMe f
    let pend (x : Core) : Core := x.updS ({ · with pend := true })
    let send : Binding := { used := true, vd := 3, unsent := [7], img := BitVec.ofNat 512 (record [(0, 0, 1), (0, 8, 0x0A)]) }
    let fails := (pair (fun x => { x with gang := some { member := 0, failed := some 5 } })).me.gang
    ([vtypeLegal 0, vtypeLegal 0x10, vtypeLegal 0x2D, !vtypeLegal 8, !vtypeLegal 0x11, !vtypeLegal 0xFF,
      st.me.gang == none, together (ganged w) w, !together (ganged 0x9800000D) w, (fails.map (fun g => g.failed)) == some (some 5),
      !st.me.kill.isSome, !st.me.s.pend, (s (fun x => { x with kill := some (5, 2) })).me.kill.isSome, !st.me.s.inh,
      (s pend).me.s.pend, !((s pend).wispAt ((s pend).wispKey 0)).pinned, (s (fun x => pend (x.updE ({ · with mfault := some 1 })))).me.pendingFault == some 1,
      fine ((s pend).leaveBinds 0), waits ((s (fun x => pend (x.updE ({ · with bind := [(0, send)] })))).leaveBinds 0),
      traps (({ s (fun x => pend (x.updE ({ · with bind := [(0, { send with stall := some 0 })] }))) with time := 10 ^ 6 }).leaveBinds 0),
      fine ((s pend).spill 0 true), traps (((s (fun x => pend (x.updU ({ · with vlive := 1 })))).updWisp (wkey 1 0)
        ({ · with frame := 0x300000 })).spill 0 true), decide (65535 ≤ 65535), decide (65535 < 65536)] : List Bool).all id = true := by
  decide +kernel

/-- A trap from U, from S outside a handler and inside one; ERET with nothing signalled, with a forced pre-emption for U and
for S, and with a kill. -/
theorem wit_TrapEntryAndReturn :
    let s (f : SReg → SReg) := st.updMe (fun x => { x.updS f with sup := true })
    st.me.sup = false ∧ st.me.s.inh = false ∧ (s id).me.sup = true ∧ (s id).me.s.inh = false
    ∧ (s ({ · with inh := true })).me.s.inh = true ∧ (s id).me.kill = none ∧ (s id).me.s.pend = false
    ∧ (s ({ · with pend := true, force := true })).me.s.ppriv = false ∧ (s ({ · with pend := true, force := true })).me.s.force = true
    ∧ (s ({ · with pend := true, force := true, ppriv := true })).me.s.ppriv = true
    ∧ ((s id).updMe (fun x => { x with kill := some (5, 2) })).me.kill = some (5, 2) := by decide +kernel

/-- The state at S, in a handler or not, with registers set. -/
def atS (l : List (Nat × Word)) (inh : Bool := false) (f : Core → Core := id) : State :=
  let s := regs l (fun x => f { x.updS ({ · with inh := inh }) with sup := true })
  s.updMe (fun x => { x with sg := x.g })
/-- Slot numbers 31, 32 and 33; addresses of a multiple of 64 and not; a load and a store that complete; a legal and a malformed
image; ranges of RTINV that are empty and not; an invalidation that meets a slot, or waits for its last answer; the ASNs beside
the limit; a generation that wraps; a GENBUMP that waits, and one that is done; a core with an owner's answer to come. -/
theorem wit_RangeTableInstructions :
    let s := place (atS [(1, 31), (2, 0x20000)]) [(0x20000, 64, (entry 0x900000 0x901000 0 0x2F 1).toNat)]
    let b := (s.updMe (fun x => { x with bump := some (7, 3) }))
    let n : State := { b with sched := [.generationNotice 0 7] }
    let q : Inval := ⟨0, 0, 0, 4096, 1⟩
    s.awaitsAnswer 0 = false ∧ ({ s with pending := [(0, { owner := 3, waiters := [.core 0] })] } : State).awaitsAnswer 0 = true
    ∧ Store.get 0 ({ s with gens := [(31, 0xFFFF)] } : State).gens (s.myPart * 65536 + 31) + 1 = 0
    ∧ s.me.sup = true ∧ (s.rg 1).toNat = 31 ∧ (s.rg 2).toNat % 64 = 0 ∧ 0x20001 % 64 ≠ 0 ∧ (31 ≤ 31 ∧ 31 < 32 ∧ 32 ≤ 32 ∧ 32 < 33)
    ∧ fine (s.load 0 0x20000 64 true true) = true ∧ value 0 (s.load 0 0x20000 64 true true) = (entry 0x900000 0x901000 0 0x2F 1).toNat
    ∧ entV (entry 0x900000 0x901000 0 0x2F 1) = true ∧ entMalformed (entry 0x900000 0x901000 0 0x2F 1) = false
    ∧ entMalformed (entry 0x900001 0x901000 0 0x2F 1) = true ∧ fine (s.store 0 0x20000 64 5 true true) = true
    ∧ (4 / 4 % 1024 ≠ 0 ∧ 0x1003 / 4 % 1024 = 0 ∧ 0x1001 % 4096 ≠ 0 ∧ 0x2000 % 4096 = 0) ∧ s.coresIn 0 0 = [0]
    ∧ (let m := (Store.get ({} : Slot) (s.coreAt 0).slots 0).img
       entV m = true ∧ entASN m = 0 ∧ entBase m < 4096 ∧ 0 < entLimit m)
    ∧ ((s.updMe (fun x => { x with inval := [q] })).coreAt 0).inval = [q] ∧ (s.coreAt 0).inval = []
    ∧ (65535 < 2 ^ 16 ∧ 2 ^ 16 ≤ (65536 : Nat)) ∧ s.me.bump = none ∧ b.me.bump = some (7, 3) ∧ b.noticesDue b.myPart 7 = false
    ∧ n.noticesDue n.myPart 7 = true ∧ (s.coreAt 0).s.asn.toNat = 0 := by decide +kernel

/-- The directory of l. -/
def dir (l : List (BitVec 512)) : State :=
  place (atS []) ([(0x10000, 8, l.length)] ++ (List.range 6).map (fun j => (0x10040 + 64 * j, 64, (l.getD j 0).toNat)))
def inDir (s : State) (dva : Nat) : Option Nat := match s.walk (some 0) s.me.rdirPa dva with | .found j _ => some j | _ => none
def dirA : BitVec 512 := entry 0x200000 0x202000 0x200000 0x2F 1
def lastEntry : State := place (atS []) [(0x10000, 8, 65536), (0x10040 + 64 * 65535, 64, dirA.toNat)]
theorem wit_DirectoryInstructions_last : inDir lastEntry 0x201000 = some 65535 := by decide +kernel
theorem wit_DirectoryInstructions_count : lastEntry.dirCount 0x10000 = 65536 := by decide +kernel
def dirABC : State := dir [dirA, entry 0x202000 0x203000 0x202000 0x2F 1, entry 0x203000 0x204000 0x203000 0x23 1]
theorem wit_DirectoryInstructions_walks :
    let w (s : State) (dva : Nat) : Nat := walkEnd (s.walk (some 0) s.me.rdirPa dva)
    ([w dirABC 0x100000 == 2, w (atS []) 0x244001 == 3, w { dirABC with pois := [(0x4000, true)] } 0x200000 == 1,
      w (place dirABC [(0x10008, 4, 1)]) 0x200000 == 0] : List Bool).all id = true := by decide +kernel
theorem wit_DirectoryInstructions_entries :
    ([inDir dirABC 0x201000 == some 0, inDir dirABC 0x203000 == some 2, inDir (dir [imgPut dirA 0x18 11 11 1]) 0x201000 == some 0,
      inDir (dir [dirA]) 0x200000 == some 0] : List Bool).all id = true := by decide +kernel
/-- Addresses that no entry covers, that a malformed one covers, in a poisoned directory and in one under edit; entries with MV, at
their own BASE, the last of 65,536, the last of the directory; neighbours that agree and not; a destination for RCOMPACT that is
not aligned, another package's, without backing, over the old place, and free. -/
theorem wit_DirectoryInstructions :
    let a := dirA
    let b := entry 0x202000 0x203000 0x202000 0x2F 1
    let c := entry 0x203000 0x204000 0x203000 0x23 1
    let mv := imgPut a 0x18 11 11 1
    let s := dir [a, b, c]
    ([!entMV a, entMV mv, entBase a != 0x201000, s.dirCount 0x10000 == 3, (dir [a]).dirCount 0x10000 == 1,
      decide (entLimit a = entBase b ∧ entRest a = entRest b), decide (entRest b ≠ entRest c), entCLK (entry 0x200000 0x202000 0 0xAF 1),
      !entCLK a, !entDEV a, entCA a, !entCA (entry 0x200000 0x202000 0 0x0F 1), entDEV (entry 0x200000 0x202000 0 0x47 1),
      decide (0x400800 % 4096 ≠ 0), s.ownPa 0x400000, !s.ownPa (2 ^ 44), s.spanBacked 0x400000 0x2000 0, !s.spanBacked (2 ^ 43) 0x2000 0,
      !overlap 0x400000 0x2000 0x200000 0x2000, overlap 0x201000 0x2000 0x200000 0x2000, s.moves == [], s.pois == [], s.waiters == []]
      : List Bool).all id = true := by decide +kernel

/-- A handler in memory without a cache; the checks of CTXSV or CTXLD for part REGS at 0x20000, and what CTXSV stores. -/
def ctxSt : State := atS [] true (fun x => { x with slots := [(0, { img := entry 0 0x100000 0 0x0F 1 })] })
def reach (k : AKind) : Acc Unit := ctxSt.ctxReach 0 0x20000 k (ctxSpans 1)
def saving : Acc Unit :=
  let u := left (reach .write)
  (u.ctxImage 0 1).2.storeAll 0 ((u.ctxImage 0 1).1.map (fun e => (0x20000 + e.1, e.2.1, e.2.2)))
theorem poisonAt_clean (t : Typed) (h : t.pois = []) : t.poisonAt = none := by
  simp [Typed.poisonAt, Typed.isPois, h, Store.get]
/-- No typed buffer or cluster buffer that CTXSV would save holds a poisoned word. -/
theorem wit_ContextPostWaitAndHalt_clean : (left (reach .write)).me.typed.poisonAt = none
    ∧ ((left (reach .write)).clusterAt 0).poisonAt = none :=
  ⟨poisonAt_clean _ (by decide +kernel), by decide +kernel⟩
/-- CTXSV and CTXLD within their limits and without; a buffer that the checks refuse; a core with an engine at work; parts saved
and loaded. IPOST of no record, of a wisp whose resume is kept, that is suspended, that waits at AMOWAIT, and that runs. WFI with
an event and without. HALTC with each status, and where it parks. -/
theorem wit_ContextPostWaitAndHalt :
    let s := ctxSt
    let u := left (reach .write)
    let h := value 0 (((left (reach .read)).acquire 0 255 2).ctxRead 0 0x20000 0x40 true)
    let good : Nat := record [(0, 0, 1), (2, 0, 1), (0xC, 0, 1)]
    let busy := s.updMe (·.updE ({ · with mq := [{ kind := .swap, tag := 0 }] }))
    let rec_ (f : Wisp → Wisp) := (atS []).updWisp (wkey 1 9) (fun _ => f { launch := 1, index := 9, loc := .pool 0, addr := 0x20000, st := 1, reason := 1 })
    let found (s : State) := (s.wisps.find? (fun e => e.2.addr == 0x20000 && e.2.addr != 0 && e.2.loc != .ended
      && (s.launchAt e.2.launch).part == s.myPart)).isSome
    let saved := s.updMe ({ · with saved := 1 })
    ([s.me.s.inh, decide (1 < 16 ∧ 15 < 16 ∧ ¬ 16 < 16), fine (reach .write), traps (s.ctxReach 0 0x300000 .write (ctxSpans 1)),
      busy.me.holdsEngine, !s.me.holdsEngine, !u.otherPinned 0 true, (u.restEngines 0).isSome, fine saving,
      !((left saving).releaseNow 0 255 2).awaitsAnswer 0, fine (reach .read), h == 0, good % 2 ^ 16 == 1, good / 2 ^ 64 % 2 ^ 32 == 0,
      good / 2 ^ 96 % 2 ^ 32 == 1, good / 2 ^ 16 % 16 == 1, fine (s.ctxLoad 0 0x20000 1 good),
      fine ((atS []).xlat 0 0x20000 .read true true), !found (atS []), found (rec_ id),
      ((rec_ ({ · with aband := true })).wispAt (wkey 1 9)).aband, (rec_ ({ · with waitOn := .suspend 0 })).suspended (wkey 1 9),
      ((rec_ ({ · with reason := 4 })).wispAt (wkey 1 9)).reason == 4, !s.me.kill.isSome, !s.me.refill, s.time == 0,
      (s.updMe ({ · with refill := true })).me.refill, !s.me.saved.getLsbD 0, saved.me.saved.getLsbD 0, !saved.me.holdsEngine,
      !(saved.wispAt (wkey 1 0)).pinned, ((saved.updWisp (wkey 1 0) ({ · with pinned := true })).wispAt (wkey 1 0)).pinned,
      saved.me.wisp == some (1, 0), saved.seat 0 == some (.pool 0)] : List Bool).all id = true := by decide +kernel

/-- Core 0 with VTYPE, VL and VSTART, its v registers as l says, and its bindings. -/
def vec (vtype : BitVec 8) (vl vstart : BitVec 16) (bind : Store Binding := []) (f : Core → Core := id) : State :=
  st.updMe (fun x => f ({ x.updE ({ · with bind := bind }) with v := [(1, 0x00000003_00000002_00000001), (2, 5)] }.updU
    ({ · with vtype := vtype, vl := vl, vstart := vstart })))
/-- A stream record (R233): kind, FORMAT, BASE, STRIDE0, LEN0, the peers' list, its length, and CHUNK. -/
def stream (kind fmt base stride len0 : Nat) (peers : Nat := 0) (npeer : Nat := 0) (chunk : Nat := 1) : BitVec 512 :=
  BitVec.ofNat 512 (record [(0, 0, kind), (0, 8, fmt), (8, 0, base), (0x10, 0, stride), (0x10, 32, len0), (0x18, 32, 1), (0x20, 0, peers),
    (0x20, 57, npeer), (0x28, 0, chunk)])
def loadB (pre : List Elem := []) (base : Nat := 0x20000) : Binding :=
  { used := true, vd := 1, addr := 0x30000, pa := 0x30000, img := stream 0 2 base 4 8, pre := pre }
def storeB (unsent : List Nat := []) : Binding :=
  { used := true, vd := 3, addr := 0x30000, pa := 0x30000, img := stream 1 2 0x20000 4 3000, unsent := unsent }

/-- No register bound; a bound source with all the elements asked for, some of them with a fault next, none with a wait, and none
with a wait that is over; a bound STORE with room for all and without any; a bound register in a gang, in another FORMAT, for the
other direction. -/
theorem wit_VectorIntegerResults :
    let s := vec 2 3 1
    let pop (b : Binding) (f : State → State := id) := (f (vec 2 3 1 [(0, b)])).popPeek 0 0 2
    let good := pop (loadB [.val 4, .val 5])
    let part := pop (loadB [.val 4, .bad 4 0 0])
    let ended (p : List Nat × PopEnd × State) : Nat := match p.2.1 with | .all => 0 | .wait => 1 | .fault _ => 2
    let late : Binding := { loadB with stall := some 0 }
    let b := vec 2 3 1 [(0, loadB)]
    let g := vec 2 3 1 [(0, loadB)] (fun x => { x with gang := some { member := 0 } })
    ([s.me.bindOf 1 == none, s.me.bindOf 3 == none, s.me.first == 1, s.me.last == 3, (b.me.bindOf 1).isSome, b.me.bindOf 3 == none,
      b.me.gang == none, loadB.format == 2, loadB.reads, !loadB.writes, b.me.popped == 0, b.me.pushed == 0, !b.me.sup,
      good.1.length == 2, ended good == 0, part.1.length == 1, ended part == 2, (vec 2 3 1 [(0, storeB)]).me.bindOf 3 == some (0, storeB),
      storeB.kind == 1, !storeB.dead, !storeB.reads, decide (2 ≤ storeB.pushTotal), decide ((0 + 2) * storeB.ewb ≤ 8192),
      decide (8192 ≤ (storeB (List.replicate 2048 0)).unsent.length * 4), g.me.gang.isSome, loadB.format != 0xA, ended (pop loadB) == 1, (pop loadB).1 == [],
      late.stall == some 0, decide (0 + late.wdogNs ≤ 10 ^ 6), decide (st.time < 0 + late.wdogNs)] : List Bool).all id = true := by
  decide +kernel

/-- The streams of these bindings, in FORMAT fmt: a LOAD that has the elements pre, and a STORE; a vector of three positions from 1
on whose register 1, or 3, is bound to it. -/
def srcB (fmt : Nat) (pre : List Elem) : Binding := { loadB pre with img := stream 0 fmt 0x20000 4 8 }
def dstB (fmt : Nat) : Binding := { storeB with img := stream 1 fmt 0x20000 4 3000 }
def srcAt (fmt : Nat) (pre : List Elem) : State := vec (BitVec.ofNat 8 fmt) 3 1 [(0, srcB fmt pre)]
def dstAt (fmt : Nat) : State := vec (BitVec.ofNat 8 fmt) 3 1 [(0, dstB fmt)]
theorem bindOf_other (s : State) (q : Binding) (v : Nat) (h : s.me.e.bind = [(0, q)]) (hv : v ≠ q.vd) : s.me.bindOf v = none := by
  simp [Core.bindOf, h, Ne.symm hv]
/-- A source with all the elements asked for, with some and a fault next, and with none; what its register then holds. -/
theorem wit_StreamSources : ∀ fmt ∈ ([2, 0x0A] : List Nat), ∀ e ∈ ([([.val 4, .val 5], 0x5_00000004_00000001),
      ([.val 4, .bad 4 0 0], 0x3_00000004_00000001), ([], 0x3_00000002_00000001)] : List (List Elem × Nat)),
    let s := srcAt fmt e.1
    s.OneSource 1 0 (srcB fmt e.1) ∧ s.Fills 1 0 (BitVec.ofNat 2048 e.2) ∧ s.me.u.vl.toNat ≤ 2048 / s.me.ew
      ∧ s.me.u.rm < 5 ∧ s.me.u.vtype.toNat / 4 % 8 ≠ 4 := by
  intro fmt hf e he
  refine ⟨⟨?_, fun v hv => bindOf_other _ (srcB fmt e.1) v ?_ (by simpa [srcB, loadB] using hv), ?_⟩, ?_, ?_⟩
  all_goals (simp only [List.mem_cons, List.not_mem_nil, or_false] at hf he; obtain rfl | rfl := hf <;> obtain rfl | rfl | rfl := he <;> (try unfold State.Fills) <;> decide +kernel)
/-- A destination with room. -/
theorem wit_StreamDests : ∀ fmt ∈ ([2, 0x0A] : List Nat),
    let s := dstAt fmt
    s.OneDest 3 0 (dstB fmt) ∧ s.me.u.vl.toNat ≤ 2048 / s.me.ew := by
  intro fmt hf
  refine ⟨⟨?_, fun v hv => bindOf_other _ (dstB fmt) v ?_ (by simpa [dstB, storeB] using hv), ?_⟩, ?_⟩
  all_goals (simp only [List.mem_cons, List.not_mem_nil, or_false] at hf; obtain rfl | rfl := hf <;> decide +kernel)
/-- Loads into a register bound to a STORE, and stores from one bound to a LOAD, that complete: to memory and to typed buffers. -/
theorem wit_StreamAccesses :
    let all (e : RunEnd) : Bool := match e with | .all => true | _ => false
    let s0 := (srcAt 2 [.val 4, .val 5]).fill 1 0 (BitVec.ofNat 2048 0x5_00000004_00000001)
    ([all (loadRun (fun u j => u.elemRead 0 (0x20000 + 4 * j) 4) [1, 2] (dstAt 2) []).2.1,
      all (loadRun (fun u j => u.typedRead 0 0 0 4 j) [1, 2] (dstAt 2) []).2.1,
      all (loadRun (fun u j => u.elemRead 0 (0x20000 + 4 * s0.me.elem 32 1 j) 4) [1, 2] s0 []).2.1,
      all (storeRun (fun u j => u.elemWrite 0 (0x20000 + 4 * j) 4 (s0.me.elem 32 1 j)) [1, 2] s0).1,
      all (storeRun (fun u j => u.typedWrite 0 0 0 4 j (s0.me.elem 32 1 j)) [1, 2] s0).1] : List Bool).all id = true := by decide +kernel

/-- A float format with a rounding mode that exists, and with one that does not; an integer format; f64. -/
theorem wit_VectorFloatResults :
    let s := vec 0x0A 4 0
    let ok (s : State) (rounds no64 : Bool) : Bool :=
      s.me.u.float.isSome && !(rounds && decide (5 ≤ s.me.u.rm)) && !(no64 && s.me.ew == 64)
    let bad := vec 0x0A 4 0 [] (·.updU ({ · with fctl := 5 }))
    ([s.me.bindOf 1 == none, s.me.bindOf 2 == none, s.me.bindOf 3 == none, ok s true false, s.me.u.float.isSome, !ok bad true false, ok bad false false,
      !ok (vec 2 4 0) false false, !ok (vec 0x0B 4 0) true true, ok (vec 0x0B 4 0) true false] : List Bool).all id = true := by
  decide +kernel

/-- An integer format, in which a float compare traps, and the formats in which it does not. -/
theorem wit_VectorCompareResults :
    ([vec 2 3 0, vec 0x0A 3 0, vec 0x10 3 0].map (fun s => decide (s.me.u.vtype.toNat / 4 % 8 < 2))) = [true, false, false]
    ∧ (vec 2 3 0).me.bindOf 1 = none ∧ (vec 2 3 0).me.bindOf 2 = none := by decide +kernel

/-- VIOTA in an integer format, in m8, in a float with a rounding mode that exists and one that does not; VCVT to a wider, an equal
and a narrower format, with a part and a register that are legal and not. -/
theorem wit_MaskIotaAndConvertResults :
    let wid (n : Nat) : Nat := (cvtFmt n).width
    ([(vec 2 3 0).me.u.float.isNone, (vec 0x10 3 0).me.u.float.isNone, (vec 0x10 3 0).me.u.vtype.toNat / 4 % 8 == 4,
      (vec 0x0A 3 0).me.u.float.isSome, decide ((vec 0x0A 3 0).me.u.rm < 5), decide (5 ≤ (vec 0x0A 3 0 [] (·.updU ({ · with fctl := 5 }))).me.u.rm),
      (vec 2 3 0).me.bindOf 3 == none, (vec 2 3 0).me.ew == 32, (List.range 13).any (fun n => wid n == 64), (List.range 13).any (fun n => wid n == 32),
      (List.range 13).any (fun n => wid n == 8), decide (4 % (64 / 32) = 0), decide (5 % (64 / 32) ≠ 0), decide (3 < 32 / 8 ∧ ¬ 4 < 32 / 8)]
      : List Bool).all id = true := by decide +kernel

/-- VL at the capacity of the group and at 0; VSTART 0 and not, and VL above and at it; alone and in a gang. -/
theorem wit_VectorPermutes :
    let s := vec 2 64 0
    let t := vec 2 3 2
    let w : BitVec 32 := 0x12345678
    ([s.me.gang == none, decide (64 ≤ 1 * s.perCore [0]), decide (0 ≤ 1 * s.perCore [0]), (s.leader [0]).u.vstart == 0,
      (t.leader [0]).u.vstart != 0, s.me.bindOf 1 == none, s.me.bindOf 2 == none, s.me.bindOf 3 == none, together (ganged w) w,
      decide (0 ≤ 2 * (ganged w).perCore [0, 1])] : List Bool).all id = true := by decide +kernel
/-- The same for reductions; formats with a sum, with none, and with neither sum nor order. -/
theorem wit_VectorReductions :
    let noSum (s : State) : Bool := s.me.u.vtype.toNat / 4 % 8 == 4 || (s.me.u.float.isSome && decide (5 ≤ s.me.u.rm))
    let rm5 := vec 0x0A 4 0 [] (·.updU ({ · with fctl := 5 }))
    ([decide (64 ≤ 1 * (vec 2 64 0).perCore [0]), !noSum (vec 2 64 0), !noSum (vec 0x0A 4 0), noSum (vec 0x10 4 0), noSum rm5,
      rm5.me.u.vtype.toNat / 4 % 8 != 4, (vec 2 64 0).me.u.float.isNone, (vec 0x0A 4 0).me.u.float.isSome, (vec 2 64 0).me.gang == none]
      : List Bool).all id = true := by decide +kernel

/-- Runs of element loads that complete, wait, and trap at the first or at a later position; an empty one; and those of VLDB. -/
theorem wit_VectorLoads :
    let run (s : State) (a : Nat) := (loadRun (fun u j => u.elemRead 0 (a + 4 * j) 4) [0, 1, 2] s []).2.1
    let kind (e : RunEnd) : Nat := match e with | .all => 0 | .wait _ => 1 | .fault j _ => 2 + j
    let edit := place (vec 2 3 0) [(0x10008, 4, 3)]
    ([kind (run (vec 2 3 0) 0x20000) == 0, kind (run edit 0x300000) == 1, kind (run (vec 2 3 0) 0x300000) == 2,
      kind (run (vec 2 3 0) 0xFFFFC) == 3, fine ((vec 2 3 0).elemRead 0 0x20000 4), traps ((vec 2 3 0).elemRead 0 0x300000 4),
      waits (edit.elemRead 0 0x300000 4), decide (3 ≤ 1 * (vec 2 3 0).perCore [0])] : List Bool).all id = true := by decide +kernel
/-- Runs of element stores, of mask bytes and of typed words that complete, wait and trap. -/
theorem wit_VectorStoresMasksAndTyped :
    let kind (e : RunEnd) : Nat := match e with | .all => 0 | .wait _ => 1 | .fault j _ => 2 + j
    let run (s : State) (a : Nat) := kind (storeRun (fun u j => u.elemWrite 0 (a + 4 * j) 4 7) [0, 1, 2] s).1
    let edit := place (vec 2 3 0) [(0x10008, 4, 3)]
    let typed (a n : Nat) := kind (loadRun (fun u j => u.typedRead 0 a n 4 j) [0, 1] (vec 2 3 0) []).2.1
    ([run (vec 2 3 0) 0x20000 == 0, run edit 0x300000 == 1, run (vec 2 3 0) 0x201000 == 2, run (vec 2 3 0) 0xFFFFC == 3, typed 0 0 == 0,
      typed 0x3FFFC 0 == 3, typed 0x40000 0 == 2, decide (3 ≤ 1 * (vec 2 3 0).perCore [0])] : List Bool).all id = true := by decide +kernel

/-- MFC and MGEO of an 8-bit tile: M rows, K by N; a command with them. -/
def mgeo (m k n : Nat) : Word := BitVec.ofNat 64 (m + k * 2 ^ 12 + n * 2 ^ 21)
def mcmd (kind : MKind) (fin : Bool := false) (tag : Nat := 0) : MCmd :=
  { kind, tag, pitch := 64, mgeo := mgeo 2 1 1, fin }
def engs (f : Eng → Eng) (s : State := st) : State := s.updMe (·.updE f)
/-- A pending fault; contexts and geometries within their limits and beyond; commands that fit and not, with a tag that is legal and
not, and a full queue; banks and rows of each format, and a code of it that is no number; at the head of the queue, one command of each kind, finished or not; a bank that is valid and fits, and
one that fails in each way. -/
theorem wit_MatrixCommands :
    let head (m : MCmd) := engs ({ · with mq := [m] })
    let bank (b : Bank) (s : State := head (mcmd .run)) := s.updCluster 0 ({ · with bank0 := b })
    let good : Bank := { valid := true, kb := 1, nb := 1 }
    let row (s : State) : Nat := match s.rowStep 0 (mcmd .run) with | .ok _ => 0 | .error n => n
    let pois (n : Nat) (s : State) := s.updMe (fun x => { x with typed := { x.typed with pois := [(n, true)] } })
    let two := engs ({ · with graph := [(2, { count := 1, defd := true })] })
    let mg (k n : Nat) : Nat := (mgeo 1 k n).toNat
    let fmts : List (Nat × BitVec 64 × Nat) := [(1, 0x10000001, 0x80), (2, 0x10000002, 0x7F80), (3, 0x10000003, 0x7F800000), (4, 0x20000004, 0x7FF0000000000000)]
    let run (f : Nat × BitVec 64 × Nat) : MCmd := { mcmd .run with mfc := f.2.1 }
    let floats (f : Nat × BitVec 64 × Nat) : State := bank { good with bfmt := f.1 } (head (run f))
    let codes (f : Nat × BitVec 64 × Nat) (c : Nat) : Option ℚ := (if f.1 = 1 then m8Decode 0 c else ([bf16, f32].getD (f.1 - 2) f64).decode c).num
    (∀ f ∈ fmts, (run f).ctx.afmt = f.1 ∧ (floats f).rowGrant 0 = some (0, run f) ∧ (match (floats f).rowStep 0 (run f) with | .ok _ => true | .error _ => false) = true ∧ (run f).ctx.k = 1 ∧ (run f).ctx.n = 1
      ∧ (floats f).me.typed.isPois 1 true 0 (run f).ctx.eb = false ∧ (floats f).me.typed.isPois 2 true 0 (run f).ctx.cb = false
      ∧ (head { run f with kind := .loadb }).bankTurn 0 { run f with kind := .loadb } = true ∧ codes f 0 ≠ none ∧ codes f f.2.2 = none)
    ∧ ([(engs ({ · with mfault := some 3 })).me.pendingFault == some 3, st.me.pendingFault == none,
      MCtx.mfcOk ⟨0, 0⟩, MCtx.mfcOk ⟨0x10000004 + 0x10000000, 0⟩, !MCtx.mfcOk ⟨5, 0⟩, !MCtx.mfcOk ⟨0x10, 0⟩,
      decide (mg 256 256 / 2 ^ 12 % 512 ≤ 256 ∧ mg 256 256 / 2 ^ 21 % 512 ≤ 256), decide (¬ mg 257 1 / 2 ^ 12 % 512 ≤ 256),
      st.me.e.tagOk 0, !st.me.e.tagOk 2, two.me.e.tagOk 2, decide (st.me.e.mq.length < 8),
      decide (8 ≤ (engs ({ · with mq := List.replicate 8 (mcmd .swap) })).me.e.mq.length),
      (head (mcmd .loadb)).bankTurn 0 (mcmd .loadb), (head (mcmd .swap)).bankTurn 0 (mcmd .swap), (head (mcmd .clr)).me.e.mq == [mcmd .clr],
      !two.me.e.heldTag 0, two.me.e.heldTag 2, !(head (mcmd .loadb)).me.typed.isPois 0 true 0 1, (pois 0 (head (mcmd .loadb))).me.typed.isPois 0 true 0 1,
      (bank good).rowGrant 0 == some (0, mcmd .run), row (bank good) == 0, row (bank {}) == 1, row (bank { good with bfmt := 1 }) == 2,
      row (bank { good with kb := 2 }) == 3, row (pois (2 ^ 20) (bank good)) == 4, row (pois (2 ^ 21) (bank good)) == 4,
      (bank good).me.typed.isPois 1 true 0 1 == false, decide ((mcmd .run).next + 1 < (mcmd .run).ctx.m),
      decide (¬ (1 : Nat) + 1 < (mcmd .run).ctx.m), (head (mcmd .swap true)).me.e.mq == [mcmd .swap true],
      (head (mcmd .swap true 3)).me.e.mq == [mcmd .swap true 3]] : List Bool).all id = true := by decide +kernel

/-- A copy of n bytes from row 0 of C to the back of A, and one over DVAs. -/
def copyCmd (n : Nat) (src dst : Nat) (started : Bool := true) (adm : Nat := 0) (fin : Bool := false) : CCmd :=
  { kind := .cpy, tag := 0, src := BitVec.ofNat 64 src, dst := BitVec.ofNat 64 dst, geo := { len := n, n1 := 1, n2 := 1 }, started, adm, fin }
def tc : Nat := 0xFE * 2 ^ 56 + 2 * 2 ^ 20 + 2 ^ 22
def ta : Nat := 0xFE * 2 ^ 56 + 2 ^ 20 + 2 ^ 22
/-- CPCFG with 0, 1 and 2; commands that fit, and with a size, an address, a mask or a tag beyond its limit, and a full queue; an
empty queue and not; a copy that starts, that asks for its piece within a die and across dies, that moves its bytes, with a
fault and without, that completes, and one between typed buffers; PUBL; pieces with credits for them and not. -/
theorem wit_CopyCommands :
    let q (c : CCmd) := engs ({ · with cq := [c] })
    let near := copyCmd 64 tc ta
    let far := copyCmd 64 0x20000 0x21000
    let ok (c : CCmd) : Nat := match ((q c).copyAll 0 c none).1 with | .ok => 0 | .wait => 1 | .bad n _ => n + 1
    let side (a : Nat) (d : Bool) (n : Nat) : Bool := st.typedSideOk 0 a d { len := n, n1 := 1, n2 := 1 } 0 0
    let p : Piece := ⟨0, 0, 1, [512], .copyCompletion 0, false⟩
    let publ : CCmd := { kind := .publ, tag := 0, mask := 0x101, started := true }
    let holds (n : Nat) : Bool := st.holdsCredits 0 { p with flits := n }
    ([decide (1 < 2 ∧ 2 ≤ (2 : Nat)), st.me.pendingFault == none, side tc false 64, side ta true 64, !side tc true 64, !side ta false 64,
      !side tc false 66, decide (2 ^ 34 - 1 < 2 ^ 34), decide (¬ 65536 < 2 ^ 16), st.me.e.tagOk 0, !st.me.e.tagOk 2, decide (st.me.e.cq.length < 16),
      decide (16 ≤ (engs ({ · with cq := List.replicate 16 near })).me.e.cq.length), st.me.e.cq == [], (q near).me.e.cq != [],
      (q (copyCmd 64 tc ta false)).me.e.nextCopy == some (copyCmd 64 tc ta false), (q far).me.executing == some far, decide (far.adm < far.pieces),
      near.pieces == 0, decide (far.pieces ≤ (copyCmd 64 0x20000 0x21000 true 1).adm), (st.pieceAt 0 far 0).2 != [],
      (st.pieceAt 0 (copyCmd 64 tc 0x300000) 0).2 == [], ok near == 0, ok far == 0, ok (copyCmd 64 0x300000 ta) != 0,
      !(q (copyCmd 64 tc ta true 0 true)).awaitsAnswer 0, (q publ).me.executing == some publ, holds 8854166, !holds 8854167,
      (st.updDie 0 ({ · with waiting := [p] })).dieAt 0 != {}, (st.dieAt 0).waiting == []] : List Bool).all id = true := by decide +kernel

/-- Core 0 with one binding in place 0. -/
def bound (b : Binding) (f : State → State := id) : State := f (vec 2 3 1 [(0, b)])
/-- SBIND of a LOAD record at 0x20000 that binds, of one that is BOUND, one beyond the limits, one that is poisoned and one behind
a link out of service; of an address that is not aligned; of a register that is bound, of a fifth, and in a gang. A binding that
synchronises. GDEF, GWAIT and GQRY of nodes that are legal, done and busy, and not; with a pending fault and none. -/
theorem wit_StreamsAndGraph_instructions :
    let at_ (r : BitVec 512) (f : State → State := id) : State := f (place (regs [(1, 0x20000), (2, 0x20004)]) [(0x20000, 64, r.toNat)])
    let load := stream 0 2 0x21000 4 8
    let s1 (s : State) := left (s.xlat 0 0x20000 .read false s.me.sup)
    let s2 (s : State) := left ((s1 s).flushLine 0 0x800)
    let reads (s : State) : Bool := fine (s.xlat 0 0x20000 .read false s.me.sup) && fine ((s1 s).flushLine 0 0x800)
    let q (s : State) : Binding := { addr := 0x20000, pa := 0x20000, img := BitVec.ofNat 512 ((s2 s).homeRead 0x20000 64), vd := 1 }
    let good := at_ load
    let used := at_ (load ||| 0x80000000#512)
    let bad := at_ (stream 0 2 0x21000 4 0)
    let pois := at_ load (fun s => { s with pois := [(0x8000, true)] })
    let dead := at_ load (fun s => { s with mute := [(0, 0x800)] })
    let four := vec 2 3 1 ((List.range 4).map (fun i => (i, let b : Binding := { loadB with vd := i + 4 }; b)))
    let gang := st.updMe (fun x => { x with gang := some { member := 0 } })
    let flt := engs ({ · with mfault := some 3 })
    let node (n : GNode) := engs ({ · with graph := [(3, n)] })
    ([(good.rg 1).toNat % 64 == 0, (good.rg 2).toNat % 64 != 0, good.me.pendingFault == none, good.me.bindOf 1 == none,
      (good.liveBinds 0).length == 0, good.me.gang == none, reads good, !(s2 good).homePois 0x20000 64, !(s2 good).cutOff 0 0x20000,
      (q good).img == load, !(q good).img.getLsbD 31, (q good).limitsOk 0 0, !(q good).collective, (s2 good).moves == [],
      fine ((s2 good).bindRecord 0 (q good)), reads used, (q used).img.getLsbD 31, reads bad, !(q bad).limitsOk 0 0, reads pois,
      (s2 pois).homePois 0x20000 64, reads dead, (s2 dead).cutOff 0 0x20000, (bound loadB).me.bindOf 1 == some (0, loadB),
      loadB.addr == 0x30000, (four.liveBinds 0).length == 4, four.me.bindOf 1 == none, gang.me.gang.isSome,
      fine ((bound loadB).syncBind 0 0), fine ((bound storeB).syncBind 0 0),
      !(node { defd := true, held := true }).me.e.nodeBusy 4, (engs ({ · with mq := [mcmd .swap false 3] })).me.e.nodeBusy 3,
      st.me.gwaitDone 0, (node { defd := true, done := true }).me.gwaitDone 3, !(node { defd := true }).me.gwaitDone 3,
      (st.acquire 0 255 0).me.pendingFault == none, flt.me.pendingFault == some 3, (flt.acquire 0 255 0).me.pendingFault == some 3]
      : List Bool).all id = true := by decide +kernel
/-- The Sluice's steps. A core that is halted and one that runs; a LOAD with nothing ready, whose next element is a load that
completes, with elements ready, and at its end; a STORE; a SEND with a whole chunk and a partial one, and a peer that pairs with a
full ring, and that does not pair; a collective with a whole chunk, for an instance that is open, and with a partial one; a binding that
waits too long; a quorum collective with an arrival that its open join counts. Instances for SLOT, with a free slot of the own share, a
free one of the pool, and of records of other packages alone; and one that is over. -/
theorem wit_StreamsAndGraph_steps :
    let one : Binding := { loadB with img := stream 0 2 0x20000 4 8 ||| (1#512 <<< 464) }
    let flies (e : Event) (s : State) : State := s.updDie 0 ({ · with flying := [⟨0, 0, 1, [512], e, false⟩] })
    let go := (flies (.streamPrefetch 0 0) (bound one)).admitElems 0 0 0 1 .read (.streamPrefetch 0 0)
    let got := go.2.load 0 (one.elemAddr 0) 4 false false
    let send (l : List Nat) : Binding := { storeB with img := stream 5 2 0x21000 4 8 0x22000 1, unsent := l }
    let ring (back count : Nat) : State := place (bound { send [7] with count := count })
      [(0x22000, 8, 0x22100), (0x22100, 64, (stream 6 2 0x23000 4 4 0x22200 1).toNat), (0x22200, 8, back)]
    let pair (s : State) : Option Bool := match s.pairWith 0 0 6 1 0 0 with
      | .ok (some (rp, r)) u => some (decide (r.len0 < (5 - 1 + 1 + 2 ^ 32 - u.homeRead (rp + 0x30) 4 % 2 ^ 32) % 2 ^ 32))
      | .ok none _ => some false
      | _ => none
    let coll : Binding := { loadB with img := stream 3 2 0x20000 4 8 0x22000 2 ||| 0x10000#512, anchor := 0x40000, unsent := [7] }
    let inst : Inst := { img := coll.img, peers := [0x30000, 0x31000], alg := .endpoint, pkgs := [0] }
    let c (b : Binding) (i : Inst) : State := bound b (fun s => { s with insts := [(0x40000, i)] })
    let quorum : Binding := { coll with rank := 1, img := coll.img ||| (1#512 <<< 24) ||| (BitVec.ofNat 512 (2 ^ 18 * 2 ^ 32) <<< 320) }
    let qs : State := { c quorum inst with joins := [(0, join0)] }
    let wait : State := { bound { loadB with stall := some 0 } with time := 10 ^ 6 }
    let share : State := { c coll inst with parts := [(0, some { x0 := 0, y0 := 0, w := 16, h := 20, slots := 1 })] }
    let ended : Inst := { inst with done := [(0, true), (1, true)], alg := .slot }
    let busy : State := { c coll inst with slotUse := [(1, 256)] }
    let ringing : State := { st with pending := [(0, { owner := 3, waiters := [.ring 0x22100] })] }
    ([(st.updMe ({ · with stage := .halted })).me.stage == .halted, ((bound one).bindAt 0 0).used, (bound one).me.stage != .halted,
      one.kind == 0, one.pre == [], one.depth == 1, decide (one.count < one.popTotal), go.1, fine got, (left got).bindAt 0 0 == one,
      (let b : Binding := loadB [.val 4, .val 5]; b.pre == [4, 5].map Elem.val && decide (2 ≤ [4, 5].length)),
      (let b : Binding := { loadB [.val 4] with count := 7 }; decide (b.popTotal = b.count + 1)), (storeB [5]).kind == 1,
      (send [7]).kind == 5, decide ((send [7]).chunk ≤ 1), decide (([] : List Nat).length < (send []).chunk), !(send [7]).dead,
      pair (ring 0x30000 5) == some true, pair (ring 0x30040 5) == some false, coll.collective, decide (1 ≤ coll.chunk ∧ coll.chunk ≤ 1),
      ((flies (.sendChunk 0 0) (c coll inst)).admission 0 0 (piecesOf 4) ((c coll inst).spanLinks 0 true [(c coll inst).homeNode 0x40000]) (.sendChunk 0 0)).1,
      (c coll inst).instOf 0 0 == some inst, inst.kind != 7, wait.me.stage == .run, (wait.stallTrap 0 0).isSome, wait.me.stalled,
      !coll.isJoin, !(c coll inst).reqDown 0 0x40000, decide (coll.chunk ≤ coll.unsent.length),
      ringing.awaited (.ring 0x22100), !st.awaited (.ring 0x22100), decide ((c quorum inst).instOf 0 0 = some inst),
      Store.get false ({ inst with came := [(1, true)] } : Inst).came 1, !Store.get false inst.came 1, decide (256 ≤ busy.sharedSlots + busy.reservedSlots), !busy.ownShare 0,
      quorum.isJoin, qs.instOf 0 0 == some inst, !inst.fault, (qs.joinNamed quorum.joinid).map (fun j => j.status 1) == some 0,
      st.moves == [], st.waiters == [], (c coll inst).instAt 0x40000 == some inst, (c coll inst).pkg == 0,
      share.ownShare 0, !(c coll inst).ownShare 0, decide ((c coll inst).sharedSlots + (c coll inst).reservedSlots < 256),
      (c coll inst).rivals 0x40000 == [], (c coll { inst with pkgs := [] }).instAt 0x40000 == some { inst with pkgs := [] },
      (c coll ended).instRaw 0x40000 == some ended, ended.closed] : List Bool).all id = true := by decide +kernel

/-- With no move in hand and no waiter, every span of memory is quiet. -/
theorem wit_quietSpan (s : State) (h : s.moves = []) (g : s.waiters = []) (a n : Nat) : s.quietSpan a n := by
  simp [State.quietSpan, h, g]

/-- QTAIL written up to the last place and beyond it, forwards, by nothing and back; a queue that is enabled and not; a live
function; a mailbox that is busy and idle; a halted core; addresses within a decoder, beside all of them and package-local; bytes in
device memory and beyond it, over a route in service and not; a range's words that are not poisoned; a relay; the walks
of a transaction without reply, and of an address that may only be fetched from. -/
theorem wit_HostAndPeerAccesses :
    let q : Queue := { qlog := 4, qhead := 14, qtail := 2 }
    let s : State := { st with queues := [(5 * 16, q)] }
    let ahead (i : Nat) : Int := ((i : Int) - (q.qhead : Int)) % (2 ^ q.qlog : Int)
    let halt := st.updMe ({ · with stage := .halted })
    let dec : State := { st with hdm := [(0, { base := 0x1000, len := 0x1000, loc := 0x20000 })] }
    let covers (i a : Nat) : Bool := let d : Hdm := Store.get {} dec.hdm i; decide (d.base ≤ a ∧ a < d.base + d.len)
    -- a command of function 5 at this TIME, beside one of function 9 of the same cycle
    let commands : Bool :=
      let two := (st.updMbox 9 (fun m => { m with busy := true, since := 0 })).post (.createVdev 9)
      (commandOf 5 1 0).isSome && two.sched.all (fun e => e.commandFn == some 9) && decide ((two.mboxAt 9).since = two.time)
    let cut : State := { st with linksDown := (List.range 16).map (fun x => (x, 2, 1)) ++ (List.range 16).map (fun x => (x, 2, 3))
      ++ [(0, 2, 0), (0, 2, 2)] }
    ([s.queueAt 5 0 == q, decide (16 ≤ (16 : Nat)), decide (¬ 16 ≤ (15 : Nat)), decide (ahead 13 = 15 ∧ ahead 2 = 4 ∧ ahead 14 = 0),
      decide (ahead 14 < ahead q.qtail), decide (ahead q.qtail ≤ ahead q.qtail), decide (ahead q.qtail ≤ ahead 13),
      (s.vdevAt 5).part == some 0, (s.vdevAt 5).live, !(s.mboxAt 5).busy, (st.updMbox 5 ({ · with busy := true })).mboxAt 5 != {},
      (commandOf 5 1 0).isSome, commandOf 5 0 0 == none, st.pkgCore 0 == some 0, halt.me.stage == .halted, decide (0x20000 < 2 ^ 62),
      covers 0 0x1000, covers 0 0x1FFF, !covers 0 0x2000, !covers 0 0xFFF, (List.range 8).all (fun i => !covers i 0x2000),
      dec.hostLocal 0 (2 ^ 62 + 0x1FFF) == some 0x20FFF, dec.hostLocal 0 (2 ^ 62 + 0x2000) == none, dec.hostLocal 1 0x20000 == some 0x20000,
      st.localSpan 0x20000 128, !st.localSpan (2 ^ 44 - 1) 2, !st.localSpan (36 * 160 * 2 ^ 30 - 1) 2, st.linksDown == [], st.moves == [], st.waiters == [],
      decide (0x20000 % 64 + 64 ≤ 64), cut.routeDown (portNode 0) (cut.lineNode 0x20000), st.fw.loaded == none, !st.homePois 0x20000 8,
      st.localSpan (0x20000 % 2 ^ 44) 8, st.relay == none, decide (q.qhead < 2 ^ 16), decide (1024 / 1024 = 1 ∧ paPkg (2 ^ 44 * 2048) / 1024 = 2),
      (({ st with relay := some (1, 2) } : State).relay == some (1, 2)), commands, fine (st.xlat 0 0x20000 .read true false), traps (st.xlat 0 0x300000 .read true false),
      st.ownPa 0x20000] : List Bool).all id = true := by decide +kernel

/-- The mailbox of fn busy with a command, its ARG from fields. -/
def mail (fn opc : Nat) (arg : List (Nat × Nat × Nat)) (s : State := st) : State :=
  let n := record arg
  s.updMbox fn ({ · with busy := true, opc, cmd := (List.range 96).map (fun i => (i, BitVec.ofNat 8 (n / 256 ^ i))) })
/-- Whether the mailbox's fields are as asked. -/
def argIs (s : State) (fn : Nat) (l : List (Nat × Nat × Nat × Nat)) : Bool :=
  l.all (fun e => (s.mboxAt fn).argBits e.1 e.2.1 e.2.2.1 == e.2.2.2)
/-- A free device on which nothing runs. -/
def calm : State := { st with launches := [], wisps := [], cores := [] }
def due : State := { st with deadlines := [{ isPart := false, target := 5, t := 9, t0 := 0, fns := [] }] }

/-- Commands 1, 2, 3, 13 and 14: a mailbox that is idle; spans that hold, that are not aligned and that lie outside memory; functions that
may and may not; fields in range and out of it; devices that are live and not, in a launch and not, under a deadline. -/
theorem wit_MailboxCommands_devices :
    let table (n p : Nat) := mail 0 n [(0, 0, p), (8, 0, 64)]
    let log (p more : Nat) : State := { mail 0 14 [(8, 0, 2 + more * 2 ^ 16), (0x10, 0, p)] with log := [⟨0, 0, 1, 5, 0, 0⟩], logSeq := 1 }
    let make (fn f p share : Nat) := mail fn 2 [(0, 0, f), (0, 8, p), (0, 16, share), (0, 32, 8), (0, 48, 4), (0x10, 0, 256), (0x18, 0, 0x100000),
      (0x20, 0, 0x200000), (0x48, 0, 0x40000)]
    let bad (s : State) : Bool := s.badVdev (s.mboxAt 0)
    ([!(st.mboxAt 0).busy, ((table 1 0).mboxAt 0).opc == 1, (st.argSpan 0x40000 64), !(st.argSpan 0x40001 64), !(st.argSpan (2 ^ 44) 64),
      argIs (table 1 0x40000) 0 [(0, 63, 0, 0x40000), (8, 63, 0, 64)], argIs (table 13 0x40001) 0 [(0, 63, 0, 0x40001)],
      argIs (log 0x40000 0) 0 [(8, 63, 16, 0), (8, 15, 0, 2), (0x10, 63, 0, 0x40000)], argIs (log 0x40000 1) 0 [(8, 63, 16, 1)],
      ((log 0 0).log.filter (fun e => (0 < 2 || e.device == 0) && decide (0 ≤ e.seq))).length == 1, decide (¬ 3 < 2),
      !bad (make 0 6 0 1), bad (make 0 98 0 1), bad (make 0 6 0 0), bad (make 0 6 9 1), !bad (make 0 6 63 1), !bad (make 0 5 0 1),
      argIs (make 0 6 0 1) 0 [(0, 6, 0, 6), (0, 13, 8, 0), (0, 47, 32, 8), (0, 63, 48, 4)], (make 0 5 0 1).vdevAt 5 == st.vdevAt 5,
      (st.vdevAt 5).live, !(st.vdevAt 6).live, st.asnFree 6 0 8 4, st.waiters == [], argIs (mail 0 3 [(0, 0, 5)]) 0 [(0, 63, 8, 0), (0, 7, 0, 5)],
      argIs (mail 0 3 [(0, 0, 5), (0, 8, 1)]) 0 [(0, 63, 8, 1)], due.underDeadline 5, !st.underDeadline 5, st.launchesOf 5 none != [],
      calm.launchesOf 5 none == [], !calm.locked 5] : List Bool).all id = true := by decide +kernel

/-- Commands 4, 5 and 6: as before; a bind record that is valid, of a device under a deadline, and none; a partition, and none; queues that
are bound already, and free; a deadline in force and none, of a device and of a partition. -/
theorem wit_MailboxCommands_binds :
    let bind (v : Nat) := mail 0 4 [(0, 0, 4), (8, 0, v)]
    let v := 1 + 5 * 2 ^ 8 + 3 * 2 ^ 16 + 7 * 2 ^ 40
    let old : Bind := { valid := true, vdev := 5, qmask := 1, part := 0, share := 1 }
    let had : State := { bind v with binds := [(4, old)] }
    let clash : State := { bind v with binds := [(7, old)] }
    let free (s : State) : Bool := s.binds.all (fun e => e.1 == 4 || !e.2.valid || e.2.vdev != 5 || e.2.qmask &&& 3 == 0)
    let post (n t : Nat) := mail 0 6 [(0, 0, n), (8, 0, t)]
    ([argIs (mail 0 5 [(0, 0, 5), (0, 8, 3)]) 0 [(0, 63, 16, 0), (0, 15, 8, 3), (0, 7, 0, 5)], argIs (mail 0 5 [(0, 0, 5)]) 0 [(0, 15, 8, 0)],
      !st.locked 5, argIs (bind v) 0 [(0, 63, 8, 0), (8, 7, 1, 0), (8, 39, 38, 0), (8, 63, 51, 0), (0x10, 63, 32, 0), (8, 0, 0, 1), (8, 15, 8, 5),
        (8, 31, 16, 3), (8, 37, 32, 0), (8, 47, 40, 7)], argIs (bind 2) 0 [(8, 7, 1, 1)], argIs (bind 0) 0 [(8, 0, 0, 0)],
      (Store.get ({} : Bind) (bind v).binds 4).valid == false, (Store.get ({} : Bind) had.binds 4).valid, !had.underDeadline 5, !had.locked 5,
      due.underDeadline old.vdev, (st.partAt 0).isSome, (st.partAt 1).isNone, (st.vdevAt 5).part == some 0, free (bind v), free had, !free clash,
      argIs (post (5 * 2 ^ 8) 9) 0 [(0, 0, 0, 0), (0, 15, 8, 5), (0, 7, 1, 0), (0, 63, 16, 0), (8, 63, 0, 9)], argIs (post 1 9) 0 [(0, 0, 0, 1), (0, 15, 8, 0)],
      argIs (post (1 + 3 * 2 ^ 8) 9) 0 [(0, 0, 0, 1), (0, 15, 8, 3)], (st.partAt 3).isNone, argIs (post 2 0) 0 [(0, 7, 1, 1)], (st.deadlineAt false 5).isNone,
      (st.deadlineAt true 0).isNone, (due.deadlineAt false 5).isSome, (due.deadlineAt true 5).isNone] : List Bool).all id = true := by decide +kernel

/-- Commands 7 to 12: a layout of the whole grid, one that is too low, one beside it with another layout in hand, and a descriptor with a
reserved bit; a reset of each rung, and of rung 5; a device that is live, and one in a launch; an image at its offset, of another grade, and
none; the measurements; each state of an interface. -/
theorem wit_MailboxCommands_layouts :
    let descr (n : Nat) := place (mail 0 7 [(0, 0, 1), (8, 0, 0x40000)]) [(0x40000, 8, 16 * 2 ^ 9 + n)]
    let l (s : State) : List (Nat × Part) := (List.range 1).map (fun i => (i, (s.descriptor 0x40000 i).1))
    let good := descr (20 * 2 ^ 14)
    let low := descr (3 * 2 ^ 14)
    let res := descr (20 * 2 ^ 14 + 2 ^ 31)
    let rung (n : Nat) := mail 0 8 [(0, 0, n), (0, 8, 5)]
    let image (g : Nat) : Image := ⟨0, false, 0x80, { vdev := 5 }, 3, [], [], [], 0, g, List.replicate 160 64⟩
    let saved (g o : Nat) : State := { mail 0 10 [(0, 0, 5), (8, 0, o)] calm with images := [image g] }
    ([argIs good 0 [(0, 63, 6, 0), (0, 5, 0, 1), (8, 63, 0, 0x40000)], st.argSpan 0x40000 32, good.layoutOk (l good), !low.layoutOk (l low),
      (good.descriptor 0x40000 0).2, !(res.descriptor 0x40000 0).2, res.layoutOk (l res), good.layout == none, good.affected (l good) == [],
      good.deadlines == [], low.affected (l low) == [0], argIs (rung 3) 0 [(0, 2, 0, 3), (0, 15, 8, 5), (0, 7, 3, 0), (0, 63, 20, 0)],
      argIs (rung 4) 0 [(0, 2, 0, 4)], argIs (rung 5) 0 [(0, 2, 0, 5)], argIs (rung 0) 0 [(0, 2, 0, 0)], (st.partAt 5).isNone,
      argIs (mail 0 9 [(0, 0, 5)]) 0 [(0, 63, 8, 0), (0, 7, 0, 5)], argIs (saved 0 0x80) 0 [(8, 63, 0, 0x80)], (saved 0 0x80).batchAt 5 0x80 == [image 0],
      (saved 0 0x40).batchAt 5 0x40 == [], (saved 0 0x80).launchesOf 5 none == [], (saved 0 0x80).ovfUsed 5 == 0, !(saved 0 0x80).underDeadline 5,
      (image 0).grade == calm.fuse.grade, (image 1).grade != calm.fuse.grade,
      (image 0).dies == ((saved 0 0x80).partDies 0).map (fun d => (calm.liveCores d).length),
      argIs (mail 0 11 [(3, 0, 5)]) 0 [(0, 31, 24, 5)], calm.tdispOf 5 == .unlocked, (calm.setTdisp 5 .locked).tdispOf 5 == .locked,
      calm.lockable 5, !(calm.setTdisp 5 .locked).lockable 5] : List Bool).all id = true := by decide +kernel

/-- Interfaces in each state, of a device that has launches and none; a session that is established. -/
theorem wit_IdentityAndInterfaces :
    let l (t : Tdisp) := calm.setTdisp 5 t
    let s : State := { st with spdmSession := [(5, 2)] }
    ([!calm.locked 5, (l .locked).locked 5, (l .run).locked 5, (l .locked).launchesOf 5 none == [], (l .locked).resets == [],
      (l .locked).waiters == [], calm.tdispOf 5 == .unlocked, (l .error).tdispOf 5 != .unlocked, calm.lockable 5,
      Store.get 0 s.spdmSession 5 == 2, Store.get 0 st.spdmSession 5 == 0] : List Bool).all id = true := by decide +kernel

/-- Wisps of launch 1, whose record is r, beside wisp 0 on core 0. -/
def launch1 (r : Nat) (ws : List (Nat × Wisp)) (l : Launch → Launch := id) (s : State := st) : State :=
  { s with launches := [(1, l { vdev := 5, group := 1, img := BitVec.ofNat 1024 r })]
           wisps := s.wisps ++ ws.map (fun e => (wkey 1 e.1, let w : Wisp := { e.2 with launch := 1, index := e.1 }; w)) }
def four : Nat := launchRec [(0x10, 0, 3)]

def queued (r turn : Nat) : State :=
  { place calm [(0x30000, 128, r)] with
    queues := [(5 * 16, { qen := true, qtail := 1, qbase := 0x30000 })], turn := [(0, turn)]
    binds := [(4, { valid := true, vdev := 5, qmask := 1, part := 0, share := 1 })] }
def begun (s : State) : State := let u := s.idleDeficits 0; if u.turnOf 0 = 0 then State.passTurn 4096 u 0 0 else u
def headOf (s : State) : Option (Nat × Nat) × Nat × Nat :=
  (topQueue ((begun s).eligible 5), (begun s).checkRecord ((begun s).headRecord 5 0) none, (begun s).turnOf 0)
theorem wit_LaunchesReachTheDies_turn : headOf (queued launchRec 6) = (some (0, 0), 0, 6) := by decide +kernel
theorem wit_LaunchesReachTheDies_begun : headOf (queued launchRec 0) = (some (0, 0), 0, 6) := by decide +kernel
theorem wit_LaunchesReachTheDies_malformed : headOf (queued (launchRec [(0, 0, 1)]) 6) = (some (0, 0), 1, 6) := by decide +kernel
/-- A partition that is expanding and not; the turn's device with a record at its queue's head that becomes a launch, and one that is
rejected; a launch that is paused, decided and wholly placed, and none of these, with a die for its next wisp; a wisp that
arrives; a paused launch with room and without; overflow records that return, and that are new, with room for them; a held wisp with a
seat. -/
theorem wit_LaunchesReachTheDies :
    let wide := launch1 four [] ({ · with dieMask := 3 })
    let moving := launch1 four [(1, { loc := .moving 0 })]
    let paused := launch1 four [] ({ · with dieMask := 3, paused := true })
    let back := launch1 four [(1, { loc := .ovfBack 0, entered := 2 }), (2, { loc := .ovfBack 1, entered := 1 })]
    let new := launch1 four [(1, { loc := .ovfNew })] ({ · with dieMask := 2 })
    let held := st.updMe ({ · with stage := .held })
    let oldest (s : State) (b : Bool) : Option Nat := (s.oldestOvf 5 (fun w => w.loc.isBack == b)).map Wisp.index
    let w (i : Nat) := back.wispAt (wkey 1 i)
    ([wide.expanding 0, !st.expanding 0, decide ((st.launchAt 1).count ≤ (st.launchAt 1).next), (paused.launchAt 1).paused,
      !({ decision := .discard } : Launch).dispensed, !(wide.launchAt 1).paused, (wide.launchAt 1).dispensed,
      decide ((wide.launchAt 1).next < (wide.launchAt 1).count), wide.bestDie (wide.allowedDies (wide.launchAt 1)) == some 0, st.bestDie [] == none,
      (moving.wispAt (wkey 1 1)).loc == .moving 0, (moving.launchAt 1).pmode == 0, decide (1 < (moving.launchAt 1).count),
      moving.joinNamed (ctxId (moving.wispAt (wkey 1 1)).join) == none, oldest back true == some 2, back.backUnit (w 2) == [wkey 1 2],
      back.backDie (w 2) 1 == some 1, decide (1 ≤ 4096 - back.poolUsed 1), back.backUnit (w 1) == [wkey 1 1], back.backDie (w 1) 1 == some 0, oldest new true == none, oldest new false == some 1,
      (new.launchAt 1).pmode == 0, new.newDie (new.wispAt (wkey 1 1)) == some 1, st.me.stage != .held, held.me.stage == .held,
      held.me.wisp == some (1, 0), held.seat 0 == some (.pool 0), held.me.kill == none, (held.wispAt (wkey 1 0)).launch == 1,
      (held.updMe ({ · with kill := some (5, 2) })).seat 0 == some (.pool 0), (held.updMe ({ · with kill := some (5, 2) })).me.kill == some (5, 2),
      held.waiters == [], (st.dieAt 0).report == none, (st.updDie 0 ({ · with report := some ⟨3, 4, 1⟩ })).dieAt 0 != {}] : List Bool).all id = true := by decide +kernel

/-- An idle core with no wisp, with one that has not run, and with one that has and whose registers are restored; a wisp that has waited
for 10 ms and less; a group that awaits a cluster, that has none, and that can start; a wisp that is suspended, off core and on it; a
resume that is kept; gangs whose members have all issued; a WFI whose time is reached. -/
theorem wit_CoresTakeWisps :
    let idle (r : Nat) (ws : List (Nat × Wisp)) (l : Launch → Launch := id) : State :=
      launch1 r ws l { st with cores := [(0, { st.coreAt 0 with wisp := none, stage := .idle })], wisps := [], turn := [(0, 6)] }
    let none_ := idle four []
    let new := idle four [(1, { loc := .pool 0 })]
    let ran := idle four [(1, { loc := .pool 0, started := true, waitOn := .woken 7 4 (some 2) })]
    let wait (o : WaitOn) (l : Loc) := idle four [(1, { loc := l, st := 1, reason := 1, waitOn := o })]
    let on := launch1 four [] id (st.updMe ({ · with stage := .wait, waitOn := .suspend 0 }))
    let group := idle (launchRec [(0x10, 0, 1), (0x18, 32, 1), (0x28, 0, 3)]) [(0, { loc := .pool 0 }), (1, { loc := .pool 0, since := 1 })] ({ · with group := 4 })
    let start := group.updDie 0 ({ · with resv := [(0, 1)], resvLaunch := [(0, 1)] })
    let pool : Wisp := { loc := .pool 0 }
    let wfi : State := { st.updMe ({ · with stage := .wait, waitOn := .wfi 4 9 false false }) with time := 9 }
    let gang := (launch1 (launchRec [(0x18, 32, 0)]) []).updMe (fun x => { x with gang := some { member := 0, issued := some 0 } })
    let k := wkey 1 1
    ([none_.me.stage == .idle, none_.pickFor 0 == none, new.me.stage == .idle, new.pickFor 0 == some k, !(new.wispAt k).started, ran.me.stage == .idle,
      ran.pickFor 0 == some k, (ran.wispAt k).started, (ran.resumeOn 0 k).isSome,
      ({ new with time := 10 ^ 7 }).time == (new.wispAt k).readyAt + 10 ^ 7, (new.wispAt k).st == 0, decide ((new.wispAt k).eff < 7), (pool).loc.coreOf.isNone,
      (group.oldestReady 0).map (fun w => (w.index, group.awaitsGroup w, w.cluster)) == some (0, true, none),
      (group.bestCluster ((group.liveClusters 0).filter (fun k => (group.clusterCores k).length == 4 && !group.reservedCluster k))) == some 0,
      (new.oldestReady 0).map (fun w => (w.index, new.awaitsGroup w)) == some (1, false), start.reservation 0 == some (1, 0), start.groupCanStart 0,
      (start.groupReady 0 1 0).map Prod.fst == [wkey 1 0, k], (start.idleIn 0).length == 4, !(start.wispAt k).started, !st.groupCanStart 0,
      !new.suspended k, (wait (.suspend 0) (.pool 0)).suspended k, (wait (.suspend 0) (.pool 0)).wispAt k != pool, on.suspended (wkey 1 0),
      (on.wispAt (wkey 1 0)).loc == .core 0, on.me.stage == .wait, gang.me.stage == .run, (gang.gangCores 0).length == gang.gangSize 0,
      (gang.gangCores 0).all (fun c => ((gang.coreAt c).gang.bind Gang.issued).isSome), wfi.me.waitOn == .wfi 4 9 false false, decide (9 ≤ wfi.time)]
      : List Bool).all id = true := by decide +kernel

/-- A line whose home answers at once, with dirty words in a lower cache and without, with words of the core and without; words that no
other core holds, that another holds with a copy and without; a line in each state, to be dropped and not, with words that
leave; a message that arrives, and one whose route is out of service; a line that one taker waits for, and for which the filling
core itself waits. -/
theorem wit_LineMessages :
    let line (l : LineSt) (f : Core → Core := id) : State := (st.setL1 0 0x800 { st := l, rid := 1, valid := 3, dirty := 1 }).updMe f
    let reg (o : List (Nat × Nat)) (c : List Nat) : State := { st with reg := [(0x800, { owners := o, copies := c })] }
    let range : OwnRange := { base := 0x20000, count := 1, width := 64, cells := [(0x800, BitVec.allOnes 16)], leaving := true }
    let leaves := line .io (fun x => { x with owned := [(0, range)] })
    let owned := reg [(0, 1), (1, 1), (2, 6)] [5]
    let gone : State := { st with linksDown := [(0, 0, 0), (0, 0, 1), (0, 0, 2), (0, 0, 3)] }
    let free (s : State) : Bool := s.pending.all (fun e => !(e.1 / 16384 == 0x800) || e.2.takes.all (fun k => k.core != 0))
    let takes (l : List Take) : State := { st with pending := [(pkey 0x800 0, { owner := 1, takes := l })] }
    ([free st, free (takes [⟨5, 4, false⟩]), !free (takes [⟨0, 4, false⟩]), (st.dieLine 0 0x800).dirty == 0, (st.cluLine 0 0x800).dirty == 0, (st.regAt 0x800).words 0 == 0, (owned.regAt 0x800).words 0 == 3,
      (owned.regAt 0x800).ownersOf 4 == [5], (owned.regAt 0x800).copies.contains 5, !owned.isPending 0x800 5, (owned.regAt 0x800).ownersOf 3 == [0],
      (owned.regAt 0x800).ownersOf 8 == [], (line .io (fun x => { x with drop := [0x800] })).me.drop.contains 0x800, !(line .io).me.drop.contains 0x800,
      ((line .io).l1Line 0 0x800).st == .io, ((line .v).l1Line 0 0x800).st == .v, ((line .o).l1Line 0 0x800).st == .o, ((line .oi).l1Line 0 0x800).st == .oi,
      ((line .ov).l1Line 0 0x800).st == .ov, (line .io).me.leavingWords 0x800 == 0, (leaves.l1Line 0 0x800).st == .io, leaves.me.leavingWords 0x800 != 0,
      decide ((leaves.requests 0).length < 32), ((line .v).l1Line 0 0x800).valid != 0, (st.setL1 0 0x800 {}).l1Line 0 0x800 == {},
      ((line .v).regAt 0x800).owners == [], ((line .v).l1Line 0 0x800).dirty.getLsbD 0, st.moves == [], st.waiters == [],
      !st.reqDown (dieOf 0) (64 * 0x800), (st.pendAt 0x800 0).takes == [], (takes [⟨5, 4, false⟩]).pendAt 0x800 0 != {},
      (takes [⟨5, 4, false⟩]).isPending 0x800 0, !(takes []).reqDown 0 (64 * 0x800), gone.reqDown (dieOf 0) (64 * 0x800),
      (gone.pendAt 0x800 0).takes == []] : List Bool).all id = true := by decide +kernel

/-- Die 160, the lead I/O die's, with a piece admitted for what waits on ev. -/
def admitted (ev : Event) (s : State) : State := s.updDie leadIo ({ · with flying := [⟨leadUnit, 0, 64, [512], ev, false⟩] })
def moveEntry0 : BitVec 512 := imgPut (entry 0x200000 0x201000 0x200000 0x2F 1) 0x18 11 11 1
def moveOf (phase : Nat) (resid : BitVec 64 := BitVec.allOnes 64) : Move :=
  { entry := 0x200000, dir := 0x10000, old := 0x200000, new := 0x400000, len := 4096, gran := 4096, resid, asn := 0, part := 0, phase }
def movingSt (m : Move) (seq : Nat := 2) : State := { place st [(0x10008, 4, seq), (0x10040, 64, moveEntry0.toNat)] with moves := [m] }
theorem wit_WalksAndMoves_walks :
    let w (dva : Nat) : Nat := walkEnd (st.walk (some 0) st.me.rdirPa dva)
    ([w 0x200000 == 4, canonical 0x200000, (st.me.findSlot 0x200000).isNone, !canonical (2 ^ 56), (st.me.findSlot 0).isSome, w 0x1FFFFF == 2,
      st.moves == []] : List Bool).all id = true := by decide +kernel
theorem wit_WalksAndMoves_entries :
    let lost (m : Move) : State := { place st [(0x10040, 64, (entry 0x1F0000 0x201000 0x200000 0x2F 1).toNat)] with moves := [m] }
    let found (s : State) (m : Move) : Option (Option Nat) := (s.moveEntry m).map (·.map Prod.fst)
    ([found (movingSt (moveOf 1)) (moveOf 1) == some (some 0), found (movingSt (moveOf 1) 3) (moveOf 1) == none,
      found (lost (moveOf 1)) (moveOf 1) == some none, found (movingSt (moveOf 2)) (moveOf 2) == some (some 0),
      found (movingSt (moveOf 2) 3) (moveOf 2) == none, found (movingSt (moveOf 4) 3) (moveOf 4) == none]
      : List Bool).all id = true := by decide +kernel
/-- A DVA that the walk finds, that a slot holds, that is not canonical, and that no entry covers; a move in each phase, its entry
found, its entry gone, and the directory in edit; notices still to be taken and none; a copy over whole granules, a piece of which is admitted, and is not, and one that is all copied. -/
theorem wit_WalksAndMoves :
    let mv := moveOf
    let s := movingSt (mv 1)
    let notice (s : State) : State := s.post (.generationNotice 0 0)
    let now : BitVec 64 := BitVec.ofNat 64 (entRESID moveEntry0)
    ([(mv 2).resid == now, (mv 3).phase == 3,
      !(movingSt (mv 4)).noticesDue 0 0, (notice (movingSt (mv 4))).noticesDue 0 0, (mv 1).iov == 0, decide ((mv 1).copied < (mv 1).len), decide (4096 ≤ ({ mv 1 with copied := 4096 } : Move).copied),
      !(s.admission leadIo leadUnit (piecesOf 4096) (s.pieceLinks (mv 1)) .dredgeCopyPhase).1,
      ((admitted .dredgeCopyPhase s).admission leadIo leadUnit (piecesOf 4096) (s.pieceLinks (mv 1)) .dredgeCopyPhase).1,
      decide (4096 % 256 = 0 ∧ 0x400000 % 256 = 0 ∧ 0 < (mv 1).gran),
      overlap 0x200000 4096 0x400000 4096 == false, s.waiters == [], (List.range 1).all (fun i => now.getLsbD i),
      overlap 0x10000 (64 + 64 * 65536) 0x600000 4096 == false] : List Bool).all id = true := by decide +kernel

/-- A partition's number that a unit has and one that it has not; a link in service, one that is out of service, and none; a request for TIME that is answered, over links in service and not; joins that
have settled, are open without a deadline, with one to come, and with one reached; wisps to be killed on a core, in a pool and ended; a
core with a kill, its grace over and not; cores with a wisp and none, with a posting whose time is near and far; a forced
pre-emption; a turn with a deficit left, without, and with nobody else. A kill of a wisp that has no seat. -/
theorem wit_SignalsAndClocks :
    let down : State := { st with linksDown := [(0, 0, 1)] }
    let cut : State := { st with linksDown := (List.range 16).flatMap (fun x => [(x, 2, 0), (x, 2, 1), (x, 2, 2), (x, 2, 3)]) }
    let asks (s : State) := s.updMe ({ · with waitOn := .time none })
    let j (d : Nat) (f : Join → Join := id) : Join := f { join0 with img := BitVec.ofNat 512 (joinRec [(8, 0, d)]) }
    let at_ (d t : Nat) : State := { st with joins := [(0, j d)], time := t }
    let sub : State := { place st [(0x10008, 4, 3)] with time := 5, joins := [(0, j 5 (fun x =>
      { x with img := x.img ||| BitVec.ofNat 512 (record [(0, 24, 2), (0x10, 16, 1)]), rdir := 0x10000, arrived := 1 }))] }
    let w (l : Loc) (s : State := st) := s.updWisp (wkey 1 7) (fun _ => { launch := 1, index := 7, loc := l })
    let kill (t : Nat) (f : Core → Core := id) := st.updMe (fun x => f { x with kill := some (t, 2) })
    let pend (d : Nat) (f : SReg → SReg := id) := st.updMe (·.updS (fun y => f { y with pend := true, deadline := BitVec.ofNat 64 d }))
    let forced := pend 9 ({ · with force := true })
    let turn (d : Int) : State := { st.updVdev 5 ({ · with deficit := d }) with turn := [(0, 6)] }
    let many (d : Int) : State := { w (.pool 0) (turn d) with vdevs := [(5, { (turn d).vdevAt 5 with deficit := d }), (6, { live := true, part := some 0, share := 1 })]
                                                              binds := [(4, { valid := true, vdev := 6, qmask := 1, part := 0, share := 1 })]
                                                              queues := [(6 * 16, { qen := true, qtail := 1 })] }
    ([st.partOfDie 0 == some 0, st.partOfDie 0 != some 1, st.partOfSite 3 == some 0, st.partOfSite 3 != some 1,
      (turn 5).turnOf 0 == 6, (many 0).turnOf 0 == 6, (kill 0 ({ · with stage := .held })).me.stage == .held,
      crowded.seat 0 == none, !(crowded.wispAt (wkey 1 0)).pinned, st.linkLive (0, 0) / 2 ^ 1 % 2 == 1, !st.linkDown (0, 0, 1), down.linkDown (0, 0, 1), st.linkLive (0, 0) / 2 ^ 2 % 2 == 0,
      (asks st).me.waitOn == .time none, !(asks st).timeDown 0, (asks cut).timeDown 0,
      (at_ 0 9).joinAt 0 == j 0, decide ((j 5).deadline = 5 ∧ (j 0).deadline = 0), decide (4 < (j 5).deadline), (j 5).st == .opened,
      (at_ 5 5).subBusy (j 5) == false, (at_ 5 5).joinAt 0 == j 5, sub.subBusy (sub.joinAt 0), (sub.joinAt 0).qmin == 1, sub.joinAt 0 != {}, (w (.core 0)).wispAt (wkey 1 7) != {},
      st.me.stage == .run, st.me.kill == none, (w (.pool 0)).waiters == [], (w .ended).wispAt (wkey 1 7) != {}, (kill 9).time == 0,
      (kill 0).me.kill == some (0, 2), (kill 0).me.bump == none, (kill 0).me.hold == .free, (kill 0).me.waitOn == .none,
      (kill 0 ({ · with hold := .firm })).me.hold == .firm, st.seat 0 != none, (st.wispAt (wkey 1 0)).index == 0,
      st.me.wisp != none, (calm).me.wisp == none, (st.launchAt 1).pmode == 0, st.groupCores 0 == [0], !st.me.s.pend,
      (pend 40000).me.s.pend, !(pend 40000).me.s.force, !forced.me.s.inh, forced.me.forced, forced.me.stage == .run, !(pend 9).me.forced,
      (turn 5).idleDeficits 0 == turn 5, !(turn 0).othersWork 0 5, (turn 0).onAnyCore 5, !(turn 0).expanding 0, (many 0).othersWork 0 5, (many 0).idleDeficits 0 == many 0]
      : List Bool).all id = true := by decide +kernel

/-- A wisp that has ended and is to be counted, one that is counted, and one that has not ended; a launch whose last wisp is counted and
one that goes on; a parent that runs, and one that is saved; a deadline whose time is near and far; a launch that has not vacated
in time, that has, and that has no such decision; a checkpoint before its granules are harvested, with one to copy, admitted and not,
and with none left; an error of each memory, corrected and not; a line with a backing copy, and without. -/
theorem wit_EndsCheckpointsAndErrors :
    let w (f : Wisp → Wisp := id) := launch1 launchRec [(7, f { loc := .ended, endCode := 1, compDone := true })]
    let gone := w (fun x => { x with counted := true })
    let done (l : Launch → Launch := id) : State := { launch1 launchRec [] (fun x => l { x with nret := 1 }) { st with cores := [], wisps := [] } with
      launches := [(1, l { vdev := 5, nret := 1, queue := some 0, img := BitVec.ofNat 1024 (launchRec [(0x38, 0, 0x40000)]) }), (2, { vdev := 5 })] }
    let image : Image := ⟨0, false, 0x80, { vdev := 5 }, 3, [], [], [], 0, 0, []⟩
    let saved : State := { done ({ · with parent := 3 }) with images := [image] }
    let child := done ({ · with parent := 2 })
    let late (t : Nat) : State := { due with deadlines := [{ isPart := false, target := 5, t := t, t0 := 0, fns := [] }] }
    let cp (ws : List (Nat × Wisp)) := launch1 launchRec ws ({ · with decision := .checkpoint })
    let off : State := { cp [] with wisps := [] }
    let room := off.updVdev 5 ({ · with safeLen := 2 ^ 20 })
    let copying (l : List Nat) : State := launch1 launchRec [] ({ · with decision := .checkpoint, saving := some l }) { st with wisps := [], cores := [] }
    let cpLinks : List Nat := st.routeLinks (st.homeNode (5 * 4096)) (.io 0)
    let backed : State := place (st.updVdev 5 ({ · with backTab := 0x70000 })) [(0x70000, 8, 0x20000), (0x70008, 8, 0x1000), (0x70010, 8, 0x24000)]
    let held (a : Nat) : Nat := a % 2 ^ 56 / 64
    ([(w.wispAt (wkey 1 7)).loc == .ended, (w.wispAt (wkey 1 7)).endCode == 1, !(w.wispAt (wkey 1 7)).counted, (w.wispAt (wkey 1 7)).compDone,
      (gone.wispAt (wkey 1 7)).counted, !(launch1 launchRec []).launchOver 1, done.launchOver 1, done.resets == [], done.deadlines == [], done.layout == none,
      (done.launchAt 1).queue == some 0, (done.launchAt 1).compl == 0x40000, done.moves == [], done.waiters == [], (child.launchAt 1).parent == 2,
      child.launches.any (fun e => e.1 == 2), child.launchOver 1, (saved.launchAt 1).parent == 3, !saved.launches.any (fun e => e.1 == 3), saved.images == [image],
      saved.launchOver 1, (late 9).deadlineAt false 5 != none, decide ((late 9).time + 250000 < 250001), decide (250000 ≤ (late 9).time + 250000),
      ((cp []).launchAt 1).decision == .checkpoint, (cp []).onCores 1 != [], off.onCores 1 == [], (off.launchAt 1).decision == .checkpoint,
      (off.launchAt 1).saving == none, (off.launchAt 1).nret + (off.launchAt 1).nkill != (off.launchAt 1).count, off.linksDown == [],
      ((copying [5]).launchAt 1).saving == some [5], (copying [5]).onCores 1 == [], ((copying []).launchAt 1).saving == some [],
      !((copying [5]).admission leadIo leadUnit [64] cpLinks (.checkpointEngineCopy 1)).1,
      ((admitted (.checkpointEngineCopy 1) (copying [5])).admission leadIo leadUnit [64] cpLinks (.checkpointEngineCopy 1)).1,
      backed.backingOf 0x20000 == some 0x24000, !backed.homePois 0x24000 64, backed.moves == [], backed.waiters == [], st.backingOf 0x20000 == none,
      (off.vdevAt 5).safeLen == 0, (room.vdevAt 5).safeLen == 2 ^ 20, decide ((0x20000 : Nat) < 2 ^ 60), held (2 ^ 80 + 0x20000) == 0x800,
      ((st.setL1 0 0x800 { valid := 1 }).l1Line 0 0x800).valid.getLsbD 0] : List Bool).all id = true := by decide +kernel

/-- Functions that are live and not; a reset under way whose time is over and not, and none; hot and cool dies at the ends of the range of
the clock. -/
theorem wit_BootsAndResets :
    let r (rung t : Nat) : State := { st with resets := [{ rung, target := 5 }], time := t }
    let hot (k t : Nat) : State := { st.updDie 0 ({ · with clockStep := k }) with time := t }
    ([decide (2 ≤ (5 : Nat)), !(st.vdevAt 6).live, (st.vdevAt 5).live, (State.reset.vdevs == []), st.resets == [],
      (r 0 999999).resets == [{ rung := 0, target := 5 }], decide ((r 0 999999).time < 0 + 1000000), decide (0 + 1000000 ≤ (r 0 1000000).time),
      decide (0 + 200000000 ≤ (r 3 200000000).time), ((hot 10 0).dieAt 0).clockStep == 10, ((hot 1 1000000).dieAt 0).hotAt == 0] : List Bool).all id = true := by
  decide +kernel

/-- A word that decodes and one that does not are fetched, and one that waits is issued again; a fetch that fails; a wait that has ended; a forced pre-emption and none; a
write-back answered with poison; a step of the schedule, of a timer that is due, of either in its turn, and none; a part without power. -/
theorem wit_StepRuns :
    let at_ (w : Nat) : State := st.withFetchWord 32 w
    let f (s : State) := (s.updCore 0 (fun y => { y with hold := .free })).fetch 0
    let word (s : State) : Option Nat := match f s with | .ok w _ => some w | _ => none
    let far := st.updMe ({ · with pc := 0x300000 })
    let edit := place far [(0x10008, 4, 3)]
    let woken := st.updMe ({ · with waitOn := .woken 7 4 none })
    let forced := st.updMe (fun x => { x with s := { x.s with pend := true, force := true } })
    let off : State := { st with on := false }
    let timer : State := { calm with joins := [(0, { join0 with settling := some (true, true) })] }
    let waiting := st.updMe ({ · with hold := .loose, ir := 0x28820005 })
    let both : State := { timer with sched := [.streamWaitEnd 0] }
    let next (s : State) : Option Event := s.nextEvent.map Prod.fst
    ([waiting.me.hold != .free, (match waiting.issue 0 with | .ok w _ => some w | _ => none) == some 0x28820005,
      next both == some (.streamWaitEnd 0), next { both with evCount := 1 } == some (.joinDeadline 0 0), next timer == some (.joinDeadline 0 0),
      (next calm).isNone, calm.dueTimers == [], st.on, !st.evTurn, st.me.stage == .run, (st.waitResult st.me.waitOn).isNone, (woken.waitResult woken.me.waitOn).isSome, forced.me.forced,
      !st.me.forced, (st.updMe ({ · with lost := some 64 })).me.lost == some 64, st.me.lost == none, word (at_ 0x28820005) == some 0x28820005,
      word (at_ 0) == some 0, traps (f far), waits (f edit), (st.post (.streamWaitEnd 0)).sched == [.streamWaitEnd 0], calm.quiet,
      calm.sched == [], timer.quiet, timer.dueTimer == some (.joinDeadline 0 0), !off.on, (off.post .coldBoot).sched == [.coldBoot],
      off.sched.head? == none] : List Bool).all id = true
    ∧ decode 0x28820005 = .ok (.slli 4 2 5) ∧ decode 0 = .error .reservedMajor := by decide +kernel

/-- A step goes on to a next state, whose running turn and whose memory keep their form. -/
theorem wit_EveryStep :
    let s := st.withFetchWord 32 0x28820005
    (match step s with | .next _ => true | _ => false) = true ∧ Memory.wf s.mem = true := by decide +kernel

/-! ## Results that the spec works out -/

/-- gd after an instruction, from a core whose registers l lists. -/
noncomputable def result (i : Instr) (l : List (Nat × Word)) (d : BitVec 5) : Option Word :=
  match exec i (regs l) with | .next t => some (t.rg d) | _ => none

/-- 06_scalar.md, Example 1 (R110). -/
theorem test_muldiv :
    let two (x y : Word) := [(5, x), (6, y)]
    let min : Word := 0x8000000000000000
    let ones : Word := 0xFFFFFFFFFFFFFFFF
    [result (.div 4 5 6) (two (-7) 2) 4, result (.rem 4 5 6) (two (-7) 2) 4, result (.divu 4 5 6) (two 7 0) 4, result (.remu 4 5 6) (two 7 0) 4,
      result (.div 4 5 6) (two min (-1)) 4, result (.rem 4 5 6) (two min (-1)) 4, result (.divw 4 5 6) (two 0x180000000 0xFFFFFFFF) 4,
      result (.mulhu 4 5 6) (two ones 2) 4, result (.mulhsu 4 5 6) (two ones 2) 4]
    = [some (-3), some (-1), some ones, some 7, some min, some 0, some 0xFFFFFFFF80000000, some 1, some ones] := by decide +kernel

/-- 06_scalar.md, Example 2 (R112). -/
theorem test_bit_fields :
    let l (v old : Word) : List (Nat × Word) := [(5, old), (6, 0xF0000000000000A5), (7, v)]
    [result (.bfx 5 6 60 7) (l 0 0) 5, result (.bfx 5 6 60 3) (l 0 0) 5, result (.bfxz 5 6 0 7) (l 0 0) 5, result (.bfxv 5 6 7) (l 0 0) 5,
      result (.bfxv 5 6 7) (l 0xC804 0) 5, result (.bfiv 5 6 7) (l 0x0840 1) 5, result (.bfi 5 6 62 3) (l 0 0) 5]
    = [some 0xF, some 0xFFFFFFFFFFFFFFFF, some 0xA5, some 0, some 0x0F0000000000000A, some 1, some 0x4000000000000000] := by decide +kernel

end Sys2Proof.Tests
end

section
/-! SUPPORT. Range-table invalidation (R96): what it does to every slot of a table in canonical form, and the table that is not
in that form on which O31 fails. -/

namespace Sys2Proof.Machine

/-! ### A change of every listed value -/

/-- In canonical form, a change of every listed value that leaves the default alone is seen at every key. -/
theorem Store.get_mapAll_of_wfFrom {α : Type} [DecidableEq α] (d : α) (f : Nat → α → α) (hf : ∀ k, f k d = d)
    (m : Store α) (lo k : Nat) (h : Store.wfFrom d lo m = true) : Store.get d (Store.mapAll d m f) k = f k (Store.get d m k) := by
  induction m generalizing lo with
  | nil => exact (hf k).symm
  | cons e m ih =>
    obtain ⟨k', v⟩ := e
    simp only [Store.wfFrom, Bool.and_eq_true] at h
    have rest := ih (k' + 1) h.2
    by_cases hv : f k' v = d
    · have drop : Store.mapAll d ((k', v) :: m) f = Store.mapAll d m f := by simp [Store.mapAll, hv]
      rw [drop, rest]
      by_cases hk : k = k'
      · subst hk; rw [Store.get_lt d m _ k h.2 (by omega), hf]; simp [Store.get, hv]
      · simp [Store.get, hk]
    · have keep : Store.mapAll d ((k', v) :: m) f = (k', f k' v) :: Store.mapAll d m f := by simp [Store.mapAll, hv]
      by_cases hk : k = k'
      · subst hk; simp [keep, Store.get]
      · simp [keep, Store.get, hk, rest]

/-- A change of every listed value keeps the canonical form. -/
theorem Store.wfFrom_mapAll {α : Type} [DecidableEq α] (d : α) (f : Nat → α → α) (m : Store α) (lo : Nat)
    (h : Store.wfFrom d lo m = true) : Store.wfFrom d lo (Store.mapAll d m f) = true := by
  induction m generalizing lo with
  | nil => rfl
  | cons e m ih =>
    obtain ⟨k, v⟩ := e
    simp only [Store.wfFrom, Bool.and_eq_true, decide_eq_true_eq] at h
    obtain ⟨⟨hk, -⟩, hm⟩ := h
    have rest := ih (k + 1) hm
    by_cases hv : f k v = d
    · have drop : Store.mapAll d ((k, v) :: m) f = Store.mapAll d m f := by simp [Store.mapAll, hv]
      exact drop ▸ Store.wfFrom_mono d _ rest (by omega)
    · have keep : Store.mapAll d ((k, v) :: m) f = (k, f k v) :: Store.mapAll d m f := by simp [Store.mapAll, hv]
      simp [keep, Store.wfFrom, hk, hv, rest]

/-! ### The bits of a slot image (R82) -/

/-- A field that imgPut replaces holds the new value's bits; every other bit stays. -/
theorem getLsbD_imgPut (img : BitVec 512) (byte hi lo v k : Nat) (hk : k < 512) :
    (imgPut img byte hi lo v).getLsbD k =
      if 8 * byte + lo ≤ k ∧ k < 8 * byte + lo + (hi + 1 - lo) then v.testBit (k - (8 * byte + lo)) else img.getLsbD k := by
  have ones (n i : Nat) : (2 ^ n - 1).testBit i = decide (i < n) := Nat.testBit_two_pow_sub_one n i
  simp only [imgPut, BitVec.getLsbD_or, BitVec.getLsbD_and, BitVec.getLsbD_not, BitVec.getLsbD_ofNat, Nat.testBit_mul_two_pow,
    Nat.testBit_mod_two_pow, ones, hk]
  by_cases hlo : 8 * byte + lo ≤ k
  · by_cases hhi : k < 8 * byte + lo + (hi + 1 - lo)
    · have inside : k - (8 * byte + lo) < hi + 1 - lo := by omega
      simp [hlo, hhi, inside]
    · have outside : ¬ k - (8 * byte + lo) < hi + 1 - lo := by omega
      simp [hlo, hhi, outside]
  · simp [hlo]

/-- V is bit 0 of the word at 0x18. -/
theorem entV_eq_getLsbD (img : BitVec 512) : entV img = img.getLsbD 192 := by
  simp [entV, entBit, entField, bits, BitVec.getLsbD, Nat.testBit_eq_decide_div_mod_eq, beq_eq_decide]

theorem entV_zero : entV 0 = false := by rw [entV_eq_getLsbD]; exact BitVec.getLsbD_zero

theorem entV_clearV (img : BitVec 512) : entV (imgPut img 0x18 0 0 0) = false := by
  rw [entV_eq_getLsbD, getLsbD_imgPut img _ _ _ _ 192 (by omega)]
  simp

theorem getLsbD_clearV_other (img : BitVec 512) {k : Nat} (hk : k < 512) (hV : k ≠ 192) :
    (imgPut img 0x18 0 0 0).getLsbD k = img.getLsbD k := by
  rw [getLsbD_imgPut img _ _ _ _ k hk, if_neg (by omega)]

/-! ### An invalidation that reaches a core (R96) -/

/-- The entries that an invalidation is for: of the ASN, and overlapping [base, limit). -/
def inSpan (asn base limit : Nat) (e : BitVec 512) : Bool :=
  entASN e == asn && decide (entBase e < limit ∧ base < entLimit e)

theorem valid_and_inSpan_iff (asn base limit : Nat) (m : BitVec 512) : (entV m && inSpan asn base limit m) = true ↔
    entV m = true ∧ entASN m = asn ∧ entBase m < limit ∧ base < entLimit m := by simp [inSpan]

/-- A slot after V is cleared where p admits it. -/
def Slot.clearedIf (p : BitVec 512 → Bool) (e : Slot) : Slot :=
  if entV e.img && p e.img then { e with img := imgPut e.img 0x18 0 0 0 } else e

theorem Core.slots_clearSlots (x : Core) (p : BitVec 512 → Bool) :
    (x.clearSlots p).slots = Store.mapAll {} x.slots (fun _ => Slot.clearedIf p) := rfl

theorem Slot.clearedIf_default (p : BitVec 512 → Bool) : Slot.clearedIf p {} = {} := by
  have hV : entV ({} : Slot).img = false := entV_zero
  rw [Slot.clearedIf, hV]
  rfl

/-- In a table in canonical form the slots that p admits are cleared, and no other. -/
theorem Core.get_clearSlots_of_wf (x : Core) (p : BitVec 512 → Bool) (i : Nat) (hw : Store.wf {} x.slots = true) :
    Store.get {} (x.clearSlots p).slots i = Slot.clearedIf p (Store.get {} x.slots i) := by
  rw [Core.slots_clearSlots]
  exact Store.get_mapAll_of_wfFrom ({} : Slot) (fun _ => Slot.clearedIf p) (fun _ => Slot.clearedIf_default p) x.slots 0 i hw

/-- The two operations that write slots keep a table's canonical form. -/
theorem Core.setSlot_wf (x : Core) (i : Nat) (e : Slot) (hw : Store.wf {} x.slots = true) :
    Store.wf {} (x.setSlot i e).slots = true := Store.wf_set _ _ _ _ hw
theorem Core.clearSlots_wf (x : Core) (p : BitVec 512 → Bool) (hw : Store.wf {} x.slots = true) :
    Store.wf {} (x.clearSlots p).slots = true :=
  Store.wfFrom_mapAll ({} : Slot) (fun _ => Slot.clearedIf p) x.slots 0 hw

/-- An invalidation at a core that awaits no owner's answer clears the slots of its span and acknowledges at once. -/
theorem exec_rangeInvalidation (s : State) (core asn base limit issuer : Nat) (ha : s.awaitsAnswer core = false) :
    exec (.rangeInvalidation core asn base limit issuer) s =
      .next ((s.updCore core (·.clearSlots (inSpan asn base limit))).updCore issuer
        (fun x => { x with inval := ackInval asn base limit x.inval })) := by
  show execRangeInvalidation core asn base limit issuer s = _
  unfold execRangeInvalidation
  rw [ha]
  rfl

/-- Of the target's slots nothing changes but what the invalidation clears; the acknowledgement is no matter of slots. -/
theorem slots_of_rangeInvalidation {s t : State} {core asn base limit issuer : Nat} (ha : s.awaitsAnswer core = false)
    (ht : exec (.rangeInvalidation core asn base limit issuer) s = .next t) :
    (t.coreAt core).slots = ((s.coreAt core).clearSlots (inSpan asn base limit)).slots := by
  rw [exec_rangeInvalidation s core asn base limit issuer ha] at ht
  cases ht
  rw [State.coreAt_updCore]
  split
  · next h => simp [h]
  · simp

section InCanonicalForm

variable {s t : State} {core asn base limit issuer : Nat} (hw : Store.wf {} (s.coreAt core).slots = true)
  (ha : s.awaitsAnswer core = false) (ht : exec (.rangeInvalidation core asn base limit issuer) s = .next t) (i : Nat)
include hw ha ht

theorem slot_of_rangeInvalidation_of_wf : Store.get {} (t.coreAt core).slots i =
    Slot.clearedIf (inSpan asn base limit) (Store.get {} (s.coreAt core).slots i) := by
  rw [slots_of_rangeInvalidation ha ht, Core.get_clearSlots_of_wf _ _ i hw]

/-- R96: a valid slot of the ASN that overlaps the span loses V and no other bit. -/
theorem rangeInvalidation_clears_overlap_of_wf
    (hm : let m := (Store.get ({} : Slot) (s.coreAt core).slots i).img
      entV m = true ∧ entASN m = asn ∧ entBase m < limit ∧ base < entLimit m) :
    let m := (Store.get ({} : Slot) (s.coreAt core).slots i).img
    let z := (Store.get ({} : Slot) (t.coreAt core).slots i).img
    entV z = false ∧ ∀ k, k < 512 → k ≠ 192 → z.getLsbD k = m.getLsbD k := by
  intro m z
  have hz : z = imgPut m 0x18 0 0 0 := by
    have hc := (valid_and_inSpan_iff asn base limit m).mpr hm
    show (Store.get ({} : Slot) (t.coreAt core).slots i).img = _
    rw [slot_of_rangeInvalidation_of_wf hw ha ht i, Slot.clearedIf, if_pos hc]
  rw [hz]
  exact ⟨entV_clearV m, fun k hk hV => getLsbD_clearV_other m hk hV⟩

/-- R96: every other slot stays. This is where O31 fails without the premise hw. -/
theorem rangeInvalidation_keeps_others_of_wf
    (hm : let m := (Store.get ({} : Slot) (s.coreAt core).slots i).img
      ¬ (entV m = true ∧ entASN m = asn ∧ entBase m < limit ∧ base < entLimit m)) :
    Store.get {} (t.coreAt core).slots i = Store.get {} (s.coreAt core).slots i := by
  have hc := mt (valid_and_inSpan_iff asn base limit _).mp hm
  rw [slot_of_rangeInvalidation_of_wf hw ha ht i, Slot.clearedIf, if_neg hc]

end InCanonicalForm

/-- A core whose slot 0 is valid, of ASN 0 and of the span [0, 4096). -/
def oneSlot : State :=
  { cores := [(0, { slots := [(0, { img := imgPut (imgPut 0 8 63 0 4096) 0x18 0 0 1 })] })] }

/-- In this table, which is in canonical form, slot 0 overlaps [0, 4096) and loses V. -/
theorem wit_rangeInvalidation_clears_overlap_of_wf : ∃ t, exec (.rangeInvalidation 0 0 0 4096 0) oneSlot = .next t
    ∧ entV (Store.get ({} : Slot) (oneSlot.coreAt 0).slots 0).img = true
    ∧ entV (Store.get ({} : Slot) (t.coreAt 0).slots 0).img = false := by
  have ha : oneSlot.awaitsAnswer 0 = false := by decide +kernel
  have hw : Store.wf {} (oneSlot.coreAt 0).slots = true := by decide +kernel
  have hm : let m := (Store.get ({} : Slot) (oneSlot.coreAt 0).slots 0).img
      entV m = true ∧ entASN m = 0 ∧ entBase m < 4096 ∧ 0 < entLimit m := by decide +kernel
  have ht := exec_rangeInvalidation oneSlot 0 0 0 4096 0 ha
  exact ⟨_, ht, hm.1, (rangeInvalidation_clears_overlap_of_wf hw ha ht 0 hm).1⟩

/-- In the same table no slot is of ASN 1, and slot 0 stays. -/
theorem wit_rangeInvalidation_keeps_others_of_wf : ∃ t, exec (.rangeInvalidation 0 1 0 4096 0) oneSlot = .next t
    ∧ Store.get ({} : Slot) (t.coreAt 0).slots 0 = Store.get {} (oneSlot.coreAt 0).slots 0 := by
  have ha : oneSlot.awaitsAnswer 0 = false := by decide +kernel
  have hw : Store.wf {} (oneSlot.coreAt 0).slots = true := by decide +kernel
  have hm : let m := (Store.get ({} : Slot) (oneSlot.coreAt 0).slots 0).img
      ¬ (entV m = true ∧ entASN m = 1 ∧ entBase m < 4096 ∧ 0 < entLimit m) := by decide +kernel
  have ht := exec_rangeInvalidation oneSlot 0 1 0 4096 0 ha
  exact ⟨_, ht, rangeInvalidation_keeps_others_of_wf hw ha ht 0 hm⟩

/-! ### A table that is not in canonical form -/

/-- A core at S whose table lists slot 0 twice, the empty slot first, so that the slot reads as empty. What writes slots
keeps the canonical form (Core.setSlot_wf, Core.clearSlots_wf), so no step leads here; but O31 speaks of every State, and has no
premise that excludes this one. -/
def shadowedSlot : State :=
  { cores := [(0, { sup := true, slots := [(0, {}), (0, { img := 1 })] })] }

theorem shadowedSlot_img (i : Nat) : (Store.get ({} : Slot) (shadowedSlot.coreAt 0).slots i).img = 0 := by
  show (if i = 0 then ({} : Slot) else if i = 0 then { img := 1 } else {}).img = 0
  split
  · rfl
  · rfl

/-- Clearing any span drops the empty entry from the list, and the entry behind it comes to be read. -/
theorem shadowedSlot_after_invalidation {t : State} (ht : exec (.rangeInvalidation 0 0 0 0 0) shadowedSlot = .next t) :
    (Store.get ({} : Slot) (t.coreAt 0).slots 0).img = 1 := by
  rw [slots_of_rangeInvalidation rfl ht]
  decide +kernel

/-- Refutes O31: a RANGE_INVALIDATION changes slot 0, which is not of its span, where the table of the target is not in the
canonical form of a Store. With the premise that it is, that clause holds
(rangeInvalidation_clears_overlap_of_wf, rangeInvalidation_keeps_others_of_wf). -/
theorem not_rangeTableInstructions : ¬ Obligations.RangeTableInstructions := by
  unfold Obligations.RangeTableInstructions
  intro h
  obtain ⟨-, -, -, -, -, -, -, -, hinv, -⟩ := h shadowedSlot 0 0 0 rfl
  obtain ⟨t, ht, -, hslots, -⟩ := hinv 0 0 0 0 0 rfl
  simp only [shadowedSlot_img, entV_zero, Bool.false_eq_true, false_and, if_false] at hslots
  have kept : (1 : BitVec 512) = 0 := (shadowedSlot_after_invalidation ht).symm.trans (hslots 0)
  simp at kept

end Sys2Proof.Machine
end

section
/-! SUPPORT. Scalar values and control flow: bit fields by their bits (R112), the immediate forms (R113 to R116), branches
and jumps (R117 to R119), and TRAP, BREAK, NOP and ENGWAIT (R134, R135). -/

namespace Sys2Proof.Machine

/-! ### Bit fields (R112) -/

theorem bfExtract_min (v : Word) (p w : Nat) (sg : Bool) : bfExtract v p (min w 64) sg = bfExtract v p w sg := by
  simp [bfExtract]

theorem bfInsert_min (d v : Word) (p w : Nat) : bfInsert d v p (min w 64) = bfInsert d v p w := by
  simp [bfInsert]

/-- A field of no bits, or above bit 63, reads 0. -/
theorem bfExtract_of_empty (v : Word) {p w : Nat} (sg : Bool) (h : ¬ (p < 64 ∧ 0 < w)) : bfExtract v p w sg = 0 := by
  unfold bfExtract
  exact if_pos (by omega)

/-- The field as a bit vector of its own width. -/
theorem toNat_field (v : Word) (p w : Nat) : (v.extractLsb' p w).toNat = v.toNat / 2 ^ p % 2 ^ w := by
  rw [BitVec.extractLsb'_toNat, Nat.shiftRight_eq_div_pow]

theorem bfExtract_unsigned (v : Word) {p w : Nat} (hp : p < 64) (hw : 0 < w) (hw64 : w ≤ 64) :
    bfExtract v p w false = (v.extractLsb' p w).setWidth 64 := by
  have hne : ¬ (w = 0 ∨ 64 ≤ p) := by omega
  simp only [bfExtract, Nat.min_eq_left hw64, if_neg hne, Bool.false_and, Bool.false_eq_true, if_false, ← toNat_field,
    BitVec.ofNat_toNat]

/-- 2 ^ (w - 1) is the weight of the field's top bit, so a signed field is sign-extended. -/
theorem bfExtract_signed (v : Word) {p w : Nat} (hp : p < 64) (hw : 0 < w) (hw64 : w ≤ 64) :
    bfExtract v p w true = (v.extractLsb' p w).signExtend 64 := by
  have hne : ¬ (w = 0 ∨ 64 ≤ p) := by omega
  have hmsb : (v.extractLsb' p w).msb = decide (2 ^ (w - 1) ≤ v.toNat / 2 ^ p % 2 ^ w) := by
    rw [BitVec.msb_eq_decide, toNat_field]
  simp only [bfExtract, Nat.min_eq_left hw64, if_neg hne, Bool.true_and, BitVec.signExtend, BitVec.toInt_eq_msb_cond,
    hmsb, toNat_field]
  split
  · simp
  · exact (BitVec.ofInt_natCast _ _).symm

/-- R112: the bits of an extracted field; a signed one goes on with its top bit. -/
theorem getLsbD_bfExtract (v : Word) (p : Nat) {w : Nat} (hw64 : w ≤ 64) (sg : Bool) {i : Nat} (hi : i < 64) :
    (bfExtract v p w sg).getLsbD i =
      if p < 64 ∧ 0 < w then (if i < w then v.getLsbD (p + i) else sg && v.getLsbD (p + w - 1)) else false := by
  by_cases h : p < 64 ∧ 0 < w
  · obtain ⟨hp, hw⟩ := h
    have htop : p + (w - 1) = p + w - 1 := by omega
    rw [if_pos ⟨hp, hw⟩]
    cases sg with
    | false => by_cases hiw : i < w <;> simp [bfExtract_unsigned v hp hw hw64, hi, hiw]
    | true =>
      rw [bfExtract_signed v hp hw hw64, BitVec.getLsbD_signExtend, BitVec.msb_eq_getLsbD_last]
      by_cases hiw : i < w <;> simp [hi, hiw, hw, htop]
  · simp [bfExtract_of_empty v sg h, h]

/-- The mask of a field has the field's bits. -/
theorem getLsbD_fieldMask (p w i : Nat) : (BitVec.ofNat 64 ((2 ^ w - 1) * 2 ^ p)).getLsbD i = decide (i < 64 ∧ p ≤ i ∧ i < p + w) := by
  rw [BitVec.getLsbD_ofNat, Nat.testBit_mul_two_pow, Nat.testBit_two_pow_sub_one]
  grind

/-- R112: an insertion gives the bits of the field that lie below 64 the low bits of v, and keeps the others. -/
theorem getLsbD_bfInsert (d v : Word) (p : Nat) {w : Nat} (hw64 : w ≤ 64) {i : Nat} (hi : i < 64) :
    (bfInsert d v p w).getLsbD i = if p ≤ i ∧ i < p + w then v.getLsbD (i - p) else d.getLsbD i := by
  by_cases h : w = 0 ∨ 64 ≤ p
  · have hout : ¬ (p ≤ i ∧ i < p + w) := by omega
    simp [bfInsert, Nat.min_eq_left hw64, h, hout]
  · simp only [bfInsert, Nat.min_eq_left hw64, if_neg h, BitVec.getLsbD_or, BitVec.getLsbD_and, BitVec.getLsbD_not,
      BitVec.getLsbD_shiftLeft, getLsbD_fieldMask]
    by_cases hf : p ≤ i ∧ i < p + w
    · simp [hi, hf, Nat.not_lt.mpr hf.1]
    · simp [hi, hf]

theorem fieldPos_eq (y : Word) : fieldPos y = y.toNat % 256 := by simp [fieldPos, bits]
theorem fieldWidth_eq (y : Word) : fieldWidth y = y.toNat / 256 % 256 := by simp [fieldWidth, bits]

/-! ### Immediate operands and shifts (R113, R114) -/

theorem State.target_eq (s : State) {n : Nat} (off : BitVec n) : s.target off = s.pc + BitVec.ofInt 64 (off.toInt * 4) := by
  rw [State.target, BitVec.ofInt_mul]
  rfl

/-- A sign-extended immediate keeps its value as an integer. -/
theorem toInt_immW (i : BitVec 16) : (immW i).toInt = i.toInt := BitVec.toInt_signExtend_of_le (by decide)

theorem ofBool_slt (x y : Word) : ofBool (x.slt y) = if x.toInt < y.toInt then 1 else 0 := by
  simp [ofBool, BitVec.slt_iff_toInt_lt]

theorem ofBool_ult (x y : Word) : ofBool (x.ult y) = if x.toNat < y.toNat then 1 else 0 := by
  simp [ofBool, BitVec.ult_iff_lt, BitVec.lt_def]

theorem shiftLeft_eq_ofNat (x : Word) (n : Nat) : x <<< n = BitVec.ofNat 64 (x.toNat * 2 ^ n) := by
  rw [← BitVec.shiftLeft_eq, BitVec.shiftLeft, Nat.shiftLeft_eq]

theorem ushiftRight_eq_ofNat (x : Word) (n : Nat) : x >>> n = BitVec.ofNat 64 (x.toNat / 2 ^ n) := by
  apply BitVec.eq_of_toNat_eq
  have hlt : x.toNat / 2 ^ n < 2 ^ 64 := (Nat.div_le_self ..).trans_lt x.isLt
  rw [BitVec.toNat_ushiftRight, BitVec.toNat_ofNat, Nat.mod_eq_of_lt hlt, Nat.shiftRight_eq_div_pow]

theorem sshiftRight_eq_ofInt (x : Word) (n : Nat) : x.sshiftRight n = BitVec.ofInt 64 (x.toInt / 2 ^ n) := by
  rw [BitVec.sshiftRight, Int.shiftRight_eq_div_pow]
  norm_cast

/-- Bit j of a right rotation by n comes from n places further up. -/
theorem getLsbD_rotateRight_word (x : Word) {n j : Nat} (hn : n < 64) (hj : j < 64) :
    (x.rotateRight n).getLsbD j = x.getLsbD ((j + n) % 64) := by
  rw [BitVec.getLsbD_rotateRight, Nat.mod_eq_of_lt hn]
  by_cases h : j < 64 - n
  · rw [Nat.mod_eq_of_lt (by omega : j + n < 64)]
    simp [h, Nat.add_comm]
  · have hm : (j + n) % 64 = j - (64 - n) := by omega
    simp [h, hj, hm]

/-! ### Results said by an equal value -/

theorem setG_out_of_eq (s : State) (d : BitVec 5) {v w : Word} (h : v = w) : GOut s d w (setG d v s) := h ▸ setG_out s d v

/-- A result that is said bit by bit. -/
theorem setG_out_bits (s : State) (d : BitVec 5) (v : Word) {bit : Nat → Bool} (h : ∀ i, i < 64 → v.getLsbD i = bit i) :
    ∃ r : Word, GOut s d r (setG d v s) ∧ ∀ i, i < 64 → r.getLsbD i = bit i := ⟨v, setG_out s d v, h⟩

/-! ### Branches and jumps (R117 to R119) -/

/-- R117: where a branch goes by the condition that it computes. -/
theorem branchTo_out_iff {n : Nat} (s : State) {b : Bool} (off : BitVec n) (c : Prop) [Decidable c] (h : b = true ↔ c) :
    PcOut s (if c then s.pc + BitVec.ofInt 64 (off.toInt * 4) else s.pc + 4) (branchTo b off s) := by
  simpa [h, State.target_eq] using branchTo_out s b off

theorem exec_jr (a : BitVec 5) (s : State) : exec (.jr a) s = jumpReg (s.rg a) id s := rfl
theorem exec_jalr (d a : BitVec 5) (s : State) : exec (.jalr d a) s = jumpReg (s.rg a) (fun t => t.wg d (t.pc + 4)) s := rfl

theorem jumpReg_aligned {t : Word} (go : State → State) (s : State) (h : t.toNat % 4 = 0) :
    jumpReg t go s = .next ((go s).jump t) := if_neg (by omega)

theorem jumpReg_misaligned {t : Word} (go : State → State) (s : State) (h : t.toNat % 4 ≠ 0) :
    jumpReg t go s = .next (s.trap { cause := 8, tval := t }) := if_pos h

/-! ### TRAP, BREAK, NOP and ENGWAIT (R134, R135) -/

theorem execBreak_traps (s : State) (h : s.me.s.brkhalt = false) : execBreak s = .next (s.trap { cause := 0x0B }) := by
  simp [execBreak, h]

theorem execBreak_halts (s : State) (h : s.me.s.brkhalt = true) :
    execBreak s = .next (s.nextPc.updMe ({ · with stage := .halted })) := by
  simp [execBreak, h]

theorem MemOnly.cur {s t : State} (h : MemOnly s t) : t.cur = s.cur := (congrArg State.cur h.1 :)

/-- Where a wait of core c for its engines has ended: their effects are visible, and no binding's stall clock runs. -/
def State.engDone (s : State) (c : Nat) : State := (s.liveBinds c).foldl (fun t i => t.stallClear c i) (s.acquire c 255 0)

/-- Clearing stall clocks leaves the running core the running one, whichever way it is named. -/
theorem foldl_stallClear_cur {c : Nat} (l : List Nat) {s : State} (hc : s.cur = c) :
    l.foldl (fun t i => t.stallClear t.cur i) s = l.foldl (fun t i => t.stallClear c i) s := by
  subst hc
  induction l generalizing s with
  | nil => rfl
  | cons i l ih => exact ih (s := s.stallClear s.cur i)

theorem State.engDone_eq (s : State) :
    s.engDone s.cur = (s.liveBinds s.cur).foldl (fun t i => t.stallClear t.cur i) (s.acquire s.cur 255 0) :=
  (foldl_stallClear_cur _ (MemOnly.acquire s s.cur 255 0).cur).symm

section EnginesIdle

variable {m : Nat} {s : State} (tepc : Option Word) (go : State → Res) (hidle : s.engIdle s.cur m = true)
include hidle

/-- R135: with every selected engine idle and no fault pending the wait is over. -/
theorem engWait_idle (hf : (s.engDone s.cur).me.pendingFault = none) : engWait m tepc s go = go (s.engDone s.cur) := by
  rw [State.engDone] at hf ⊢
  simp only [engWait, if_pos hidle, hf]

/-- R135: a pending fault is reported once the selected engines are idle. -/
theorem engWait_idle_fault {v : Word} (hf : (s.engDone s.cur).me.pendingFault = some v) :
    engWait m tepc s go = .next ((s.engDone s.cur).report s.cur v tepc) := by
  rw [State.engDone] at hf ⊢
  simp only [engWait, if_pos hidle, hf]

end EnginesIdle

/-- R135: bits [3:0] of g[ga] select the engines. -/
theorem execEngwait_of_lt {a : BitVec 5} {s : State} (h : (s.rg a).toNat < 16) :
    execEngwait a s = engWait (s.rg a).toNat (some (s.pc + 4)) s (fun t => .next t.nextPc) :=
  if_neg (by omega)

/-- R135: a mask with a bit above 3 is illegal. -/
theorem execEngwait_of_ge {a : BitVec 5} {s : State} (h : 16 ≤ (s.rg a).toNat) :
    execEngwait a s = .next (s.trap { cause := 1, tval := (encode (.engwait a)).setWidth 64 }) := by
  have hw : rrWord 0x9800000A 0 a 0 0 = encode (.engwait a) := by
    change _ = BitVec.ofNat 32 (0x9800000A + a.toNat * 65536)
    simp [rrWord]
  rw [← hw]
  exact if_pos (by omega)

/-! ### The statements -/

/-- Settles O3: each form writes the value of one field operation, whose bits getLsbD_bfExtract and getLsbD_bfInsert give; a
register form's width above 64 acts as 64. -/
theorem bitFieldResults : Obligations.BitFieldResults := by
  unfold Obligations.BitFieldResults
  intro s d a b pos wm1
  have hw : wm1.toNat + 1 ≤ 64 := wm1.isLt
  have hm : min ((s.rg b).toNat / 256 % 256) 64 ≤ 64 := Nat.min_le_right ..
  refine ⟨setG_out_bits _ _ _ fun i hi => ?bfx, setG_out_bits _ _ _ fun i hi => ?bfxz, setG_out_bits _ _ _ fun i hi => ?bfi,
    setG_out_bits _ _ _ fun i hi => ?bfxv, setG_out_bits _ _ _ fun i hi => ?bfxzv, setG_out_bits _ _ _ fun i hi => ?bfiv⟩
  case bfx => exact getLsbD_bfExtract _ _ hw true hi
  case bfxz => simpa using getLsbD_bfExtract _ _ hw false hi
  case bfi => exact getLsbD_bfInsert _ _ _ hw hi
  case bfxv => rw [fieldPos_eq, fieldWidth_eq, ← bfExtract_min]; exact getLsbD_bfExtract _ _ hm true hi
  case bfxzv => rw [fieldPos_eq, fieldWidth_eq, ← bfExtract_min]; exact getLsbD_bfExtract _ _ hm false hi
  case bfiv => rw [fieldPos_eq, fieldWidth_eq, ← bfInsert_min]; exact getLsbD_bfInsert _ _ _ hm hi

/-- Settles O4: each form writes one value to gd; MOVK is an insertion of 16 bits. -/
theorem immediateResults : Obligations.ImmediateResults := by
  unfold Obligations.ImmediateResults
  intro s d a imm v amt hw imm21
  refine ⟨setG_out .., setG_out .., setG_out .., setG_out .., setG_out_of_eq _ _ ?slti, setG_out_of_eq _ _ (ofBool_ult ..),
    setG_out_of_eq _ _ (shiftLeft_eq_ofNat ..), setG_out_of_eq _ _ (ushiftRight_eq_ofNat ..),
    setG_out_of_eq _ _ (sshiftRight_eq_ofInt ..), setG_out_bits _ _ _ fun j hj => getLsbD_rotateRight_word _ amt.isLt hj,
    setG_out_of_eq _ _ ?movz, setG_out_bits _ _ _ fun j hj => ?movk, setG_out_of_eq _ _ (s.target_eq imm21)⟩
  case slti => rw [ofBool_slt, toInt_immW]
  case movz =>
    have hv : (v.setWidth 64).toNat = v.toNat := BitVec.toNat_setWidth_of_le (by decide)
    rw [shiftLeft_eq_ofNat, hv]
  case movk =>
    rw [getLsbD_bfInsert _ _ _ (by decide) hj]
    split
    · simp; omega
    · rfl

/-- Settles O5: the compare branches by branchTo_out_iff, and the jumps through a register by the low bits of their target. -/
theorem branchesAndJumps : Obligations.BranchesAndJumps := by
  unfold Obligations.BranchesAndJumps
  refine ⟨fun s a b off far => ?direct, fun s d a => ?register⟩
  case direct =>
    refine ⟨branchTo_out_iff s off _ (by simp), branchTo_out_iff s off _ (by simp),
      branchTo_out_iff s off _ BitVec.slt_iff_toInt_lt, branchTo_out_iff s off _ ?bge,
      branchTo_out_iff s off _ BitVec.ult_iff_lt, branchTo_out_iff s off _ ?bgeu, ?j, ?jal⟩
    case bge => simp [BitVec.slt_eq_decide]
    case bgeu => simp [BitVec.ult_eq_decide]
    case j => exact s.target_eq far ▸ jump_out s _
    case jal => exact s.target_eq far ▸ wg_jump_out s 30 _ _
  case register =>
    by_cases h : (s.rg a).toNat % 4 = 0
    · simp only [if_pos h, exec_jr, exec_jalr, jumpReg_aligned _ s h]
      exact ⟨jump_out s _, wg_jump_out s d _ _⟩
    · simp only [if_neg h, exec_jr, exec_jalr, jumpReg_misaligned _ s h, and_self]

/-- Settles O22, by the two ends of BREAK and the ends of a wait for engines that are idle. -/
theorem trapBreakNopEngwait : Obligations.TrapBreakNopEngwait := by
  unfold Obligations.TrapBreakNopEngwait
  intro s a m s2
  have hs2 : s.engDone s.cur = s2 := s.engDone_eq
  refine ⟨rfl, execBreak_traps s, fun h => ⟨_, execBreak_halts s h, ?frame, ?core⟩, nextPc_out s, fun hm hidle hf => ?done,
    fun hm hidle v hf => ?fault, execEngwait_of_ge⟩
  case frame => exact (s.updMe_onlyCore _).trans rfl (State.updMe_onlyCore _ _)
  case core => simp
  case done =>
    have hgo : exec (.engwait a) s = .next s2.nextPc :=
      hs2 ▸ (execEngwait_of_lt hm).trans (engWait_idle _ _ hidle (hs2 ▸ hf))
    exact hgo ▸ nextPc_out s2
  case fault => exact hs2 ▸ (execEngwait_of_lt hm).trans (engWait_idle_fault _ _ hidle (hs2 ▸ hf))

end Sys2Proof.Machine
end

noncomputable section
/-! SUPPORT. Decoding and encoding agree (04_encoding.md, R60, R63, R65). The layout of a word is a list of fields; what
reads a word along a layout and what its layout makes of an instruction's operands are inverse to each other, proved once for
every layout. The decoder is then a table of layouts, and each entry's encoding is checked by computation. -/

namespace Sys2Proof
set_option Elab.async false

/-! ### Fields and layouts -/
/-- A field of a word: an operand of n bits, a flag, n bits that stand for the major or the function, which select the
layout, or n bits that are reserved and have to be v. -/
inductive Fld where
  | op (n : Nat)
  | flag
  | given (n v : Nat)
  | fixed (n v : Nat)

def Fld.width : Fld → Nat
  | .op n | .given n _ | .fixed n _ => n
  | .flag => 1

/-- What makes an instruction of the operands of a layout. -/
def Fn : List Fld → Type
  | [] => Instr
  | .op n :: l => BitVec n → Fn l
  | .flag :: l => Bool → Fn l
  | .given _ _ :: l | .fixed _ _ :: l => Fn l

/-- A layout has bits [t-1:0]: no field is empty, and together they have t bits. -/
def Fits : List Fld → Nat → Bool
  | [], t => t == 0
  | k :: l, t => decide (0 < k.width) && decide (k.width ≤ t) && Fits l (t - k.width)

/-- The fields that select the layout, as the high bit, the low bit and the value of each. -/
def givens : List Fld → Nat → List (Nat × Nat × Nat)
  | [], _ => []
  | .given n v :: l, t => (t - 1, t - n, v) :: givens l (t - n)
  | k :: l, t => givens l (t - k.width)
/-- The reserved fields. -/
def fixeds : List Fld → Nat → List (Nat × Nat × Nat)
  | [], _ => []
  | .fixed n v :: l, t => (t - 1, t - n, v) :: fixeds l (t - n)
  | k :: l, t => fixeds l (t - k.width)
def Holds (w : Nat) (g : Nat × Nat × Nat) : Prop := bits w g.1 g.2.1 = g.2.2

/-- The instruction that the fields of w make. -/
def readFn (w : Nat) : (l : List Fld) → Fn l → Nat → Instr
  | [], i, _ => i
  | .op n :: l, f, t => readFn w l (f (.ofNat n (bits w (t - 1) (t - n)))) (t - n)
  | .flag :: l, f, t => readFn w l (f (bits w (t - 1) (t - 1) == 1)) (t - 1)
  | .given n _ :: l, f, t | .fixed n _ :: l, f, t => readFn w l f (t - n)
/-- i where the fields cs have their values; no layout has more than three of them. -/
def guarded (w : Nat) (i : Instr) : List (Nat × Nat × Nat) → Option Instr
  | [] => some i
  | [a] => if bits w a.1 a.2.1 = a.2.2 then some i else none
  | [a, b] => if bits w a.1 a.2.1 = a.2.2 ∧ bits w b.1 b.2.1 = b.2.2 then some i else none
  | [a, b, c] =>
    if bits w a.1 a.2.1 = a.2.2 ∧ bits w b.1 b.2.1 = b.2.2 ∧ bits w c.1 c.2.1 = c.2.2 then some i else none
  | _ => none

/-- The value x in the bits from p up. -/
def scaled (x : Nat) : Nat → Nat
  | 0 => x
  | p + 1 => x * 2 ^ (p + 1)
/-- The bits that a layout has whatever the operands are. -/
def base : List Fld → Nat → Nat
  | [], _ => 0
  | .given n v :: l, t | .fixed n v :: l, t => v * 2 ^ (t - n) + base l (t - n)
  | k :: l, t => base l (t - k.width)
/-- The word of what f makes is acc with the operands in their places. -/
def Encodes : (l : List Fld) → Fn l → Nat → Nat → Prop
  | [], i, _, acc => encodeNat i = acc
  | .op n :: l, f, t, acc => ∀ x : BitVec n, Encodes l (f x) (t - n) (acc + scaled x.toNat (t - n))
  | .flag :: l, f, t, acc => ∀ x : Bool, Encodes l (f x) (t - 1) (acc + scaled x.toNat (t - 1))
  | .given n _ :: l, f, t, acc | .fixed n _ :: l, f, t, acc => Encodes l f (t - n) acc
/-- f makes i of some operands. -/
def Makes (i : Instr) : (l : List Fld) → Fn l → Prop
  | [], j => j = i
  | .op n :: l, f => ∃ x : BitVec n, Makes i l (f x)
  | .flag :: l, f => ∃ x : Bool, Makes i l (f x)
  | .given _ _ :: l, f | .fixed _ _ :: l, f => Makes i l f

/-! ### Arithmetic of fields -/

theorem scaled_eq (x p : Nat) : scaled x p = x * 2 ^ p := by
  cases p with
  | zero => exact (Nat.mul_one x).symm
  | succ p => rfl
theorem bits_lt (w hi lo : Nat) : bits w hi lo < 2 ^ (hi + 1 - lo) := Nat.mod_lt _ (by positivity)
/-- The bits of w below t are its top field and the bits below that. -/
theorem mod_eq_field (w : Nat) {t n : Nat} (hn : 0 < n) (h : n ≤ t) :
    w % 2 ^ t = bits w (t - 1) (t - n) * 2 ^ (t - n) + w % 2 ^ (t - n) := by
  have hw : t - 1 + 1 - (t - n) = n := by omega
  have ht : 2 ^ t = 2 ^ (t - n) * 2 ^ n := by rw [← pow_add, Nat.sub_add_cancel h]
  rw [bits, hw, ht, Nat.mod_mul, Nat.add_comm, Nat.mul_comm]
/-- A field is read back from the bits below t. -/
theorem field_of_mod {w t n v r : Nat} (hn : 0 < n) (h : n ≤ t) (hr : r < 2 ^ (t - n)) (hw : w % 2 ^ t = v * 2 ^ (t - n) + r) :
    bits w (t - 1) (t - n) = v ∧ w % 2 ^ (t - n) = r := by
  rw [mod_eq_field w hn h] at hw
  have pos : 0 < 2 ^ (t - n) := by positivity
  have low := Nat.mod_lt w pos
  have hq := congrArg (· / 2 ^ (t - n)) hw
  have hm := congrArg (· % 2 ^ (t - n)) hw
  simp only [Nat.mul_comm _ (2 ^ (t - n)), Nat.mul_add_div pos, Nat.mul_add_mod, Nat.div_eq_of_lt low, Nat.div_eq_of_lt hr,
    Nat.mod_eq_of_lt low, Nat.mod_eq_of_lt hr, Nat.add_zero] at hq hm
  exact ⟨hq, hm⟩
theorem field_lt {t n v r : Nat} (h : n ≤ t) (hv : v < 2 ^ n) (hr : r < 2 ^ (t - n)) : v * 2 ^ (t - n) + r < 2 ^ t := by
  have ht : 2 ^ t = 2 ^ n * 2 ^ (t - n) := by rw [← pow_add, Nat.add_sub_cancel' h]
  have step : (v + 1) * 2 ^ (t - n) ≤ 2 ^ n * 2 ^ (t - n) := Nat.mul_le_mul_right _ hv
  rw [ht]
  rw [Nat.add_mul, Nat.one_mul] at step
  omega
theorem toNat_ofNat_bits (w n t : Nat) (hn : 0 < n) (h : n ≤ t) :
    (BitVec.ofNat n (bits w (t - 1) (t - n))).toNat = bits w (t - 1) (t - n) := by
  have hw : t - 1 + 1 - (t - n) = n := by omega
  exact (BitVec.toNat_ofNat ..).trans (Nat.mod_eq_of_lt (by simpa only [hw] using bits_lt w (t - 1) (t - n)))
theorem toNat_bit (w k : Nat) : (bits w k k == 1).toNat = bits w k k := by
  have hb := bits_lt w k k
  rw [Nat.add_sub_cancel_left] at hb
  interval_cases bits w k k <;> rfl
theorem toNat_beq_one (z : Bool) : (z.toNat == 1) = z := by cases z <;> rfl

theorem fits_cons {k : Fld} {l : List Fld} {t : Nat} :
    Fits (k :: l) t = true ↔ 0 < k.width ∧ k.width ≤ t ∧ Fits l (t - k.width) = true := by
  simp only [Fits, Bool.and_eq_true, decide_eq_true_eq, and_assoc]

/-! ### Reading a word along a layout, and back -/

theorem eq_of_mem_guarded {w : Nat} {i j : Instr} {cs : List (Nat × Nat × Nat)} (h : i ∈ guarded w j cs) :
    i = j ∧ ∀ c ∈ cs, Holds w c := by
  unfold guarded at h
  split at h
  case h_5 => cases h
  case h_1 => exact ⟨(Option.some.inj h).symm, by simp⟩
  all_goals
    split at h
    · rename_i hc
      exact ⟨(Option.some.inj h).symm, by simpa [Holds] using hc⟩
    · cases h
theorem guarded_of_holds {w : Nat} (i : Instr) {cs : List (Nat × Nat × Nat)} (h : ∀ c ∈ cs, Holds w c) (hl : cs.length ≤ 3) :
    guarded w i cs = some i := by
  unfold guarded
  split
  case h_1 => rfl
  case h_5 h1 h2 h3 h4 =>
    match cs with
    | [] => exact absurd rfl h1
    | [a] => exact absurd rfl (h2 a)
    | [a, b] => exact absurd rfl (h3 a b)
    | [a, b, c] => exact absurd rfl (h4 a b c)
    | _ :: _ :: _ :: _ :: l => exact absurd hl (by simp)
  all_goals exact if_pos (by simpa [Holds] using h)

/-- What the fields of w make has w's bits for its word. -/
theorem encodeNat_readFn (w : Nat) (l : List Fld) : ∀ (f : Fn l) (t acc : Nat), Fits l t = true → Encodes l f t acc →
    (∀ c ∈ givens l t, Holds w c) → (∀ c ∈ fixeds l t, Holds w c) →
    encodeNat (readFn w l f t) + base l t = acc + w % 2 ^ t := by
  induction l with
  | nil =>
    intro f t acc fits enc _ _
    obtain rfl : t = 0 := by simpa [Fits] using fits
    rw [pow_zero, Nat.mod_one]
    exact congrArg (· + 0) enc
  | cons k l ih =>
    intro f t acc fits enc hg hf
    obtain ⟨pos, le, fits⟩ := fits_cons.mp fits
    rw [mod_eq_field w pos le]
    cases k with
    | op n =>
      have sum := ih _ _ _ fits (enc (.ofNat n (bits w (t - 1) (t - n)))) hg hf
      rw [scaled_eq, toNat_ofNat_bits w n t pos le, Nat.add_assoc] at sum
      exact sum
    | flag =>
      have sum := ih _ _ _ fits (enc (bits w (t - 1) (t - 1) == 1)) hg hf
      rw [scaled_eq, toNat_bit, Nat.add_assoc] at sum
      exact sum
    | given n v =>
      have sum := ih _ _ _ fits enc (fun c hc => hg c (List.mem_cons_of_mem _ hc)) hf
      rw [show bits w (t - 1) (t - Fld.width (.given n v)) = v from hg _ List.mem_cons_self, Nat.add_left_comm, ← sum,
        Nat.add_left_comm]
      rfl
    | fixed n v =>
      have sum := ih _ _ _ fits enc hg (fun c hc => hf c (List.mem_cons_of_mem _ hc))
      rw [show bits w (t - 1) (t - Fld.width (.fixed n v)) = v from hf _ List.mem_cons_self, Nat.add_left_comm, ← sum,
        Nat.add_left_comm]
      rfl

/-- The fields of a layout's fixed part have room for their values. -/
def Small : List Fld → Bool
  | [] => true
  | .given n v :: l | .fixed n v :: l => decide (v < 2 ^ n) && Small l
  | _ :: l => Small l

/-- The word of an instruction of the layout ends in its operands' places, and a word with these low bits reads back. -/
theorem readFn_encodeNat {i : Instr} (l : List Fld) : ∀ (f : Fn l) (t acc : Nat), Fits l t = true → Small l = true →
    Encodes l f t acc → Makes i l f → ∃ r < 2 ^ t, encodeNat i + base l t = acc + r ∧
      ∀ w, w % 2 ^ t = r → readFn w l f t = i ∧ (∀ c ∈ givens l t, Holds w c) ∧ ∀ c ∈ fixeds l t, Holds w c := by
  induction l with
  | nil =>
    intro f t acc fits _ enc made
    exact ⟨0, by positivity, (congrArg encodeNat made).symm.trans enc, fun w _ => ⟨made, by simp [givens], by simp [fixeds]⟩⟩
  | cons k l ih =>
    intro f t acc fits small enc made
    obtain ⟨pos, le, fits⟩ := fits_cons.mp fits
    cases k with
    | op n =>
      obtain ⟨x, made⟩ := made
      obtain ⟨r, hr, sum, back⟩ := ih (f x) _ _ fits small (enc x) made
      refine ⟨x.toNat * 2 ^ (t - n) + r, field_lt le x.isLt hr, ?_, fun w hw => ?_⟩
      · rw [← Nat.add_assoc, ← scaled_eq]
        exact sum
      · obtain ⟨hx, hrest⟩ := field_of_mod pos le hr hw
        have hx : BitVec.ofNat n (bits w (t - 1) (t - n)) = x :=
          (congrArg (BitVec.ofNat n) hx).trans ((BitVec.ofNat_toNat n x).trans (BitVec.setWidth_eq x))
        exact (congrArg (fun x => readFn w l (f x) (t - n) = i ∧ (∀ c ∈ givens l (t - n), Holds w c) ∧
          ∀ c ∈ fixeds l (t - n), Holds w c) hx).mpr (back w hrest)
    | flag =>
      obtain ⟨x, made⟩ := made
      obtain ⟨r, hr, sum, back⟩ := ih (f x) _ _ fits small (enc x) made
      refine ⟨x.toNat * 2 ^ (t - 1) + r, field_lt (n := 1) le x.toNat_lt hr, ?_, fun w hw => ?_⟩
      · rw [← Nat.add_assoc, ← scaled_eq]
        exact sum
      · obtain ⟨hx, hrest⟩ := field_of_mod (n := 1) pos le hr hw
        have hx : (bits w (t - 1) (t - 1) == 1) = x := (congrArg (· == 1) hx).trans (toNat_beq_one x)
        exact (congrArg (fun x => readFn w l (f x) (t - 1) = i ∧ (∀ c ∈ givens l (t - 1), Holds w c) ∧
          ∀ c ∈ fixeds l (t - 1), Holds w c) hx).mpr (back w hrest)
    | given n v =>
      obtain ⟨hv, small⟩ := Bool.and_eq_true_iff.mp small
      obtain ⟨r, hr, sum, back⟩ := ih f _ _ fits small enc made
      refine ⟨v * 2 ^ (t - n) + r, field_lt le (of_decide_eq_true hv) hr, ?_, fun w hw => ?_⟩
      · exact (Nat.add_left_comm ..).trans ((congrArg _ sum).trans (Nat.add_left_comm ..))
      · obtain ⟨hx, hrest⟩ := field_of_mod pos le hr hw
        obtain ⟨read, hg, hf⟩ := back w hrest
        exact ⟨read, List.forall_mem_cons.mpr ⟨hx, hg⟩, hf⟩
    | fixed n v =>
      obtain ⟨hv, small⟩ := Bool.and_eq_true_iff.mp small
      obtain ⟨r, hr, sum, back⟩ := ih f _ _ fits small enc made
      refine ⟨v * 2 ^ (t - n) + r, field_lt le (of_decide_eq_true hv) hr, ?_, fun w hw => ?_⟩
      · exact (Nat.add_left_comm ..).trans ((congrArg _ sum).trans (Nat.add_left_comm ..))
      · obtain ⟨hx, hrest⟩ := field_of_mod pos le hr hw
        obtain ⟨read, hg, hf⟩ := back w hrest
        exact ⟨read, hg, List.forall_mem_cons.mpr ⟨hx, hf⟩⟩

/-! ### Tables of layouts -/

/-- One arm of the decoder: its layout, and the instruction that it makes. -/
structure Arm where
  l : List Fld
  f : Fn l
def Arm.read (w : Nat) (a : Arm) : Option Instr := guarded w (readFn w a.l a.f 32) (fixeds a.l 32)
/-- The word of every instruction of the arm is made as its layout says. -/
def Arm.Encodes (a : Arm) : Prop := Sys2Proof.Encodes a.l a.f 32 (base a.l 32)
/-- The arm has 32 bits, and is selected by the fields gs. -/
def Arm.selectedBy (a : Arm) (gs : List (Nat × Nat × Nat)) : Bool :=
  Fits a.l 32 && Small a.l && decide ((fixeds a.l 32).length ≤ 3) && decide (givens a.l 32 = gs)

theorem Arm.readsBack {a : Arm} (enc : a.Encodes) {gs : List (Nat × Nat × Nat)} (sel : a.selectedBy gs = true) {w : Nat}
    (hw : w < 2 ^ 32) (hg : ∀ c ∈ gs, Holds w c) {i : Instr} (hi : i ∈ a.read w) : encodeNat i = w := by
  simp only [Arm.selectedBy, Bool.and_eq_true, decide_eq_true_eq] at sel
  obtain ⟨⟨⟨fits, _⟩, _⟩, rfl⟩ := sel
  obtain ⟨rfl, hf⟩ := eq_of_mem_guarded hi
  have h := encodeNat_readFn w a.l a.f 32 _ fits enc hg hf
  rw [Nat.mod_eq_of_lt hw, Nat.add_comm] at h
  exact Nat.add_left_cancel h

theorem Arm.decodes {a : Arm} (enc : a.Encodes) {gs : List (Nat × Nat × Nat)} (sel : a.selectedBy gs = true) {i : Instr}
    (made : Makes i a.l a.f) : encodeNat i < 2 ^ 32 ∧ (∀ c ∈ gs, Holds (encodeNat i) c) ∧ a.read (encodeNat i) = some i := by
  simp only [Arm.selectedBy, Bool.and_eq_true, decide_eq_true_eq] at sel
  obtain ⟨⟨⟨fits, small⟩, short⟩, rfl⟩ := sel
  obtain ⟨r, hr, sum, back⟩ := readFn_encodeNat a.l a.f 32 _ fits small enc made
  have he : encodeNat i = r := by
    rw [Nat.add_comm] at sum
    exact Nat.add_left_cancel sum
  subst he
  obtain ⟨read, hg, hf⟩ := back _ (Nat.mod_eq_of_lt hr)
  exact ⟨hr, hg, by rw [Arm.read, read, guarded_of_holds i hf short]⟩

/-- What a major stands for: one arm, or the arms that bits [hi:lo] select. -/
inductive Entry where
  | one (a : Arm)
  | table (hi lo : Nat) (arms : List (Option Arm))
/-- The arm of the entry that n selects. -/
def pick (arms : List (Option Arm)) (n : Nat) : Option Arm := (arms[n]?).join
def Entry.read (w : Nat) : Entry → Option Instr
  | .one a => a.read w
  | .table hi lo arms => (pick arms (bits w hi lo)).bind (Arm.read w)
/-- The arms from the n-th on are selected by the major m and their numbers. -/
def armsOk (m hi lo : Nat) : Nat → List (Option Arm) → Bool
  | _, [] => true
  | n, none :: l => armsOk m hi lo (n + 1) l
  | n, some a :: l => a.selectedBy [(31, 26, m), (hi, lo, n)] && armsOk m hi lo (n + 1) l
def Entry.ok (m : Nat) : Entry → Bool
  | .one a => a.selectedBy [(31, 26, m)]
  | .table hi lo arms => armsOk m hi lo 0 arms
def ArmsEncode : List (Option Arm) → Prop
  | [] => True
  | none :: l => ArmsEncode l
  | some a :: l => a.Encodes ∧ ArmsEncode l
def Entry.Encodes : Entry → Prop
  | .one a => a.Encodes
  | .table _ _ arms => ArmsEncode arms

theorem arm_of_pick {m hi lo : Nat} (arms : List (Option Arm)) : ∀ (k n : Nat) {a : Arm}, armsOk m hi lo k arms = true →
    ArmsEncode arms → pick arms n = some a → a.Encodes ∧ a.selectedBy [(31, 26, m), (hi, lo, k + n)] = true := by
  induction arms with
  | nil => intro k n a _ _ h; cases h
  | cons o arms ih =>
    intro k n a ok enc h
    cases n with
    | zero =>
      obtain rfl : o = some a := h
      exact ⟨enc.1, (Bool.and_eq_true_iff.mp ok).1⟩
    | succ n =>
      cases o with
      | none => exact Nat.add_right_comm k 1 n ▸ ih (k + 1) n ok enc h
      | some b => exact Nat.add_right_comm k 1 n ▸ ih (k + 1) n (Bool.and_eq_true_iff.mp ok).2 enc.2 h

theorem Entry.readsBack {e : Entry} {m w : Nat} (ok : e.ok m = true) (enc : e.Encodes) (hw : w < 2 ^ 32) (hm : bits w 31 26 = m)
    {i : Instr} (hi : i ∈ e.read w) : encodeNat i = w := by
  cases e with
  | one a => exact a.readsBack enc ok hw (List.forall_mem_singleton.mpr hm) hi
  | table hi lo arms =>
    obtain ⟨a, ha, hi⟩ := Option.bind_eq_some_iff.mp hi
    obtain ⟨enc, sel⟩ := arm_of_pick arms 0 _ ok enc ha
    exact a.readsBack enc sel hw (List.forall_mem_cons.mpr ⟨hm, List.forall_mem_singleton.mpr (Nat.zero_add _).symm⟩) hi

/-- The instruction i is one of the entry's. -/
def Entry.Has (i : Instr) (n : Nat) : Entry → Prop
  | .one a => Makes i a.l a.f
  | .table _ _ arms => ∃ a, pick arms n = some a ∧ Makes i a.l a.f

theorem Entry.decodes {e : Entry} {m n : Nat} (ok : e.ok m = true) (enc : e.Encodes) {i : Instr} (has : e.Has i n) :
    encodeNat i < 2 ^ 32 ∧ bits (encodeNat i) 31 26 = m ∧ e.read (encodeNat i) = some i := by
  cases e with
  | one a =>
    obtain ⟨lt, hg, read⟩ := a.decodes enc ok has
    exact ⟨lt, hg _ List.mem_cons_self, read⟩
  | table hi lo arms =>
    obtain ⟨a, ha, made⟩ := has
    obtain ⟨enc, sel⟩ := arm_of_pick arms 0 _ ok enc ha
    obtain ⟨lt, hg, read⟩ := a.decodes enc sel made
    have hn : bits (encodeNat i) hi lo = n := (hg _ (List.mem_cons_of_mem _ List.mem_cons_self)).trans (Nat.zero_add n)
    refine ⟨lt, hg _ List.mem_cons_self, ?_⟩
    rw [Entry.read, hn, ha]
    exact read

/-- Two functions agree below k where the lists of their values do. -/
theorem forall_of_map_range {α : Type} {f g : Nat → α} {k : Nat} (h : (List.range k).map f = (List.range k).map g) :
    ∀ n, n < k → f n = g n := fun n hn => List.map_inj_left.mp h n (List.mem_range.mpr hn)

/-! ### The layouts

A name lists the fields below the major, from the top, with their widths: v is an operand, b a flag, r a reserved field (with
its value, where that is not 0) and f the function code. -/

def lay_v5_v5_v5_r5_f6 (m n : Nat) : List Fld := [.given 6 m, .op 5, .op 5, .op 5, .fixed 5 0, .given 6 n]
def lay_v5_v5_r10_f6 (m n : Nat) : List Fld := [.given 6 m, .op 5, .op 5, .fixed 10 0, .given 6 n]
def lay_v5_v5_r5_v5_f6 (m n : Nat) : List Fld := [.given 6 m, .op 5, .op 5, .fixed 5 0, .op 5, .given 6 n]
def lay_v5_v5_v6_v6_f4 (m n : Nat) : List Fld := [.given 6 m, .op 5, .op 5, .op 6, .op 6, .given 4 n]
def lay_v5_v5_f2_r8_v6 (m n : Nat) : List Fld := [.given 6 m, .op 5, .op 5, .given 2 n, .fixed 8 0, .op 6]
def lay_r5_v5_r10_f6 (m n : Nat) : List Fld := [.given 6 m, .fixed 5 0, .op 5, .fixed 10 0, .given 6 n]
def lay_v5_v5_v5_v2_v2_b1_f6 (m n : Nat) : List Fld := [.given 6 m, .op 5, .op 5, .op 5, .op 2, .op 2, .flag, .given 6 n]
def lay_v5_v5_r5_v2_v2_b1_f6 (m n : Nat) : List Fld := [.given 6 m, .op 5, .op 5, .fixed 5 0, .op 2, .op 2, .flag, .given 6 n]
def lay_r5_v5_v5_v2_v2_b1_f6 (m n : Nat) : List Fld := [.given 6 m, .fixed 5 0, .op 5, .op 5, .op 2, .op 2, .flag, .given 6 n]
def lay_r5_v5_r5_v2_r3_f6 (m n : Nat) : List Fld := [.given 6 m, .fixed 5 0, .op 5, .fixed 5 0, .op 2, .fixed 3 0, .given 6 n]
def lay_r15_v2_r3_f6 (m n : Nat) : List Fld := [.given 6 m, .fixed 15 0, .op 2, .fixed 3 0, .given 6 n]
def lay_v5_v5_v5_r5x16_f6 (m n : Nat) : List Fld := [.given 6 m, .op 5, .op 5, .op 5, .fixed 5 16, .given 6 n]
def lay_v5_v5_r10x16_f6 (m n : Nat) : List Fld := [.given 6 m, .op 5, .op 5, .fixed 10 16, .given 6 n]
def lay_v5_v5_r5_v2_r3_f6 (m n : Nat) : List Fld := [.given 6 m, .op 5, .op 5, .fixed 5 0, .op 2, .fixed 3 0, .given 6 n]
def lay_v5_v5_v5_v2_r3_f6 (m n : Nat) : List Fld := [.given 6 m, .op 5, .op 5, .op 5, .op 2, .fixed 3 0, .given 6 n]
def lay_r20x16_f6 (m n : Nat) : List Fld := [.given 6 m, .fixed 20 16, .given 6 n]
def lay_v5_r15x16_f6 (m n : Nat) : List Fld := [.given 6 m, .op 5, .fixed 15 16, .given 6 n]
def lay_r20_f6 (m n : Nat) : List Fld := [.given 6 m, .fixed 20 0, .given 6 n]
def lay_v5_r15_f6 (m n : Nat) : List Fld := [.given 6 m, .op 5, .fixed 15 0, .given 6 n]
def lay_v5_r5_v12_f4 (m n : Nat) : List Fld := [.given 6 m, .op 5, .fixed 5 0, .op 12, .given 4 n]
def lay_v5_v5_v12_f4 (m n : Nat) : List Fld := [.given 6 m, .op 5, .op 5, .op 12, .given 4 n]
def lay_v5_v5_v8_b1_f3_r4 (m n : Nat) : List Fld := [.given 6 m, .op 5, .op 5, .op 8, .flag, .given 3 n, .fixed 4 0]
def lay_v5_r5_v8_b1_f3_r4 (m n : Nat) : List Fld := [.given 6 m, .op 5, .fixed 5 0, .op 8, .flag, .given 3 n, .fixed 4 0]
def lay_r5_v5_v5_r3_v2_f6 (m n : Nat) : List Fld := [.given 6 m, .fixed 5 0, .op 5, .op 5, .fixed 3 0, .op 2, .given 6 n]
def lay_v5_v5_v5_v4_b1_b1_f5 (m n : Nat) : List Fld := [.given 6 m, .op 5, .op 5, .op 5, .op 4, .flag, .flag, .given 5 n]
def lay_v5_v5_v5_v4_b1_r1_f5 (m n : Nat) : List Fld := [.given 6 m, .op 5, .op 5, .op 5, .op 4, .flag, .fixed 1 0, .given 5 n]
def lay_v5_v5_r5_v4_b1_r1_f5 (m n : Nat) : List Fld := [.given 6 m, .op 5, .op 5, .fixed 5 0, .op 4, .flag, .fixed 1 0, .given 5 n]
def lay_r1_v4_v5_v5_v4_b1_b1_f5 (m n : Nat) : List Fld := [.given 6 m, .fixed 1 0, .op 4, .op 5, .op 5, .op 4, .flag, .flag, .given 5 n]
def lay_r1_v4_v5_v5_v4_b1_r1_f5 (m n : Nat) : List Fld := [.given 6 m, .fixed 1 0, .op 4, .op 5, .op 5, .op 4, .flag, .fixed 1 0, .given 5 n]
def lay_v5_v5_v5_r4_b1_b1_f5 (m n : Nat) : List Fld := [.given 6 m, .op 5, .op 5, .op 5, .fixed 4 0, .flag, .flag, .given 5 n]
def lay_v5_v5_r9_b1_r1_f5 (m n : Nat) : List Fld := [.given 6 m, .op 5, .op 5, .fixed 9 0, .flag, .fixed 1 0, .given 5 n]
def lay_v5_v5_v5_r6_f5 (m n : Nat) : List Fld := [.given 6 m, .op 5, .op 5, .op 5, .fixed 6 0, .given 5 n]
def lay_v5_v5_v5_r4_b1_r1_f5 (m n : Nat) : List Fld := [.given 6 m, .op 5, .op 5, .op 5, .fixed 4 0, .flag, .fixed 1 0, .given 5 n]
def lay_v5_v5_r11_f5 (m n : Nat) : List Fld := [.given 6 m, .op 5, .op 5, .fixed 11 0, .given 5 n]
def lay_v5_v5_r5_v4_r2_f5 (m n : Nat) : List Fld := [.given 6 m, .op 5, .op 5, .fixed 5 0, .op 4, .fixed 2 0, .given 5 n]
def lay_v5_v5_v5_v4_r2_f5 (m n : Nat) : List Fld := [.given 6 m, .op 5, .op 5, .op 5, .op 4, .fixed 2 0, .given 5 n]
def lay_v5_v5_r5_v4_r1_b1_f5 (m n : Nat) : List Fld := [.given 6 m, .op 5, .op 5, .fixed 5 0, .op 4, .fixed 1 0, .flag, .given 5 n]
def lay_v5_v5_v5_v4_r1_b1_f5 (m n : Nat) : List Fld := [.given 6 m, .op 5, .op 5, .op 5, .op 4, .fixed 1 0, .flag, .given 5 n]
def lay_r5_v5_v5_v5_f6 (m n : Nat) : List Fld := [.given 6 m, .fixed 5 0, .op 5, .op 5, .op 5, .given 6 n]
def lay_r15_v5_f6 (m n : Nat) : List Fld := [.given 6 m, .fixed 15 0, .op 5, .given 6 n]
def lay_v5_v5_v5_v5_f6 (m n : Nat) : List Fld := [.given 6 m, .op 5, .op 5, .op 5, .op 5, .given 6 n]
def lay_r5_v5_r5_v5_f6 (m n : Nat) : List Fld := [.given 6 m, .fixed 5 0, .op 5, .fixed 5 0, .op 5, .given 6 n]
def lay_v5_r10_v5_f6 (m n : Nat) : List Fld := [.given 6 m, .op 5, .fixed 10 0, .op 5, .given 6 n]
def lay_r5_v5_v5_r5_f6 (m n : Nat) : List Fld := [.given 6 m, .fixed 5 0, .op 5, .op 5, .fixed 5 0, .given 6 n]
def lay_v5_v5_v16 (m : Nat) : List Fld := [.given 6 m, .op 5, .op 5, .op 16]
def lay_v5_r3_v2_v16 (m : Nat) : List Fld := [.given 6 m, .op 5, .fixed 3 0, .op 2, .op 16]
def lay_v5_v21 (m : Nat) : List Fld := [.given 6 m, .op 5, .op 21]
def lay_v10_v16 (m : Nat) : List Fld := [.given 6 m, .op 10, .op 16]
def lay_v26 (m : Nat) : List Fld := [.given 6 m, .op 26]
def lay_v5_v5_v5_v4_b1_r1_v5 (m : Nat) : List Fld := [.given 6 m, .op 5, .op 5, .op 5, .op 4, .flag, .fixed 1 0, .op 5]
def lay_v5_v4_v9_v8 (m : Nat) : List Fld := [.given 6 m, .op 5, .op 4, .op 9, .op 8]

/-! ### The decoder as tables of layouts, one major each -/

def intArms : List (Option Arm) := [
  some ⟨lay_v5_v5_v5_r5_f6 1 0, Instr.add⟩, some ⟨lay_v5_v5_v5_r5_f6 1 1, Instr.sub⟩,
  some ⟨lay_v5_v5_v5_r5_f6 1 2, Instr.and⟩, some ⟨lay_v5_v5_v5_r5_f6 1 3, Instr.or⟩,
  some ⟨lay_v5_v5_v5_r5_f6 1 4, Instr.xor⟩, some ⟨lay_v5_v5_v5_r5_f6 1 5, Instr.andn⟩,
  some ⟨lay_v5_v5_v5_r5_f6 1 6, Instr.orn⟩, some ⟨lay_v5_v5_v5_r5_f6 1 7, Instr.sll⟩,
  some ⟨lay_v5_v5_v5_r5_f6 1 8, Instr.srl⟩, some ⟨lay_v5_v5_v5_r5_f6 1 9, Instr.sra⟩,
  some ⟨lay_v5_v5_v5_r5_f6 1 10, Instr.rol⟩, some ⟨lay_v5_v5_v5_r5_f6 1 11, Instr.ror⟩,
  some ⟨lay_v5_v5_v5_r5_f6 1 12, Instr.slt⟩, some ⟨lay_v5_v5_v5_r5_f6 1 13, Instr.sltu⟩,
  some ⟨lay_v5_v5_v5_r5_f6 1 14, Instr.min⟩, some ⟨lay_v5_v5_v5_r5_f6 1 15, Instr.max⟩,
  some ⟨lay_v5_v5_v5_r5_f6 1 16, Instr.minu⟩, some ⟨lay_v5_v5_v5_r5_f6 1 17, Instr.maxu⟩,
  some ⟨lay_v5_v5_v5_r5_f6 1 18, Instr.addw⟩, some ⟨lay_v5_v5_v5_r5_f6 1 19, Instr.subw⟩,
  some ⟨lay_v5_v5_r10_f6 1 20, Instr.clz⟩, some ⟨lay_v5_v5_r10_f6 1 21, Instr.ctz⟩,
  some ⟨lay_v5_v5_r10_f6 1 22, Instr.popc⟩, some ⟨lay_v5_v5_r10_f6 1 23, Instr.brev⟩,
  some ⟨lay_v5_v5_r10_f6 1 24, Instr.bswap⟩, some ⟨lay_v5_v5_r5_v5_f6 1 25, Instr.sext⟩,
  some ⟨lay_v5_v5_r5_v5_f6 1 26, Instr.zext⟩, some ⟨lay_v5_v5_v5_r5_f6 1 27, Instr.bfxv⟩,
  some ⟨lay_v5_v5_v5_r5_f6 1 28, Instr.bfxzv⟩, some ⟨lay_v5_v5_v5_r5_f6 1 29, Instr.bfiv⟩,
  some ⟨lay_v5_v5_v5_r5_f6 1 30, Instr.selnz⟩, some ⟨lay_v5_v5_v5_r5_f6 1 31, Instr.selz⟩]
theorem decodeInt_eq (w : Nat) : decodeInt w = (pick intArms (bits w 5 0)).bind (Arm.read w) := by
  have lt := bits_lt w 5 0
  unfold decodeInt
  generalize bits w 5 0 = n at lt ⊢
  revert n
  refine forall_of_map_range ?_
  rfl
theorem intArms_encode : ArmsEncode intArms :=
  ⟨fun _ _ _ => rfl, fun _ _ _ => rfl, fun _ _ _ => rfl, fun _ _ _ => rfl, fun _ _ _ => rfl, fun _ _ _ => rfl,
  fun _ _ _ => rfl, fun _ _ _ => rfl, fun _ _ _ => rfl, fun _ _ _ => rfl, fun _ _ _ => rfl, fun _ _ _ => rfl,
  fun _ _ _ => rfl, fun _ _ _ => rfl, fun _ _ _ => rfl, fun _ _ _ => rfl, fun _ _ _ => rfl, fun _ _ _ => rfl,
  fun _ _ _ => rfl, fun _ _ _ => rfl, fun _ _ => rfl, fun _ _ => rfl, fun _ _ => rfl, fun _ _ => rfl, fun _ _ => rfl,
  fun _ _ _ => rfl, fun _ _ _ => rfl, fun _ _ _ => rfl, fun _ _ _ => rfl, fun _ _ _ => rfl, fun _ _ _ => rfl,
  fun _ _ _ => rfl, trivial⟩
def mulDivArms : List (Option Arm) := [
  some ⟨lay_v5_v5_v5_r5_f6 2 0, Instr.mul⟩, some ⟨lay_v5_v5_v5_r5_f6 2 1, Instr.mulh⟩,
  some ⟨lay_v5_v5_v5_r5_f6 2 2, Instr.mulhu⟩, some ⟨lay_v5_v5_v5_r5_f6 2 3, Instr.mulhsu⟩,
  some ⟨lay_v5_v5_v5_r5_f6 2 4, Instr.mulw⟩, some ⟨lay_v5_v5_v5_r5_f6 2 5, Instr.div⟩,
  some ⟨lay_v5_v5_v5_r5_f6 2 6, Instr.divu⟩, some ⟨lay_v5_v5_v5_r5_f6 2 7, Instr.rem⟩,
  some ⟨lay_v5_v5_v5_r5_f6 2 8, Instr.remu⟩, some ⟨lay_v5_v5_v5_r5_f6 2 9, Instr.divw⟩]
theorem decodeMulDiv_eq (w : Nat) : decodeMulDiv w = (pick mulDivArms (bits w 5 0)).bind (Arm.read w) := by
  have lt := bits_lt w 5 0
  unfold decodeMulDiv
  generalize bits w 5 0 = n at lt ⊢
  revert n
  refine forall_of_map_range ?_
  rfl
theorem mulDivArms_encode : ArmsEncode mulDivArms :=
  ⟨fun _ _ _ => rfl, fun _ _ _ => rfl, fun _ _ _ => rfl, fun _ _ _ => rfl, fun _ _ _ => rfl, fun _ _ _ => rfl,
  fun _ _ _ => rfl, fun _ _ _ => rfl, fun _ _ _ => rfl, fun _ _ _ => rfl, trivial⟩
def bitFieldArms : List (Option Arm) := [
  some ⟨lay_v5_v5_v6_v6_f4 3 0, Instr.bfx⟩, some ⟨lay_v5_v5_v6_v6_f4 3 1, Instr.bfxz⟩,
  some ⟨lay_v5_v5_v6_v6_f4 3 2, Instr.bfi⟩]
theorem decodeBitField_eq (w : Nat) : decodeBitField w = (pick bitFieldArms (bits w 3 0)).bind (Arm.read w) := by
  have lt := bits_lt w 3 0
  unfold decodeBitField
  generalize bits w 3 0 = n at lt ⊢
  revert n
  refine forall_of_map_range ?_
  rfl
theorem bitFieldArms_encode : ArmsEncode bitFieldArms :=
  ⟨fun _ _ _ _ => rfl, fun _ _ _ _ => rfl, fun _ _ _ _ => rfl, trivial⟩
def shiArms : List (Option Arm) := [
  some ⟨lay_v5_v5_f2_r8_v6 10 0, Instr.slli⟩, some ⟨lay_v5_v5_f2_r8_v6 10 1, Instr.srli⟩,
  some ⟨lay_v5_v5_f2_r8_v6 10 2, Instr.srai⟩, some ⟨lay_v5_v5_f2_r8_v6 10 3, Instr.rori⟩]
theorem decodeShi_eq (w : Nat) : decodeShi w = (pick shiArms (bits w 15 14)).bind (Arm.read w) := by
  have lt := bits_lt w 15 14
  unfold decodeShi
  generalize bits w 15 14 = n at lt ⊢
  revert n
  refine forall_of_map_range ?_
  rfl
theorem shiArms_encode : ArmsEncode shiArms :=
  ⟨fun _ _ _ => rfl, fun _ _ _ => rfl, fun _ _ _ => rfl, fun _ _ _ => rfl, trivial⟩
def jumpArms : List (Option Arm) := [
  some ⟨lay_r5_v5_r10_f6 24 0, Instr.jr⟩, some ⟨lay_v5_v5_r10_f6 24 1, Instr.jalr⟩]
theorem decodeJump_eq (w : Nat) : decodeJump w = (pick jumpArms (bits w 5 0)).bind (Arm.read w) := by
  have lt := bits_lt w 5 0
  unfold decodeJump
  generalize bits w 5 0 = n at lt ⊢
  revert n
  refine forall_of_map_range ?_
  rfl
theorem jumpArms_encode : ArmsEncode jumpArms :=
  ⟨fun _ => rfl, fun _ _ => rfl, trivial⟩
def atomArms : List (Option Arm) := [
  some ⟨lay_v5_v5_v5_v2_v2_b1_f6 36 0, Instr.amoadd⟩, some ⟨lay_v5_v5_v5_v2_v2_b1_f6 36 1, Instr.amoand⟩,
  some ⟨lay_v5_v5_v5_v2_v2_b1_f6 36 2, Instr.amoor⟩, some ⟨lay_v5_v5_v5_v2_v2_b1_f6 36 3, Instr.amoxor⟩,
  some ⟨lay_v5_v5_v5_v2_v2_b1_f6 36 4, Instr.amomin⟩, some ⟨lay_v5_v5_v5_v2_v2_b1_f6 36 5, Instr.amomax⟩,
  some ⟨lay_v5_v5_v5_v2_v2_b1_f6 36 6, Instr.amominu⟩, some ⟨lay_v5_v5_v5_v2_v2_b1_f6 36 7, Instr.amomaxu⟩,
  some ⟨lay_v5_v5_v5_v2_v2_b1_f6 36 8, Instr.amoswap⟩, some ⟨lay_v5_v5_v5_v2_v2_b1_f6 36 9, Instr.amocas⟩,
  some ⟨lay_v5_v5_r5_v2_v2_b1_f6 36 10, Instr.amold⟩, some ⟨lay_r5_v5_v5_v2_v2_b1_f6 36 11, Instr.amost⟩,
  some ⟨lay_v5_v5_v5_v2_v2_b1_f6 36 12, Instr.amowait⟩]
theorem decodeAtom_eq (w : Nat) : decodeAtom w = (pick atomArms (bits w 5 0)).bind (Arm.read w) := by
  have lt := bits_lt w 5 0
  unfold decodeAtom
  generalize bits w 5 0 = n at lt ⊢
  revert n
  refine forall_of_map_range ?_
  rfl
theorem atomArms_encode : ArmsEncode atomArms :=
  ⟨fun _ _ _ _ _ _ => rfl, fun _ _ _ _ _ _ => rfl, fun _ _ _ _ _ _ => rfl, fun _ _ _ _ _ _ => rfl, fun _ _ _ _ _ _ => rfl,
  fun _ _ _ _ _ _ => rfl, fun _ _ _ _ _ _ => rfl, fun _ _ _ _ _ _ => rfl, fun _ _ _ _ _ _ => rfl, fun _ _ _ _ _ _ => rfl,
  fun _ _ _ _ _ => rfl, fun _ _ _ _ _ => rfl, fun _ _ _ _ _ _ => rfl, trivial⟩
def syncArms : List (Option Arm) := [
  some ⟨lay_r5_v5_r5_v2_r3_f6 37 0, Instr.acq⟩, some ⟨lay_r5_v5_r5_v2_r3_f6 37 1, Instr.rel⟩,
  some ⟨lay_r15_v2_r3_f6 37 2, Instr.fence⟩, some ⟨lay_v5_v5_v5_r5x16_f6 37 3, Instr.own⟩,
  some ⟨lay_v5_v5_r10x16_f6 37 4, Instr.disown⟩, some ⟨lay_r5_v5_r5_v2_r3_f6 37 5, Instr.ifence⟩,
  some ⟨lay_v5_v5_r5_v2_r3_f6 37 6, Instr.arrive⟩, some ⟨lay_v5_v5_v5_v2_r3_f6 37 7, Instr.waitb⟩,
  some ⟨lay_v5_v5_v5_v2_r3_f6 37 8, Instr.vote⟩, some ⟨lay_v5_v5_r10x16_f6 37 9, Instr.jinit⟩,
  some ⟨lay_v5_v5_r10x16_f6 37 10, Instr.jarrive⟩, some ⟨lay_v5_v5_r10x16_f6 37 11, Instr.jwait⟩,
  some ⟨lay_r20x16_f6 37 12, Instr.jkpt⟩, some ⟨lay_v5_v5_v5_r5x16_f6 37 13, Instr.jstat⟩,
  some ⟨lay_v5_r15x16_f6 37 14, Instr.jleave⟩]
theorem decodeSync_eq (w : Nat) : decodeSync w = (pick syncArms (bits w 5 0)).bind (Arm.read w) := by
  have lt := bits_lt w 5 0
  unfold decodeSync
  generalize bits w 5 0 = n at lt ⊢
  revert n
  refine forall_of_map_range ?_
  rfl
theorem syncArms_encode : ArmsEncode syncArms :=
  ⟨fun _ _ => rfl, fun _ _ => rfl, fun _ => rfl, fun _ _ _ => rfl, fun _ _ => rfl, fun _ _ => rfl, fun _ _ _ => rfl,
  fun _ _ _ _ => rfl, fun _ _ _ _ => rfl, fun _ _ => rfl, fun _ _ => rfl, fun _ _ => rfl, rfl, fun _ _ _ => rfl,
  fun _ => rfl, trivial⟩
def wispArms : List (Option Arm) := [
  some ⟨lay_r5_v5_r10_f6 38 0, Instr.suspend⟩, some ⟨lay_r20_f6 38 1, Instr.retire⟩,
  some ⟨lay_v5_v5_r10_f6 38 2, Instr.launch⟩, some ⟨lay_v5_v5_r10_f6 38 3, Instr.qry⟩,
  some ⟨lay_v5_v5_r10_f6 38 4, Instr.locq⟩, some ⟨lay_v5_r15_f6 38 5, Instr.rdtime⟩, some ⟨lay_v5_r15_f6 38 6, Instr.rdcyc⟩,
  some ⟨lay_r5_v5_r10_f6 38 7, Instr.trap⟩, some ⟨lay_r20_f6 38 8, Instr.brk⟩, some ⟨lay_r20_f6 38 9, Instr.nop⟩,
  some ⟨lay_r5_v5_r10_f6 38 10, Instr.engwait⟩, some ⟨lay_v5_r15_f6 38 11, Instr.engstat⟩,
  some ⟨lay_v5_r15_f6 38 12, Instr.gang⟩, some ⟨lay_r20_f6 38 13, Instr.disband⟩]
theorem decodeWisp_eq (w : Nat) : decodeWisp w = (pick wispArms (bits w 5 0)).bind (Arm.read w) := by
  have lt := bits_lt w 5 0
  unfold decodeWisp
  generalize bits w 5 0 = n at lt ⊢
  revert n
  refine forall_of_map_range ?_
  rfl
theorem wispArms_encode : ArmsEncode wispArms :=
  ⟨fun _ => rfl, rfl, fun _ _ => rfl, fun _ _ => rfl, fun _ _ => rfl, fun _ => rfl, fun _ => rfl, fun _ => rfl, rfl, rfl,
  fun _ => rfl, fun _ => rfl, fun _ => rfl, rfl, trivial⟩
def cregArms : List (Option Arm) := [
  some ⟨lay_v5_r5_v12_f4 39 0, Instr.crd⟩, some ⟨lay_v5_v5_v12_f4 39 1, Instr.cwr⟩,
  some ⟨lay_v5_v5_v12_f4 39 2, Instr.cset⟩, some ⟨lay_v5_v5_v12_f4 39 3, Instr.cclr⟩]
theorem decodeCreg_eq (w : Nat) : decodeCreg w = (pick cregArms (bits w 3 0)).bind (Arm.read w) := by
  have lt := bits_lt w 3 0
  unfold decodeCreg
  generalize bits w 3 0 = n at lt ⊢
  revert n
  refine forall_of_map_range ?_
  rfl
theorem cregArms_encode : ArmsEncode cregArms :=
  ⟨fun _ _ => rfl, fun _ _ _ => rfl, fun _ _ _ => rfl, fun _ _ _ => rfl, trivial⟩
def setVlArms : List (Option Arm) := [
  some ⟨lay_v5_v5_v8_b1_f3_r4 40 0, Instr.setvl⟩, some ⟨lay_v5_r5_v8_b1_f3_r4 40 1, Instr.setvlMax⟩,
  some ⟨lay_v5_r5_v8_b1_f3_r4 40 2, Instr.setvlType⟩]
theorem decodeSetVl_eq (w : Nat) : decodeSetVl w = (pick setVlArms (bits w 6 4)).bind (Arm.read w) := by
  have lt := bits_lt w 6 4
  unfold decodeSetVl
  generalize bits w 6 4 = n at lt ⊢
  revert n
  refine forall_of_map_range ?_
  rfl
theorem setVlArms_encode : ArmsEncode setVlArms :=
  ⟨fun _ _ _ _ => rfl, fun _ _ _ => rfl, fun _ _ _ => rfl, trivial⟩
def setDArms : List (Option Arm) := [
  some ⟨lay_r5_v5_v5_r3_v2_f6 41 0, Instr.setd⟩]
theorem decodeSetD_eq (w : Nat) : decodeSetD w = (pick setDArms (bits w 5 0)).bind (Arm.read w) := by
  have lt := bits_lt w 5 0
  unfold decodeSetD
  generalize bits w 5 0 = n at lt ⊢
  revert n
  refine forall_of_map_range ?_
  rfl
theorem setDArms_encode : ArmsEncode setDArms :=
  ⟨fun _ _ _ => rfl, trivial⟩
def vintVvArms : List (Option Arm) := [
  some ⟨lay_v5_v5_v5_v4_b1_b1_f5 42 0, Instr.vaddVv⟩, some ⟨lay_v5_v5_v5_v4_b1_b1_f5 42 1, Instr.vsubVv⟩,
  some ⟨lay_v5_v5_v5_v4_b1_b1_f5 42 2, Instr.vrsubVv⟩, some ⟨lay_v5_v5_v5_v4_b1_b1_f5 42 3, Instr.vmulVv⟩,
  some ⟨lay_v5_v5_v5_v4_b1_b1_f5 42 4, Instr.vmulhVv⟩, some ⟨lay_v5_v5_v5_v4_b1_b1_f5 42 5, Instr.vmulhuVv⟩,
  some ⟨lay_v5_v5_v5_v4_b1_b1_f5 42 6, Instr.vminVv⟩, some ⟨lay_v5_v5_v5_v4_b1_b1_f5 42 7, Instr.vmaxVv⟩,
  some ⟨lay_v5_v5_v5_v4_b1_b1_f5 42 8, Instr.vminuVv⟩, some ⟨lay_v5_v5_v5_v4_b1_b1_f5 42 9, Instr.vmaxuVv⟩,
  some ⟨lay_v5_v5_v5_v4_b1_b1_f5 42 10, Instr.vandVv⟩, some ⟨lay_v5_v5_v5_v4_b1_b1_f5 42 11, Instr.vorVv⟩,
  some ⟨lay_v5_v5_v5_v4_b1_b1_f5 42 12, Instr.vxorVv⟩, some ⟨lay_v5_v5_v5_v4_b1_b1_f5 42 13, Instr.vsllVv⟩,
  some ⟨lay_v5_v5_v5_v4_b1_b1_f5 42 14, Instr.vsrlVv⟩, some ⟨lay_v5_v5_v5_v4_b1_b1_f5 42 15, Instr.vsraVv⟩,
  some ⟨lay_v5_v5_v5_v4_b1_b1_f5 42 16, Instr.vaddsatVv⟩, some ⟨lay_v5_v5_v5_v4_b1_b1_f5 42 17, Instr.vsubsatVv⟩,
  some ⟨lay_v5_v5_v5_v4_b1_b1_f5 42 18, Instr.vaddsatuVv⟩, some ⟨lay_v5_v5_v5_v4_b1_b1_f5 42 19, Instr.vsubsatuVv⟩,
  some ⟨lay_v5_v5_v5_v4_b1_b1_f5 42 20, Instr.vabsdVv⟩, some ⟨lay_v5_v5_v5_v4_b1_b1_f5 42 21, Instr.vmaccVv⟩,
  some ⟨lay_v5_v5_v5_v4_b1_b1_f5 42 22, Instr.vdivVv⟩, some ⟨lay_v5_v5_v5_v4_b1_b1_f5 42 23, Instr.vremVv⟩]
theorem decodeVintVv_eq (w : Nat) : decodeVintVv w = (pick vintVvArms (bits w 4 0)).bind (Arm.read w) := by
  have lt := bits_lt w 4 0
  unfold decodeVintVv
  generalize bits w 4 0 = n at lt ⊢
  revert n
  refine forall_of_map_range ?_
  rfl
theorem vintVvArms_encode : ArmsEncode vintVvArms :=
  ⟨fun _ _ _ _ _ _ => rfl, fun _ _ _ _ _ _ => rfl, fun _ _ _ _ _ _ => rfl, fun _ _ _ _ _ _ => rfl, fun _ _ _ _ _ _ => rfl,
  fun _ _ _ _ _ _ => rfl, fun _ _ _ _ _ _ => rfl, fun _ _ _ _ _ _ => rfl, fun _ _ _ _ _ _ => rfl, fun _ _ _ _ _ _ => rfl,
  fun _ _ _ _ _ _ => rfl, fun _ _ _ _ _ _ => rfl, fun _ _ _ _ _ _ => rfl, fun _ _ _ _ _ _ => rfl, fun _ _ _ _ _ _ => rfl,
  fun _ _ _ _ _ _ => rfl, fun _ _ _ _ _ _ => rfl, fun _ _ _ _ _ _ => rfl, fun _ _ _ _ _ _ => rfl, fun _ _ _ _ _ _ => rfl,
  fun _ _ _ _ _ _ => rfl, fun _ _ _ _ _ _ => rfl, fun _ _ _ _ _ _ => rfl, fun _ _ _ _ _ _ => rfl, trivial⟩
def vintVsArms : List (Option Arm) := [
  some ⟨lay_v5_v5_v5_v4_b1_r1_f5 43 0, Instr.vaddVs⟩, some ⟨lay_v5_v5_v5_v4_b1_r1_f5 43 1, Instr.vsubVs⟩,
  some ⟨lay_v5_v5_v5_v4_b1_r1_f5 43 2, Instr.vrsubVs⟩, some ⟨lay_v5_v5_v5_v4_b1_r1_f5 43 3, Instr.vmulVs⟩,
  some ⟨lay_v5_v5_v5_v4_b1_r1_f5 43 4, Instr.vmulhVs⟩, some ⟨lay_v5_v5_v5_v4_b1_r1_f5 43 5, Instr.vmulhuVs⟩,
  some ⟨lay_v5_v5_v5_v4_b1_r1_f5 43 6, Instr.vminVs⟩, some ⟨lay_v5_v5_v5_v4_b1_r1_f5 43 7, Instr.vmaxVs⟩,
  some ⟨lay_v5_v5_v5_v4_b1_r1_f5 43 8, Instr.vminuVs⟩, some ⟨lay_v5_v5_v5_v4_b1_r1_f5 43 9, Instr.vmaxuVs⟩,
  some ⟨lay_v5_v5_v5_v4_b1_r1_f5 43 10, Instr.vandVs⟩, some ⟨lay_v5_v5_v5_v4_b1_r1_f5 43 11, Instr.vorVs⟩,
  some ⟨lay_v5_v5_v5_v4_b1_r1_f5 43 12, Instr.vxorVs⟩, some ⟨lay_v5_v5_v5_v4_b1_r1_f5 43 13, Instr.vsllVs⟩,
  some ⟨lay_v5_v5_v5_v4_b1_r1_f5 43 14, Instr.vsrlVs⟩, some ⟨lay_v5_v5_v5_v4_b1_r1_f5 43 15, Instr.vsraVs⟩,
  some ⟨lay_v5_v5_v5_v4_b1_r1_f5 43 16, Instr.vaddsatVs⟩, some ⟨lay_v5_v5_v5_v4_b1_r1_f5 43 17, Instr.vsubsatVs⟩,
  some ⟨lay_v5_v5_v5_v4_b1_r1_f5 43 18, Instr.vaddsatuVs⟩, some ⟨lay_v5_v5_v5_v4_b1_r1_f5 43 19, Instr.vsubsatuVs⟩,
  some ⟨lay_v5_v5_v5_v4_b1_r1_f5 43 20, Instr.vabsdVs⟩, some ⟨lay_v5_v5_v5_v4_b1_r1_f5 43 21, Instr.vmaccVs⟩,
  some ⟨lay_v5_v5_v5_v4_b1_r1_f5 43 22, Instr.vdivVs⟩, some ⟨lay_v5_v5_v5_v4_b1_r1_f5 43 23, Instr.vremVs⟩]
theorem decodeVintVs_eq (w : Nat) : decodeVintVs w = (pick vintVsArms (bits w 4 0)).bind (Arm.read w) := by
  have lt := bits_lt w 4 0
  unfold decodeVintVs
  generalize bits w 4 0 = n at lt ⊢
  revert n
  refine forall_of_map_range ?_
  rfl
theorem vintVsArms_encode : ArmsEncode vintVsArms :=
  ⟨fun _ _ _ _ _ => rfl, fun _ _ _ _ _ => rfl, fun _ _ _ _ _ => rfl, fun _ _ _ _ _ => rfl, fun _ _ _ _ _ => rfl,
  fun _ _ _ _ _ => rfl, fun _ _ _ _ _ => rfl, fun _ _ _ _ _ => rfl, fun _ _ _ _ _ => rfl, fun _ _ _ _ _ => rfl,
  fun _ _ _ _ _ => rfl, fun _ _ _ _ _ => rfl, fun _ _ _ _ _ => rfl, fun _ _ _ _ _ => rfl, fun _ _ _ _ _ => rfl,
  fun _ _ _ _ _ => rfl, fun _ _ _ _ _ => rfl, fun _ _ _ _ _ => rfl, fun _ _ _ _ _ => rfl, fun _ _ _ _ _ => rfl,
  fun _ _ _ _ _ => rfl, fun _ _ _ _ _ => rfl, fun _ _ _ _ _ => rfl, fun _ _ _ _ _ => rfl, trivial⟩
def vfltVvArms : List (Option Arm) := [
  some ⟨lay_v5_v5_v5_v4_b1_b1_f5 44 0, Instr.vfaddVv⟩, some ⟨lay_v5_v5_v5_v4_b1_b1_f5 44 1, Instr.vfsubVv⟩,
  some ⟨lay_v5_v5_v5_v4_b1_b1_f5 44 2, Instr.vfmulVv⟩, some ⟨lay_v5_v5_v5_v4_b1_b1_f5 44 3, Instr.vfdivVv⟩,
  some ⟨lay_v5_v5_v5_v4_b1_b1_f5 44 4, Instr.vfmaVv⟩, some ⟨lay_v5_v5_v5_v4_b1_b1_f5 44 5, Instr.vfmsVv⟩,
  some ⟨lay_v5_v5_v5_v4_b1_b1_f5 44 6, Instr.vfnmaVv⟩, some ⟨lay_v5_v5_v5_v4_b1_b1_f5 44 7, Instr.vfminVv⟩,
  some ⟨lay_v5_v5_v5_v4_b1_b1_f5 44 8, Instr.vfmaxVv⟩, some ⟨lay_v5_v5_r5_v4_b1_r1_f5 44 9, Instr.vfsqrtVv⟩,
  some ⟨lay_v5_v5_r5_v4_b1_r1_f5 44 10, Instr.vfrcpVv⟩, some ⟨lay_v5_v5_r5_v4_b1_r1_f5 44 11, Instr.vfrsqVv⟩,
  some ⟨lay_v5_v5_r5_v4_b1_r1_f5 44 12, Instr.vfexp2Vv⟩, some ⟨lay_v5_v5_r5_v4_b1_r1_f5 44 13, Instr.vflog2Vv⟩,
  some ⟨lay_v5_v5_r5_v4_b1_r1_f5 44 14, Instr.vftanhVv⟩, some ⟨lay_v5_v5_r5_v4_b1_r1_f5 44 15, Instr.vfabsVv⟩,
  some ⟨lay_v5_v5_r5_v4_b1_r1_f5 44 16, Instr.vfnegVv⟩, some ⟨lay_v5_v5_v5_v4_b1_b1_f5 44 17, Instr.vfsgnjVv⟩,
  some ⟨lay_v5_v5_r5_v4_b1_r1_f5 44 18, Instr.vfclassVv⟩]
theorem decodeVfltVv_eq (w : Nat) : decodeVfltVv w = (pick vfltVvArms (bits w 4 0)).bind (Arm.read w) := by
  have lt := bits_lt w 4 0
  unfold decodeVfltVv
  generalize bits w 4 0 = n at lt ⊢
  revert n
  refine forall_of_map_range ?_
  rfl
theorem vfltVvArms_encode : ArmsEncode vfltVvArms :=
  ⟨fun _ _ _ _ _ _ => rfl, fun _ _ _ _ _ _ => rfl, fun _ _ _ _ _ _ => rfl, fun _ _ _ _ _ _ => rfl, fun _ _ _ _ _ _ => rfl,
  fun _ _ _ _ _ _ => rfl, fun _ _ _ _ _ _ => rfl, fun _ _ _ _ _ _ => rfl, fun _ _ _ _ _ _ => rfl, fun _ _ _ _ => rfl,
  fun _ _ _ _ => rfl, fun _ _ _ _ => rfl, fun _ _ _ _ => rfl, fun _ _ _ _ => rfl, fun _ _ _ _ => rfl, fun _ _ _ _ => rfl,
  fun _ _ _ _ => rfl, fun _ _ _ _ _ _ => rfl, fun _ _ _ _ => rfl, trivial⟩
def vfltVsArms : List (Option Arm) := [
  some ⟨lay_v5_v5_v5_v4_b1_r1_f5 45 0, Instr.vfaddVs⟩, some ⟨lay_v5_v5_v5_v4_b1_r1_f5 45 1, Instr.vfsubVs⟩,
  some ⟨lay_v5_v5_v5_v4_b1_r1_f5 45 2, Instr.vfmulVs⟩, some ⟨lay_v5_v5_v5_v4_b1_r1_f5 45 3, Instr.vfdivVs⟩,
  some ⟨lay_v5_v5_v5_v4_b1_r1_f5 45 4, Instr.vfmaVs⟩, some ⟨lay_v5_v5_v5_v4_b1_r1_f5 45 5, Instr.vfmsVs⟩,
  some ⟨lay_v5_v5_v5_v4_b1_r1_f5 45 6, Instr.vfnmaVs⟩, some ⟨lay_v5_v5_v5_v4_b1_r1_f5 45 7, Instr.vfminVs⟩,
  some ⟨lay_v5_v5_v5_v4_b1_r1_f5 45 8, Instr.vfmaxVs⟩, some ⟨lay_v5_v5_r5_v4_b1_r1_f5 45 9, Instr.vfsqrtVs⟩,
  some ⟨lay_v5_v5_r5_v4_b1_r1_f5 45 10, Instr.vfrcpVs⟩, some ⟨lay_v5_v5_r5_v4_b1_r1_f5 45 11, Instr.vfrsqVs⟩,
  some ⟨lay_v5_v5_r5_v4_b1_r1_f5 45 12, Instr.vfexp2Vs⟩, some ⟨lay_v5_v5_r5_v4_b1_r1_f5 45 13, Instr.vflog2Vs⟩,
  some ⟨lay_v5_v5_r5_v4_b1_r1_f5 45 14, Instr.vftanhVs⟩, some ⟨lay_v5_v5_r5_v4_b1_r1_f5 45 15, Instr.vfabsVs⟩,
  some ⟨lay_v5_v5_r5_v4_b1_r1_f5 45 16, Instr.vfnegVs⟩, some ⟨lay_v5_v5_v5_v4_b1_r1_f5 45 17, Instr.vfsgnjVs⟩,
  some ⟨lay_v5_v5_r5_v4_b1_r1_f5 45 18, Instr.vfclassVs⟩]
theorem decodeVfltVs_eq (w : Nat) : decodeVfltVs w = (pick vfltVsArms (bits w 4 0)).bind (Arm.read w) := by
  have lt := bits_lt w 4 0
  unfold decodeVfltVs
  generalize bits w 4 0 = n at lt ⊢
  revert n
  refine forall_of_map_range ?_
  rfl
theorem vfltVsArms_encode : ArmsEncode vfltVsArms :=
  ⟨fun _ _ _ _ _ => rfl, fun _ _ _ _ _ => rfl, fun _ _ _ _ _ => rfl, fun _ _ _ _ _ => rfl, fun _ _ _ _ _ => rfl,
  fun _ _ _ _ _ => rfl, fun _ _ _ _ _ => rfl, fun _ _ _ _ _ => rfl, fun _ _ _ _ _ => rfl, fun _ _ _ _ => rfl,
  fun _ _ _ _ => rfl, fun _ _ _ _ => rfl, fun _ _ _ _ => rfl, fun _ _ _ _ => rfl, fun _ _ _ _ => rfl, fun _ _ _ _ => rfl,
  fun _ _ _ _ => rfl, fun _ _ _ _ _ => rfl, fun _ _ _ _ => rfl, trivial⟩
def vcmpArms : List (Option Arm) := [
  some ⟨lay_r1_v4_v5_v5_v4_b1_b1_f5 46 0, Instr.vcmpeqVv⟩, some ⟨lay_r1_v4_v5_v5_v4_b1_b1_f5 46 1, Instr.vcmpneVv⟩,
  some ⟨lay_r1_v4_v5_v5_v4_b1_b1_f5 46 2, Instr.vcmpltVv⟩, some ⟨lay_r1_v4_v5_v5_v4_b1_b1_f5 46 3, Instr.vcmpgeVv⟩,
  some ⟨lay_r1_v4_v5_v5_v4_b1_b1_f5 46 4, Instr.vcmpltuVv⟩, some ⟨lay_r1_v4_v5_v5_v4_b1_b1_f5 46 5, Instr.vcmpgeuVv⟩,
  some ⟨lay_r1_v4_v5_v5_v4_b1_b1_f5 46 6, Instr.vcmpfeqVv⟩, some ⟨lay_r1_v4_v5_v5_v4_b1_b1_f5 46 7, Instr.vcmpfltVv⟩,
  some ⟨lay_r1_v4_v5_v5_v4_b1_b1_f5 46 8, Instr.vcmpfleVv⟩, some ⟨lay_r1_v4_v5_v5_v4_b1_b1_f5 46 9, Instr.vcmpfunoVv⟩, none,
  none, none, none, none, none, some ⟨lay_r1_v4_v5_v5_v4_b1_r1_f5 46 16, Instr.vcmpeqVs⟩,
  some ⟨lay_r1_v4_v5_v5_v4_b1_r1_f5 46 17, Instr.vcmpneVs⟩, some ⟨lay_r1_v4_v5_v5_v4_b1_r1_f5 46 18, Instr.vcmpltVs⟩,
  some ⟨lay_r1_v4_v5_v5_v4_b1_r1_f5 46 19, Instr.vcmpgeVs⟩, some ⟨lay_r1_v4_v5_v5_v4_b1_r1_f5 46 20, Instr.vcmpltuVs⟩,
  some ⟨lay_r1_v4_v5_v5_v4_b1_r1_f5 46 21, Instr.vcmpgeuVs⟩, some ⟨lay_r1_v4_v5_v5_v4_b1_r1_f5 46 22, Instr.vcmpfeqVs⟩,
  some ⟨lay_r1_v4_v5_v5_v4_b1_r1_f5 46 23, Instr.vcmpfltVs⟩, some ⟨lay_r1_v4_v5_v5_v4_b1_r1_f5 46 24, Instr.vcmpfleVs⟩,
  some ⟨lay_r1_v4_v5_v5_v4_b1_r1_f5 46 25, Instr.vcmpfunoVs⟩]
theorem decodeVcmp_eq (w : Nat) : decodeVcmp w = (pick vcmpArms (bits w 4 0)).bind (Arm.read w) := by
  have lt := bits_lt w 4 0
  unfold decodeVcmp
  generalize bits w 4 0 = n at lt ⊢
  revert n
  refine forall_of_map_range ?_
  rfl
theorem vcmpArms_encode : ArmsEncode vcmpArms :=
  ⟨fun _ _ _ _ _ _ => rfl, fun _ _ _ _ _ _ => rfl, fun _ _ _ _ _ _ => rfl, fun _ _ _ _ _ _ => rfl, fun _ _ _ _ _ _ => rfl,
  fun _ _ _ _ _ _ => rfl, fun _ _ _ _ _ _ => rfl, fun _ _ _ _ _ _ => rfl, fun _ _ _ _ _ _ => rfl, fun _ _ _ _ _ _ => rfl,
  fun _ _ _ _ _ => rfl, fun _ _ _ _ _ => rfl, fun _ _ _ _ _ => rfl, fun _ _ _ _ _ => rfl, fun _ _ _ _ _ => rfl,
  fun _ _ _ _ _ => rfl, fun _ _ _ _ _ => rfl, fun _ _ _ _ _ => rfl, fun _ _ _ _ _ => rfl, fun _ _ _ _ _ => rfl, trivial⟩
def vmaskArms : List (Option Arm) := [
  some ⟨lay_v5_v5_v5_r4_b1_b1_f5 47 0, Instr.kand⟩, some ⟨lay_v5_v5_v5_r4_b1_b1_f5 47 1, Instr.kor⟩,
  some ⟨lay_v5_v5_v5_r4_b1_b1_f5 47 2, Instr.kxor⟩, some ⟨lay_v5_v5_v5_r4_b1_b1_f5 47 3, Instr.kandn⟩,
  some ⟨lay_v5_v5_r9_b1_r1_f5 47 4, Instr.knot⟩, some ⟨lay_v5_v5_r9_b1_r1_f5 47 5, Instr.kmov⟩,
  some ⟨lay_v5_v5_r9_b1_r1_f5 47 6, Instr.kpop⟩, some ⟨lay_v5_v5_r9_b1_r1_f5 47 7, Instr.kpopvl⟩,
  some ⟨lay_v5_v5_r9_b1_r1_f5 47 8, Instr.kfirst⟩, some ⟨lay_v5_v5_v5_r6_f5 47 9, Instr.kfromg⟩,
  some ⟨lay_v5_v5_v5_r4_b1_r1_f5 47 10, Instr.ktog⟩, some ⟨lay_v5_v5_r9_b1_r1_f5 47 11, Instr.kprefix⟩,
  some ⟨lay_v5_v5_r9_b1_r1_f5 47 12, Instr.ksbf⟩]
theorem decodeVmask_eq (w : Nat) : decodeVmask w = (pick vmaskArms (bits w 4 0)).bind (Arm.read w) := by
  have lt := bits_lt w 4 0
  unfold decodeVmask
  generalize bits w 4 0 = n at lt ⊢
  revert n
  refine forall_of_map_range ?_
  rfl
theorem vmaskArms_encode : ArmsEncode vmaskArms :=
  ⟨fun _ _ _ _ _ => rfl, fun _ _ _ _ _ => rfl, fun _ _ _ _ _ => rfl, fun _ _ _ _ _ => rfl, fun _ _ _ => rfl,
  fun _ _ _ => rfl, fun _ _ _ => rfl, fun _ _ _ => rfl, fun _ _ _ => rfl, fun _ _ _ => rfl, fun _ _ _ _ => rfl,
  fun _ _ _ => rfl, fun _ _ _ => rfl, trivial⟩
def vpermArms : List (Option Arm) := [
  some ⟨lay_v5_v5_v5_v4_b1_b1_f5 48 0, Instr.vmerge⟩, some ⟨lay_v5_v5_v5_v4_b1_r1_f5 48 1, Instr.vslideup⟩,
  some ⟨lay_v5_v5_v5_v4_b1_r1_f5 48 2, Instr.vslidedn⟩, some ⟨lay_v5_v5_v5_v4_b1_b1_f5 48 3, Instr.vpermx⟩,
  some ⟨lay_v5_v5_r5_v4_b1_r1_f5 48 4, Instr.vcompress⟩, some ⟨lay_v5_v5_r5_v4_b1_r1_f5 48 5, Instr.vexpand⟩,
  some ⟨lay_v5_v5_v5_v4_b1_r1_f5 48 6, Instr.vbcast⟩, some ⟨lay_v5_v5_v5_r6_f5 48 7, Instr.vins⟩,
  some ⟨lay_v5_v5_v5_r4_b1_r1_f5 48 8, Instr.vext⟩, some ⟨lay_v5_v5_r5_v4_b1_r1_f5 48 9, Instr.vmov⟩,
  some ⟨lay_v5_v5_v5_v4_b1_b1_f5 48 10, Instr.vzip⟩, some ⟨lay_v5_v5_v5_v4_b1_b1_f5 48 11, Instr.vunzip⟩]
theorem decodeVperm_eq (w : Nat) : decodeVperm w = (pick vpermArms (bits w 4 0)).bind (Arm.read w) := by
  have lt := bits_lt w 4 0
  unfold decodeVperm
  generalize bits w 4 0 = n at lt ⊢
  revert n
  refine forall_of_map_range ?_
  rfl
theorem vpermArms_encode : ArmsEncode vpermArms :=
  ⟨fun _ _ _ _ _ _ => rfl, fun _ _ _ _ _ => rfl, fun _ _ _ _ _ => rfl, fun _ _ _ _ _ _ => rfl, fun _ _ _ _ => rfl,
  fun _ _ _ _ => rfl, fun _ _ _ _ _ => rfl, fun _ _ _ => rfl, fun _ _ _ _ => rfl, fun _ _ _ _ => rfl,
  fun _ _ _ _ _ _ => rfl, fun _ _ _ _ _ _ => rfl, trivial⟩
def vredArms : List (Option Arm) := [
  some ⟨lay_v5_v5_v5_v4_b1_b1_f5 50 0, Instr.vredsum⟩, some ⟨lay_v5_v5_v5_v4_b1_b1_f5 50 1, Instr.vredmax⟩,
  some ⟨lay_v5_v5_v5_v4_b1_b1_f5 50 2, Instr.vredmin⟩, some ⟨lay_v5_v5_v5_v4_b1_b1_f5 50 3, Instr.vredand⟩,
  some ⟨lay_v5_v5_v5_v4_b1_b1_f5 50 4, Instr.vredor⟩, some ⟨lay_v5_v5_v5_v4_b1_b1_f5 50 5, Instr.vredxor⟩,
  some ⟨lay_v5_v5_v5_v4_b1_b1_f5 50 6, Instr.vscan⟩, some ⟨lay_v5_v5_v5_v4_b1_b1_f5 50 7, Instr.vscanmax⟩,
  some ⟨lay_v5_v5_v5_v4_b1_r1_f5 50 8, Instr.vsegred⟩, some ⟨lay_v5_v5_v5_v4_b1_r1_f5 50 9, Instr.vsegscan⟩,
  some ⟨lay_v5_v5_v5_v4_b1_r1_f5 50 10, Instr.vsegmax⟩]
theorem decodeVred_eq (w : Nat) : decodeVred w = (pick vredArms (bits w 4 0)).bind (Arm.read w) := by
  have lt := bits_lt w 4 0
  unfold decodeVred
  generalize bits w 4 0 = n at lt ⊢
  revert n
  refine forall_of_map_range ?_
  rfl
theorem vredArms_encode : ArmsEncode vredArms :=
  ⟨fun _ _ _ _ _ _ => rfl, fun _ _ _ _ _ _ => rfl, fun _ _ _ _ _ _ => rfl, fun _ _ _ _ _ _ => rfl, fun _ _ _ _ _ _ => rfl,
  fun _ _ _ _ _ _ => rfl, fun _ _ _ _ _ _ => rfl, fun _ _ _ _ _ _ => rfl, fun _ _ _ _ _ => rfl, fun _ _ _ _ _ => rfl,
  fun _ _ _ _ _ => rfl, trivial⟩
def vloadArms : List (Option Arm) := [
  some ⟨lay_v5_v5_r5_v4_b1_r1_f5 52 0, Instr.vld⟩, some ⟨lay_v5_v5_v5_v4_b1_r1_f5 52 1, Instr.vlds⟩,
  some ⟨lay_v5_v5_v5_v4_b1_b1_f5 52 2, Instr.vldx⟩, some ⟨lay_v5_v5_r5_v4_b1_r1_f5 52 3, Instr.vldn⟩,
  some ⟨lay_v5_v5_r11_f5 52 4, Instr.vldk⟩, some ⟨lay_v5_v5_r5_v4_r2_f5 52 5, Instr.vldb⟩,
  some ⟨lay_v5_v5_v5_v4_r2_f5 52 6, Instr.vldt⟩]
theorem decodeVload_eq (w : Nat) : decodeVload w = (pick vloadArms (bits w 4 0)).bind (Arm.read w) := by
  have lt := bits_lt w 4 0
  unfold decodeVload
  generalize bits w 4 0 = n at lt ⊢
  revert n
  refine forall_of_map_range ?_
  rfl
theorem vloadArms_encode : ArmsEncode vloadArms :=
  ⟨fun _ _ _ _ => rfl, fun _ _ _ _ _ => rfl, fun _ _ _ _ _ _ => rfl, fun _ _ _ _ => rfl, fun _ _ => rfl, fun _ _ _ => rfl,
  fun _ _ _ _ => rfl, trivial⟩
def vstoreArms : List (Option Arm) := [
  some ⟨lay_v5_v5_r5_v4_r1_b1_f5 53 0, Instr.vst⟩, some ⟨lay_v5_v5_v5_v4_r1_b1_f5 53 1, Instr.vsts⟩,
  some ⟨lay_v5_v5_v5_v4_r1_b1_f5 53 2, Instr.vstx⟩, some ⟨lay_v5_v5_r5_v4_r1_b1_f5 53 3, Instr.vstn⟩,
  some ⟨lay_v5_v5_r11_f5 53 4, Instr.vstk⟩, some ⟨lay_v5_v5_v5_v4_r1_b1_f5 53 5, Instr.vstt⟩]
theorem decodeVstore_eq (w : Nat) : decodeVstore w = (pick vstoreArms (bits w 4 0)).bind (Arm.read w) := by
  have lt := bits_lt w 4 0
  unfold decodeVstore
  generalize bits w 4 0 = n at lt ⊢
  revert n
  refine forall_of_map_range ?_
  rfl
theorem vstoreArms_encode : ArmsEncode vstoreArms :=
  ⟨fun _ _ _ _ => rfl, fun _ _ _ _ _ => rfl, fun _ _ _ _ _ => rfl, fun _ _ _ _ => rfl, fun _ _ => rfl, fun _ _ _ _ _ => rfl,
  trivial⟩
def mtxArms : List (Option Arm) := [
  some ⟨lay_r5_v5_r10_f6 56 0, Instr.mctx⟩, some ⟨lay_r5_v5_r10_f6 56 1, Instr.mgeo⟩,
  some ⟨lay_r5_v5_v5_v5_f6 56 2, Instr.mloadb⟩, some ⟨lay_r15_v5_f6 56 3, Instr.mswap⟩,
  some ⟨lay_r15_v5_f6 56 4, Instr.mrun⟩, some ⟨lay_r15_v5_f6 56 5, Instr.mclr⟩]
theorem decodeMtx_eq (w : Nat) : decodeMtx w = (pick mtxArms (bits w 5 0)).bind (Arm.read w) := by
  have lt := bits_lt w 5 0
  unfold decodeMtx
  generalize bits w 5 0 = n at lt ⊢
  revert n
  refine forall_of_map_range ?_
  rfl
theorem mtxArms_encode : ArmsEncode mtxArms :=
  ⟨fun _ => rfl, fun _ => rfl, fun _ _ _ => rfl, fun _ => rfl, fun _ => rfl, fun _ => rfl, trivial⟩
def cpyeArms : List (Option Arm) := [
  some ⟨lay_r5_v5_r10_f6 57 0, Instr.cpcfg⟩, some ⟨lay_v5_v5_v5_v5_f6 57 1, Instr.cpy⟩,
  some ⟨lay_v5_v5_v5_v5_f6 57 2, Instr.cpyn⟩, some ⟨lay_r5_v5_r5_v5_f6 57 3, Instr.publ⟩,
  some ⟨lay_r20_f6 57 4, Instr.cpabort⟩]
theorem decodeCpye_eq (w : Nat) : decodeCpye w = (pick cpyeArms (bits w 5 0)).bind (Arm.read w) := by
  have lt := bits_lt w 5 0
  unfold decodeCpye
  generalize bits w 5 0 = n at lt ⊢
  revert n
  refine forall_of_map_range ?_
  rfl
theorem cpyeArms_encode : ArmsEncode cpyeArms :=
  ⟨fun _ => rfl, fun _ _ _ _ => rfl, fun _ _ _ _ => rfl, fun _ _ => rfl, rfl, trivial⟩
def strmArms : List (Option Arm) := [
  some ⟨lay_v5_v5_r10_f6 58 0, Instr.sbind⟩, some ⟨lay_v5_r15_f6 58 1, Instr.sunbind⟩,
  some ⟨lay_v5_r15_f6 58 2, Instr.ssync⟩, some ⟨lay_v5_v5_r10_f6 58 3, Instr.sstat⟩]
theorem decodeStrm_eq (w : Nat) : decodeStrm w = (pick strmArms (bits w 5 0)).bind (Arm.read w) := by
  have lt := bits_lt w 5 0
  unfold decodeStrm
  generalize bits w 5 0 = n at lt ⊢
  revert n
  refine forall_of_map_range ?_
  rfl
theorem strmArms_encode : ArmsEncode strmArms :=
  ⟨fun _ _ => rfl, fun _ => rfl, fun _ => rfl, fun _ _ => rfl, trivial⟩
def graphArms : List (Option Arm) := [
  some ⟨lay_r5_v5_v5_v5_f6 59 0, Instr.gdef⟩, some ⟨lay_r15_v5_f6 59 1, Instr.gwait⟩,
  some ⟨lay_v5_r10_v5_f6 59 2, Instr.gqry⟩]
theorem decodeGraph_eq (w : Nat) : decodeGraph w = (pick graphArms (bits w 5 0)).bind (Arm.read w) := by
  have lt := bits_lt w 5 0
  unfold decodeGraph
  generalize bits w 5 0 = n at lt ⊢
  revert n
  refine forall_of_map_range ?_
  rfl
theorem graphArms_encode : ArmsEncode graphArms :=
  ⟨fun _ _ _ => rfl, fun _ => rfl, fun _ _ => rfl, trivial⟩
def sysArms : List (Option Arm) := [
  some ⟨lay_r20_f6 62 0, Instr.eret⟩, some ⟨lay_r5_v5_v5_r5_f6 62 1, Instr.rtwr⟩,
  some ⟨lay_r5_v5_v5_r5_f6 62 2, Instr.rtrd⟩, some ⟨lay_r5_v5_v5_r5_f6 62 3, Instr.rtinv⟩,
  some ⟨lay_v5_v5_r10_f6 62 4, Instr.rsplit⟩, some ⟨lay_v5_v5_r10_f6 62 5, Instr.rmerge⟩,
  some ⟨lay_v5_v5_r10_f6 62 6, Instr.genbump⟩, some ⟨lay_v5_v5_v5_r5_f6 62 7, Instr.rcompact⟩,
  some ⟨lay_v5_v5_v5_r5_f6 62 8, Instr.ctxsv⟩, some ⟨lay_v5_v5_v5_r5_f6 62 9, Instr.ctxld⟩,
  some ⟨lay_v5_v5_r10_f6 62 10, Instr.ipost⟩, some ⟨lay_v5_v5_r10_f6 62 11, Instr.wfi⟩,
  some ⟨lay_v5_v5_r10_f6 62 12, Instr.haltc⟩]
theorem decodeSys_eq (w : Nat) : decodeSys w = (pick sysArms (bits w 5 0)).bind (Arm.read w) := by
  have lt := bits_lt w 5 0
  unfold decodeSys
  generalize bits w 5 0 = n at lt ⊢
  revert n
  refine forall_of_map_range ?_
  rfl
theorem sysArms_encode : ArmsEncode sysArms :=
  ⟨rfl, fun _ _ => rfl, fun _ _ => rfl, fun _ _ => rfl, fun _ _ => rfl, fun _ _ => rfl, fun _ _ => rfl, fun _ _ _ => rfl,
  fun _ _ _ => rfl, fun _ _ _ => rfl, fun _ _ => rfl, fun _ _ => rfl, fun _ _ => rfl, trivial⟩

/-- The opcode map of R64. -/
def opcodeMap : List Entry := [
  .table 5 0 [], .table 5 0 intArms, .table 5 0 mulDivArms, .table 3 0 bitFieldArms, .one ⟨lay_v5_v5_v16 4, Instr.addi⟩,
  .one ⟨lay_v5_v5_v16 5, Instr.andi⟩, .one ⟨lay_v5_v5_v16 6, Instr.ori⟩, .one ⟨lay_v5_v5_v16 7, Instr.xori⟩,
  .one ⟨lay_v5_v5_v16 8, Instr.slti⟩, .one ⟨lay_v5_v5_v16 9, Instr.sltiu⟩, .table 15 14 shiArms,
  .one ⟨lay_v5_r3_v2_v16 11, Instr.movz⟩, .one ⟨lay_v5_r3_v2_v16 12, Instr.movk⟩, .one ⟨lay_v5_v21 13, Instr.lapc⟩,
  .one ⟨lay_v10_v16 14, Instr.bfs⟩, .one ⟨lay_v10_v16 15, Instr.bfc⟩, .one ⟨lay_v5_v5_v16 16, Instr.beq⟩,
  .one ⟨lay_v5_v5_v16 17, Instr.bne⟩, .one ⟨lay_v5_v5_v16 18, Instr.blt⟩, .one ⟨lay_v5_v5_v16 19, Instr.bge⟩,
  .one ⟨lay_v5_v5_v16 20, Instr.bltu⟩, .one ⟨lay_v5_v5_v16 21, Instr.bgeu⟩, .one ⟨lay_v26 22, Instr.j⟩,
  .one ⟨lay_v26 23, Instr.jal⟩, .table 5 0 jumpArms, .one ⟨lay_v5_v5_v16 25, Instr.lb⟩, .one ⟨lay_v5_v5_v16 26, Instr.lbz⟩,
  .one ⟨lay_v5_v5_v16 27, Instr.lh⟩, .one ⟨lay_v5_v5_v16 28, Instr.lhz⟩, .one ⟨lay_v5_v5_v16 29, Instr.lw⟩,
  .one ⟨lay_v5_v5_v16 30, Instr.lwz⟩, .one ⟨lay_v5_v5_v16 31, Instr.ld⟩, .one ⟨lay_v5_v5_v16 32, Instr.sb⟩,
  .one ⟨lay_v5_v5_v16 33, Instr.sh⟩, .one ⟨lay_v5_v5_v16 34, Instr.sw⟩, .one ⟨lay_v5_v5_v16 35, Instr.sd⟩,
  .table 5 0 atomArms, .table 5 0 syncArms, .table 5 0 wispArms, .table 3 0 cregArms, .table 6 4 setVlArms,
  .table 5 0 setDArms, .table 4 0 vintVvArms, .table 4 0 vintVsArms, .table 4 0 vfltVvArms, .table 4 0 vfltVsArms,
  .table 4 0 vcmpArms, .table 4 0 vmaskArms, .table 4 0 vpermArms, .one ⟨lay_v5_v5_v5_v4_b1_r1_v5 49, Instr.vcvt⟩,
  .table 4 0 vredArms, .one ⟨lay_v5_v4_v9_v8 51, Instr.viota⟩, .table 4 0 vloadArms, .table 4 0 vstoreArms, .table 5 0 [],
  .table 5 0 [], .table 5 0 mtxArms, .table 5 0 cpyeArms, .table 5 0 strmArms, .table 5 0 graphArms, .table 5 0 [],
  .table 5 0 [], .table 5 0 sysArms]
theorem decodeRaw_eq (w : Nat) : decodeRaw w = (opcodeMap[bits w 31 26]?).bind (Entry.read w) := by
  have lt := bits_lt w 31 26
  unfold decodeRaw
  rw [decodeInt_eq, decodeMulDiv_eq, decodeBitField_eq, decodeShi_eq, decodeJump_eq, decodeAtom_eq, decodeSync_eq,
    decodeWisp_eq, decodeCreg_eq, decodeSetVl_eq, decodeSetD_eq, decodeVintVv_eq, decodeVintVs_eq, decodeVfltVv_eq,
    decodeVfltVs_eq, decodeVcmp_eq, decodeVmask_eq, decodeVperm_eq, decodeVred_eq, decodeVload_eq, decodeVstore_eq,
    decodeMtx_eq, decodeCpye_eq, decodeStrm_eq, decodeGraph_eq, decodeSys_eq]
  generalize bits w 31 26 = n at lt ⊢
  revert n
  refine forall_of_map_range ?_
  rfl
/-- The entries from the m-th on are selected by their majors, and encode as their layouts say. -/
def mapOk : Nat → List Entry → Bool
  | _, [] => true
  | m, e :: l => e.ok m && mapOk (m + 1) l
def MapEncodes : List Entry → Prop
  | [] => True
  | e :: l => e.Encodes ∧ MapEncodes l
theorem opcodeMap_ok : mapOk 0 opcodeMap = true := rfl
theorem opcodeMap_encodes : MapEncodes opcodeMap :=
  ⟨trivial, intArms_encode, mulDivArms_encode, bitFieldArms_encode, fun _ _ _ => rfl, fun _ _ _ => rfl, fun _ _ _ => rfl,
  fun _ _ _ => rfl, fun _ _ _ => rfl, fun _ _ _ => rfl, shiArms_encode, fun _ _ _ => rfl, fun _ _ _ => rfl, fun _ _ => rfl,
  fun _ _ => rfl, fun _ _ => rfl, fun _ _ _ => rfl, fun _ _ _ => rfl, fun _ _ _ => rfl, fun _ _ _ => rfl, fun _ _ _ => rfl,
  fun _ _ _ => rfl, fun _ => rfl, fun _ => rfl, jumpArms_encode, fun _ _ _ => rfl, fun _ _ _ => rfl, fun _ _ _ => rfl,
  fun _ _ _ => rfl, fun _ _ _ => rfl, fun _ _ _ => rfl, fun _ _ _ => rfl, fun _ _ _ => rfl, fun _ _ _ => rfl,
  fun _ _ _ => rfl, fun _ _ _ => rfl, atomArms_encode, syncArms_encode, wispArms_encode, cregArms_encode, setVlArms_encode,
  setDArms_encode, vintVvArms_encode, vintVsArms_encode, vfltVvArms_encode, vfltVsArms_encode, vcmpArms_encode,
  vmaskArms_encode, vpermArms_encode, fun _ _ _ _ _ _ => rfl, vredArms_encode, fun _ _ _ _ => rfl, vloadArms_encode,
  vstoreArms_encode, trivial, trivial, mtxArms_encode, cpyeArms_encode, strmArms_encode, graphArms_encode, trivial, trivial,
  sysArms_encode, trivial⟩

theorem entry_ok (es : List Entry) : ∀ (k m : Nat) {e : Entry}, mapOk k es = true → MapEncodes es → es[m]? = some e →
    e.ok (k + m) = true ∧ e.Encodes := by
  induction es with
  | nil => intro k m e _ _ h; cases h
  | cons d es ih =>
    intro k m e ok enc h
    obtain ⟨okd, ok⟩ := Bool.and_eq_true_iff.mp ok
    cases m with
    | zero =>
      obtain rfl : d = e := Option.some.inj h
      exact ⟨okd, enc.1⟩
    | succ m => exact Nat.add_right_comm k 1 m ▸ ih (k + 1) m ok enc.2 h

/-- Every word that is read is the encoding of what is read. -/
theorem encodeNat_of_decodeRaw {w : Nat} (hw : w < 2 ^ 32) {i : Instr} (h : decodeRaw w = some i) : encodeNat i = w := by
  rw [decodeRaw_eq] at h
  obtain ⟨e, he, hi⟩ := Option.bind_eq_some_iff.mp h
  obtain ⟨ok, enc⟩ := entry_ok opcodeMap 0 _ opcodeMap_ok opcodeMap_encodes he
  exact e.readsBack ok enc hw (Nat.zero_add _).symm hi

/-- The word of i has 32 bits and decodes to i. -/
def DecodesBack (i : Instr) : Prop := encodeNat i < 2 ^ 32 ∧ decodeRaw (encodeNat i) = some i
/-- So is the word of every instruction of an entry. -/
theorem decodesBack_of_entry (m n : Nat) {e : Entry} (he : opcodeMap[m]? = some e) {i : Instr} (has : e.Has i n) :
    DecodesBack i := by
  obtain ⟨ok, enc⟩ := entry_ok opcodeMap 0 _ opcodeMap_ok opcodeMap_encodes he
  obtain ⟨lt, hm, read⟩ := e.decodes ok enc has
  refine ⟨lt, ?_⟩
  rw [decodeRaw_eq, hm, Nat.zero_add, he]
  exact read

/-- Every instruction with a word is of the entry of its major, under its function code. -/
theorem decodesBack_of_hasWord {i : Instr} (h : i.hasWord = true) : DecodesBack i := by
  cases i with
  | add d a b => exact decodesBack_of_entry 1 0 rfl ⟨_, rfl, d, a, b, rfl⟩
  | sub d a b => exact decodesBack_of_entry 1 1 rfl ⟨_, rfl, d, a, b, rfl⟩
  | and d a b => exact decodesBack_of_entry 1 2 rfl ⟨_, rfl, d, a, b, rfl⟩
  | or d a b => exact decodesBack_of_entry 1 3 rfl ⟨_, rfl, d, a, b, rfl⟩
  | xor d a b => exact decodesBack_of_entry 1 4 rfl ⟨_, rfl, d, a, b, rfl⟩
  | andn d a b => exact decodesBack_of_entry 1 5 rfl ⟨_, rfl, d, a, b, rfl⟩
  | orn d a b => exact decodesBack_of_entry 1 6 rfl ⟨_, rfl, d, a, b, rfl⟩
  | sll d a b => exact decodesBack_of_entry 1 7 rfl ⟨_, rfl, d, a, b, rfl⟩
  | srl d a b => exact decodesBack_of_entry 1 8 rfl ⟨_, rfl, d, a, b, rfl⟩
  | sra d a b => exact decodesBack_of_entry 1 9 rfl ⟨_, rfl, d, a, b, rfl⟩
  | rol d a b => exact decodesBack_of_entry 1 10 rfl ⟨_, rfl, d, a, b, rfl⟩
  | ror d a b => exact decodesBack_of_entry 1 11 rfl ⟨_, rfl, d, a, b, rfl⟩
  | slt d a b => exact decodesBack_of_entry 1 12 rfl ⟨_, rfl, d, a, b, rfl⟩
  | sltu d a b => exact decodesBack_of_entry 1 13 rfl ⟨_, rfl, d, a, b, rfl⟩
  | min d a b => exact decodesBack_of_entry 1 14 rfl ⟨_, rfl, d, a, b, rfl⟩
  | max d a b => exact decodesBack_of_entry 1 15 rfl ⟨_, rfl, d, a, b, rfl⟩
  | minu d a b => exact decodesBack_of_entry 1 16 rfl ⟨_, rfl, d, a, b, rfl⟩
  | maxu d a b => exact decodesBack_of_entry 1 17 rfl ⟨_, rfl, d, a, b, rfl⟩
  | addw d a b => exact decodesBack_of_entry 1 18 rfl ⟨_, rfl, d, a, b, rfl⟩
  | subw d a b => exact decodesBack_of_entry 1 19 rfl ⟨_, rfl, d, a, b, rfl⟩
  | clz d a => exact decodesBack_of_entry 1 20 rfl ⟨_, rfl, d, a, rfl⟩
  | ctz d a => exact decodesBack_of_entry 1 21 rfl ⟨_, rfl, d, a, rfl⟩
  | popc d a => exact decodesBack_of_entry 1 22 rfl ⟨_, rfl, d, a, rfl⟩
  | brev d a => exact decodesBack_of_entry 1 23 rfl ⟨_, rfl, d, a, rfl⟩
  | bswap d a => exact decodesBack_of_entry 1 24 rfl ⟨_, rfl, d, a, rfl⟩
  | sext d a x => exact decodesBack_of_entry 1 25 rfl ⟨_, rfl, d, a, x, rfl⟩
  | zext d a x => exact decodesBack_of_entry 1 26 rfl ⟨_, rfl, d, a, x, rfl⟩
  | bfxv d a b => exact decodesBack_of_entry 1 27 rfl ⟨_, rfl, d, a, b, rfl⟩
  | bfxzv d a b => exact decodesBack_of_entry 1 28 rfl ⟨_, rfl, d, a, b, rfl⟩
  | bfiv d a b => exact decodesBack_of_entry 1 29 rfl ⟨_, rfl, d, a, b, rfl⟩
  | selnz d a b => exact decodesBack_of_entry 1 30 rfl ⟨_, rfl, d, a, b, rfl⟩
  | selz d a b => exact decodesBack_of_entry 1 31 rfl ⟨_, rfl, d, a, b, rfl⟩
  | mul d a b => exact decodesBack_of_entry 2 0 rfl ⟨_, rfl, d, a, b, rfl⟩
  | mulh d a b => exact decodesBack_of_entry 2 1 rfl ⟨_, rfl, d, a, b, rfl⟩
  | mulhu d a b => exact decodesBack_of_entry 2 2 rfl ⟨_, rfl, d, a, b, rfl⟩
  | mulhsu d a b => exact decodesBack_of_entry 2 3 rfl ⟨_, rfl, d, a, b, rfl⟩
  | mulw d a b => exact decodesBack_of_entry 2 4 rfl ⟨_, rfl, d, a, b, rfl⟩
  | div d a b => exact decodesBack_of_entry 2 5 rfl ⟨_, rfl, d, a, b, rfl⟩
  | divu d a b => exact decodesBack_of_entry 2 6 rfl ⟨_, rfl, d, a, b, rfl⟩
  | rem d a b => exact decodesBack_of_entry 2 7 rfl ⟨_, rfl, d, a, b, rfl⟩
  | remu d a b => exact decodesBack_of_entry 2 8 rfl ⟨_, rfl, d, a, b, rfl⟩
  | divw d a b => exact decodesBack_of_entry 2 9 rfl ⟨_, rfl, d, a, b, rfl⟩
  | bfx d a pos wm1 => exact decodesBack_of_entry 3 0 rfl ⟨_, rfl, d, a, pos, wm1, rfl⟩
  | bfxz d a pos wm1 => exact decodesBack_of_entry 3 1 rfl ⟨_, rfl, d, a, pos, wm1, rfl⟩
  | bfi d a pos wm1 => exact decodesBack_of_entry 3 2 rfl ⟨_, rfl, d, a, pos, wm1, rfl⟩
  | slli d a amt => exact decodesBack_of_entry 10 0 rfl ⟨_, rfl, d, a, amt, rfl⟩
  | srli d a amt => exact decodesBack_of_entry 10 1 rfl ⟨_, rfl, d, a, amt, rfl⟩
  | srai d a amt => exact decodesBack_of_entry 10 2 rfl ⟨_, rfl, d, a, amt, rfl⟩
  | rori d a amt => exact decodesBack_of_entry 10 3 rfl ⟨_, rfl, d, a, amt, rfl⟩
  | jr a => exact decodesBack_of_entry 24 0 rfl ⟨_, rfl, a, rfl⟩
  | jalr d a => exact decodesBack_of_entry 24 1 rfl ⟨_, rfl, d, a, rfl⟩
  | amoadd d a b scope order width => exact decodesBack_of_entry 36 0 rfl ⟨_, rfl, d, a, b, scope, order, width, rfl⟩
  | amoand d a b scope order width => exact decodesBack_of_entry 36 1 rfl ⟨_, rfl, d, a, b, scope, order, width, rfl⟩
  | amoor d a b scope order width => exact decodesBack_of_entry 36 2 rfl ⟨_, rfl, d, a, b, scope, order, width, rfl⟩
  | amoxor d a b scope order width => exact decodesBack_of_entry 36 3 rfl ⟨_, rfl, d, a, b, scope, order, width, rfl⟩
  | amomin d a b scope order width => exact decodesBack_of_entry 36 4 rfl ⟨_, rfl, d, a, b, scope, order, width, rfl⟩
  | amomax d a b scope order width => exact decodesBack_of_entry 36 5 rfl ⟨_, rfl, d, a, b, scope, order, width, rfl⟩
  | amominu d a b scope order width => exact decodesBack_of_entry 36 6 rfl ⟨_, rfl, d, a, b, scope, order, width, rfl⟩
  | amomaxu d a b scope order width => exact decodesBack_of_entry 36 7 rfl ⟨_, rfl, d, a, b, scope, order, width, rfl⟩
  | amoswap d a b scope order width => exact decodesBack_of_entry 36 8 rfl ⟨_, rfl, d, a, b, scope, order, width, rfl⟩
  | amocas d a b scope order width => exact decodesBack_of_entry 36 9 rfl ⟨_, rfl, d, a, b, scope, order, width, rfl⟩
  | amold d a scope order width => exact decodesBack_of_entry 36 10 rfl ⟨_, rfl, d, a, scope, order, width, rfl⟩
  | amost a b scope order width => exact decodesBack_of_entry 36 11 rfl ⟨_, rfl, a, b, scope, order, width, rfl⟩
  | amowait d a b scope order width => exact decodesBack_of_entry 36 12 rfl ⟨_, rfl, d, a, b, scope, order, width, rfl⟩
  | acq a scope => exact decodesBack_of_entry 37 0 rfl ⟨_, rfl, a, scope, rfl⟩
  | rel a scope => exact decodesBack_of_entry 37 1 rfl ⟨_, rfl, a, scope, rfl⟩
  | fence scope => exact decodesBack_of_entry 37 2 rfl ⟨_, rfl, scope, rfl⟩
  | own d a b => exact decodesBack_of_entry 37 3 rfl ⟨_, rfl, d, a, b, rfl⟩
  | disown d a => exact decodesBack_of_entry 37 4 rfl ⟨_, rfl, d, a, rfl⟩
  | ifence a scope => exact decodesBack_of_entry 37 5 rfl ⟨_, rfl, a, scope, rfl⟩
  | arrive d a scope => exact decodesBack_of_entry 37 6 rfl ⟨_, rfl, d, a, scope, rfl⟩
  | waitb d a b scope => exact decodesBack_of_entry 37 7 rfl ⟨_, rfl, d, a, b, scope, rfl⟩
  | vote d a b scope => exact decodesBack_of_entry 37 8 rfl ⟨_, rfl, d, a, b, scope, rfl⟩
  | jinit d a => exact decodesBack_of_entry 37 9 rfl ⟨_, rfl, d, a, rfl⟩
  | jarrive d a => exact decodesBack_of_entry 37 10 rfl ⟨_, rfl, d, a, rfl⟩
  | jwait d a => exact decodesBack_of_entry 37 11 rfl ⟨_, rfl, d, a, rfl⟩
  | jkpt => exact decodesBack_of_entry 37 12 rfl ⟨_, rfl, rfl⟩
  | jstat d a b => exact decodesBack_of_entry 37 13 rfl ⟨_, rfl, d, a, b, rfl⟩
  | jleave d => exact decodesBack_of_entry 37 14 rfl ⟨_, rfl, d, rfl⟩
  | suspend a => exact decodesBack_of_entry 38 0 rfl ⟨_, rfl, a, rfl⟩
  | retire => exact decodesBack_of_entry 38 1 rfl ⟨_, rfl, rfl⟩
  | launch d a => exact decodesBack_of_entry 38 2 rfl ⟨_, rfl, d, a, rfl⟩
  | qry d a => exact decodesBack_of_entry 38 3 rfl ⟨_, rfl, d, a, rfl⟩
  | locq d a => exact decodesBack_of_entry 38 4 rfl ⟨_, rfl, d, a, rfl⟩
  | rdtime d => exact decodesBack_of_entry 38 5 rfl ⟨_, rfl, d, rfl⟩
  | rdcyc d => exact decodesBack_of_entry 38 6 rfl ⟨_, rfl, d, rfl⟩
  | trap a => exact decodesBack_of_entry 38 7 rfl ⟨_, rfl, a, rfl⟩
  | brk => exact decodesBack_of_entry 38 8 rfl ⟨_, rfl, rfl⟩
  | nop => exact decodesBack_of_entry 38 9 rfl ⟨_, rfl, rfl⟩
  | engwait a => exact decodesBack_of_entry 38 10 rfl ⟨_, rfl, a, rfl⟩
  | engstat d => exact decodesBack_of_entry 38 11 rfl ⟨_, rfl, d, rfl⟩
  | gang d => exact decodesBack_of_entry 38 12 rfl ⟨_, rfl, d, rfl⟩
  | disband => exact decodesBack_of_entry 38 13 rfl ⟨_, rfl, rfl⟩
  | crd d creg => exact decodesBack_of_entry 39 0 rfl ⟨_, rfl, d, creg, rfl⟩
  | cwr d a creg => exact decodesBack_of_entry 39 1 rfl ⟨_, rfl, d, a, creg, rfl⟩
  | cset d a creg => exact decodesBack_of_entry 39 2 rfl ⟨_, rfl, d, a, creg, rfl⟩
  | cclr d a creg => exact decodesBack_of_entry 39 3 rfl ⟨_, rfl, d, a, creg, rfl⟩
  | setvl d a vtype y => exact decodesBack_of_entry 40 0 rfl ⟨_, rfl, d, a, vtype, y, rfl⟩
  | setvlMax d vtype y => exact decodesBack_of_entry 40 1 rfl ⟨_, rfl, d, vtype, y, rfl⟩
  | setvlType d vtype y => exact decodesBack_of_entry 40 2 rfl ⟨_, rfl, d, vtype, y, rfl⟩
  | setd a b dim => exact decodesBack_of_entry 41 0 rfl ⟨_, rfl, a, b, dim, rfl⟩
  | vaddVv d a b msk ca cb => exact decodesBack_of_entry 42 0 rfl ⟨_, rfl, d, a, b, msk, ca, cb, rfl⟩
  | vsubVv d a b msk ca cb => exact decodesBack_of_entry 42 1 rfl ⟨_, rfl, d, a, b, msk, ca, cb, rfl⟩
  | vrsubVv d a b msk ca cb => exact decodesBack_of_entry 42 2 rfl ⟨_, rfl, d, a, b, msk, ca, cb, rfl⟩
  | vmulVv d a b msk ca cb => exact decodesBack_of_entry 42 3 rfl ⟨_, rfl, d, a, b, msk, ca, cb, rfl⟩
  | vmulhVv d a b msk ca cb => exact decodesBack_of_entry 42 4 rfl ⟨_, rfl, d, a, b, msk, ca, cb, rfl⟩
  | vmulhuVv d a b msk ca cb => exact decodesBack_of_entry 42 5 rfl ⟨_, rfl, d, a, b, msk, ca, cb, rfl⟩
  | vminVv d a b msk ca cb => exact decodesBack_of_entry 42 6 rfl ⟨_, rfl, d, a, b, msk, ca, cb, rfl⟩
  | vmaxVv d a b msk ca cb => exact decodesBack_of_entry 42 7 rfl ⟨_, rfl, d, a, b, msk, ca, cb, rfl⟩
  | vminuVv d a b msk ca cb => exact decodesBack_of_entry 42 8 rfl ⟨_, rfl, d, a, b, msk, ca, cb, rfl⟩
  | vmaxuVv d a b msk ca cb => exact decodesBack_of_entry 42 9 rfl ⟨_, rfl, d, a, b, msk, ca, cb, rfl⟩
  | vandVv d a b msk ca cb => exact decodesBack_of_entry 42 10 rfl ⟨_, rfl, d, a, b, msk, ca, cb, rfl⟩
  | vorVv d a b msk ca cb => exact decodesBack_of_entry 42 11 rfl ⟨_, rfl, d, a, b, msk, ca, cb, rfl⟩
  | vxorVv d a b msk ca cb => exact decodesBack_of_entry 42 12 rfl ⟨_, rfl, d, a, b, msk, ca, cb, rfl⟩
  | vsllVv d a b msk ca cb => exact decodesBack_of_entry 42 13 rfl ⟨_, rfl, d, a, b, msk, ca, cb, rfl⟩
  | vsrlVv d a b msk ca cb => exact decodesBack_of_entry 42 14 rfl ⟨_, rfl, d, a, b, msk, ca, cb, rfl⟩
  | vsraVv d a b msk ca cb => exact decodesBack_of_entry 42 15 rfl ⟨_, rfl, d, a, b, msk, ca, cb, rfl⟩
  | vaddsatVv d a b msk ca cb => exact decodesBack_of_entry 42 16 rfl ⟨_, rfl, d, a, b, msk, ca, cb, rfl⟩
  | vsubsatVv d a b msk ca cb => exact decodesBack_of_entry 42 17 rfl ⟨_, rfl, d, a, b, msk, ca, cb, rfl⟩
  | vaddsatuVv d a b msk ca cb => exact decodesBack_of_entry 42 18 rfl ⟨_, rfl, d, a, b, msk, ca, cb, rfl⟩
  | vsubsatuVv d a b msk ca cb => exact decodesBack_of_entry 42 19 rfl ⟨_, rfl, d, a, b, msk, ca, cb, rfl⟩
  | vabsdVv d a b msk ca cb => exact decodesBack_of_entry 42 20 rfl ⟨_, rfl, d, a, b, msk, ca, cb, rfl⟩
  | vmaccVv d a b msk ca cb => exact decodesBack_of_entry 42 21 rfl ⟨_, rfl, d, a, b, msk, ca, cb, rfl⟩
  | vdivVv d a b msk ca cb => exact decodesBack_of_entry 42 22 rfl ⟨_, rfl, d, a, b, msk, ca, cb, rfl⟩
  | vremVv d a b msk ca cb => exact decodesBack_of_entry 42 23 rfl ⟨_, rfl, d, a, b, msk, ca, cb, rfl⟩
  | vaddVs d a b msk ca => exact decodesBack_of_entry 43 0 rfl ⟨_, rfl, d, a, b, msk, ca, rfl⟩
  | vsubVs d a b msk ca => exact decodesBack_of_entry 43 1 rfl ⟨_, rfl, d, a, b, msk, ca, rfl⟩
  | vrsubVs d a b msk ca => exact decodesBack_of_entry 43 2 rfl ⟨_, rfl, d, a, b, msk, ca, rfl⟩
  | vmulVs d a b msk ca => exact decodesBack_of_entry 43 3 rfl ⟨_, rfl, d, a, b, msk, ca, rfl⟩
  | vmulhVs d a b msk ca => exact decodesBack_of_entry 43 4 rfl ⟨_, rfl, d, a, b, msk, ca, rfl⟩
  | vmulhuVs d a b msk ca => exact decodesBack_of_entry 43 5 rfl ⟨_, rfl, d, a, b, msk, ca, rfl⟩
  | vminVs d a b msk ca => exact decodesBack_of_entry 43 6 rfl ⟨_, rfl, d, a, b, msk, ca, rfl⟩
  | vmaxVs d a b msk ca => exact decodesBack_of_entry 43 7 rfl ⟨_, rfl, d, a, b, msk, ca, rfl⟩
  | vminuVs d a b msk ca => exact decodesBack_of_entry 43 8 rfl ⟨_, rfl, d, a, b, msk, ca, rfl⟩
  | vmaxuVs d a b msk ca => exact decodesBack_of_entry 43 9 rfl ⟨_, rfl, d, a, b, msk, ca, rfl⟩
  | vandVs d a b msk ca => exact decodesBack_of_entry 43 10 rfl ⟨_, rfl, d, a, b, msk, ca, rfl⟩
  | vorVs d a b msk ca => exact decodesBack_of_entry 43 11 rfl ⟨_, rfl, d, a, b, msk, ca, rfl⟩
  | vxorVs d a b msk ca => exact decodesBack_of_entry 43 12 rfl ⟨_, rfl, d, a, b, msk, ca, rfl⟩
  | vsllVs d a b msk ca => exact decodesBack_of_entry 43 13 rfl ⟨_, rfl, d, a, b, msk, ca, rfl⟩
  | vsrlVs d a b msk ca => exact decodesBack_of_entry 43 14 rfl ⟨_, rfl, d, a, b, msk, ca, rfl⟩
  | vsraVs d a b msk ca => exact decodesBack_of_entry 43 15 rfl ⟨_, rfl, d, a, b, msk, ca, rfl⟩
  | vaddsatVs d a b msk ca => exact decodesBack_of_entry 43 16 rfl ⟨_, rfl, d, a, b, msk, ca, rfl⟩
  | vsubsatVs d a b msk ca => exact decodesBack_of_entry 43 17 rfl ⟨_, rfl, d, a, b, msk, ca, rfl⟩
  | vaddsatuVs d a b msk ca => exact decodesBack_of_entry 43 18 rfl ⟨_, rfl, d, a, b, msk, ca, rfl⟩
  | vsubsatuVs d a b msk ca => exact decodesBack_of_entry 43 19 rfl ⟨_, rfl, d, a, b, msk, ca, rfl⟩
  | vabsdVs d a b msk ca => exact decodesBack_of_entry 43 20 rfl ⟨_, rfl, d, a, b, msk, ca, rfl⟩
  | vmaccVs d a b msk ca => exact decodesBack_of_entry 43 21 rfl ⟨_, rfl, d, a, b, msk, ca, rfl⟩
  | vdivVs d a b msk ca => exact decodesBack_of_entry 43 22 rfl ⟨_, rfl, d, a, b, msk, ca, rfl⟩
  | vremVs d a b msk ca => exact decodesBack_of_entry 43 23 rfl ⟨_, rfl, d, a, b, msk, ca, rfl⟩
  | vfaddVv d a b msk ca cb => exact decodesBack_of_entry 44 0 rfl ⟨_, rfl, d, a, b, msk, ca, cb, rfl⟩
  | vfsubVv d a b msk ca cb => exact decodesBack_of_entry 44 1 rfl ⟨_, rfl, d, a, b, msk, ca, cb, rfl⟩
  | vfmulVv d a b msk ca cb => exact decodesBack_of_entry 44 2 rfl ⟨_, rfl, d, a, b, msk, ca, cb, rfl⟩
  | vfdivVv d a b msk ca cb => exact decodesBack_of_entry 44 3 rfl ⟨_, rfl, d, a, b, msk, ca, cb, rfl⟩
  | vfmaVv d a b msk ca cb => exact decodesBack_of_entry 44 4 rfl ⟨_, rfl, d, a, b, msk, ca, cb, rfl⟩
  | vfmsVv d a b msk ca cb => exact decodesBack_of_entry 44 5 rfl ⟨_, rfl, d, a, b, msk, ca, cb, rfl⟩
  | vfnmaVv d a b msk ca cb => exact decodesBack_of_entry 44 6 rfl ⟨_, rfl, d, a, b, msk, ca, cb, rfl⟩
  | vfminVv d a b msk ca cb => exact decodesBack_of_entry 44 7 rfl ⟨_, rfl, d, a, b, msk, ca, cb, rfl⟩
  | vfmaxVv d a b msk ca cb => exact decodesBack_of_entry 44 8 rfl ⟨_, rfl, d, a, b, msk, ca, cb, rfl⟩
  | vfsqrtVv d a msk ca => exact decodesBack_of_entry 44 9 rfl ⟨_, rfl, d, a, msk, ca, rfl⟩
  | vfrcpVv d a msk ca => exact decodesBack_of_entry 44 10 rfl ⟨_, rfl, d, a, msk, ca, rfl⟩
  | vfrsqVv d a msk ca => exact decodesBack_of_entry 44 11 rfl ⟨_, rfl, d, a, msk, ca, rfl⟩
  | vfexp2Vv d a msk ca => exact decodesBack_of_entry 44 12 rfl ⟨_, rfl, d, a, msk, ca, rfl⟩
  | vflog2Vv d a msk ca => exact decodesBack_of_entry 44 13 rfl ⟨_, rfl, d, a, msk, ca, rfl⟩
  | vftanhVv d a msk ca => exact decodesBack_of_entry 44 14 rfl ⟨_, rfl, d, a, msk, ca, rfl⟩
  | vfabsVv d a msk ca => exact decodesBack_of_entry 44 15 rfl ⟨_, rfl, d, a, msk, ca, rfl⟩
  | vfnegVv d a msk ca => exact decodesBack_of_entry 44 16 rfl ⟨_, rfl, d, a, msk, ca, rfl⟩
  | vfsgnjVv d a b msk ca cb => exact decodesBack_of_entry 44 17 rfl ⟨_, rfl, d, a, b, msk, ca, cb, rfl⟩
  | vfclassVv d a msk ca => exact decodesBack_of_entry 44 18 rfl ⟨_, rfl, d, a, msk, ca, rfl⟩
  | vfaddVs d a b msk ca => exact decodesBack_of_entry 45 0 rfl ⟨_, rfl, d, a, b, msk, ca, rfl⟩
  | vfsubVs d a b msk ca => exact decodesBack_of_entry 45 1 rfl ⟨_, rfl, d, a, b, msk, ca, rfl⟩
  | vfmulVs d a b msk ca => exact decodesBack_of_entry 45 2 rfl ⟨_, rfl, d, a, b, msk, ca, rfl⟩
  | vfdivVs d a b msk ca => exact decodesBack_of_entry 45 3 rfl ⟨_, rfl, d, a, b, msk, ca, rfl⟩
  | vfmaVs d a b msk ca => exact decodesBack_of_entry 45 4 rfl ⟨_, rfl, d, a, b, msk, ca, rfl⟩
  | vfmsVs d a b msk ca => exact decodesBack_of_entry 45 5 rfl ⟨_, rfl, d, a, b, msk, ca, rfl⟩
  | vfnmaVs d a b msk ca => exact decodesBack_of_entry 45 6 rfl ⟨_, rfl, d, a, b, msk, ca, rfl⟩
  | vfminVs d a b msk ca => exact decodesBack_of_entry 45 7 rfl ⟨_, rfl, d, a, b, msk, ca, rfl⟩
  | vfmaxVs d a b msk ca => exact decodesBack_of_entry 45 8 rfl ⟨_, rfl, d, a, b, msk, ca, rfl⟩
  | vfsqrtVs d a msk ca => exact decodesBack_of_entry 45 9 rfl ⟨_, rfl, d, a, msk, ca, rfl⟩
  | vfrcpVs d a msk ca => exact decodesBack_of_entry 45 10 rfl ⟨_, rfl, d, a, msk, ca, rfl⟩
  | vfrsqVs d a msk ca => exact decodesBack_of_entry 45 11 rfl ⟨_, rfl, d, a, msk, ca, rfl⟩
  | vfexp2Vs d a msk ca => exact decodesBack_of_entry 45 12 rfl ⟨_, rfl, d, a, msk, ca, rfl⟩
  | vflog2Vs d a msk ca => exact decodesBack_of_entry 45 13 rfl ⟨_, rfl, d, a, msk, ca, rfl⟩
  | vftanhVs d a msk ca => exact decodesBack_of_entry 45 14 rfl ⟨_, rfl, d, a, msk, ca, rfl⟩
  | vfabsVs d a msk ca => exact decodesBack_of_entry 45 15 rfl ⟨_, rfl, d, a, msk, ca, rfl⟩
  | vfnegVs d a msk ca => exact decodesBack_of_entry 45 16 rfl ⟨_, rfl, d, a, msk, ca, rfl⟩
  | vfsgnjVs d a b msk ca => exact decodesBack_of_entry 45 17 rfl ⟨_, rfl, d, a, b, msk, ca, rfl⟩
  | vfclassVs d a msk ca => exact decodesBack_of_entry 45 18 rfl ⟨_, rfl, d, a, msk, ca, rfl⟩
  | vcmpeqVv d a b msk ca cb => exact decodesBack_of_entry 46 0 rfl ⟨_, rfl, d, a, b, msk, ca, cb, rfl⟩
  | vcmpneVv d a b msk ca cb => exact decodesBack_of_entry 46 1 rfl ⟨_, rfl, d, a, b, msk, ca, cb, rfl⟩
  | vcmpltVv d a b msk ca cb => exact decodesBack_of_entry 46 2 rfl ⟨_, rfl, d, a, b, msk, ca, cb, rfl⟩
  | vcmpgeVv d a b msk ca cb => exact decodesBack_of_entry 46 3 rfl ⟨_, rfl, d, a, b, msk, ca, cb, rfl⟩
  | vcmpltuVv d a b msk ca cb => exact decodesBack_of_entry 46 4 rfl ⟨_, rfl, d, a, b, msk, ca, cb, rfl⟩
  | vcmpgeuVv d a b msk ca cb => exact decodesBack_of_entry 46 5 rfl ⟨_, rfl, d, a, b, msk, ca, cb, rfl⟩
  | vcmpfeqVv d a b msk ca cb => exact decodesBack_of_entry 46 6 rfl ⟨_, rfl, d, a, b, msk, ca, cb, rfl⟩
  | vcmpfltVv d a b msk ca cb => exact decodesBack_of_entry 46 7 rfl ⟨_, rfl, d, a, b, msk, ca, cb, rfl⟩
  | vcmpfleVv d a b msk ca cb => exact decodesBack_of_entry 46 8 rfl ⟨_, rfl, d, a, b, msk, ca, cb, rfl⟩
  | vcmpfunoVv d a b msk ca cb => exact decodesBack_of_entry 46 9 rfl ⟨_, rfl, d, a, b, msk, ca, cb, rfl⟩
  | vcmpeqVs d a b msk ca => exact decodesBack_of_entry 46 16 rfl ⟨_, rfl, d, a, b, msk, ca, rfl⟩
  | vcmpneVs d a b msk ca => exact decodesBack_of_entry 46 17 rfl ⟨_, rfl, d, a, b, msk, ca, rfl⟩
  | vcmpltVs d a b msk ca => exact decodesBack_of_entry 46 18 rfl ⟨_, rfl, d, a, b, msk, ca, rfl⟩
  | vcmpgeVs d a b msk ca => exact decodesBack_of_entry 46 19 rfl ⟨_, rfl, d, a, b, msk, ca, rfl⟩
  | vcmpltuVs d a b msk ca => exact decodesBack_of_entry 46 20 rfl ⟨_, rfl, d, a, b, msk, ca, rfl⟩
  | vcmpgeuVs d a b msk ca => exact decodesBack_of_entry 46 21 rfl ⟨_, rfl, d, a, b, msk, ca, rfl⟩
  | vcmpfeqVs d a b msk ca => exact decodesBack_of_entry 46 22 rfl ⟨_, rfl, d, a, b, msk, ca, rfl⟩
  | vcmpfltVs d a b msk ca => exact decodesBack_of_entry 46 23 rfl ⟨_, rfl, d, a, b, msk, ca, rfl⟩
  | vcmpfleVs d a b msk ca => exact decodesBack_of_entry 46 24 rfl ⟨_, rfl, d, a, b, msk, ca, rfl⟩
  | vcmpfunoVs d a b msk ca => exact decodesBack_of_entry 46 25 rfl ⟨_, rfl, d, a, b, msk, ca, rfl⟩
  | kand d a b ca cb => exact decodesBack_of_entry 47 0 rfl ⟨_, rfl, d, a, b, ca, cb, rfl⟩
  | kor d a b ca cb => exact decodesBack_of_entry 47 1 rfl ⟨_, rfl, d, a, b, ca, cb, rfl⟩
  | kxor d a b ca cb => exact decodesBack_of_entry 47 2 rfl ⟨_, rfl, d, a, b, ca, cb, rfl⟩
  | kandn d a b ca cb => exact decodesBack_of_entry 47 3 rfl ⟨_, rfl, d, a, b, ca, cb, rfl⟩
  | knot d a ca => exact decodesBack_of_entry 47 4 rfl ⟨_, rfl, d, a, ca, rfl⟩
  | kmov d a ca => exact decodesBack_of_entry 47 5 rfl ⟨_, rfl, d, a, ca, rfl⟩
  | kpop d a ca => exact decodesBack_of_entry 47 6 rfl ⟨_, rfl, d, a, ca, rfl⟩
  | kpopvl d a ca => exact decodesBack_of_entry 47 7 rfl ⟨_, rfl, d, a, ca, rfl⟩
  | kfirst d a ca => exact decodesBack_of_entry 47 8 rfl ⟨_, rfl, d, a, ca, rfl⟩
  | kfromg d a b => exact decodesBack_of_entry 47 9 rfl ⟨_, rfl, d, a, b, rfl⟩
  | ktog d a b ca => exact decodesBack_of_entry 47 10 rfl ⟨_, rfl, d, a, b, ca, rfl⟩
  | kprefix d a ca => exact decodesBack_of_entry 47 11 rfl ⟨_, rfl, d, a, ca, rfl⟩
  | ksbf d a ca => exact decodesBack_of_entry 47 12 rfl ⟨_, rfl, d, a, ca, rfl⟩
  | vmerge d a b msk ca cb => exact decodesBack_of_entry 48 0 rfl ⟨_, rfl, d, a, b, msk, ca, cb, rfl⟩
  | vslideup d a b msk ca => exact decodesBack_of_entry 48 1 rfl ⟨_, rfl, d, a, b, msk, ca, rfl⟩
  | vslidedn d a b msk ca => exact decodesBack_of_entry 48 2 rfl ⟨_, rfl, d, a, b, msk, ca, rfl⟩
  | vpermx d a b msk ca cb => exact decodesBack_of_entry 48 3 rfl ⟨_, rfl, d, a, b, msk, ca, cb, rfl⟩
  | vcompress d a msk ca => exact decodesBack_of_entry 48 4 rfl ⟨_, rfl, d, a, msk, ca, rfl⟩
  | vexpand d a msk ca => exact decodesBack_of_entry 48 5 rfl ⟨_, rfl, d, a, msk, ca, rfl⟩
  | vbcast d a b msk ca => exact decodesBack_of_entry 48 6 rfl ⟨_, rfl, d, a, b, msk, ca, rfl⟩
  | vins d a b => exact decodesBack_of_entry 48 7 rfl ⟨_, rfl, d, a, b, rfl⟩
  | vext d a b ca => exact decodesBack_of_entry 48 8 rfl ⟨_, rfl, d, a, b, ca, rfl⟩
  | vmov d a msk ca => exact decodesBack_of_entry 48 9 rfl ⟨_, rfl, d, a, msk, ca, rfl⟩
  | vzip d a b msk ca cb => exact decodesBack_of_entry 48 10 rfl ⟨_, rfl, d, a, b, msk, ca, cb, rfl⟩
  | vunzip d a b msk ca cb => exact decodesBack_of_entry 48 11 rfl ⟨_, rfl, d, a, b, msk, ca, cb, rfl⟩
  | vredsum d a b msk ca cb => exact decodesBack_of_entry 50 0 rfl ⟨_, rfl, d, a, b, msk, ca, cb, rfl⟩
  | vredmax d a b msk ca cb => exact decodesBack_of_entry 50 1 rfl ⟨_, rfl, d, a, b, msk, ca, cb, rfl⟩
  | vredmin d a b msk ca cb => exact decodesBack_of_entry 50 2 rfl ⟨_, rfl, d, a, b, msk, ca, cb, rfl⟩
  | vredand d a b msk ca cb => exact decodesBack_of_entry 50 3 rfl ⟨_, rfl, d, a, b, msk, ca, cb, rfl⟩
  | vredor d a b msk ca cb => exact decodesBack_of_entry 50 4 rfl ⟨_, rfl, d, a, b, msk, ca, cb, rfl⟩
  | vredxor d a b msk ca cb => exact decodesBack_of_entry 50 5 rfl ⟨_, rfl, d, a, b, msk, ca, cb, rfl⟩
  | vscan d a b msk ca cb => exact decodesBack_of_entry 50 6 rfl ⟨_, rfl, d, a, b, msk, ca, cb, rfl⟩
  | vscanmax d a b msk ca cb => exact decodesBack_of_entry 50 7 rfl ⟨_, rfl, d, a, b, msk, ca, cb, rfl⟩
  | vsegred d a b msk ca => exact decodesBack_of_entry 50 8 rfl ⟨_, rfl, d, a, b, msk, ca, rfl⟩
  | vsegscan d a b msk ca => exact decodesBack_of_entry 50 9 rfl ⟨_, rfl, d, a, b, msk, ca, rfl⟩
  | vsegmax d a b msk ca => exact decodesBack_of_entry 50 10 rfl ⟨_, rfl, d, a, b, msk, ca, rfl⟩
  | vld t base msk ff => exact decodesBack_of_entry 52 0 rfl ⟨_, rfl, t, base, msk, ff, rfl⟩
  | vlds t base x msk ff => exact decodesBack_of_entry 52 1 rfl ⟨_, rfl, t, base, x, msk, ff, rfl⟩
  | vldx t base x msk ff c => exact decodesBack_of_entry 52 2 rfl ⟨_, rfl, t, base, x, msk, ff, c, rfl⟩
  | vldn t base msk ff => exact decodesBack_of_entry 52 3 rfl ⟨_, rfl, t, base, msk, ff, rfl⟩
  | vldk t base => exact decodesBack_of_entry 52 4 rfl ⟨_, rfl, t, base, rfl⟩
  | vldb t base msk => exact decodesBack_of_entry 52 5 rfl ⟨_, rfl, t, base, msk, rfl⟩
  | vldt t base x msk => exact decodesBack_of_entry 52 6 rfl ⟨_, rfl, t, base, x, msk, rfl⟩
  | vst t base msk c => exact decodesBack_of_entry 53 0 rfl ⟨_, rfl, t, base, msk, c, rfl⟩
  | vsts t base x msk c => exact decodesBack_of_entry 53 1 rfl ⟨_, rfl, t, base, x, msk, c, rfl⟩
  | vstx t base x msk c => exact decodesBack_of_entry 53 2 rfl ⟨_, rfl, t, base, x, msk, c, rfl⟩
  | vstn t base msk c => exact decodesBack_of_entry 53 3 rfl ⟨_, rfl, t, base, msk, c, rfl⟩
  | vstk t base => exact decodesBack_of_entry 53 4 rfl ⟨_, rfl, t, base, rfl⟩
  | vstt t base x msk c => exact decodesBack_of_entry 53 5 rfl ⟨_, rfl, t, base, x, msk, c, rfl⟩
  | mctx a => exact decodesBack_of_entry 56 0 rfl ⟨_, rfl, a, rfl⟩
  | mgeo a => exact decodesBack_of_entry 56 1 rfl ⟨_, rfl, a, rfl⟩
  | mloadb a b tag => exact decodesBack_of_entry 56 2 rfl ⟨_, rfl, a, b, tag, rfl⟩
  | mswap tag => exact decodesBack_of_entry 56 3 rfl ⟨_, rfl, tag, rfl⟩
  | mrun tag => exact decodesBack_of_entry 56 4 rfl ⟨_, rfl, tag, rfl⟩
  | mclr tag => exact decodesBack_of_entry 56 5 rfl ⟨_, rfl, tag, rfl⟩
  | cpcfg a => exact decodesBack_of_entry 57 0 rfl ⟨_, rfl, a, rfl⟩
  | cpy d a b tag => exact decodesBack_of_entry 57 1 rfl ⟨_, rfl, d, a, b, tag, rfl⟩
  | cpyn d a b tag => exact decodesBack_of_entry 57 2 rfl ⟨_, rfl, d, a, b, tag, rfl⟩
  | publ a tag => exact decodesBack_of_entry 57 3 rfl ⟨_, rfl, a, tag, rfl⟩
  | cpabort => exact decodesBack_of_entry 57 4 rfl ⟨_, rfl, rfl⟩
  | sbind d a => exact decodesBack_of_entry 58 0 rfl ⟨_, rfl, d, a, rfl⟩
  | sunbind d => exact decodesBack_of_entry 58 1 rfl ⟨_, rfl, d, rfl⟩
  | ssync d => exact decodesBack_of_entry 58 2 rfl ⟨_, rfl, d, rfl⟩
  | sstat d a => exact decodesBack_of_entry 58 3 rfl ⟨_, rfl, d, a, rfl⟩
  | gdef a b tag => exact decodesBack_of_entry 59 0 rfl ⟨_, rfl, a, b, tag, rfl⟩
  | gwait tag => exact decodesBack_of_entry 59 1 rfl ⟨_, rfl, tag, rfl⟩
  | gqry d tag => exact decodesBack_of_entry 59 2 rfl ⟨_, rfl, d, tag, rfl⟩
  | eret => exact decodesBack_of_entry 62 0 rfl ⟨_, rfl, rfl⟩
  | rtwr a b => exact decodesBack_of_entry 62 1 rfl ⟨_, rfl, a, b, rfl⟩
  | rtrd a b => exact decodesBack_of_entry 62 2 rfl ⟨_, rfl, a, b, rfl⟩
  | rtinv a b => exact decodesBack_of_entry 62 3 rfl ⟨_, rfl, a, b, rfl⟩
  | rsplit d a => exact decodesBack_of_entry 62 4 rfl ⟨_, rfl, d, a, rfl⟩
  | rmerge d a => exact decodesBack_of_entry 62 5 rfl ⟨_, rfl, d, a, rfl⟩
  | genbump d a => exact decodesBack_of_entry 62 6 rfl ⟨_, rfl, d, a, rfl⟩
  | rcompact d a b => exact decodesBack_of_entry 62 7 rfl ⟨_, rfl, d, a, b, rfl⟩
  | ctxsv d a b => exact decodesBack_of_entry 62 8 rfl ⟨_, rfl, d, a, b, rfl⟩
  | ctxld d a b => exact decodesBack_of_entry 62 9 rfl ⟨_, rfl, d, a, b, rfl⟩
  | ipost d a => exact decodesBack_of_entry 62 10 rfl ⟨_, rfl, d, a, rfl⟩
  | wfi d a => exact decodesBack_of_entry 62 11 rfl ⟨_, rfl, d, a, rfl⟩
  | haltc d a => exact decodesBack_of_entry 62 12 rfl ⟨_, rfl, d, a, rfl⟩
  | addi d a imm => exact decodesBack_of_entry 4 0 rfl ⟨d, a, imm, rfl⟩
  | andi d a imm => exact decodesBack_of_entry 5 0 rfl ⟨d, a, imm, rfl⟩
  | ori d a imm => exact decodesBack_of_entry 6 0 rfl ⟨d, a, imm, rfl⟩
  | xori d a imm => exact decodesBack_of_entry 7 0 rfl ⟨d, a, imm, rfl⟩
  | slti d a imm => exact decodesBack_of_entry 8 0 rfl ⟨d, a, imm, rfl⟩
  | sltiu d a imm => exact decodesBack_of_entry 9 0 rfl ⟨d, a, imm, rfl⟩
  | movz d hw v => exact decodesBack_of_entry 11 0 rfl ⟨d, hw, v, rfl⟩
  | movk d hw v => exact decodesBack_of_entry 12 0 rfl ⟨d, hw, v, rfl⟩
  | lapc d imm => exact decodesBack_of_entry 13 0 rfl ⟨d, imm, rfl⟩
  | bfs sel off => exact decodesBack_of_entry 14 0 rfl ⟨sel, off, rfl⟩
  | bfc sel off => exact decodesBack_of_entry 15 0 rfl ⟨sel, off, rfl⟩
  | beq a b off => exact decodesBack_of_entry 16 0 rfl ⟨a, b, off, rfl⟩
  | bne a b off => exact decodesBack_of_entry 17 0 rfl ⟨a, b, off, rfl⟩
  | blt a b off => exact decodesBack_of_entry 18 0 rfl ⟨a, b, off, rfl⟩
  | bge a b off => exact decodesBack_of_entry 19 0 rfl ⟨a, b, off, rfl⟩
  | bltu a b off => exact decodesBack_of_entry 20 0 rfl ⟨a, b, off, rfl⟩
  | bgeu a b off => exact decodesBack_of_entry 21 0 rfl ⟨a, b, off, rfl⟩
  | j off => exact decodesBack_of_entry 22 0 rfl ⟨off, rfl⟩
  | jal off => exact decodesBack_of_entry 23 0 rfl ⟨off, rfl⟩
  | lb t base off => exact decodesBack_of_entry 25 0 rfl ⟨t, base, off, rfl⟩
  | lbz t base off => exact decodesBack_of_entry 26 0 rfl ⟨t, base, off, rfl⟩
  | lh t base off => exact decodesBack_of_entry 27 0 rfl ⟨t, base, off, rfl⟩
  | lhz t base off => exact decodesBack_of_entry 28 0 rfl ⟨t, base, off, rfl⟩
  | lw t base off => exact decodesBack_of_entry 29 0 rfl ⟨t, base, off, rfl⟩
  | lwz t base off => exact decodesBack_of_entry 30 0 rfl ⟨t, base, off, rfl⟩
  | ld t base off => exact decodesBack_of_entry 31 0 rfl ⟨t, base, off, rfl⟩
  | sb t base off => exact decodesBack_of_entry 32 0 rfl ⟨t, base, off, rfl⟩
  | sh t base off => exact decodesBack_of_entry 33 0 rfl ⟨t, base, off, rfl⟩
  | sw t base off => exact decodesBack_of_entry 34 0 rfl ⟨t, base, off, rfl⟩
  | sd t base off => exact decodesBack_of_entry 35 0 rfl ⟨t, base, off, rfl⟩
  | vcvt d a p msk ca fmt => exact decodesBack_of_entry 49 0 rfl ⟨d, a, p, msk, ca, fmt, rfl⟩
  | viota d msk start incr => exact decodesBack_of_entry 51 0 rfl ⟨d, msk, start, incr, rfl⟩
  | _ => exact absurd h Bool.false_ne_true

/-! ### The statement -/

theorem decodeRaw_of_reservedMajor {w : Nat} (h : reservedMajor (bits w 31 26) = true) : decodeRaw w = none := by
  simp only [reservedMajor, Bool.or_eq_true, beq_iff_eq] at h
  rw [decodeRaw_eq]
  obtain ((((h | h) | h) | h) | h) | h := h <;> exact (congrArg (fun m => (opcodeMap[m]?).bind _) h)

/-- What decode accepts is what decodeRaw reads and the operand limits admit. -/
theorem decode_eq_ok_iff (w : BitVec 32) (i : Instr) : decode w = .ok i ↔ decodeRaw w.toNat = some i ∧ i.wf = true := by
  unfold decode
  split
  · next hres => simp [decodeRaw_of_reservedMajor hres]
  · cases h : decodeRaw w.toNat with
    | none => simp
    | some j =>
      by_cases hj : j.wf = true
      · simp only [hj, if_true, Except.ok.injEq, Option.some.injEq]
        exact ⟨fun e => ⟨e, e ▸ hj⟩, And.left⟩
      · simp only [hj, Bool.false_eq_true, if_false, reduceCtorEq, Option.some.injEq, false_iff, not_and]
        exact fun e he => hj (e ▸ he)

/-- The word 0 is of a reserved major. -/
theorem decodeRaw_zero : decodeRaw 0 = none := decodeRaw_of_reservedMajor rfl

/-- Settles O56: every instruction's fields are read back from its word (decodesBack_of_hasWord), and every word that is read
is put together again from its fields (encodeNat_of_decodeRaw). -/
theorem decodeAndEncodeAgree : Obligations.DecodeAndEncodeAgree := by
  unfold Obligations.DecodeAndEncodeAgree
  refine ⟨fun i hasWord wf => ?_, fun w i h => ?_⟩
  · obtain ⟨hlt, hdec⟩ := decodesBack_of_hasWord hasWord
    have hw : (encode i).toNat = encodeNat i := (BitVec.toNat_ofNat ..).trans (Nat.mod_eq_of_lt hlt)
    exact (decode_eq_ok_iff _ _).mpr ⟨hw ▸ hdec, wf⟩
  · obtain ⟨hdec, wf⟩ := (decode_eq_ok_iff w i).mp h
    have henc : encodeNat i = w.toNat := encodeNat_of_decodeRaw w.isLt hdec
    refine ⟨?_, wf, by rw [encode, henc, BitVec.ofNat_toNat, BitVec.setWidth_eq]⟩
    have hne : encodeNat i ≠ 0 := fun h0 => by
      rw [← henc, h0, decodeRaw_zero] at hdec
      cases hdec
    simpa [Instr.hasWord] using hne

end Sys2Proof
end

section
/-! SUPPORT. Every step keeps memory in its canonical form (05_ranges.md): for each operation of the model that answers a
state, memory stays canonical. Operations come in the order of the model, each from those it calls; the accesses have it from
their frames (MemOnly, Acc.FromMem). -/

namespace Sys2Proof.Machine
set_option Elab.async false

/-- However an access ends, it leaves memory in canonical form. -/
def AccMemWf {α : Type} : Acc α → Prop
  | .ok _ t => Memory.wf t.mem = true
  | .trap _ t => Memory.wf t.mem = true
  | .wait t => Memory.wf t.mem = true
/-- So does an instruction or step that answers a next state. -/
def ResMemWf : Res → Prop
  | .next t => Memory.wf t.mem = true
  | _ => True

theorem Acc.FromMem.memWf {α : Type} {s : State} {x : Acc α} (h : x.FromMem s) (w : Memory.wf s.mem = true) : AccMemWf x := by
  cases x <;> exact MemOnly.wf h w
theorem memWf_foldl {β : Type} {f : State → β → State} (hf : ∀ t b, Memory.wf t.mem = true → Memory.wf (f t b).mem = true)
    (l : List β) {s : State} (h : Memory.wf s.mem = true) : Memory.wf (l.foldl f s).mem = true := by
  induction l generalizing s with
  | nil => exact h
  | cons b l ih => exact ih (hf s b h)
theorem memWf_filter {m : Store Byte} (p : Nat × Byte → Bool) (h : Memory.wf m = true) : Memory.wf (m.filter p) = true :=
  Store.wfFrom_filter 0 p m 0 h
theorem resMemWf_ite {c : Prop} [Decidable c] {a b : Res} (ha : ResMemWf a) (hb : ResMemWf b) : ResMemWf (if c then a else
    b) := by
  split
  · exact ha
  · exact hb
/-- The state in a pair, once the pair is taken apart. -/
theorem memWf_of_eq_snd {α : Type} {p : α × State} {a : α} {t : State} (h : p = (a, t)) (w : Memory.wf p.2.mem = true) :
    Memory.wf t.mem = true := by
  subst h
  exact w
section
variable {α : Type} {x : Acc α} {t : State} (w : AccMemWf x)
include w
theorem memWf_of_eq_ok {a : α} (h : x = .ok a t) : Memory.wf t.mem = true := by subst h; exact w
theorem memWf_of_eq_trap {r : Trap} (h : x = .trap r t) : Memory.wf t.mem = true := by subst h; exact w
theorem memWf_of_eq_wait (h : x = .wait t) : Memory.wf t.mem = true := by subst h; exact w
end
theorem accMemWf_ite {α : Type} {c : Prop} [Decidable c] {a b : Acc α} (ha : AccMemWf a) (hb : AccMemWf b) :
    AccMemWf (if c then a else b) := by
  split
  · exact ha
  · exact hb
theorem memWf_ite {c : Prop} [Decidable c] {a b : State} (ha : Memory.wf a.mem = true) (hb : Memory.wf b.mem = true) :
    Memory.wf (if c then a else b).mem = true := by
  split
  · exact ha
  · exact hb
theorem memWf_setCore (s : State) (c : Nat) (x : Core) (h_s : Memory.wf s.mem = true) :
    Memory.wf (State.setCore s c x).mem = true := by
  grind -ring -linarith -lia -order [State.setCore]
theorem memWf_updCore (s : State) (c : Nat) (f : Core → Core) (h_s : Memory.wf s.mem = true) :
    Memory.wf (State.updCore s c f).mem = true := by
  grind -ring -linarith -lia -order [State.updCore, memWf_setCore]
theorem memWf_updMe (s : State) (f : Core → Core) (h_s : Memory.wf s.mem = true) :
    Memory.wf (State.updMe s f).mem = true := by
  grind -ring -linarith -lia -order [State.updMe, memWf_updCore]
theorem memWf_updCluster (s : State) (k : Nat) (f : Cluster → Cluster) (h_s : Memory.wf s.mem = true) :
    Memory.wf (State.updCluster s k f).mem = true :=
  (MemOnly.updCluster ..).wf h_s
theorem memWf_updDie (s : State) (d : Nat) (f : Die → Die) (h_s : Memory.wf s.mem = true) :
    Memory.wf (State.updDie s d f).mem = true :=
  (MemOnly.updDie ..).wf h_s
theorem memWf_updWisp (s : State) (k : Nat) (f : Wisp → Wisp) (h_s : Memory.wf s.mem = true) :
    Memory.wf (State.updWisp s k f).mem = true :=
  (MemOnly.updWisp ..).wf h_s
theorem memWf_updLaunch (s : State) (l : Nat) (f : Launch → Launch) (h_s : Memory.wf s.mem = true) :
    Memory.wf (State.updLaunch s l f).mem = true := by
  grind -ring -linarith -lia -order [State.updLaunch]
theorem memWf_updVdev (s : State) (n : Nat) (f : VDev → VDev) (h_s : Memory.wf s.mem = true) :
    Memory.wf (State.updVdev s n f).mem = true := by
  grind -ring -linarith -lia -order [State.updVdev]
theorem memWf_updQueue (s : State) (fn q : Nat) (f : Queue → Queue) (h_s : Memory.wf s.mem = true) :
    Memory.wf (State.updQueue s fn q f).mem = true := by
  grind -ring -linarith -lia -order [State.updQueue]
theorem memWf_updMbox (s : State) (n : Nat) (f : Mbox → Mbox) (h_s : Memory.wf s.mem = true) :
    Memory.wf (State.updMbox s n f).mem = true := by
  grind -ring -linarith -lia -order [State.updMbox]
theorem memWf_post (s : State) (e : Event) (h_s : Memory.wf s.mem = true) :
    Memory.wf (State.post s e).mem = true :=
  (MemOnly.post ..).wf h_s
theorem memWf_postOnce (s : State) (e : Event) (h_s : Memory.wf s.mem = true) :
    Memory.wf (State.postOnce s e).mem = true :=
  (MemOnly.postOnce ..).wf h_s
theorem memWf_emit (s : State) (o : Out) (h_s : Memory.wf s.mem = true) :
    Memory.wf (State.emit s o).mem = true :=
  (MemOnly.emit ..).wf h_s
theorem memWf_logAdd (s : State) (kind device part detail : Nat) (h_s : Memory.wf s.mem = true) :
    Memory.wf (State.logAdd s kind device part detail).mem = true := by
  grind -ring -linarith -lia -order [State.logAdd]
theorem memWf_wg (s : State) (r : BitVec 5) (v : Word) (h_s : Memory.wf s.mem = true) :
    Memory.wf (State.wg s r v).mem = true := by
  grind -ring -linarith -lia -order [State.wg, memWf_updMe]
theorem memWf_jump (s : State) (t : Word) (h_s : Memory.wf s.mem = true) :
    Memory.wf (State.jump s t).mem = true := by
  grind -ring -linarith -lia -order [State.jump, memWf_updMe]
theorem memWf_nextPc (s : State) (h_s : Memory.wf s.mem = true) :
    Memory.wf (State.nextPc s).mem = true := by
  grind -ring -linarith -lia -order [State.nextPc, memWf_jump]
theorem memWf_Acc_bind {α β : Type} {x : Acc α} {f : α → State → Acc β} (hx : AccMemWf x)
    (hf : ∀ a t, Memory.wf t.mem = true → AccMemWf (f a t)) : AccMemWf (x.bind f) := by
  cases x with
  | ok a t => exact hf a t hx
  | trap t s => exact hx
  | wait s => exact hx
theorem memWf_block (s : State) (h_s : Memory.wf s.mem = true) :
    Memory.wf (State.block s).mem = true := by
  grind -ring -linarith -lia -order [State.block, memWf_updMe]
theorem memWf_stall (s : State) (h_s : Memory.wf s.mem = true) :
    Memory.wf (State.stall s).mem = true := by
  grind -ring -linarith -lia -order [State.stall, memWf_updMe]
theorem memWf_admission (s : State) (d c : Nat) (pieces links : List Nat) (ev : Event) (h_s : Memory.wf s.mem = true) :
    Memory.wf (State.admission s d c pieces links ev).2.mem = true := by
  simp only [State.admission]
  split
  · exact h_s
  · split
    · exact memWf_foldl (fun t p h => memWf_post t _ h) _ (memWf_updDie s d _ h_s)
    · exact memWf_postOnce _ _ (memWf_updDie s d _ h_s)
theorem memWf_rawWrite (s : State) (pa n v : Nat) (h_s : Memory.wf s.mem = true) :
    Memory.wf (State.rawWrite s pa n v).mem = true :=
  (MemOnly.rawWrite ..).wf h_s
theorem memWf_writeRecord (s : State) (k : Nat) (h_s : Memory.wf s.mem = true) :
    Memory.wf (State.writeRecord s k).mem = true :=
  (MemOnly.writeRecord ..).wf h_s
theorem memWf_offer (s : State) (d : Nat) (h_s : Memory.wf s.mem = true) :
    Memory.wf (State.offer s d).mem = true :=
  (MemOnly.offer ..).wf h_s
theorem memWf_markReady (s : State) (k : Nat) (h_s : Memory.wf s.mem = true) :
    Memory.wf (State.markReady s k).mem = true :=
  (MemOnly.markReady ..).wf h_s
theorem memWf_endCoreWait (s : State) (c : Nat) (w : WaitOn) (h_s : Memory.wf s.mem = true) :
    Memory.wf (State.endCoreWait s c w).mem = true := by
  grind -ring -linarith -lia -order [State.endCoreWait, memWf_updCore]
theorem memWf_wakeCore (s : State) (c : Nat) (v : Word) (d : Nat) (acq : Option Nat) (h_s : Memory.wf s.mem = true) :
    Memory.wf (State.wakeCore s c v d acq).mem = true :=
  (MemOnly.wakeCore ..).wf h_s
theorem memWf_endParkedWait (s : State) (k : Nat) (w : WaitOn) (h_s : Memory.wf s.mem = true) :
    Memory.wf (State.endParkedWait s k w).mem = true := by
  grind -ring -linarith -lia -order [State.endParkedWait, memWf_updWisp, memWf_markReady]
theorem memWf_wakeParked (s : State) (k : Nat) (v : Word) (d : Nat) (acq : Option Nat) (h_s : Memory.wf s.mem = true) :
    Memory.wf (State.wakeParked s k v d acq).mem = true :=
  (MemOnly.wakeParked ..).wf h_s
theorem memWf_wakeWaiter (s : State) (w : Waiter) (h_s : Memory.wf s.mem = true) :
    Memory.wf (State.wakeWaiter s w).mem = true :=
  (MemOnly.wakeWaiter ..).wf h_s
theorem memWf_wakeWaiters (s : State) (pa n : Nat) (h_s : Memory.wf s.mem = true) :
    Memory.wf (State.wakeWaiters s pa n).mem = true :=
  (MemOnly.wakeWaiters ..).wf h_s
theorem memWf_updReg (s : State) (line : Nat) (f : Reg → Reg) (h_s : Memory.wf s.mem = true) :
    Memory.wf (State.updReg s line f).mem = true :=
  (MemOnly.updReg ..).wf h_s
theorem memWf_askOwner (s : State) (line owner : Nat) (m : BitVec 16) (t : Option Take) (w : Option Awaiter) (h_s : Memory.wf
    s.mem = true) :
    Memory.wf (State.askOwner s line owner m t w).mem = true :=
  (MemOnly.askOwner ..).wf h_s
theorem memWf_foreignWrite (s : State) (who : Option Nat) (w : Option Awaiter) (pa n : Nat) (h_s : Memory.wf s.mem = true) :
    Memory.wf (State.foreignWrite s who w pa n).mem = true :=
  (MemOnly.foreignWrite ..).wf h_s
theorem memWf_deregister (s : State) (c line : Nat) (m : BitVec 16) (h_s : Memory.wf s.mem = true) :
    Memory.wf (State.deregister s c line m).mem = true :=
  (MemOnly.deregister ..).wf h_s
theorem memWf_putHome (s : State) (pa n v : Nat) (h_s : Memory.wf s.mem = true) :
    Memory.wf (State.putHome s pa n v).mem = true :=
  (MemOnly.putHome ..).wf h_s
theorem memWf_register (s : State) (who : Option Nat) (w : Option Awaiter) (pa n v : Nat) (h_s : Memory.wf s.mem = true) :
    Memory.wf (State.register s who w pa n v).mem = true :=
  (MemOnly.register ..).wf h_s
theorem memWf_sendRemote (s : State) (op : PeerOp) (pa n v : Nat) (h_s : Memory.wf s.mem = true) :
    Memory.wf (State.sendRemote s op pa n v).mem = true :=
  (MemOnly.sendRemote ..).wf h_s
theorem memWf_homeUpdate (s : State) (who : Option Nat) (w : Option Awaiter) (pa n v : Nat) (h_s : Memory.wf s.mem = true) :
    Memory.wf (State.homeUpdate s who w pa n v).mem = true :=
  (MemOnly.homeUpdate ..).wf h_s
theorem memWf_homeWrite1 (s : State) (who : Option Nat) (w : Option Awaiter) (pa n v : Nat) (h_s : Memory.wf s.mem = true) :
    Memory.wf (State.homeWrite1 s who w pa n v).mem = true :=
  (MemOnly.homeWrite1 ..).wf h_s
theorem memWf_homeWriteN (a0 : Nat) (a1 : State) (a2 : Option Nat) (a3 : Option Awaiter) (a4 : Nat) (a5 : Nat) (a6 : Nat) (h_a1
    : Memory.wf a1.mem = true) :
    Memory.wf (State.homeWriteN a0 a1 a2 a3 a4 a5 a6).mem = true :=
  (MemOnly.homeWriteN ..).wf h_a1
theorem memWf_homeWrite (s : State) (who : Option Nat) (w : Option Awaiter) (pa n v : Nat) (h_s : Memory.wf s.mem = true) :
    Memory.wf (State.homeWrite s who w pa n v).mem = true :=
  (MemOnly.homeWrite ..).wf h_s
theorem memWf_homePoison (s : State) (line : Nat) (m : BitVec 16) (h_s : Memory.wf s.mem = true) :
    Memory.wf (State.homePoison s line m).mem = true :=
  (MemOnly.homePoison ..).wf h_s
theorem memWf_homeWriteWords (s : State) (who : Option Nat) (w : Option Awaiter) (line : Nat) (data : BitVec 512) (m pois :
    BitVec 16) (h_s : Memory.wf s.mem = true) :
    Memory.wf (State.homeWriteWords s who w line data m pois).mem = true :=
  (MemOnly.homeWriteWords ..).wf h_s
theorem memWf_unitWrite (s : State) (from_ : Node) (w : Option Awaiter) (pa n v : Nat) (h_s : Memory.wf s.mem = true) :
    Memory.wf (State.unitWrite s from_ w pa n v).mem = true := by
  grind -ring -linarith -lia -order [State.unitWrite, memWf_homeWrite1, memWf_homePoison]
theorem memWf_loseWords (s : State) (d v line : Nat) (h_s : Memory.wf s.mem = true) :
    Memory.wf (State.loseWords s d v line).mem = true :=
  (MemOnly.loseWords ..).wf h_s
theorem memWf_dieRoom (s : State) (d vdev : Nat) (h_s : Memory.wf s.mem = true) :
    Memory.wf (State.dieRoom s d vdev).mem = true :=
  (MemOnly.dieRoom ..).wf h_s
theorem memWf_setDieLine (s : State) (d line : Nat) (l : Line) (h_s : Memory.wf s.mem = true) :
    Memory.wf (State.setDieLine s d line l).mem = true :=
  (MemOnly.setDieLine ..).wf h_s
theorem memWf_cluRoom (s : State) (k : Nat) (h_s : Memory.wf s.mem = true) :
    Memory.wf (State.cluRoom s k).mem = true :=
  (MemOnly.cluRoom ..).wf h_s
theorem memWf_setCluLine (s : State) (k line : Nat) (l : Line) (h_s : Memory.wf s.mem = true) :
    Memory.wf (State.setCluLine s k line l).mem = true :=
  (MemOnly.setCluLine ..).wf h_s
theorem memWf_setL1 (s : State) (c line : Nat) (l : Line) (h_s : Memory.wf s.mem = true) :
    Memory.wf (State.setL1 s c line l).mem = true :=
  (MemOnly.setL1 ..).wf h_s
theorem memWf_fillDie (s : State) (c line : Nat) (t : LineTag) (h_s : Memory.wf s.mem = true) :
    Memory.wf (State.fillDie s c line t).2.mem = true :=
  (MemOnly.fillDie ..).wf h_s
theorem memWf_fillClu (s : State) (c line : Nat) (t : LineTag) (h_s : Memory.wf s.mem = true) :
    Memory.wf (State.fillClu s c line t).2.mem = true :=
  (MemOnly.fillClu ..).wf h_s
theorem memWf_passTiers (s : State) (c line : Nat) (data : BitVec 512) (m pois : BitVec 16) (all : Bool) (h_s : Memory.wf s.mem
    = true) :
    Memory.wf (State.passTiers s c line data m pois all).mem = true :=
  (MemOnly.passTiers ..).wf h_s
theorem memWf_sendLine (s : State) (c line : Nat) (pois : BitVec 16) (e : Event) (h_s : Memory.wf s.mem = true) :
    Memory.wf (State.sendLine s c line pois e).mem = true :=
  (MemOnly.sendLine ..).wf h_s
theorem memWf_answerFill (s : State) (c line : Nat) (h_s : Memory.wf s.mem = true) :
    Memory.wf (State.answerFill s c line).mem = true :=
  (MemOnly.answerFill ..).wf h_s
theorem memWf_flushOwned (s : State) (c line : Nat) (m : BitVec 16) (h_s : Memory.wf s.mem = true) :
    Memory.wf (State.flushOwned s c line m).mem = true :=
  (MemOnly.flushOwned ..).wf h_s
theorem memWf_arriveWords (s : State) (c line : Nat) (data : BitVec 512) (m : BitVec 16) (h_s : Memory.wf s.mem = true) :
    Memory.wf (State.arriveWords s c line data m).mem = true :=
  (MemOnly.arriveWords ..).wf h_s
theorem memWf_mergeAnswer (s : State) (c line : Nat) (data : BitVec 512) (dirty : BitVec 16) (h_s : Memory.wf s.mem = true) :
    Memory.wf (State.mergeAnswer s c line data dirty).mem = true :=
  (MemOnly.mergeAnswer ..).wf h_s
theorem memWf_onOwnreq (s : State) (c line : Nat) (words : BitVec 16) (data : BitVec 512) (dirty : BitVec 16) (h_s : Memory.wf
    s.mem = true) :
    Memory.wf (State.onOwnreq s c line words data dirty).mem = true :=
  (MemOnly.onOwnreq ..).wf h_s
theorem memWf_endOwner (s : State) (c line : Nat) (h_s : Memory.wf s.mem = true) :
    Memory.wf (State.endOwner s c line).mem = true :=
  (MemOnly.endOwner ..).wf h_s
theorem memWf_onFill (s : State) (c line : Nat) (h_s : Memory.wf s.mem = true) :
    Memory.wf (State.onFill s c line).mem = true :=
  (MemOnly.onFill ..).wf h_s
theorem memWf_onYield (s : State) (c line : Nat) (data : BitVec 512) (dirty : BitVec 16) (h_s : Memory.wf s.mem = true) :
    Memory.wf (State.onYield s c line data dirty).mem = true := by
  grind -ring -linarith -lia -order [State.onYield, memWf_mergeAnswer, memWf_endOwner]
theorem memWf_copyLeft (s : State) (c line : Nat) (data : BitVec 512) (dirty m : BitVec 16) (h_s : Memory.wf s.mem = true) :
    Memory.wf (State.copyLeft s c line data dirty m).mem = true :=
  (MemOnly.copyLeft ..).wf h_s
theorem memWf_onEvict (s : State) (c line : Nat) (data : BitVec 512) (dirty : BitVec 16) (h_s : Memory.wf s.mem = true) :
    Memory.wf (State.onEvict s c line data dirty).mem = true := by
  grind -ring -linarith -lia -order [State.onEvict, memWf_post, memWf_copyLeft]
theorem memWf_onDisownreq (s : State) (c line : Nat) (data : BitVec 512) (dirty : BitVec 16) (h_s : Memory.wf s.mem = true) :
    Memory.wf (State.onDisownreq s c line data dirty).mem = true := by
  grind -ring -linarith -lia -order [State.onDisownreq, memWf_post, memWf_copyLeft]
theorem memWf_atHome (s : State) (a0 : Event) (h_s : Memory.wf s.mem = true) :
    Memory.wf (State.atHome s a0).mem = true :=
  (MemOnly.atHome ..).wf h_s
theorem memWf_perform (s : State) (p : Nat → Nat → Bool) (h_s : Memory.wf s.mem = true) :
    Memory.wf (State.perform s p).mem = true :=
  (MemOnly.perform ..).wf h_s
theorem memWf_performSent (s : State) (c : Nat) (h_s : Memory.wf s.mem = true) :
    Memory.wf (State.performSent s c).mem = true := by
  grind -ring -linarith -lia -order [State.performSent, memWf_perform]
theorem memWf_bankOrder (s : State) (c line : Nat) (h_s : Memory.wf s.mem = true) :
    Memory.wf (State.bankOrder s c line).mem = true :=
  (MemOnly.bankOrder ..).wf h_s
theorem memWf_request (s : State) (c : Nat) (e : Event) (h_s : Memory.wf s.mem = true) :
    Memory.wf (State.request s c e).mem = true :=
  (MemOnly.request ..).wf h_s
theorem memWf_writeBack (s : State) (c : Nat) (who : Option Nat) (line : Nat) (data : BitVec 512) (m pois : BitVec 16) (h_s :
    Memory.wf s.mem = true) :
    Memory.wf (State.writeBack s c who line data m pois).mem = true :=
  (MemOnly.writeBack ..).wf h_s
theorem memWf_writeOut (s : State) (c line sc : Nat) (l : Line) (m : BitVec 16) (h_s : Memory.wf s.mem = true) :
    Memory.wf (State.writeOut s c line sc l m).mem = true :=
  (MemOnly.writeOut ..).wf h_s
theorem memWf_sendDirty (s : State) (c line : Nat) (st : LineSt) (msg : BitVec 512 → BitVec 16 → Event) (h_s : Memory.wf s.mem
    = true) :
    Memory.wf (State.sendDirty s c line st msg).mem = true :=
  (MemOnly.sendDirty ..).wf h_s
theorem memWf_onLine (s : State) (c line : Nat) (data : BitVec 512) (st : LineSt) (h_s : Memory.wf s.mem = true) :
    Memory.wf (State.onLine s c line data st).mem = true :=
  (MemOnly.onLine ..).wf h_s
theorem memWf_onGrant (s : State) (c line : Nat) (data : BitVec 512) (h_s : Memory.wf s.mem = true) :
    Memory.wf (State.onGrant s c line data).mem = true := by
  grind -ring -linarith -lia -order [State.onGrant, memWf_onLine]
theorem memWf_onData (s : State) (c line : Nat) (data : BitVec 512) (h_s : Memory.wf s.mem = true) :
    Memory.wf (State.onData s c line data).mem = true := by
  grind -ring -linarith -lia -order [State.onData, memWf_onLine]
theorem memWf_onFwd (s : State) (c line : Nat) (h_s : Memory.wf s.mem = true) :
    Memory.wf (State.onFwd s c line).mem = true :=
  (MemOnly.onFwd ..).wf h_s
theorem memWf_onAck (s : State) (c line : Nat) (h_s : Memory.wf s.mem = true) :
    Memory.wf (State.onAck s c line).mem = true :=
  (MemOnly.onAck ..).wf h_s
theorem memWf_message (s : State) (e : Event) (h_s : Memory.wf s.mem = true) :
    ∀ t ∈ (State.message s e), Memory.wf t.mem = true := by
  intro t ht
  have h := (MemOnly.message s e).wf h_s
  rwa [Option.mem_def.mp ht] at h
theorem memWf_settleN (a0 : Nat) (a1 : State) (h_a1 : Memory.wf a1.mem = true) :
    Memory.wf (State.settleN a0 a1).mem = true :=
  (MemOnly.settleN ..).wf h_a1
theorem memWf_settle (s : State) (h_s : Memory.wf s.mem = true) :
    Memory.wf (State.settle s).mem = true :=
  (MemOnly.settle ..).wf h_s
theorem memWf_releaseL1 (s : State) (c r sc : Nat) (h_s : Memory.wf s.mem = true) :
    Memory.wf (State.releaseL1 s c r sc).mem = true :=
  (MemOnly.releaseL1 ..).wf h_s
theorem memWf_releaseClu (s : State) (c r sc : Nat) (h_s : Memory.wf s.mem = true) :
    Memory.wf (State.releaseClu s c r sc).mem = true :=
  (MemOnly.releaseClu ..).wf h_s
theorem memWf_releaseDie (s : State) (c r sc : Nat) (h_s : Memory.wf s.mem = true) :
    Memory.wf (State.releaseDie s c r sc).mem = true :=
  (MemOnly.releaseDie ..).wf h_s
theorem memWf_releaseNow (s : State) (c r sc : Nat) (h_s : Memory.wf s.mem = true) :
    Memory.wf (State.releaseNow s c r sc).mem = true :=
  (MemOnly.releaseNow ..).wf h_s
theorem memWf_release (s : State) (c r sc : Nat) (h_s : Memory.wf s.mem = true) :
    AccMemWf (State.release s c r sc) :=
  (Acc.FromMem.release ..).memWf h_s
theorem memWf_acquireL1 (s : State) (c r : Nat) (z : Bool) (h_s : Memory.wf s.mem = true) :
    Memory.wf (State.acquireL1 s c r z).mem = true :=
  (MemOnly.acquireL1 ..).wf h_s
theorem memWf_acquireClu (s : State) (c r : Nat) (z : Bool) (h_s : Memory.wf s.mem = true) :
    Memory.wf (State.acquireClu s c r z).mem = true :=
  (MemOnly.acquireClu ..).wf h_s
theorem memWf_acquireDie (s : State) (c r sc : Nat) (z : Bool) (h_s : Memory.wf s.mem = true) :
    Memory.wf (State.acquireDie s c r sc z).mem = true :=
  (MemOnly.acquireDie ..).wf h_s
theorem memWf_acquireZ (s : State) (c r sc : Nat) (z : Bool) (h_s : Memory.wf s.mem = true) :
    Memory.wf (State.acquireZ s c r sc z).mem = true :=
  (MemOnly.acquireZ ..).wf h_s
theorem memWf_acquire (s : State) (c r sc : Nat) (h_s : Memory.wf s.mem = true) :
    Memory.wf (State.acquire s c r sc).mem = true :=
  (MemOnly.acquire ..).wf h_s
theorem memWf_dropPrivate (s : State) (c : Nat) (h_s : Memory.wf s.mem = true) :
    Memory.wf (State.dropPrivate s c).mem = true := by
  grind -ring -linarith -lia -order [State.dropPrivate, memWf_updCore]
theorem memWf_dropCode (s : State) (c r : Nat) (h_s : Memory.wf s.mem = true) :
    Memory.wf (State.dropCode s c r).mem = true := by
  grind -ring -linarith -lia -order [State.dropCode, memWf_updCluster]
theorem memWf_evictOne (s : State) (c : Nat) (h_s : Memory.wf s.mem = true) :
    Memory.wf (State.evictOne s c).mem = true :=
  (MemOnly.evictOne ..).wf h_s
theorem memWf_l1Get (s : State) (c line : Nat) (t : LineTag) (store : Bool) (h_s : Memory.wf s.mem = true) :
    AccMemWf (State.l1Get s c line t store) :=
  (Acc.FromMem.l1Get ..).memWf h_s
theorem memWf_deviceWrite (s : State) (from_ : Node) (d pa n v : Nat) (h_s : Memory.wf s.mem = true) :
    Memory.wf (State.deviceWrite s from_ d pa n v).mem = true := by
  unfold State.deviceWrite
  refine memWf_foldl (fun t k h => ?_) _ ?_
  · grind -ring -linarith -lia -order [memWf_setCluLine]
  · grind -ring -linarith -lia -order [memWf_unitWrite, memWf_setDieLine]
theorem memWf_lookup (s : State) (c dva : Nat) (k : AKind) (sup : Bool) (h_s : Memory.wf s.mem = true) :
    AccMemWf (State.lookup s c dva k sup) :=
  (Acc.FromMem.lookup ..).memWf h_s
theorem memWf_finishXlat (s : State) (c dva : Nat) (k : AKind) (scalar sup : Bool) (e : BitVec 512) (idx : Option Nat) (slot :
    Nat) (h_s : Memory.wf s.mem = true) :
    AccMemWf (State.finishXlat s c dva k scalar sup e idx slot) :=
  (Acc.FromMem.finishXlat ..).memWf h_s
theorem memWf_xlat (s : State) (c dva : Nat) (k : AKind) (scalar sup : Bool) (h_s : Memory.wf s.mem = true) :
    AccMemWf (State.xlat s c dva k scalar sup) :=
  (Acc.FromMem.xlat ..).memWf h_s
theorem memWf_putTent (s : State) (t : Tent) (h_s : Memory.wf s.mem = true) :
    Memory.wf (State.putTent s t).mem = true :=
  (MemOnly.putTent ..).wf h_s
theorem memWf_readRaw (s : State) (c : Nat) (t : Xl) (n : Nat) (h_s : Memory.wf s.mem = true) :
    AccMemWf (State.readRaw s c t n) :=
  (Acc.FromMem.readRaw ..).memWf h_s
theorem memWf_loadAt (s : State) (c dva : Nat) (t : Xl) (n : Nat) (h_s : Memory.wf s.mem = true) :
    AccMemWf (State.loadAt s c dva t n) :=
  (Acc.FromMem.loadAt ..).memWf h_s
theorem memWf_hideTents (s : State) (c pa n : Nat) (h_s : Memory.wf s.mem = true) :
    Memory.wf (State.hideTents s c pa n).mem = true :=
  (MemOnly.hideTents ..).wf h_s
theorem memWf_tentStore (s : State) (c : Nat) (t : Xl) (n v old : Nat) (m : BitVec 16) (j ix : Nat) (h_s : Memory.wf s.mem =
    true) :
    Memory.wf (State.tentStore s c t n v old m j ix).mem = true :=
  (MemOnly.tentStore ..).wf h_s
theorem memWf_storePlain (s : State) (c dva : Nat) (t : Xl) (n v : Nat) (h_s : Memory.wf s.mem = true) :
    AccMemWf (State.storePlain s c dva t n v) :=
  (Acc.FromMem.storePlain ..).memWf h_s
theorem memWf_storeAt (s : State) (c dva : Nat) (t : Xl) (n v : Nat) (h_s : Memory.wf s.mem = true) :
    AccMemWf (State.storeAt s c dva t n v) :=
  (Acc.FromMem.storeAt ..).memWf h_s
theorem memWf_load (s : State) (c dva n : Nat) (scalar sup : Bool) (h_s : Memory.wf s.mem = true) :
    AccMemWf (State.load s c dva n scalar sup) :=
  (Acc.FromMem.load ..).memWf h_s
theorem memWf_store (s : State) (c dva n v : Nat) (scalar sup : Bool) (h_s : Memory.wf s.mem = true) :
    AccMemWf (State.store s c dva n v scalar sup) :=
  (Acc.FromMem.store ..).memWf h_s
theorem memWf_storeRun (a0 : Nat) (a1 : State) (a2 : Nat) (a3 : Nat) (a4 : Nat) (a5 : Nat) (a6 : Bool) (h_a1 : Memory.wf a1.mem
    = true) :
    AccMemWf (State.storeRun a0 a1 a2 a3 a4 a5 a6) := by
  induction a0 generalizing a1 a3 a4 a5 with
  | zero => exact h_a1
  | succ k ih =>
    unfold State.storeRun
    split
    · exact h_a1
    · exact memWf_Acc_bind (memWf_store _ _ _ _ _ _ _ h_a1) fun _ t h => ih t _ _ _ h
theorem memWf_loadRun (a0 : Nat) (a1 : State) (a2 : Nat) (a3 : Nat) (a4 : Nat) (a5 : Bool) (h_a1 : Memory.wf a1.mem = true) :
    AccMemWf (State.loadRun a0 a1 a2 a3 a4 a5) := by
  induction a0 generalizing a1 a3 a4 with
  | zero => exact h_a1
  | succ k ih =>
    unfold State.loadRun
    split
    · exact h_a1
    · refine memWf_Acc_bind (memWf_load _ _ _ _ _ _ h_a1) fun _ t h => ?_
      exact memWf_Acc_bind (ih t _ _ h) fun _ _ h => h
theorem memWf_xlatRun (a0 : Nat) (a1 : State) (a2 : Nat) (a3 : Nat) (a4 : Nat) (a5 : AKind) (a6 : Bool) (h_a1 : Memory.wf
    a1.mem = true) :
    AccMemWf (State.xlatRun a0 a1 a2 a3 a4 a5 a6) := by
  induction a0 generalizing a1 a3 a4 with
  | zero => exact h_a1
  | succ k ih =>
    unfold State.xlatRun
    split
    · exact h_a1
    · exact memWf_Acc_bind (memWf_xlat _ _ _ _ _ _ h_a1) fun _ t h => ih t _ _ h
theorem memWf_tierRead (s : State) (c : Nat) (t : Xl) (n sc : Nat) (h_s : Memory.wf s.mem = true) :
    Memory.wf (State.tierRead s c t n sc).2.2.mem = true := by
  grind -ring -linarith -lia -order [State.tierRead, memWf_sendRemote, memWf_fillDie, memWf_fillClu]
theorem memWf_engineRead (s : State) (c : Nat) (t : Xl) (n sc : Nat) (h_s : Memory.wf s.mem = true) :
    Memory.wf (State.engineRead s c t n sc).2.2.mem = true := by
  grind -ring -linarith -lia -order [State.engineRead, memWf_tierRead]
theorem memWf_engineHome (s : State) (c : Nat) (w : Option Awaiter) (pa n v : Nat) (h_s : Memory.wf s.mem = true) :
    Memory.wf (State.engineHome s c w pa n v).mem = true := by
  grind -ring -linarith -lia -order [State.engineHome, memWf_updCore, memWf_homeWrite]
theorem memWf_enginePlain (s : State) (c : Nat) (t : Xl) (n v sc : Nat) (h_s : Memory.wf s.mem = true) :
    Memory.wf (State.enginePlain s c t n v sc).mem = true := by
  grind -ring -linarith -lia -order [State.enginePlain, AccMemWf, memWf_setDieLine, memWf_setCluLine, memWf_fillDie,
      memWf_fillClu, memWf_store,
      memWf_engineHome]
theorem memWf_engineWrite (s : State) (c : Nat) (t : Xl) (n v sc : Nat) (h_s : Memory.wf s.mem = true) :
    Memory.wf (State.engineWrite s c t n v sc).mem = true := by
  grind -ring -linarith -lia -order [State.engineWrite, memWf_hideTents, memWf_tentStore, memWf_tierRead, memWf_enginePlain]
theorem memWf_unmute (s : State) (c pa : Nat) (h_s : Memory.wf s.mem = true) :
    Memory.wf (State.unmute s c pa).mem = true := by
  grind -ring -linarith -lia -order [State.unmute]
theorem memWf_setCode (s : State) (k line : Nat) (l : Line) (h_s : Memory.wf s.mem = true) :
    Memory.wf (State.setCode s k line l).mem = true := by
  grind -ring -linarith -lia -order [State.setCode, memWf_updCluster]
theorem memWf_fetch (s : State) (c : Nat) (h_s : Memory.wf s.mem = true) :
    AccMemWf (State.fetch s c) := by
  grind -ring -linarith -lia -order [State.fetch, AccMemWf, memWf_Acc_bind, memWf_sendRemote, memWf_fillDie, memWf_bankOrder,
      memWf_xlat, memWf_setCode]
theorem memWf_raise (s : State) (c : Nat) (f : Flags) (h_s : Memory.wf s.mem = true) :
    Memory.wf (State.raise s c f).mem = true := by
  grind -ring -linarith -lia -order [State.raise, memWf_updCore]
theorem memWf_typedPut (s : State) (c space : Nat) (front : Bool) (off n v : Nat) (h_s : Memory.wf s.mem = true) :
    Memory.wf (State.typedPut s c space front off n v).mem = true := by
  grind -ring -linarith -lia -order [State.typedPut, memWf_updCore]
theorem memWf_setBar (s : State) (key : Nat) (b : Barrier) (h_s : Memory.wf s.mem = true) :
    Memory.wf (State.setBar s key b).mem = true := by
  grind -ring -linarith -lia -order [State.setBar, memWf_updCluster, memWf_updDie, memWf_homeWrite1]
theorem memWf_updJoin (s : State) (k : Nat) (f : Join → Join) (h_s : Memory.wf s.mem = true) :
    Memory.wf (State.updJoin s k f).mem = true := by
  grind -ring -linarith -lia -order [State.updJoin]
theorem memWf_setJout (s : State) (id c v : Nat) (h_s : Memory.wf s.mem = true) :
    Memory.wf (State.setJout s id c v).mem = true :=
  memWf_foldl (fun t k h => memWf_updWisp t k _ h) _ h_s
theorem memWf_discardTents (s : State) (p : Tent → Bool) (h_s : Memory.wf s.mem = true) :
    Memory.wf (State.discardTents s p).mem = true := by
  grind -ring -linarith -lia -order [State.discardTents]
theorem memWf_commitTiers (s : State) (t : Tent) (h_s : Memory.wf s.mem = true) :
    Memory.wf (State.commitTiers s t).mem = true := by
  grind -ring -linarith -lia -order [State.commitTiers]
theorem memWf_commitTents (s : State) (id c : Nat) (w : Option Awaiter) (h_s : Memory.wf s.mem = true) :
    Memory.wf (State.commitTents s id c w).mem = true := by
  unfold State.commitTents
  refine memWf_discardTents _ _ (memWf_foldl (fun t k h => memWf_wakeWaiters _ _ _ h) _ (memWf_foldl (fun t k h => ?_) _ h_s))
  grind -ring -linarith -lia -order [memWf_commitTiers, memWf_register, memWf_homePoison]
theorem memWf_retagTents (s : State) (id c id' c' : Nat) (h_s : Memory.wf s.mem = true) :
    Memory.wf (State.retagTents s id c id' c').mem = true := by
  grind -ring -linarith -lia -order [State.retagTents]
theorem memWf_wakeJoin (s : State) (id : Nat) (v : Word) (h_s : Memory.wf s.mem = true) :
    Memory.wf (State.wakeJoin s id v).mem = true := by
  refine memWf_foldl (fun t e h => ?_) _ (memWf_foldl (fun t e h => ?_) _ h_s)
  · grind -ring -linarith -lia -order [memWf_wakeParked]
  · grind -ring -linarith -lia -order [memWf_wakeCore]
theorem memWf_settleInsts (s : State) (id : Nat) (r : Option (List Nat × BitVec 64)) (h_s : Memory.wf s.mem = true) :
    Memory.wf (State.settleInsts s id r).mem = true := by
  refine memWf_foldl (fun t e h => ?_) _ h_s
  exact h
theorem memWf_settleNow (s : State) (key : Nat) (rel dline : Bool) (h_s : Memory.wf s.mem = true) :
    Memory.wf (State.settleNow s key rel dline).1.mem = true := by
  simp only [State.settleNow]
  refine memWf_settleInsts _ _ _ (memWf_wakeJoin _ _ _ ?_)
  have kills (t : State) (id : Nat) (l : List Nat) (h : Memory.wf t.mem = true) : Memory.wf (l.foldl (fun s c =>
      (s.setJout id c 3 |>.contributors id c).foldl (fun s k => s.post (.killSignal (s.wispAt k).launch (s.wispAt k).index))
        (s.setJout id c 3)) t).mem = true :=
    memWf_foldl (fun t c h => memWf_foldl (fun t k h => memWf_post _ _ h) _ (memWf_setJout _ _ _ _ h)) _ h
  split
  all_goals
    repeat refine memWf_discardTents _ _ ?_
    refine kills _ _ _ (memWf_foldl (fun t e h => memWf_unitWrite _ _ _ _ _ _ h) _ ?_)
    exact h_s
theorem memWf_joinStep (s : State) (ev : JoinEv) (h_s : Memory.wf s.mem = true) :
    Memory.wf (State.joinStep s ev).1.mem = true := by
  cases ev with
  | arrive key c weight elems child w =>
    unfold State.joinStep
    grind -ring -linarith -lia -order [memWf_setJout, memWf_commitTents, memWf_retagTents, memWf_discardTents, memWf_updJoin]
  | leave key c =>
    unfold State.joinStep
    grind -ring -linarith -lia -order [memWf_setJout, memWf_discardTents]
  | settle key rel dline =>
    unfold State.joinStep
    grind -ring -linarith -lia -order [memWf_settleNow]
theorem memWf_joinRun (a0 : Nat) (a1 : State) (a2 : List JoinEv) (h_a1 : Memory.wf a1.mem = true) :
    Memory.wf (State.joinRun a0 a1 a2).mem = true := by
  induction a0 generalizing a1 a2 with
  | zero => exact h_a1
  | succ n ih =>
    cases a2 with
    | nil => exact h_a1
    | cons e l => exact ih _ _ (memWf_joinStep a1 e h_a1)
theorem memWf_joinEvent (s : State) (e : JoinEv) (h_s : Memory.wf s.mem = true) :
    Memory.wf (State.joinEvent s e).mem = true := by
  grind -ring -linarith -lia -order [State.joinEvent, memWf_joinRun]
theorem memWf_freeJoin (s : State) (key : Nat) (h_s : Memory.wf s.mem = true) :
    Memory.wf (State.freeJoin s key).mem = true := by
  grind -ring -linarith -lia -order [State.freeJoin]
theorem memWf_joinFreePending (s : State) (id : Nat) (h_s : Memory.wf s.mem = true) :
    Memory.wf (State.joinFreePending s id).mem = true := by
  grind -ring -linarith -lia -order [State.joinFreePending, memWf_freeJoin]
theorem memWf_withdraw (s : State) (join : Word) (h_s : Memory.wf s.mem = true) :
    Memory.wf (State.withdraw s join).mem = true := by
  grind -ring -linarith -lia -order [State.withdraw, memWf_setJout, memWf_joinEvent]
theorem memWf_updBind (s : State) (c i : Nat) (f : Binding → Binding) (h_s : Memory.wf s.mem = true) :
    Memory.wf (State.updBind s c i f).mem = true := by
  grind -ring -linarith -lia -order [State.updBind, AccMemWf, memWf_updCore, memWf_Acc_bind]
theorem memWf_writeConsumed (s : State) (c i : Nat) (h_s : Memory.wf s.mem = true) :
    Memory.wf (State.writeConsumed s c i).mem = true := by
  grind -ring -linarith -lia -order [State.writeConsumed, memWf_unitWrite]
theorem memWf_setBound (s : State) (d pa : Nat) (v : Bool) (h_s : Memory.wf s.mem = true) :
    Memory.wf (State.setBound s d pa v).mem = true := by
  grind -ring -linarith -lia -order [State.setBound, memWf_unitWrite]
theorem memWf_bumpCounter (s : State) (f i : Nat) (h_s : Memory.wf s.mem = true) :
    Memory.wf (State.bumpCounter s f i).mem = true := by
  grind -ring -linarith -lia -order [State.bumpCounter, memWf_updVdev]
theorem memWf_countFault (s : State) (c code : Nat) (h_s : Memory.wf s.mem = true) :
    Memory.wf (State.countFault s c code).mem = true := by
  grind -ring -linarith -lia -order [State.countFault, memWf_bumpCounter]
theorem memWf_streamFault (s : State) (c i code : Nat) (frec : Option (BitVec 512)) (h_s : Memory.wf s.mem = true) :
    Memory.wf (State.streamFault s c i code frec).mem = true := by
  unfold State.streamFault
  split
  · exact memWf_updCore _ _ _ (memWf_countFault _ _ _ (memWf_updBind _ _ _ _ h_s))
  · exact memWf_countFault _ _ _ (memWf_updBind _ _ _ _ h_s)
theorem memWf_setInst (s : State) (a : Nat) (i : Inst) (h_s : Memory.wf s.mem = true) :
    Memory.wf (State.setInst s a i).mem = true := by
  grind -ring -linarith -lia -order [State.setInst]
theorem memWf_updInst (s : State) (a : Nat) (f : Inst → Inst) (h_s : Memory.wf s.mem = true) :
    Memory.wf (State.updInst s a f).mem = true := by
  grind -ring -linarith -lia -order [State.updInst, memWf_setInst]
theorem memWf_reap (s : State) (a : Nat) (h_s : Memory.wf s.mem = true) :
    Memory.wf (State.reap s a).mem = true := by
  grind -ring -linarith -lia -order [State.reap]
theorem memWf_setAside (s : State) (a : Nat) (h_s : Memory.wf s.mem = true) :
    Memory.wf (State.setAside s a).mem = true := by
  grind -ring -linarith -lia -order [State.setAside, memWf_post]
theorem memWf_areaFault (s : State) (a q dva : Nat) (f : XFault) (h_s : Memory.wf s.mem = true) :
    Memory.wf (State.areaFault s a q dva f).mem = true := by
  refine memWf_foldl (fun t e h => memWf_foldl (fun t b h => ?_) _ h) _ h_s
  grind -ring -linarith -lia -order [memWf_streamFault]
theorem memWf_putResults (s : State) (a : Nat) (i : Inst) (q : Nat) (a0 : List (Nat × Nat)) (a1 : Nat) (h_s : Memory.wf s.mem =
    true) :
    Memory.wf (State.putResults s a i q a0 a1).2.mem = true := by
  induction a0 generalizing s a1 with
  | nil => exact h_s
  | cons e l ih =>
    unfold State.putResults
    grind -ring -linarith -lia -order [memWf_unitWrite, memWf_deviceWrite, memWf_areaFault]
theorem memWf_giveRank (s : State) (a q r : Nat) (h_s : Memory.wf s.mem = true) :
    Memory.wf (State.giveRank s a q r).mem = true := by
  grind -ring -linarith -lia -order [State.giveRank, memWf_updInst, memWf_putResults]
theorem memWf_unstall (s : State) (a : Nat) (h_s : Memory.wf s.mem = true) :
    Memory.wf (State.unstall s a).mem = true := by
  grind -ring -linarith -lia -order [State.unstall, AccMemWf, memWf_Acc_bind, memWf_stall]
theorem memWf_permute (s : State) (a : Nat) (h_s : Memory.wf s.mem = true) :
    Memory.wf (State.permute s a).mem = true := by
  grind -ring -linarith -lia -order [State.permute, memWf_updInst, memWf_putResults, memWf_unstall]
theorem memWf_combineNow (s : State) (a : Nat) (h_s : Memory.wf s.mem = true) :
    Memory.wf (State.combineNow s a).mem = true := by
  have given (t : State) (l rs : List Nat) (h : Memory.wf t.mem = true) :
      Memory.wf (l.foldl (fun s q => rs.foldl (fun s r => s.giveRank a q r) s) t).mem = true :=
    memWf_foldl (fun t q h => memWf_foldl (fun t r h => memWf_giveRank _ _ _ _ h) _ h) _ h
  simp only [State.combineNow]
  split
  · exact h_s
  next i _ =>
    refine memWf_reap _ _ ?_
    generalize (if i.kind = 4 then List.range i.ranks else [0]) = rs
    have hg := given s (List.range i.ranks) rs h_s
    generalize (List.range i.ranks).foldl (fun s q => rs.foldl (fun s r => s.giveRank a q r) s) s = t at hg
    grind -ring -linarith -lia -order [memWf_permute, memWf_setInst, memWf_unstall, memWf_postOnce]
theorem memWf_fetchElem (s : State) (c i n : Nat) (h_s : Memory.wf s.mem = true) :
    Memory.wf (State.fetchElem s c i n).2.mem = true := by
  grind -ring -linarith -lia -order [State.fetchElem, AccMemWf, memWf_load, memWf_unmute]
theorem memWf_prefetchTo (a0 : Nat) (a1 : State) (a2 : Nat) (a3 : Nat) (a4 : Nat) (h_a1 : Memory.wf a1.mem = true) :
    Memory.wf (State.prefetchTo a0 a1 a2 a3 a4).mem = true := by
  induction a0 generalizing a1 a4 with
  | zero => exact h_a1
  | succ n ih =>
    unfold State.prefetchTo
    grind -ring -linarith -lia -order [memWf_fetchElem, memWf_updBind]
theorem memWf_admitSpan (s : State) (c w : Nat) (kd : AKind) (dvas : List Nat) (ev : Event) (h_s : Memory.wf s.mem = true) :
    Memory.wf (State.admitSpan s c w kd dvas ev).2.mem = true := by
  grind -ring -linarith -lia -order [State.admitSpan, memWf_admission]
theorem memWf_admitElems (s : State) (c i n k : Nat) (kd : AKind) (ev : Event) (h_s : Memory.wf s.mem = true) :
    Memory.wf (State.admitElems s c i n k kd ev).2.mem = true := by
  grind -ring -linarith -lia -order [State.admitElems, memWf_admitSpan]
theorem memWf_prefetch (s : State) (c i k : Nat) (h_s : Memory.wf s.mem = true) :
    Memory.wf (State.prefetch s c i k).mem = true := by
  grind -ring -linarith -lia -order [State.prefetch, memWf_prefetchTo, memWf_admitElems]
theorem memWf_popHome (s : State) (c i dva n : Nat) (l : List Nat) (h_s : Memory.wf s.mem = true) :
    Memory.wf (State.popHome s c i dva n l).2.2.mem = true := by
  grind -ring -linarith -lia -order [State.popHome, AccMemWf, memWf_xlat, memWf_engineRead, memWf_unmute]
theorem memWf_popHomes (s : State) (c i w : Nat) (a0 : List Nat) (a1 : List Nat) (h_s : Memory.wf s.mem = true) :
    Memory.wf (State.popHomes s c i w a0 a1).2.2.mem = true := by
  induction a0 generalizing s a1 with
  | nil => exact h_s
  | cons a as ih =>
    unfold State.popHomes
    grind -ring -linarith -lia -order [memWf_popHome]
theorem memWf_popPeek (s : State) (c i n : Nat) (h_s : Memory.wf s.mem = true) :
    Memory.wf (State.popPeek s c i n).2.2.mem = true := by
  simp only [State.popPeek]
  split
  · split
    · exact memWf_prefetch _ _ _ _ h_s
    · split
      · exact memWf_prefetch _ _ _ _ h_s
      · split <;> exact memWf_prefetch _ _ _ _ h_s
  · split <;> rename_i ha <;> have admitted := congrArg (fun p : Bool × State => p.2) ha
    · exact admitted ▸ memWf_admitSpan _ _ _ _ _ _ h_s
    · grind -ring -linarith -lia -order [memWf_admitSpan, memWf_popHomes]
  · grind -ring -linarith -lia -order [memWf_admitSpan, memWf_popHomes]
theorem memWf_popCommit (s : State) (c i k : Nat) (h_s : Memory.wf s.mem = true) :
    Memory.wf (State.popCommit s c i k).mem = true := by
  grind -ring -linarith -lia -order [State.popCommit, memWf_postOnce, memWf_stall, memWf_acquire, memWf_updBind,
      memWf_writeConsumed]
theorem memWf_dropBad (s : State) (c i : Nat) (h_s : Memory.wf s.mem = true) :
    Memory.wf (State.dropBad s c i).mem = true := by
  grind -ring -linarith -lia -order [State.dropBad, memWf_updBind]
theorem memWf_performStores (a0 : Nat) (a1 : State) (a2 : Nat) (a3 : Nat) (h_a1 : Memory.wf a1.mem = true) :
    Memory.wf (State.performStores a0 a1 a2 a3).mem = true := by
  induction a0 generalizing a1 with
  | zero => exact h_a1
  | succ k ih =>
    unfold State.performStores
    grind -ring -linarith -lia -order [memWf_updBind, memWf_typedPut, memWf_xlat, memWf_engineWrite, memWf_streamFault,
        AccMemWf]
theorem memWf_storeChunk (s : State) (c i : Nat) (h_s : Memory.wf s.mem = true) :
    Memory.wf (State.storeChunk s c i).mem = true := by
  grind -ring -linarith -lia -order [State.storeChunk, memWf_postOnce, memWf_admitElems, memWf_performStores]
theorem memWf_pairWith (s : State) (c i kind npeer e f : Nat) (h_s : Memory.wf s.mem = true) :
    AccMemWf (State.pairWith s c i kind npeer e f) := by
  grind -ring -linarith -lia -order [State.pairWith, AccMemWf, memWf_Acc_bind, memWf_sendRemote, memWf_xlat, memWf_load]
theorem memWf_loseReply (s : State) (c pa : Nat) (h_s : Memory.wf s.mem = true) :
    Memory.wf (State.loseReply s c pa).mem = true := by
  grind -ring -linarith -lia -order [State.loseReply, memWf_updCore]
theorem memWf_sendProduced (s : State) (c rp n : Nat) (h_s : Memory.wf s.mem = true) :
    Memory.wf (State.sendProduced s c rp n).mem = true := by
  grind -ring -linarith -lia -order [State.sendProduced, memWf_post]
theorem memWf_sendWords {α : Type} {f : Option Trap × Bool × State → α → Option Trap × Bool × State}
    (hf : ∀ acc e, Memory.wf acc.2.2.mem = true → Memory.wf (f acc e).2.2.mem = true) (l : List α)
    {acc : Option Trap × Bool × State} (h : Memory.wf acc.2.2.mem = true) : Memory.wf (l.foldl f acc).2.2.mem = true := by
  induction l generalizing acc with
  | nil => exact h
  | cons e l ih => exact ih (hf acc e h)
theorem memWf_sendNow (s : State) (c i k : Nat) (h_s : Memory.wf s.mem = true) :
    Memory.wf (State.sendNow s c i k).2.mem = true := by
  simp only [State.sendNow]
  split
  · exact h_s
  have paired := memWf_pairWith s c i 6 1 0 0 h_s
  split
  · next hp => rw [hp] at paired; exact paired
  · next hp => rw [hp] at paired; exact memWf_streamFault _ _ _ _ _ paired
  · next hp => rw [hp] at paired; exact memWf_streamFault _ _ _ _ _ paired
  · next rp r t hp =>
    rw [hp] at paired
    have asked := memWf_sendRemote t .read (rp + 0x30) 4 0 paired
    generalize t.sendRemote .read (rp + 0x30) 4 0 = u at asked ⊢
    split
    · exact asked
    split
    · next ha => exact memWf_of_eq_snd ha (memWf_admitSpan u _ _ _ _ _ asked)
    · next w ha =>
      have admitted := memWf_of_eq_snd ha (memWf_admitSpan u _ _ _ _ _ asked)
      generalize hf : List.foldl _ (none, false, w) _ = out
      have sent : Memory.wf out.2.2.mem = true := by
        rw [← hf]
        refine memWf_sendWords (fun acc e h => ?_) _ admitted
        rcases acc with ⟨_ | tr, _ | _, y⟩
        case none.false =>
          replace h : Memory.wf y.mem = true := h
          dsimp only
          split
          · next hx => exact memWf_engineHome _ _ _ _ _ _ (memWf_of_eq_ok (memWf_xlat y _ _ _ _ _ h) hx)
          · next hx => exact memWf_of_eq_trap (memWf_xlat y _ _ _ _ _ h) hx
          · next hx => exact memWf_of_eq_wait (memWf_xlat y _ _ _ _ _ h) hx
        all_goals exact h
      split
      · exact memWf_streamFault _ _ _ _ _ sent
      · exact sent
      · grind -ring -linarith -lia -order [memWf_updBind, memWf_sendProduced, memWf_loseReply]
theorem memWf_quorumArrive (s : State) (c i : Nat) (h_s : Memory.wf s.mem = true) :
    Memory.wf (State.quorumArrive s c i).mem = true := by
  grind -ring -linarith -lia -order [State.quorumArrive, memWf_joinEvent, memWf_updInst]
theorem memWf_acceptNow (s : State) (c i k : Nat) (h_s : Memory.wf s.mem = true) :
    Memory.wf (State.acceptNow s c i k).mem = true := by
  grind -ring -linarith -lia -order [State.acceptNow, memWf_postOnce, memWf_stall, memWf_sendRemote, memWf_updBind,
      memWf_setInst, memWf_loseReply,
      memWf_quorumArrive]
theorem memWf_paired (s : State) (c i : Nat) (h_s : Memory.wf s.mem = true) :
    Memory.wf (State.paired s c i).2.mem = true := by
  grind -ring -linarith -lia -order [State.paired, AccMemWf, memWf_streamFault, memWf_updInst, memWf_pairWith]
theorem memWf_acceptAtAnchor (s : State) (c i k : Nat) (h_s : Memory.wf s.mem = true) :
    Memory.wf (State.acceptAtAnchor s c i k).2.mem = true := by
  grind -ring -linarith -lia -order [State.acceptAtAnchor, memWf_admission, memWf_acceptNow, memWf_paired]
theorem memWf_pushOne (s : State) (c i v : Nat) (h_s : Memory.wf s.mem = true) :
    Memory.wf (State.pushOne s c i v).2.mem = true := by
  grind -ring -linarith -lia -order [State.pushOne, memWf_postOnce, memWf_updBind, memWf_sendNow, memWf_paired,
      memWf_acceptAtAnchor]
theorem memWf_pushMany (s : State) (c i : Nat) (a0 : List Nat) (a1 : Nat) (h_s : Memory.wf s.mem = true) :
    Memory.wf (State.pushMany s c i a0 a1).2.mem = true := by
  induction a0 generalizing s a1 with
  | nil => exact h_s
  | cons v l ih =>
    unfold State.pushMany
    grind -ring -linarith -lia -order [memWf_pushOne]
theorem memWf_syncBind (s : State) (c i : Nat) (h_s : Memory.wf s.mem = true) :
    AccMemWf (State.syncBind s c i) := by
  grind -ring -linarith -lia -order [State.syncBind, AccMemWf, memWf_postOnce, memWf_writeConsumed, memWf_sendNow,
      memWf_acceptAtAnchor]
theorem memWf_instDone (s : State) (a q : Nat) (h_s : Memory.wf s.mem = true) :
    Memory.wf (State.instDone s a q).mem = true := by
  grind -ring -linarith -lia -order [State.instDone, memWf_setInst, memWf_reap, memWf_setAside]
theorem memWf_freeBind (s : State) (c i : Nat) (dropped : Bool) (h_s : Memory.wf s.mem = true) :
    Memory.wf (State.freeBind s c i dropped).mem = true := by
  grind -ring -linarith -lia -order [State.freeBind, AccMemWf, memWf_updCore, memWf_updDie, memWf_Acc_bind, memWf_setBound,
      memWf_instDone]
theorem memWf_syncAll (s : State) (c : Nat) (a0 : List Nat) (h_s : Memory.wf s.mem = true) :
    Memory.wf (State.syncAll s c a0).2.2.mem = true := by
  induction a0 generalizing s with
  | nil => exact h_s
  | cons i l ih =>
    unfold State.syncAll
    grind -ring -linarith -lia -order [memWf_syncBind, AccMemWf]
theorem memWf_dropBinds (s : State) (c : Nat) (h_s : Memory.wf s.mem = true) :
    Memory.wf (State.dropBinds s c).mem = true :=
  memWf_foldl (fun t i h => memWf_freeBind _ _ _ _ h) _ h_s
theorem memWf_stallMark (s : State) (c i : Nat) (eng : Bool) (h_s : Memory.wf s.mem = true) :
    Memory.wf (State.stallMark s c i eng).mem = true := by
  grind -ring -linarith -lia -order [State.stallMark, memWf_stall, memWf_updBind]
theorem memWf_stallClear (s : State) (c i : Nat) (h_s : Memory.wf s.mem = true) :
    Memory.wf (State.stallClear s c i).mem = true := by
  grind -ring -linarith -lia -order [State.stallClear, memWf_stall, memWf_updBind]
theorem memWf_kickM (s : State) (c : Nat) (h_s : Memory.wf s.mem = true) :
    Memory.wf (State.kickM s c).mem = true := by
  grind -ring -linarith -lia -order [State.kickM, memWf_postOnce]
theorem memWf_kickCluster (s : State) (c : Nat) (h_s : Memory.wf s.mem = true) :
    Memory.wf (State.kickCluster s c).mem = true :=
  memWf_foldl (fun t i h => memWf_kickM _ _ h) _ h_s
theorem memWf_kickC (s : State) (c : Nat) (h_s : Memory.wf s.mem = true) :
    Memory.wf (State.kickC s c).mem = true := by
  grind -ring -linarith -lia -order [State.kickC, memWf_postOnce]
theorem memWf_beginDisown (s : State) (c i : Nat) (h_s : Memory.wf s.mem = true) :
    Memory.wf (State.beginDisown s c i).mem = true := by
  refine memWf_foldl (fun t i h => ?_) _ (memWf_updCore _ _ _ (memWf_performSent _ _ h_s))
  grind -ring -linarith -lia -order [memWf_sendDirty, memWf_deregister]
theorem memWf_endDisown (s : State) (c i : Nat) (h_s : Memory.wf s.mem = true) :
    Memory.wf (State.endDisown s c i).mem = true := by
  grind -ring -linarith -lia -order [State.endDisown, memWf_updCore]
theorem memWf_disownAll (s : State) (c : Nat) (h_s : Memory.wf s.mem = true) :
    Memory.wf (State.disownAll s c).mem = true :=
  memWf_updCore _ _ _ (memWf_settle _ (memWf_foldl (fun t i h => memWf_beginDisown _ _ _ h) _ (memWf_settle _ h_s)))
theorem memWf_leaveCaches (s : State) (c sc : Nat) (h_s : Memory.wf s.mem = true) :
    Memory.wf (State.leaveCaches s c sc).mem = true := by
  grind -ring -linarith -lia -order [State.leaveCaches, memWf_settle, memWf_releaseNow, memWf_dropPrivate, memWf_disownAll]
theorem memWf_execFill (core line : Nat) (s : State) (h_s : Memory.wf s.mem = true) :
    ResMemWf (execFill core line s) := by
  grind -ring -linarith -lia -order [execFill, ResMemWf, memWf_onFill]
theorem memWf_execOwnreq (core line : Nat) (words : BitVec 16) (data : BitVec 512) (dirty : BitVec 16) (s : State) (h_s :
    Memory.wf s.mem = true) :
    ResMemWf (execOwnreq core line words data dirty s) := by
  grind -ring -linarith -lia -order [execOwnreq, ResMemWf, memWf_onOwnreq]
theorem memWf_execGrant (core line : Nat) (data : BitVec 512) (_mask : BitVec 16) (s : State) (h_s : Memory.wf s.mem = true) :
    ResMemWf (execGrant core line data _mask s) := by
  grind -ring -linarith -lia -order [execGrant, ResMemWf, memWf_onGrant]
theorem memWf_execData (core line : Nat) (data : BitVec 512) (s : State) (h_s : Memory.wf s.mem = true) :
    ResMemWf (execData core line data s) := by
  grind -ring -linarith -lia -order [execData, ResMemWf, memWf_onData]
theorem memWf_execFwd (core line : Nat) (_words : BitVec 16) (s : State) (h_s : Memory.wf s.mem = true) :
    ResMemWf (execFwd core line _words s) := by
  grind -ring -linarith -lia -order [execFwd, ResMemWf, memWf_onFwd]
theorem memWf_execRevoke (core line : Nat) (_words : BitVec 16) (s : State) (h_s : Memory.wf s.mem = true) :
    ResMemWf (execRevoke core line _words s) := by
  grind -ring -linarith -lia -order [execRevoke, ResMemWf, memWf_onFwd]
theorem memWf_execYield (core line : Nat) (data : BitVec 512) (dirty : BitVec 16) (s : State) (h_s : Memory.wf s.mem = true) :
    ResMemWf (execYield core line data dirty s) := by
  grind -ring -linarith -lia -order [execYield, ResMemWf, memWf_onYield]
theorem memWf_execEvict (core line : Nat) (data : BitVec 512) (dirty : BitVec 16) (s : State) (h_s : Memory.wf s.mem = true) :
    ResMemWf (execEvict core line data dirty s) := by
  grind -ring -linarith -lia -order [execEvict, ResMemWf, memWf_onEvict]
theorem memWf_execDisownreq (core line : Nat) (data : BitVec 512) (dirty : BitVec 16) (s : State) (h_s : Memory.wf s.mem =
    true) :
    ResMemWf (execDisownreq core line data dirty s) := by
  grind -ring -linarith -lia -order [execDisownreq, ResMemWf, memWf_onDisownreq]
theorem memWf_execAck (core line : Nat) (s : State) (h_s : Memory.wf s.mem = true) :
    ResMemWf (execAck core line s) := by
  grind -ring -linarith -lia -order [execAck, ResMemWf, memWf_onAck]
theorem memWf_pruneResv (s : State) (d : Nat) (h_s : Memory.wf s.mem = true) :
    Memory.wf (State.pruneResv s d).mem = true := by
  grind -ring -linarith -lia -order [State.pruneResv, memWf_updDie]
theorem memWf_askHeld (s : State) (d f : Nat) (h_s : Memory.wf s.mem = true) :
    Memory.wf (State.askHeld s d f).mem = true :=
  memWf_foldl (fun t i h => memWf_postOnce _ _ h) _ h_s
theorem memWf_freed (s : State) (d f : Nat) (h_s : Memory.wf s.mem = true) :
    Memory.wf (State.freed s d f).mem = true := by
  have resumed (t : State) (l : List (Nat × Launch)) (h : Memory.wf t.mem = true) :
      Memory.wf (l.foldl (fun s e => s.postOnce (.expansionResume e.1)) t).mem = true :=
    memWf_foldl (fun t i h => memWf_postOnce _ _ h) _ h
  unfold State.freed
  grind -ring -linarith -lia -order [memWf_offer, memWf_postOnce, memWf_pruneResv, memWf_askHeld]
theorem memWf_vacate (s : State) (c : Nat) (h_s : Memory.wf s.mem = true) :
    Memory.wf (State.vacate s c).mem = true := by
  grind -ring -linarith -lia -order [State.vacate, memWf_updCore, memWf_updDie]
theorem memWf_storeList (s : State) (c : Nat) (a0 : List (Nat × Nat × Nat)) (h_s : Memory.wf s.mem = true) :
    AccMemWf (State.storeList s c a0) := by
  induction a0 generalizing s with
  | nil => exact h_s
  | cons e l ih => exact memWf_Acc_bind (memWf_storeRun _ _ _ _ _ _ _ h_s) fun _ t h => ih t h
theorem memWf_spill (s : State) (c : Nat) (yld : Bool) (h_s : Memory.wf s.mem = true) :
    AccMemWf (State.spill s c yld) := by
  grind -ring -linarith -lia -order [State.spill, AccMemWf, memWf_storeList]
theorem memWf_leaveBinds (s : State) (c : Nat) (h_s : Memory.wf s.mem = true) :
    AccMemWf (State.leaveBinds s c) := by
  have freed (t : State) (l : List Nat) (h : Memory.wf t.mem = true) :
      Memory.wf (l.foldl (fun s i => s.freeBind c i false) t).mem = true := memWf_foldl (fun t i h => memWf_freeBind _ _ _ _ h)
          _ h
  have marked (t : State) (l : List Nat) (h : Memory.wf t.mem = true) :
      Memory.wf (l.foldl (fun s i => s.stallMark c i) t).mem = true := memWf_foldl (fun t i h => memWf_stallMark _ _ _ _ h) _ h
  unfold State.leaveBinds
  grind -ring -linarith -lia -order [memWf_syncAll, AccMemWf]
theorem memWf_recordCore (s : State) (c reason st : Nat) (pc : Word) (yld : Bool) (h_s : Memory.wf s.mem = true) :
    Memory.wf (State.recordCore s c reason st pc yld).mem = true := by
  grind -ring -linarith -lia -order [State.recordCore, memWf_updWisp]
theorem memWf_takeSeat (s : State) (c : Nat) (seat : Option Loc) (h_s : Memory.wf s.mem = true) :
    Memory.wf (State.takeSeat s c seat).mem = true := by
  simp only [State.takeSeat]
  split
  · exact h_s
  · refine memWf_freed _ _ _ ?_
    split
    · exact memWf_markReady _ _ (memWf_writeRecord _ _ h_s)
    · exact memWf_writeRecord _ _ h_s
theorem memWf_depart (s : State) (c reason st : Nat) (pc : Word) (w : WaitOn) (yld : Bool) (h_s : Memory.wf s.mem = true) :
    Memory.wf (State.depart s c reason st pc w yld).mem = true := by
  grind -ring -linarith -lia -order [State.depart, memWf_updWisp, memWf_leaveCaches, memWf_recordCore, memWf_takeSeat]
theorem memWf_parkOnCore (s : State) (c reason : Nat) (pc : Word) (w : WaitOn) (h_s : Memory.wf s.mem = true) :
    Memory.wf (State.parkOnCore s c reason pc w).mem = true := by
  grind -ring -linarith -lia -order [State.parkOnCore, memWf_updCore, memWf_updWisp, memWf_writeRecord, memWf_recordCore]
theorem memWf_writeCompletion (s : State) (k : Nat) (core : Option Nat) (d : Nat) (h_s : Memory.wf s.mem = true) :
    Memory.wf (State.writeCompletion s k core d).mem = true := by
  unfold State.writeCompletion
  extract_lets w l done
  have hd (t : State) (h : Memory.wf t.mem = true) : Memory.wf (done t).mem = true := memWf_updWisp _ _ _ h
  clear_value done w
  split
  · next c =>
    have translated := memWf_xlat s c w.frame.toNat .write true false h_s
    generalize s.xlat c w.frame.toNat .write true false = r at translated
    cases r with
    | ok t u => exact hd _ (memWf_deviceWrite _ _ _ _ _ _ translated)
    | trap t u => exact hd _ translated
    | wait u => exact translated
  · split
    · exact hd _ (memWf_deviceWrite _ _ _ _ _ _ h_s)
    · exact h_s
    · exact hd _ h_s
theorem memWf_failGang (s : State) (l i : Nat) (h_s : Memory.wf s.mem = true) :
    Memory.wf (State.failGang s l i).mem = true := by
  refine memWf_foldl (fun t k h => memWf_updWisp _ _ _ ?_) _ h_s
  grind -ring -linarith -lia -order [memWf_updCore]
theorem memWf_dropSaved (s : State) (k : Nat) (h_s : Memory.wf s.mem = true) :
    Memory.wf (State.dropSaved s k).mem = true := by
  refine memWf_updWisp _ _ _ (memWf_foldl (fun t k h => ?_) _ h_s)
  grind -ring -linarith -lia -order [memWf_instDone, memWf_setBound]
theorem memWf_endWisp (s : State) (k st reason code : Nat) (core : Option Nat) (h_s : Memory.wf s.mem = true) :
    Memory.wf (State.endWisp s k st reason code core).mem = true := by
  grind -ring -linarith -lia -order [State.endWisp, memWf_updWisp, memWf_post, memWf_writeRecord, memWf_discardTents,
      memWf_joinFreePending,
      memWf_withdraw, memWf_writeCompletion, memWf_dropSaved]
theorem memWf_dropEngines (s : State) (c : Nat) (h_s : Memory.wf s.mem = true) :
    Memory.wf (State.dropEngines s c).mem = true := by
  grind -ring -linarith -lia -order [State.dropEngines, memWf_updCore, memWf_dropBinds, memWf_kickCluster]
theorem memWf_chargeWisp (s : State) (c : Nat) (h_s : Memory.wf s.mem = true) :
    Memory.wf (State.chargeWisp s c).mem = true := by
  grind -ring -linarith -lia -order [State.chargeWisp, memWf_updCore, memWf_updWisp]
theorem memWf_killActs (s : State) (c : Nat) (h_s : Memory.wf s.mem = true) :
    Memory.wf (State.killActs s c).mem = true := by
  grind -ring -linarith -lia -order [State.killActs, memWf_updCore, memWf_updWisp, memWf_discardTents, memWf_leaveCaches,
      memWf_failGang,
      memWf_dropEngines, memWf_chargeWisp]
theorem memWf_killOnCore (s : State) (c code : Nat) (h_s : Memory.wf s.mem = true) :
    Memory.wf (State.killOnCore s c code).mem = true := by
  grind -ring -linarith -lia -order [State.killOnCore, memWf_updWisp, memWf_freed, memWf_vacate, memWf_endWisp, memWf_killActs]
theorem memWf_holdEnded (s : State) (c code : Nat) (h_s : Memory.wf s.mem = true) :
    Memory.wf (State.holdEnded s c code).mem = true := by
  grind -ring -linarith -lia -order [State.holdEnded, memWf_updCore]
theorem memWf_killLeave (s : State) (c code : Nat) (h_s : Memory.wf s.mem = true) :
    Memory.wf (State.killLeave s c code).mem = true := by
  grind -ring -linarith -lia -order [State.killLeave, memWf_killActs, memWf_killOnCore, memWf_holdEnded]
theorem memWf_killParked (s : State) (k code : Nat) (h_s : Memory.wf s.mem = true) :
    Memory.wf (State.killParked s k code).mem = true := by
  grind -ring -linarith -lia -order [State.killParked, memWf_freed, memWf_failGang, memWf_endWisp]
theorem memWf_killNow (s : State) (k code : Nat) (h_s : Memory.wf s.mem = true) :
    Memory.wf (State.killNow s k code).mem = true := by
  grind -ring -linarith -lia -order [State.killNow, memWf_killLeave, memWf_killParked]
theorem memWf_leave (s : State) (c reason st : Nat) (pc : Word) (w : WaitOn) (yld : Bool) (h_s : Memory.wf s.mem = true) :
    Memory.wf (State.leave s c reason st pc w yld).mem = true := by
  grind -ring -linarith -lia -order [State.leave, memWf_depart, memWf_killNow]
theorem memWf_endRetired (s : State) (c : Nat) (h_s : Memory.wf s.mem = true) :
    Memory.wf (State.endRetired s c).mem = true := by
  grind -ring -linarith -lia -order [State.endRetired, memWf_freed, memWf_vacate, memWf_endWisp]
theorem memWf_retireActs (s : State) (c : Nat) (h_s : Memory.wf s.mem = true) :
    Memory.wf (State.retireActs s c).mem = true := by
  grind -ring -linarith -lia -order [State.retireActs, memWf_updWisp, memWf_leaveCaches, memWf_failGang, memWf_dropEngines,
      memWf_chargeWisp]
theorem memWf_retireOn (s : State) (c : Nat) (h_s : Memory.wf s.mem = true) :
    Memory.wf (State.retireOn s c).mem = true := by
  grind -ring -linarith -lia -order [State.retireOn, memWf_holdEnded, memWf_endRetired, memWf_retireActs]
theorem memWf_leaveHeld (s : State) (c : Nat) (seat : Option Loc) (h_s : Memory.wf s.mem = true) :
    Memory.wf (State.leaveHeld s c seat).mem = true := by
  grind -ring -linarith -lia -order [State.leaveHeld, memWf_leaveCaches, memWf_takeSeat, memWf_chargeWisp, memWf_killOnCore,
      memWf_endRetired]
theorem memWf_noteMc (s : State) (c dva : Nat) (h_s : Memory.wf s.mem = true) :
    Memory.wf (State.noteMc s c dva).mem = true := by
  grind -ring -linarith -lia -order [State.noteMc, memWf_updCore, memWf_postOnce]
theorem memWf_takeTrap (s : State) (c : Nat) (t : Trap) (h_s : Memory.wf s.mem = true) :
    Memory.wf (State.takeTrap s c t).mem = true := by
  grind -ring -linarith -lia -order [State.takeTrap, memWf_updCore, memWf_logAdd, memWf_killLeave, memWf_noteMc]
theorem memWf_trap (s : State) (t : Trap) (h_s : Memory.wf s.mem = true) :
    Memory.wf (State.trap s t).mem = true := by
  grind -ring -linarith -lia -order [State.trap, memWf_takeTrap]
theorem memWf_stepAll (s : State) (cores : List Nat) (h_s : Memory.wf s.mem = true) :
    Memory.wf (State.stepAll s cores).mem = true :=
  memWf_foldl (fun t c h => memWf_updCore _ _ _ h) _ h_s
theorem memWf_preemptTrap (s : State) (c : Nat) (h_s : Memory.wf s.mem = true) :
    Memory.wf (State.preemptTrap s c).mem = true := by
  grind -ring -linarith -lia -order [State.preemptTrap, memWf_takeTrap, memWf_stepAll]
theorem memWf_eret (s : State) (h_s : Memory.wf s.mem = true) :
    Memory.wf (State.eret s).mem = true := by
  grind -ring -linarith -lia -order [State.eret, memWf_updCore, memWf_killLeave, memWf_preemptTrap]
theorem memWf_finish {r : Acc Unit} (h : AccMemWf r) : ResMemWf (finish r) := by
  cases r with
  | ok _ s => exact memWf_nextPc s h
  | trap t s => exact memWf_trap s t h
  | wait s => exact memWf_block s h
theorem memWf_finishAt {r : Acc Unit} (h : AccMemWf r) : ResMemWf (finishAt r) := by
  cases r with
  | ok _ s => exact h
  | trap t s => exact memWf_trap s t h
  | wait s => exact memWf_stall s h
theorem memWf_finishG (d : BitVec 5) {r : Acc Word} (h : AccMemWf r) : ResMemWf (finishG d r) :=
  memWf_finish (memWf_Acc_bind h fun v t ht => memWf_wg t d v ht)
theorem memWf_supOnly (w : BitVec 32) {s : State} {r : Res} (hr : ResMemWf r) (h_s : Memory.wf s.mem = true) :
    ResMemWf (supOnly w s r) := by
  unfold supOnly
  split
  · exact hr
  · exact memWf_trap s _ h_s
theorem memWf_killPoint {s : State} {go : Res} (hr : ResMemWf go) (h_s : Memory.wf s.mem = true) :
    ResMemWf (killPoint s go) := by
  unfold killPoint
  split
  · split
    · exact hr
    · exact memWf_killLeave s _ _ h_s
  · exact hr
theorem memWf_waitHere (s : State) (reason : Nat) (w : WaitOn) (h_s : Memory.wf s.mem = true) :
    Memory.wf (State.waitHere s reason w).mem = true := by
  grind -ring -linarith -lia -order [State.waitHere, memWf_parkOnCore]
theorem memWf_suspendAt (s : State) (reason : Nat) (w : WaitOn) (h_s : Memory.wf s.mem = true) :
    AccMemWf (State.suspendAt s reason w) := by
  grind -ring -linarith -lia -order [State.suspendAt, AccMemWf, memWf_Acc_bind, memWf_spill, memWf_leaveBinds, memWf_leave,
      memWf_waitHere]
theorem memWf_charge (s : State) (t0 t1 : Nat) (h_s : Memory.wf s.mem = true) :
    Memory.wf (State.charge s t0 t1).mem = true := by
  refine memWf_foldl (fun t c h => ?_) _ h_s
  grind -ring -linarith -lia -order [memWf_updCore, memWf_updVdev]
theorem memWf_tick (s : State) (h_s : Memory.wf s.mem = true) :
    Memory.wf (State.tick s).mem = true := by
  grind -ring -linarith -lia -order [State.tick, memWf_charge]
theorem memWf_codeAcquire (s : State) (c : Nat) (h_s : Memory.wf s.mem = true) :
    Memory.wf (State.codeAcquire s c).mem = true := by
  grind -ring -linarith -lia -order [State.codeAcquire, memWf_acquireDie, memWf_acquire, memWf_dropCode]
theorem memWf_endWait (s : State) (v : Word) (d : Nat) (acq : Option Nat) (h_s : Memory.wf s.mem = true) :
    Memory.wf (State.endWait s v d acq).mem = true := by
  unfold State.endWait
  refine memWf_nextPc _ (memWf_updCore _ _ _ (memWf_updWisp _ _ _ ?_))
  grind -ring -linarith -lia -order [memWf_codeAcquire, memWf_acquire]
theorem memWf_issue (s : State) (c : Nat) (h_s : Memory.wf s.mem = true) :
    AccMemWf (State.issue s c) := by
  grind -ring -linarith -lia -order [State.issue, AccMemWf, memWf_updCore, memWf_Acc_bind, memWf_fetch]
theorem memWf_stepHalt (s : State) (c : Nat) (before : Core) (h_s : Memory.wf s.mem = true) :
    Memory.wf (State.stepHalt s c before).mem = true := by
  grind -ring -linarith -lia -order [State.stepHalt, memWf_updCore]
theorem memWf_rotate (s : State) (h_s : Memory.wf s.mem = true) :
    Memory.wf (State.rotate s).mem = true := by
  grind -ring -linarith -lia -order [State.rotate]
theorem memWf_placeWord (s : State) (w : Nat) (h_s : Memory.wf s.mem = true) :
    Memory.wf (State.placeWord s w).mem = true := by
  grind -ring -linarith -lia -order [State.placeWord, memWf_updCore, memWf_rawWrite]
theorem memWf_setG (d : BitVec 5) (v : Word) (s : State) (h_s : Memory.wf s.mem = true) :
    ResMemWf (setG d v s) := by
  grind -ring -linarith -lia -order [setG, ResMemWf, memWf_wg, memWf_nextPc]
theorem memWf_branchTo {n : Nat} (cond : Bool) (off : BitVec n) (s : State) (h_s : Memory.wf s.mem = true) :
    ResMemWf (branchTo cond off s) := by
  grind -ring -linarith -lia -order [branchTo, ResMemWf, memWf_jump, memWf_nextPc]
theorem memWf_loadG (t : BitVec 5) (a : Word) (n : Nat) (sg : Bool) (s : State) (h_s : Memory.wf s.mem = true) :
    ResMemWf (loadG t a n sg s) := by
  grind -ring -linarith -lia -order [loadG, AccMemWf, ResMemWf, memWf_wg, memWf_Acc_bind, memWf_load, memWf_trap, memWf_finish]
theorem memWf_storeG (a : Word) (n : Nat) (v : Word) (s : State) (h_s : Memory.wf s.mem = true) :
    ResMemWf (storeG a n v s) := by
  grind -ring -linarith -lia -order [storeG, AccMemWf, ResMemWf, memWf_store, memWf_trap, memWf_finish]
theorem memWf_flushLine (s : State) (c line : Nat) (h_s : Memory.wf s.mem = true) :
    AccMemWf (State.flushLine s c line) := by
  grind -ring -linarith -lia -order [State.flushLine, AccMemWf, memWf_setDieLine, memWf_setCluLine, memWf_setL1,
      memWf_copyLeft, memWf_bankOrder,
      memWf_writeBack]
theorem memWf_atomicPrelude (s : State) (a : Word) (scope order : BitVec 2) (width : Bool) (h_s : Memory.wf s.mem = true) :
    AccMemWf (State.atomicPrelude s a scope order width) := by
  grind -ring -linarith -lia -order [State.atomicPrelude, AccMemWf, memWf_Acc_bind, memWf_release, memWf_xlat, memWf_trap,
      memWf_flushLine]
theorem memWf_atomic (s : State) (op : PeerOp) (v : Nat) (a : Word) (scope order : BitVec 2) (width reads : Bool) (new : Nat →
    Option Nat) (h_s : Memory.wf s.mem = true) :
    AccMemWf (State.atomic s op v a scope order width reads new) := by
  grind -ring -linarith -lia -order [State.atomic, AccMemWf, memWf_Acc_bind, memWf_sendRemote, memWf_homeUpdate, memWf_acquire,
      memWf_trap,
      memWf_atomicPrelude]
theorem memWf_amo (op : PeerOp) (f : Nat → Nat → Nat → Nat) (d a b : BitVec 5) (scope order : BitVec 2) (width : Bool) (s :
    State) (h_s : Memory.wf s.mem = true) :
    ResMemWf (amo op f d a b scope order width s) := by
  grind -ring -linarith -lia -order [amo, ResMemWf, memWf_finishG, memWf_atomic]
theorem memWf_execAmoadd (d a b : BitVec 5) (scope order : BitVec 2) (width : Bool) (s : State) (h_s : Memory.wf s.mem = true) :
    ResMemWf (execAmoadd d a b scope order width s) := by
  grind -ring -linarith -lia -order [execAmoadd, ResMemWf, memWf_amo]
theorem memWf_execAmoand (d a b : BitVec 5) (scope order : BitVec 2) (width : Bool) (s : State) (h_s : Memory.wf s.mem = true) :
    ResMemWf (execAmoand d a b scope order width s) := by
  grind -ring -linarith -lia -order [execAmoand, ResMemWf, memWf_amo]
theorem memWf_execAmoor (d a b : BitVec 5) (scope order : BitVec 2) (width : Bool) (s : State) (h_s : Memory.wf s.mem = true) :
    ResMemWf (execAmoor d a b scope order width s) := by
  grind -ring -linarith -lia -order [execAmoor, ResMemWf, memWf_amo]
theorem memWf_execAmoxor (d a b : BitVec 5) (scope order : BitVec 2) (width : Bool) (s : State) (h_s : Memory.wf s.mem = true) :
    ResMemWf (execAmoxor d a b scope order width s) := by
  grind -ring -linarith -lia -order [execAmoxor, ResMemWf, memWf_amo]
theorem memWf_execAmomin (d a b : BitVec 5) (scope order : BitVec 2) (width : Bool) (s : State) (h_s : Memory.wf s.mem = true) :
    ResMemWf (execAmomin d a b scope order width s) := by
  grind -ring -linarith -lia -order [execAmomin, ResMemWf, memWf_amo]
theorem memWf_execAmomax (d a b : BitVec 5) (scope order : BitVec 2) (width : Bool) (s : State) (h_s : Memory.wf s.mem = true) :
    ResMemWf (execAmomax d a b scope order width s) := by
  grind -ring -linarith -lia -order [execAmomax, ResMemWf, memWf_amo]
theorem memWf_execAmominu (d a b : BitVec 5) (scope order : BitVec 2) (width : Bool) (s : State) (h_s : Memory.wf s.mem = true)
    :
    ResMemWf (execAmominu d a b scope order width s) := by
  grind -ring -linarith -lia -order [execAmominu, ResMemWf, memWf_amo]
theorem memWf_execAmomaxu (d a b : BitVec 5) (scope order : BitVec 2) (width : Bool) (s : State) (h_s : Memory.wf s.mem = true)
    :
    ResMemWf (execAmomaxu d a b scope order width s) := by
  grind -ring -linarith -lia -order [execAmomaxu, ResMemWf, memWf_amo]
theorem memWf_execAmoswap (d a b : BitVec 5) (scope order : BitVec 2) (width : Bool) (s : State) (h_s : Memory.wf s.mem = true)
    :
    ResMemWf (execAmoswap d a b scope order width s) := by
  grind -ring -linarith -lia -order [execAmoswap, ResMemWf, memWf_amo]
theorem memWf_execAmocas (d a b : BitVec 5) (scope order : BitVec 2) (width : Bool) (s : State) (h_s : Memory.wf s.mem = true) :
    ResMemWf (execAmocas d a b scope order width s) := by
  grind -ring -linarith -lia -order [execAmocas, ResMemWf, memWf_finishG, memWf_atomic]
theorem memWf_execAmold (d a : BitVec 5) (scope order : BitVec 2) (width : Bool) (s : State) (h_s : Memory.wf s.mem = true) :
    ResMemWf (execAmold d a scope order width s) := by
  grind -ring -linarith -lia -order [execAmold, ResMemWf, memWf_finishG, memWf_atomic]
theorem memWf_execAmost (a b : BitVec 5) (scope order : BitVec 2) (width : Bool) (s : State) (h_s : Memory.wf s.mem = true) :
    ResMemWf (execAmost a b scope order width s) := by
  grind -ring -linarith -lia -order [execAmost, AccMemWf, ResMemWf, memWf_Acc_bind, memWf_finish, memWf_atomic]
theorem memWf_enqueue (s : State) (w : Waiter) (h_s : Memory.wf s.mem = true) :
    Memory.wf (State.enqueue s w).mem = true := by
  grind -ring -linarith -lia -order [State.enqueue, memWf_wakeWaiter]
theorem memWf_execAmowait (d a b : BitVec 5) (scope order : BitVec 2) (width : Bool) (s : State) (h_s : Memory.wf s.mem = true)
    :
    ResMemWf (execAmowait d a b scope order width s) := by
  grind -ring -linarith -lia -order [execAmowait, AccMemWf, ResMemWf, memWf_Acc_bind, memWf_block, memWf_sendRemote,
      memWf_acquire, memWf_trap,
      memWf_finishAt, memWf_finishG, memWf_killPoint, memWf_suspendAt, memWf_atomicPrelude, memWf_enqueue]
theorem memWf_wakeBarrier (s : State) (key : Nat) (h_s : Memory.wf s.mem = true) :
    Memory.wf (State.wakeBarrier s key).mem = true := by
  refine memWf_foldl (fun t e h => ?_) _ (memWf_foldl (fun t e h => ?_) _ h_s)
  · grind -ring -linarith -lia -order [memWf_endParkedWait]
  · grind -ring -linarith -lia -order [memWf_endCoreWait]
theorem memWf_barSend (s : State) (id key : Nat) (h_s : Memory.wf s.mem = true) :
    Memory.wf (State.barSend s id key).mem = true := by
  grind -ring -linarith -lia -order [State.barSend, memWf_sendRemote]
theorem memWf_arriveAt (w : BitVec 32) (d a : BitVec 5) (p : Option Bool) (scope : BitVec 2) (s : State) (h_s : Memory.wf s.mem
    = true) :
    ResMemWf (arriveAt w d a p scope s) := by
  grind -ring -linarith -lia -order [arriveAt, AccMemWf, ResMemWf, memWf_wg, memWf_Acc_bind, memWf_release, memWf_unmute,
      memWf_setBar, memWf_trap,
      memWf_finish, memWf_wakeBarrier, memWf_barSend]
theorem memWf_execArrive (d a : BitVec 5) (scope : BitVec 2) (s : State) (h_s : Memory.wf s.mem = true) :
    ResMemWf (execArrive d a scope s) := by
  grind -ring -linarith -lia -order [execArrive, ResMemWf, memWf_arriveAt]
theorem memWf_execVote (d a b : BitVec 5) (scope : BitVec 2) (s : State) (h_s : Memory.wf s.mem = true) :
    ResMemWf (execVote d a b scope s) := by
  grind -ring -linarith -lia -order [execVote, ResMemWf, memWf_arriveAt]
theorem memWf_execWaitb (d a b : BitVec 5) (scope : BitVec 2) (s : State) (h_s : Memory.wf s.mem = true) :
    ResMemWf (execWaitb d a b scope s) := by
  have sent := memWf_barSend s (bits (s.rg a).toNat 15 0) (s.barKey s.cur (bits (s.rg a).toNat 15 0)) h_s
  unfold execWaitb
  refine resMemWf_ite (memWf_trap _ _ h_s) (memWf_killPoint ?_ h_s)
  extract_lets key t bar
  replace sent : Memory.wf t.mem = true := sent
  clear_value t key
  refine resMemWf_ite (memWf_trap _ _ (memWf_unmute _ _ _ sent)) (resMemWf_ite ?_ (memWf_finishAt ?_))
  · exact memWf_setG _ _ _ (memWf_acquire _ _ _ _ sent)
  · refine memWf_Acc_bind (memWf_suspendAt _ _ _ sent) fun _ t h => ?_
    show Memory.wf (if _ then _ else _ : State).mem = true
    split
    · exact memWf_wakeBarrier _ _ h
    · exact h
theorem memWf_execBfx (d a : BitVec 5) (pos wm1 : BitVec 6) (s : State) (h_s : Memory.wf s.mem = true) :
    ResMemWf (execBfx d a pos wm1 s) := by
  grind -ring -linarith -lia -order [execBfx, ResMemWf, memWf_setG]
theorem memWf_execBfxz (d a : BitVec 5) (pos wm1 : BitVec 6) (s : State) (h_s : Memory.wf s.mem = true) :
    ResMemWf (execBfxz d a pos wm1 s) := by
  grind -ring -linarith -lia -order [execBfxz, ResMemWf, memWf_setG]
theorem memWf_execBfi (d a : BitVec 5) (pos wm1 : BitVec 6) (s : State) (h_s : Memory.wf s.mem = true) :
    ResMemWf (execBfi d a pos wm1 s) := by
  grind -ring -linarith -lia -order [execBfi, ResMemWf, memWf_setG]
theorem memWf_execBeq (a b : BitVec 5) (off : BitVec 16) (s : State) (h_s : Memory.wf s.mem = true) :
    ResMemWf (execBeq a b off s) := by
  grind -ring -linarith -lia -order [execBeq, ResMemWf, memWf_branchTo]
theorem memWf_execBne (a b : BitVec 5) (off : BitVec 16) (s : State) (h_s : Memory.wf s.mem = true) :
    ResMemWf (execBne a b off s) := by
  grind -ring -linarith -lia -order [execBne, ResMemWf, memWf_branchTo]
theorem memWf_execBlt (a b : BitVec 5) (off : BitVec 16) (s : State) (h_s : Memory.wf s.mem = true) :
    ResMemWf (execBlt a b off s) := by
  grind -ring -linarith -lia -order [execBlt, ResMemWf, memWf_branchTo]
theorem memWf_execBge (a b : BitVec 5) (off : BitVec 16) (s : State) (h_s : Memory.wf s.mem = true) :
    ResMemWf (execBge a b off s) := by
  grind -ring -linarith -lia -order [execBge, ResMemWf, memWf_branchTo]
theorem memWf_execBltu (a b : BitVec 5) (off : BitVec 16) (s : State) (h_s : Memory.wf s.mem = true) :
    ResMemWf (execBltu a b off s) := by
  grind -ring -linarith -lia -order [execBltu, ResMemWf, memWf_branchTo]
theorem memWf_execBgeu (a b : BitVec 5) (off : BitVec 16) (s : State) (h_s : Memory.wf s.mem = true) :
    ResMemWf (execBgeu a b off s) := by
  grind -ring -linarith -lia -order [execBgeu, ResMemWf, memWf_branchTo]
theorem memWf_execJ (off : BitVec 26) (s : State) (h_s : Memory.wf s.mem = true) :
    ResMemWf (execJ off s) := by
  grind -ring -linarith -lia -order [execJ, ResMemWf, memWf_jump]
theorem memWf_execJal (off : BitVec 26) (s : State) (h_s : Memory.wf s.mem = true) :
    ResMemWf (execJal off s) := by
  grind -ring -linarith -lia -order [execJal, ResMemWf, memWf_wg, memWf_jump]
theorem memWf_jumpReg (t : Word) {go : State → State} {s : State} (hgo : Memory.wf (go s).mem = true)
    (h_s : Memory.wf s.mem = true) : ResMemWf (jumpReg t go s) := by
  unfold jumpReg
  split
  · exact memWf_trap _ _ h_s
  · exact memWf_jump _ _ hgo
theorem memWf_execJr (a : BitVec 5) (s : State) (h_s : Memory.wf s.mem = true) :
    ResMemWf (execJr a s) := by
  grind -ring -linarith -lia -order [execJr, ResMemWf, memWf_jumpReg]
theorem memWf_execJalr (d a : BitVec 5) (s : State) (h_s : Memory.wf s.mem = true) :
    ResMemWf (execJalr d a s) := by
  grind -ring -linarith -lia -order [execJalr, ResMemWf, memWf_wg, memWf_jumpReg]
theorem memWf_sawDone (s : State) (c : Nat) (seen : Bool) (h_s : Memory.wf s.mem = true) :
    Memory.wf (State.sawDone s c seen).mem = true := by
  grind -ring -linarith -lia -order [State.sawDone, memWf_acquire]
theorem memWf_report (s : State) (c : Nat) (tval : Word) (tepc : Option Word) (h_s : Memory.wf s.mem = true) :
    Memory.wf (State.report s c tval tepc).mem = true := by
  grind -ring -linarith -lia -order [State.report, memWf_updCore, memWf_kickCluster, memWf_kickC, memWf_takeTrap]
theorem memWf_handOver {s : State} {go : Res} (hgo : ResMemWf go) (h_s : Memory.wf s.mem = true) :
    ResMemWf (handOver s go) := by
  unfold handOver
  split
  · exact memWf_report _ _ _ _ h_s
  · exact hgo
theorem memWf_pin (s : State) (c : Nat) (h_s : Memory.wf s.mem = true) :
    Memory.wf (State.pin s c).mem = true := by
  grind -ring -linarith -lia -order [State.pin, memWf_updCore, memWf_updWisp]
theorem memWf_pushMatrix (w : BitVec 32) (m : MCmd) (s : State) (h_s : Memory.wf s.mem = true) :
    ResMemWf (pushMatrix w m s) := by
  grind -ring -linarith -lia -order [pushMatrix, ResMemWf, memWf_updMe, memWf_nextPc, memWf_stall, memWf_kickM, memWf_trap,
      memWf_pin]
theorem memWf_pushCopy (w : BitVec 32) (k : CCmd) (typed : Bool) (s : State) (h_s : Memory.wf s.mem = true) :
    ResMemWf (pushCopy w k typed s) := by
  grind -ring -linarith -lia -order [pushCopy, ResMemWf, memWf_updMe, memWf_nextPc, memWf_stall, memWf_kickC, memWf_trap,
      memWf_pin]
theorem memWf_askMove (s : State) (c i : Nat) (h_s : Memory.wf s.mem = true) :
    Memory.wf (State.askMove s c i).mem = true := by
  grind -ring -linarith -lia -order [State.askMove, memWf_postOnce]
theorem memWf_engStall (s : State) (c m : Nat) (h_s : Memory.wf s.mem = true) :
    Memory.wf (State.engStall s c m).2.mem = true := by
  have cleared (t : State) (l : List Nat) (h : Memory.wf t.mem = true) :
      Memory.wf (l.foldl (fun s i => s.stallClear c i) t).mem = true := memWf_foldl (fun t i h => memWf_stallClear _ _ _ h) _ h
  have marked (t : State) (l : List Nat) (h : Memory.wf t.mem = true) :
      Memory.wf (l.foldl (fun s i => (s.stallMark c i true).askMove c i) t).mem = true :=
    memWf_foldl (fun t i h => memWf_askMove _ _ _ (memWf_stallMark _ _ _ _ h)) _ h
  unfold State.engStall
  grind
theorem memWf_engWait (m : Nat) (tepc : Option Word) (s : State) {go : State → Res}
    (hgo : ∀ t, Memory.wf t.mem = true → ResMemWf (go t)) (h_s : Memory.wf s.mem = true) : ResMemWf (engWait m tepc s go) := by
  have cleared := memWf_foldl (fun t i h => memWf_stallClear t s.cur i h) (s.liveBinds s.cur) (memWf_acquire s s.cur 255 0 h_s)
  have stalled := memWf_engStall s s.cur m h_s
  simp only [engWait]
  split
  · split
    · exact memWf_report _ _ _ _ cleared
    · exact hgo _ cleared
  · split <;> rename_i he <;> rw [he] at stalled
    · exact memWf_trap _ _ stalled
    · exact memWf_stall _ stalled
theorem memWf_execEngwait (a : BitVec 5) (s : State) (h_s : Memory.wf s.mem = true) :
    ResMemWf (execEngwait a s) := by
  grind -ring -linarith -lia -order [execEngwait, ResMemWf, memWf_nextPc, memWf_trap, memWf_engWait]
theorem memWf_execEngstat (d : BitVec 5) (s : State) (h_s : Memory.wf s.mem = true) :
    ResMemWf (execEngstat d s) := by
  grind -ring -linarith -lia -order [execEngstat, ResMemWf, memWf_setG, memWf_sawDone]
theorem memWf_execGdef (a b tag : BitVec 5) (s : State) (h_s : Memory.wf s.mem = true) :
    ResMemWf (execGdef a b tag s) := by
  grind -ring -linarith -lia -order [execGdef, ResMemWf, memWf_updMe, memWf_nextPc, memWf_trap]
theorem memWf_execGwait (tag : BitVec 5) (s : State) (h_s : Memory.wf s.mem = true) :
    ResMemWf (execGwait tag s) := by
  grind -ring -linarith -lia -order [execGwait, ResMemWf, memWf_nextPc, memWf_stall, memWf_acquire, memWf_report]
theorem memWf_execGqry (d tag : BitVec 5) (s : State) (h_s : Memory.wf s.mem = true) :
    ResMemWf (execGqry d tag s) := by
  grind -ring -linarith -lia -order [execGqry, ResMemWf, memWf_trap, memWf_setG]
theorem memWf_execCpcfg (a : BitVec 5) (s : State) (h_s : Memory.wf s.mem = true) :
    ResMemWf (execCpcfg a s) := by
  grind -ring -linarith -lia -order [execCpcfg, ResMemWf, memWf_updMe, memWf_nextPc, memWf_trap, memWf_handOver]
theorem memWf_handCopy (w : BitVec 32) (kind : CKind) (tag d src ctl : Word) (g : CGeo) (ok : Bool) (s : State) (h_s :
    Memory.wf s.mem = true) :
    ResMemWf (handCopy w kind tag d src ctl g ok s) := by
  grind -ring -linarith -lia -order [handCopy, AccMemWf, ResMemWf, memWf_trap, memWf_handOver, memWf_pushCopy]
theorem memWf_execCpy (d a b tag : BitVec 5) (s : State) (h_s : Memory.wf s.mem = true) :
    ResMemWf (execCpy d a b tag s) := by
  grind -ring -linarith -lia -order [execCpy, ResMemWf, memWf_handCopy]
theorem memWf_execCpyn (d a b tag : BitVec 5) (s : State) (h_s : Memory.wf s.mem = true) :
    ResMemWf (execCpyn d a b tag s) := by
  grind -ring -linarith -lia -order [execCpyn, ResMemWf, memWf_handCopy]
theorem memWf_execPubl (a tag : BitVec 5) (s : State) (h_s : Memory.wf s.mem = true) :
    ResMemWf (execPubl a tag s) := by
  grind -ring -linarith -lia -order [execPubl, ResMemWf, memWf_trap, memWf_handOver, memWf_pushCopy]
theorem memWf_copyRead (s : State) (c src n scope : Nat) (h_s : Memory.wf s.mem = true) :
    Memory.wf (State.copyRead s c src n scope).2.mem = true := by
  grind -ring -linarith -lia -order [State.copyRead, AccMemWf, memWf_xlat, memWf_engineRead, memWf_unmute, memWf_trap]
theorem memWf_copyWrite (s : State) (c dst n v scope : Nat) (skip : Bool) (h_s : Memory.wf s.mem = true) :
    Memory.wf (State.copyWrite s c dst n v scope skip).2.mem = true := by
  grind -ring -linarith -lia -order [State.copyWrite, AccMemWf, memWf_xlat, memWf_engineWrite, memWf_typedPut, memWf_trap]
theorem memWf_copyPart (s0 s : State) (c scope seed src m at_ : Nat) (h_s0 : Memory.wf s0.mem = true) (h_s : Memory.wf s.mem =
    true) :
    Memory.wf (State.copyPart s0 s c scope seed src m at_).2.mem = true := by
  grind -ring -linarith -lia -order [State.copyPart, AccMemWf, memWf_copyRead]
theorem memWf_copyBytes {α : Type} {f : CopyEnd × State → α → CopyEnd × State}
    (hf : ∀ acc e, Memory.wf acc.2.mem = true → Memory.wf (f acc e).2.mem = true) (l : List α) {acc : CopyEnd × State}
    (h : Memory.wf acc.2.mem = true) : Memory.wf (l.foldl f acc).2.mem = true := by
  induction l generalizing acc with
  | nil => exact h
  | cons e l ih => exact ih (hf acc e h)
theorem memWf_copyPut (s : State) (c scope : Nat) (sel : Option (Nat → Bool)) (dst m x at_ : Nat) (h_s : Memory.wf s.mem =
    true) :
    Memory.wf (State.copyPut s c scope sel dst m x at_).2.mem = true := by
  unfold State.copyPut
  split
  · exact memWf_copyWrite _ _ _ _ _ _ _ h_s
  · refine memWf_copyBytes (fun acc i h => ?_) _ h_s
    split
    · exact memWf_copyWrite _ _ _ _ _ _ _ h
    · exact h
theorem memWf_copyRun (s0 : State) (c scope seed : Nat) (sel : Option (Nat → Bool)) (a0 : Nat) (a1 : State) (a2 : Nat) (a3 :
    Nat) (a4 : Nat) (a5 : Nat) (h_s0 : Memory.wf s0.mem = true) (h_a1 : Memory.wf a1.mem = true) :
    Memory.wf (State.copyRun s0 c scope seed sel a0 a1 a2 a3 a4 a5).2.mem = true := by
  induction a0 generalizing a1 a2 a3 a4 a5 with
  | zero => exact h_a1
  | succ k ih =>
    unfold State.copyRun
    grind -ring -linarith -lia -order [memWf_copyPart, memWf_copyPut]
theorem memWf_copyPiece (s0 s : State) (c scope seed src dst n : Nat) (h_s0 : Memory.wf s0.mem = true) (h_s : Memory.wf s.mem =
    true) :
    Memory.wf (State.copyPiece s0 s c scope seed src dst n).2.mem = true := by
  grind -ring -linarith -lia -order [State.copyPiece, AccMemWf, memWf_copyRun]
theorem memWf_copyRow (s0 : State) (c scope seed : Nat) (a0 : Nat) (a1 : State) (a2 : Nat) (a3 : Nat) (a4 : Nat) (a5 : Option
    Nat) (h_s0 : Memory.wf s0.mem = true) (h_a1 : Memory.wf a1.mem = true) :
    Memory.wf (State.copyRow s0 c scope seed a0 a1 a2 a3 a4 a5).2.1.mem = true := by
  induction a0 generalizing seed a1 a2 a3 a4 a5 with
  | zero => exact h_a1
  | succ k ih =>
    unfold State.copyRow
    grind -ring -linarith -lia -order [memWf_copyPiece]
theorem memWf_copyRows (s0 : State) (c seed : Nat) (m : CCmd) (a0 : Nat) (a1 : Nat) (a2 : State) (a3 : Option Nat) (h_s0 :
    Memory.wf s0.mem = true) (h_a2 : Memory.wf a2.mem = true) :
    Memory.wf (State.copyRows s0 c seed m a0 a1 a2 a3).2.mem = true := by
  induction a0 generalizing a1 a2 a3 with
  | zero => exact h_a2
  | succ k ih =>
    unfold State.copyRows
    grind -ring -linarith -lia -order [memWf_copyRow]
theorem memWf_copyAll (s : State) (c : Nat) (m : CCmd) (lim : Option Nat) (h_s : Memory.wf s.mem = true) :
    Memory.wf (State.copyAll s c m lim).2.mem = true := by
  grind -ring -linarith -lia -order [State.copyAll, memWf_copyRows]
theorem memWf_execCopyCommandStart (core : Nat) (s : State) (h_s : Memory.wf s.mem = true) :
    ResMemWf (execCopyCommandStart core s) := by
  grind -ring -linarith -lia -order [execCopyCommandStart, AccMemWf, ResMemWf, memWf_updCore, memWf_postOnce, memWf_Acc_bind,
      memWf_acquire]
theorem memWf_execPieceAdmission (die : Nat) (s : State) (h_s : Memory.wf s.mem = true) :
    ResMemWf (execPieceAdmission die s) := by
  grind -ring -linarith -lia -order [execPieceAdmission, ResMemWf, memWf_updDie, memWf_postOnce]
theorem memWf_execCreditReturn (die flits : Nat) (s : State) (h_s : Memory.wf s.mem = true) :
    ResMemWf (execCreditReturn die flits s) := by
  grind -ring -linarith -lia -order [execCreditReturn, ResMemWf, memWf_updDie, memWf_postOnce]
theorem memWf_endCopy (s : State) (c : Nat) (m : CCmd) (h_s : Memory.wf s.mem = true) :
    Memory.wf (State.endCopy s c m).mem = true := by
  grind -ring -linarith -lia -order [State.endCopy, memWf_updCore, memWf_kickCluster, memWf_kickC]
theorem memWf_failCopy (s : State) (c : Nat) (m : CCmd) (code : Nat) (frec : Option (BitVec 512)) (h_s : Memory.wf s.mem =
    true) :
    Memory.wf (State.failCopy s c m code frec).mem = true := by
  simp only [State.failCopy]
  split
  · exact memWf_updCore _ _ _ h_s
  · exact h_s
theorem memWf_execCopyCompletion (core : Nat) (s : State) (h_s : Memory.wf s.mem = true) :
    ResMemWf (execCopyCompletion core s) := by
  grind -ring -linarith -lia -order [execCopyCompletion, AccMemWf, ResMemWf, memWf_updCore, memWf_postOnce, memWf_admission,
      memWf_kickC, memWf_copyAll,
      memWf_endCopy, memWf_failCopy]
theorem memWf_execPublicationSwap (core : Nat) (s : State) (h_s : Memory.wf s.mem = true) :
    ResMemWf (execPublicationSwap core s) := by
  grind -ring -linarith -lia -order [execPublicationSwap, ResMemWf, memWf_updCore, memWf_endCopy]
theorem memWf_dropPieces (s : State) (c : Nat) (h_s : Memory.wf s.mem = true) :
    Memory.wf (State.dropPieces s c).mem = true := by
  grind -ring -linarith -lia -order [State.dropPieces, memWf_updDie]
theorem memWf_execCpabort (s : State) (h_s : Memory.wf s.mem = true) :
    ResMemWf (execCpabort s) := by
  grind -ring -linarith -lia -order [execCpabort, ResMemWf, memWf_updMe, memWf_nextPc, memWf_handOver, memWf_copyAll,
      memWf_dropPieces]
theorem memWf_setAsn (s : State) (c : Nat) (asn : BitVec 16) (h_s : Memory.wf s.mem = true) :
    Memory.wf (State.setAsn s c asn).mem = true := by
  grind -ring -linarith -lia -order [State.setAsn, memWf_updCore]
theorem memWf_cregWrite (s : State) (c n : Nat) (v : Word) (h_s : Memory.wf s.mem = true) :
    ∀ t ∈ (State.cregWrite s c n v), Memory.wf t.mem = true := by
  intro t ht
  simp only [State.cregWrite] at ht
  split at ht
  all_goals first
    | (cases ht; exact memWf_updCore _ _ _ h_s)
    | (cases ht; exact memWf_setAsn _ _ _ h_s)
    | cases ht
theorem memWf_creg (w : BitVec 32) (d : BitVec 5) (r : BitVec 12) (new : Option (Word → Word)) (s : State)
    (h_s : Memory.wf s.mem = true) : ResMemWf (Sys2Proof.Machine.creg w d r new s) := by
  unfold Sys2Proof.Machine.creg
  have written := memWf_cregWrite s s.cur r.toNat
  grind -ring -linarith -lia -order [memWf_trap, memWf_setG, memWf_sawDone, ResMemWf]
theorem memWf_execCrd (d : BitVec 5) (creg : BitVec 12) (s : State) (h_s : Memory.wf s.mem = true) :
    ResMemWf (execCrd d creg s) :=
  memWf_creg _ _ _ _ _ h_s
theorem memWf_execCwr (d a : BitVec 5) (creg : BitVec 12) (s : State) (h_s : Memory.wf s.mem = true) :
    ResMemWf (execCwr d a creg s) :=
  memWf_creg _ _ _ _ _ h_s
theorem memWf_execCset (d a : BitVec 5) (creg : BitVec 12) (s : State) (h_s : Memory.wf s.mem = true) :
    ResMemWf (execCset d a creg s) :=
  memWf_creg _ _ _ _ _ h_s
theorem memWf_execCclr (d a : BitVec 5) (creg : BitVec 12) (s : State) (h_s : Memory.wf s.mem = true) :
    ResMemWf (execCclr d a creg s) :=
  memWf_creg _ _ _ _ _ h_s
theorem memWf_execMctx (a : BitVec 5) (s : State) (h_s : Memory.wf s.mem = true) :
    ResMemWf (execMctx a s) := by
  grind -ring -linarith -lia -order [execMctx, ResMemWf, memWf_updMe, memWf_nextPc, memWf_trap, memWf_handOver, memWf_pin]
theorem memWf_execMgeo (a : BitVec 5) (s : State) (h_s : Memory.wf s.mem = true) :
    ResMemWf (execMgeo a s) := by
  grind -ring -linarith -lia -order [execMgeo, ResMemWf, memWf_updMe, memWf_nextPc, memWf_trap, memWf_handOver, memWf_pin]
theorem memWf_handMatrix (w : BitVec 32) (kind : MKind) (tag src pitch : Nat) (ok : MCtx → Bool) (s : State) (h_s : Memory.wf
    s.mem = true) :
    ResMemWf (handMatrix w kind tag src pitch ok s) := by
  grind -ring -linarith -lia -order [handMatrix, AccMemWf, ResMemWf, memWf_trap, memWf_handOver, memWf_pushMatrix]
theorem memWf_execMloadb (a b tag : BitVec 5) (s : State) (h_s : Memory.wf s.mem = true) :
    ResMemWf (execMloadb a b tag s) := by
  grind -ring -linarith -lia -order [execMloadb, ResMemWf, memWf_handMatrix]
theorem memWf_execMswap (tag : BitVec 5) (s : State) (h_s : Memory.wf s.mem = true) :
    ResMemWf (execMswap tag s) := by
  grind -ring -linarith -lia -order [execMswap, ResMemWf, memWf_handMatrix]
theorem memWf_execMrun (tag : BitVec 5) (s : State) (h_s : Memory.wf s.mem = true) :
    ResMemWf (execMrun tag s) := by
  grind -ring -linarith -lia -order [execMrun, ResMemWf, memWf_handMatrix]
theorem memWf_execMclr (tag : BitVec 5) (s : State) (h_s : Memory.wf s.mem = true) :
    ResMemWf (execMclr tag s) := by
  grind -ring -linarith -lia -order [execMclr, ResMemWf, memWf_handMatrix]
theorem memWf_finM (s : State) (c : Nat) (h_s : Memory.wf s.mem = true) :
    Memory.wf (State.finM s c).mem = true := by
  grind -ring -linarith -lia -order [State.finM, memWf_updCore, memWf_kickM]
theorem memWf_failM (s : State) (c code fn row : Nat) (h_s : Memory.wf s.mem = true) :
    Memory.wf (State.failM s c code fn row).mem = true := by
  grind -ring -linarith -lia -order [State.failM, memWf_updCore, memWf_kickCluster]
theorem memWf_execMloadbExecution (core : Nat) (s : State) (h_s : Memory.wf s.mem = true) :
    ResMemWf (execMloadbExecution core s) := by
  grind -ring -linarith -lia -order [execMloadbExecution, ResMemWf, memWf_updCluster, memWf_raise, memWf_finM, memWf_failM]
theorem memWf_execMswapExecution (core : Nat) (s : State) (h_s : Memory.wf s.mem = true) :
    ResMemWf (execMswapExecution core s) := by
  grind -ring -linarith -lia -order [execMswapExecution, ResMemWf, memWf_updCluster, memWf_finM]
theorem memWf_execMclrExecution (core : Nat) (s : State) (h_s : Memory.wf s.mem = true) :
    ResMemWf (execMclrExecution core s) := by
  unfold execMclrExecution
  split
  · exact h_s
  · exact memWf_finM _ _ (memWf_foldl (fun t r h => memWf_typedPut _ _ _ _ _ _ _ h) _ h_s)
theorem memWf_rowStep (s : State) (c : Nat) (m : MCmd) (h_s : Memory.wf s.mem = true) :
    ∀ t, (State.rowStep s c m) = .ok t → Memory.wf t.mem = true := by
  have put (t : State) (c w co : Nat) (l : List ((Nat × Flags) × Nat)) (h : Memory.wf t.mem = true) :
      Memory.wf (l.foldl (fun s e => s.typedPut c 2 true (co + e.2 * w) w e.1.1) t).mem = true :=
    memWf_foldl (fun t e h => memWf_typedPut _ _ _ _ _ _ _ h) _ h
  intro t ht
  simp only [State.rowStep] at ht
  repeat' split at ht
  all_goals cases ht
  all_goals exact memWf_raise _ _ _ (put _ _ _ _ _ h_s)
theorem memWf_execMatrixRowStep (cluster : Nat) (s : State) (h_s : Memory.wf s.mem = true) :
    ResMemWf (execMatrixRowStep cluster s) := by
  grind -ring -linarith -lia -order [execMatrixRowStep, AccMemWf, ResMemWf, memWf_updCore, memWf_updCluster, memWf_postOnce,
      memWf_finM, memWf_failM,
      memWf_rowStep]
theorem memWf_completeM (s : State) (c : Nat) (h_s : Memory.wf s.mem = true) :
    Memory.wf (State.completeM s c).mem = true := by
  grind -ring -linarith -lia -order [State.completeM, memWf_updCore, memWf_kickCluster, memWf_kickC]
theorem memWf_execMatrixCommandCompletion (core : Nat) (s : State) (h_s : Memory.wf s.mem = true) :
    ResMemWf (execMatrixCommandCompletion core s) := by
  grind -ring -linarith -lia -order [execMatrixCommandCompletion, ResMemWf, memWf_completeM]
theorem memWf_execRtwr (a b : BitVec 5) (s : State) (h_s : Memory.wf s.mem = true) :
    ResMemWf (execRtwr a b s) := by
  grind -ring -linarith -lia -order [execRtwr, AccMemWf, ResMemWf, memWf_updCore, memWf_Acc_bind, memWf_load, memWf_trap,
      memWf_finish, memWf_supOnly]
theorem memWf_execRtrd (a b : BitVec 5) (s : State) (h_s : Memory.wf s.mem = true) :
    ResMemWf (execRtrd a b s) := by
  grind -ring -linarith -lia -order [execRtrd, AccMemWf, ResMemWf, memWf_store, memWf_trap, memWf_finish, memWf_supOnly]
theorem memWf_execRtinv (a b : BitVec 5) (s : State) (h_s : Memory.wf s.mem = true) :
    ResMemWf (execRtinv a b s) := by
  unfold execRtinv
  refine memWf_supOnly _ (resMemWf_ite (memWf_trap _ _ h_s) (resMemWf_ite (memWf_nextPc _ h_s) ?_)) h_s
  exact memWf_nextPc _ (memWf_updMe _ _ (memWf_foldl (fun t c h => memWf_post _ _ h) _ h_s))
theorem memWf_execRangeInvalidation (core asn base limit issuer : Nat) (s : State) (h_s : Memory.wf s.mem = true) :
    ResMemWf (execRangeInvalidation core asn base limit issuer s) := by
  grind -ring -linarith -lia -order [execRangeInvalidation, ResMemWf, memWf_updCore, memWf_post]
theorem memWf_genBump (s : State) (p asn : Nat) (h_s : Memory.wf s.mem = true) :
    Memory.wf (State.genBump s p asn).2.mem = true := by
  have posted (t : State) (l : List Nat) (h : Memory.wf t.mem = true) :
      Memory.wf (l.foldl (fun s c => s.post (.generationNotice c asn)) t).mem = true := memWf_foldl (fun t c h => memWf_post _
          _ h) _ h
  have cleared (t : State) (l : List Nat) (h : Memory.wf t.mem = true) :
      Memory.wf (l.foldl (fun s c => s.updCore c (·.clearSlots (fun e => entASN e == asn))) t).mem = true :=
    memWf_foldl (fun t c h => memWf_updCore _ _ _ h) _ h
  simp only [State.genBump]
  refine posted _ _ ?_
  split
  · exact cleared _ _ h_s
  · exact h_s
theorem memWf_execGenerationNotice (core asn : Nat) (s : State) (h_s : Memory.wf s.mem = true) :
    ResMemWf (execGenerationNotice core asn s) := by
  grind -ring -linarith -lia -order [execGenerationNotice, ResMemWf, memWf_updCore, memWf_post]
theorem memWf_execGenbump (d a : BitVec 5) (s : State) (h_s : Memory.wf s.mem = true) :
    ResMemWf (execGenbump d a s) := by
  grind -ring -linarith -lia -order [execGenbump, ResMemWf, memWf_updMe, memWf_block, memWf_trap, memWf_supOnly, memWf_setG,
      memWf_genBump]
theorem memWf_execRangeWalk (core : Nat) (dva : BitVec 64) (s : State) (h_s : Memory.wf s.mem = true) :
    ResMemWf (execRangeWalk core dva s) := by
  grind -ring -linarith -lia -order [execRangeWalk, ResMemWf, memWf_setCore]
theorem memWf_dirHeader (s : State) (rdir count : Nat) (h_s : Memory.wf s.mem = true) :
    Memory.wf (State.dirHeader s rdir count).mem = true := by
  grind -ring -linarith -lia -order [State.dirHeader, memWf_homeWrite]
theorem memWf_putEntry (s : State) (rdir j : Nat) (e : BitVec 512) (h_s : Memory.wf s.mem = true) :
    Memory.wf (State.putEntry s rdir j e).mem = true := by
  grind -ring -linarith -lia -order [State.putEntry, memWf_homeWrite]
theorem memWf_dirOp (d : BitVec 5) (dva : Nat) {s : State} {go : Nat → Nat → BitVec 512 → Res} (hgo : ∀ r j e, ResMemWf (go r j
    e))
    (h_s : Memory.wf s.mem = true) : ResMemWf (dirOp d dva s go) := by
  unfold dirOp
  dsimp only
  split
  · exact memWf_block _ h_s
  · exact memWf_trap _ _ h_s
  · exact memWf_setG _ _ _ h_s
  · exact memWf_setG _ _ _ h_s
  · exact hgo _ _ _
theorem memWf_execRsplit (d a : BitVec 5) (s : State) (h_s : Memory.wf s.mem = true) :
    ResMemWf (execRsplit d a s) := by
  grind -ring -linarith -lia -order [execRsplit, ResMemWf, memWf_homeWrite, memWf_trap, memWf_supOnly, memWf_setG,
      memWf_dirHeader, memWf_putEntry,
      memWf_dirOp]
theorem memWf_execRmerge (d a : BitVec 5) (s : State) (h_s : Memory.wf s.mem = true) :
    ResMemWf (execRmerge d a s) := by
  grind -ring -linarith -lia -order [execRmerge, ResMemWf, memWf_homeWrite, memWf_trap, memWf_supOnly, memWf_setG,
      memWf_dirHeader, memWf_putEntry,
      memWf_dirOp]
theorem memWf_editEntry (s : State) (rdir j : Nat) (e : BitVec 512) (mv : Bool) (offset : Option Nat) (h_s : Memory.wf s.mem =
    true) :
    Memory.wf (State.editEntry s rdir j e mv offset).mem = true := by
  unfold State.editEntry
  exact memWf_dirHeader _ _ _ (memWf_putEntry _ _ _ _ h_s)
theorem memWf_execRcompact (d a b : BitVec 5) (s : State) (h_s : Memory.wf s.mem = true) :
    ResMemWf (execRcompact d a b s) := by
  grind -ring -linarith -lia -order [execRcompact, ResMemWf, memWf_post, memWf_supOnly, memWf_setG, memWf_dirOp,
      memWf_editEntry]
theorem memWf_setMove (s : State) (f : Move → Move) (h_s : Memory.wf s.mem = true) :
    Memory.wf (State.setMove s f).mem = true := by
  grind -ring -linarith -lia -order [State.setMove]
theorem memWf_moveBlock (s : State) (m : Move) (o : Nat) (h_s : Memory.wf s.mem = true) :
    Memory.wf (State.moveBlock s m o).mem = true := by
  unfold State.moveBlock
  dsimp only
  split
  · exact memWf_homeWrite s none none _ 256 _ h_s
  · exact memWf_foldl (fun t i h => memWf_rawWrite _ _ _ _ h) _ h_s
theorem memWf_movePiece (s : State) (m : Move) (now : BitVec 64) (h_s : Memory.wf s.mem = true) :
    Memory.wf (State.movePiece s m now).mem = true :=
  memWf_setMove _ _ (memWf_foldl (fun t o h => memWf_moveBlock _ _ _ h) _ h_s)
theorem memWf_moveLate (s : State) (m : Move) (now : BitVec 64) (h_s : Memory.wf s.mem = true) :
    Memory.wf (State.moveLate s m now).mem = true := by
  refine memWf_setMove _ _ (memWf_foldl (fun t i h => ?_) _ h_s)
  split
  · exact h
  · exact memWf_moveBlock _ _ _ h
theorem memWf_execDredgeCopyPhase (s : State) (h_s : Memory.wf s.mem = true) :
    ResMemWf (execDredgeCopyPhase s) := by
  grind -ring -linarith -lia -order [execDredgeCopyPhase, ResMemWf, memWf_post, memWf_admission, memWf_setMove, memWf_movePiece]
theorem memWf_relocate (s : State) (f : Nat → Nat) (h_s : Memory.wf s.mem = true) :
    Memory.wf (State.relocate s f).mem = true := by
  grind -ring -linarith -lia -order [State.relocate, AccMemWf, memWf_Acc_bind]
theorem memWf_moveAcc (s : State) (m : Move) (h_s : Memory.wf s.mem = true) :
    Memory.wf (State.moveAcc s m).mem = true := by
  grind -ring -linarith -lia -order [State.moveAcc]
theorem memWf_execDredgeSwitchPhase (s : State) (h_s : Memory.wf s.mem = true) :
    ResMemWf (execDredgeSwitchPhase s) := by
  grind -ring -linarith -lia -order [execDredgeSwitchPhase, ResMemWf, memWf_post, memWf_editEntry, memWf_setMove,
      memWf_moveLate, memWf_relocate,
      memWf_moveAcc]
theorem memWf_execDredgeBumpPhase (s : State) (h_s : Memory.wf s.mem = true) :
    ResMemWf (execDredgeBumpPhase s) := by
  grind -ring -linarith -lia -order [execDredgeBumpPhase, ResMemWf, memWf_post, memWf_genBump, memWf_setMove]
theorem memWf_execDredgeReleasePhase (s : State) (h_s : Memory.wf s.mem = true) :
    ResMemWf (execDredgeReleasePhase s) := by
  grind -ring -linarith -lia -order [execDredgeReleasePhase, ResMemWf, memWf_post, memWf_editEntry]
theorem memWf_readPeers (s : State) (c a : Nat) (sup : Bool) (a0 : Nat) (h_s : Memory.wf s.mem = true) :
    AccMemWf (State.readPeers s c a sup a0) := by
  induction a0 generalizing s a with
  | zero => exact h_s
  | succ n ih =>
    refine memWf_Acc_bind (memWf_load _ _ _ _ _ _ h_s) fun _ t h => ?_
    exact memWf_Acc_bind (ih t _ h) fun _ _ h => h
theorem memWf_openInst (s : State) (c : Nat) (b : Binding) (peers : List Nat) (h_s : Memory.wf s.mem = true) :
    Memory.wf (State.openInst s c b peers).mem = true := by
  grind -ring -linarith -lia -order [State.openInst, memWf_post, memWf_bumpCounter, memWf_setInst]
theorem memWf_attach (s : State) (c ix : Nat) (b : Binding) (peers : List Nat) (h_s : Memory.wf s.mem = true) :
    Memory.wf (State.attach s c ix b peers).mem = true := by
  have asked (t : State) (l : List (Nat × Inst)) (h : Memory.wf t.mem = true) :
      Memory.wf (l.foldl (fun s e => s.postOnce (.collectiveCombine e.1)) t).mem = true :=
    memWf_foldl (fun t e h => memWf_postOnce _ _ h) _ h
  have opened : Memory.wf (if (s.instAt b.anchor).isNone && b.count == 0 then s.openInst c b peers else s : State).mem =
      true := by
    split
    · exact memWf_openInst _ _ _ _ h_s
    · exact h_s
  unfold State.attach
  extract_lets t
  replace opened : Memory.wf t.mem = true := opened
  clear_value t
  split
  · exact memWf_updBind _ _ _ _ opened
  · split
    · exact asked _ _ (memWf_postOnce _ _ (memWf_updBind _ _ _ _ (memWf_setInst _ _ _ opened)))
    · exact memWf_streamFault _ _ _ _ _ opened
theorem memWf_bindNow (s : State) (c : Nat) (b : Binding) (peers : List Nat) (h_s : Memory.wf s.mem = true) :
    Memory.wf (State.bindNow s c b peers).mem = true := by
  grind -ring -linarith -lia -order [State.bindNow, memWf_postOnce, memWf_acquire, memWf_updBind, memWf_setBound, memWf_attach]
theorem memWf_bindRecord (s : State) (c : Nat) (b : Binding) (h_s : Memory.wf s.mem = true) :
    AccMemWf (State.bindRecord s c b) := by
  grind -ring -linarith -lia -order [State.bindRecord, AccMemWf, memWf_Acc_bind, memWf_xlat, memWf_trap, memWf_readPeers,
      memWf_bindNow]
theorem memWf_execSbind (vd a : BitVec 5) (s : State) (h_s : Memory.wf s.mem = true) :
    ResMemWf (execSbind vd a s) := by
  grind -ring -linarith -lia -order [execSbind, AccMemWf, ResMemWf, memWf_nextPc, memWf_Acc_bind, memWf_sendRemote, memWf_xlat,
      memWf_trap, memWf_finish,
      memWf_flushLine, memWf_handOver, memWf_bindRecord]
theorem memWf_stallOr (c i : Nat) (s : State) (h_s : Memory.wf s.mem = true) :
    ResMemWf (stallOr c i s) := by
  grind -ring -linarith -lia -order [stallOr, ResMemWf, memWf_stall, memWf_stallMark, memWf_trap]
theorem memWf_syncThen (vd : BitVec 5) {s : State} {go : Nat → State → State}
    (hgo : ∀ i t, Memory.wf t.mem = true → Memory.wf (go i t).mem = true) (h_s : Memory.wf s.mem = true) :
    ResMemWf (syncThen vd s go) := by
  refine memWf_handOver ?_ h_s
  dsimp only
  split
  · exact memWf_nextPc _ h_s
  · next i _ _ =>
    have synced := memWf_syncBind s s.cur i h_s
    split
    · next h => exact memWf_nextPc _ (hgo _ _ (memWf_stallClear _ _ _ (memWf_of_eq_ok synced h)))
    · next h => exact memWf_stallOr _ _ _ (memWf_of_eq_wait synced h)
    · next h => exact memWf_trap _ _ (memWf_of_eq_trap synced h)
theorem memWf_execSsync (vd : BitVec 5) (s : State) (h_s : Memory.wf s.mem = true) :
    ResMemWf (execSsync vd s) := by
  grind -ring -linarith -lia -order [execSsync, ResMemWf, memWf_syncThen]
theorem memWf_execSunbind (vd : BitVec 5) (s : State) (h_s : Memory.wf s.mem = true) :
    ResMemWf (execSunbind vd s) := by
  grind -ring -linarith -lia -order [execSunbind, ResMemWf, memWf_freeBind, memWf_syncThen]
theorem memWf_execSstat (d va : BitVec 5) (s : State) (h_s : Memory.wf s.mem = true) :
    ResMemWf (execSstat d va s) := by
  grind -ring -linarith -lia -order [execSstat, ResMemWf, memWf_stall, memWf_setG, memWf_handOver]
theorem memWf_execStreamPrefetch (core bix : Nat) (s : State) (h_s : Memory.wf s.mem = true) :
    ResMemWf (execStreamPrefetch core bix s) := by
  grind -ring -linarith -lia -order [execStreamPrefetch, ResMemWf, memWf_prefetch]
theorem memWf_execStreamStorePerform (core bix : Nat) (s : State) (h_s : Memory.wf s.mem = true) :
    ResMemWf (execStreamStorePerform core bix s) := by
  grind -ring -linarith -lia -order [execStreamStorePerform, ResMemWf, memWf_storeChunk, memWf_kickC]
theorem memWf_execSendChunk (core bix : Nat) (s : State) (h_s : Memory.wf s.mem = true) :
    ResMemWf (execSendChunk core bix s) := by
  grind -ring -linarith -lia -order [execSendChunk, ResMemWf, memWf_postOnce, memWf_sendNow, memWf_acceptAtAnchor]
theorem memWf_execRingProducedUpdate (pa count : Nat) (s : State) (h_s : Memory.wf s.mem = true) :
    ResMemWf (execRingProducedUpdate pa count s) := by
  grind -ring -linarith -lia -order [execRingProducedUpdate, ResMemWf, memWf_post, memWf_homeWrite1]
theorem memWf_execStreamWaitEnd (core : Nat) (s : State) (h_s : Memory.wf s.mem = true) :
    ResMemWf (execStreamWaitEnd core s) := by
  grind -ring -linarith -lia -order [execStreamWaitEnd, ResMemWf]
theorem memWf_execStreamWatchdog (core bix : Nat) (s : State) (h_s : Memory.wf s.mem = true) :
    ResMemWf (execStreamWatchdog core bix s) := by
  grind -ring -linarith -lia -order [execStreamWatchdog, ResMemWf, memWf_takeTrap]
theorem memWf_execCollectiveCombine (anchor : Nat) (s : State) (h_s : Memory.wf s.mem = true) :
    ResMemWf (execCollectiveCombine anchor s) := by
  grind -ring -linarith -lia -order [execCollectiveCombine, ResMemWf, memWf_combineNow]
theorem memWf_takeSlot (s : State) (a : Nat) (i : Inst) (h_s : Memory.wf s.mem = true) :
    Memory.wf (State.takeSlot s a i).mem = true := by
  grind -ring -linarith -lia -order [State.takeSlot, memWf_setInst]
theorem memWf_refuseSlot (s : State) (i : Inst) (tie : Bool) (h_s : Memory.wf s.mem = true) :
    Memory.wf (State.refuseSlot s i tie).mem = true := by
  grind -ring -linarith -lia -order [State.refuseSlot, memWf_bumpCounter]
theorem memWf_slotsBack (s : State) (a : Nat) (h_s : Memory.wf s.mem = true) :
    Memory.wf (State.slotsBack s a).mem = true := by
  grind -ring -linarith -lia -order [State.slotsBack, memWf_postOnce]
theorem memWf_execSlotRequest (anchor : Nat) (s : State) (h_s : Memory.wf s.mem = true) :
    ResMemWf (execSlotRequest anchor s) := by
  unfold execSlotRequest
  split
  · exact h_s
  next i _ =>
    refine resMemWf_ite h_s ?_
    extract_lets others tie refuse grant tied last
    have hrefuse (b : Bool) : ResMemWf (.next (refuse b)) := memWf_reap _ _ (memWf_refuseSlot _ _ _ h_s)
    have hgrant : Memory.wf grant.mem = true := by
      refine memWf_slotsBack _ _ (memWf_bumpCounter _ _ _ ?_)
      split
      · exact memWf_takeSlot _ _ _ h_s
      · exact memWf_setInst _ _ _ h_s
    clear_value refuse grant
    refine resMemWf_ite ?_ (resMemWf_ite (resMemWf_ite (hrefuse _) (resMemWf_ite (hrefuse _) ?_)) (hrefuse _))
    · show Memory.wf (if _ then _ else _ : State).mem = true
      split
      · exact hgrant
      · exact hrefuse _
    · refine memWf_foldl (fun t r h => memWf_reap _ _ ?_) _ hgrant
      exact memWf_refuseSlot t r.2 true h
theorem memWf_execSlotReturn (anchor : Nat) (s : State) (h_s : Memory.wf s.mem = true) :
    ResMemWf (execSlotReturn anchor s) := by
  grind -ring -linarith -lia -order [execSlotReturn, ResMemWf, memWf_updInst, memWf_reap]
theorem memWf_execQuorumStreamArrival (core bix : Nat) (s : State) (h_s : Memory.wf s.mem = true) :
    ResMemWf (execQuorumStreamArrival core bix s) := by
  grind -ring -linarith -lia -order [execQuorumStreamArrival, ResMemWf, memWf_quorumArrive]
theorem memWf_wakeSuspended (s : State) (k : Nat) (h_s : Memory.wf s.mem = true) :
    Memory.wf (State.wakeSuspended s k).mem = true := by
  grind -ring -linarith -lia -order [State.wakeSuspended, memWf_wakeCore, memWf_wakeParked]
theorem memWf_execSuspend (a : BitVec 5) (s : State) (h_s : Memory.wf s.mem = true) :
    ResMemWf (execSuspend a s) := by
  grind -ring -linarith -lia -order [execSuspend, AccMemWf, ResMemWf, memWf_updWisp, memWf_nextPc, memWf_Acc_bind,
      memWf_finishAt, memWf_killPoint,
      memWf_suspendAt, memWf_wakeSuspended]
theorem memWf_execSuspendWake (launch index : Nat) (s : State) (h_s : Memory.wf s.mem = true) :
    ResMemWf (execSuspendWake launch index s) := by
  grind -ring -linarith -lia -order [execSuspendWake, ResMemWf, memWf_wakeSuspended]
theorem memWf_execRetire (s : State) (h_s : Memory.wf s.mem = true) :
    ResMemWf (execRetire s) := by
  grind -ring -linarith -lia -order [execRetire, ResMemWf, memWf_retireOn, memWf_trap, memWf_engWait]
theorem memWf_execQry (d a : BitVec 5) (s : State) (h_s : Memory.wf s.mem = true) :
    ResMemWf (execQry d a s) := by
  grind -ring -linarith -lia -order [execQry, ResMemWf, memWf_setG]
theorem memWf_execLocq (d a : BitVec 5) (s : State) (h_s : Memory.wf s.mem = true) :
    ResMemWf (execLocq d a s) := by
  grind -ring -linarith -lia -order [execLocq, ResMemWf, memWf_setG]
theorem memWf_execRdtime (d : BitVec 5) (s : State) (h_s : Memory.wf s.mem = true) :
    ResMemWf (execRdtime d s) := by
  grind -ring -linarith -lia -order [execRdtime, ResMemWf, memWf_updMe, memWf_post, memWf_block, memWf_setG]
theorem memWf_execTimeRequest (core : Nat) (s : State) (h_s : Memory.wf s.mem = true) :
    ResMemWf (execTimeRequest core s) := by
  grind -ring -linarith -lia -order [execTimeRequest, ResMemWf, memWf_post]
theorem memWf_execTimeReply (core time : Nat) (s : State) (h_s : Memory.wf s.mem = true) :
    ResMemWf (execTimeReply core time s) := by
  grind -ring -linarith -lia -order [execTimeReply, ResMemWf, memWf_updCore]
theorem memWf_execRdcyc (d : BitVec 5) (s : State) (h_s : Memory.wf s.mem = true) :
    ResMemWf (execRdcyc d s) := by
  grind -ring -linarith -lia -order [execRdcyc, ResMemWf, memWf_setG]
theorem memWf_execTrap (a : BitVec 5) (s : State) (h_s : Memory.wf s.mem = true) :
    ResMemWf (execTrap a s) := by
  grind -ring -linarith -lia -order [execTrap, ResMemWf, memWf_trap]
theorem memWf_execBreak (s : State) (h_s : Memory.wf s.mem = true) :
    ResMemWf (execBreak s) := by
  grind -ring -linarith -lia -order [execBreak, ResMemWf, memWf_updMe, memWf_nextPc, memWf_trap]
theorem memWf_execNop (s : State) (h_s : Memory.wf s.mem = true) :
    ResMemWf (execNop s) := by
  grind -ring -linarith -lia -order [execNop, ResMemWf, memWf_nextPc]
theorem memWf_flagBranch (major : Nat) (want : Bool) (sel : BitVec 10) (off : BitVec 16) (s : State) (h_s : Memory.wf s.mem =
    true) :
    ResMemWf (flagBranch major want sel off s) := by
  grind -ring -linarith -lia -order [flagBranch, ResMemWf, memWf_trap, memWf_branchTo, memWf_sawDone]
theorem memWf_execBfs (sel : BitVec 10) (off : BitVec 16) (s : State) (h_s : Memory.wf s.mem = true) :
    ResMemWf (execBfs sel off s) := by
  grind -ring -linarith -lia -order [execBfs, ResMemWf, memWf_flagBranch]
theorem memWf_execBfc (sel : BitVec 10) (off : BitVec 16) (s : State) (h_s : Memory.wf s.mem = true) :
    ResMemWf (execBfc sel off s) := by
  grind -ring -linarith -lia -order [execBfc, ResMemWf, memWf_flagBranch]
theorem memWf_storeAll (s : State) (c : Nat) (a0 : List (Nat × Nat × Nat)) (h_s : Memory.wf s.mem = true) :
    AccMemWf (State.storeAll s c a0) := by
  induction a0 generalizing s with
  | nil => exact h_s
  | cons e l ih => exact memWf_Acc_bind (memWf_storeRun _ _ _ _ _ _ _ h_s) fun _ t h => ih t h
theorem memWf_restEngines (s : State) (c : Nat) (h_s : Memory.wf s.mem = true) :
    ∀ t ∈ (State.restEngines s c), Memory.wf t.mem = true := by
  grind -ring -linarith -lia -order [State.restEngines, AccMemWf, memWf_updCore, memWf_kickC, memWf_copyAll, memWf_endCopy,
      memWf_failCopy,
      memWf_dropPieces, memWf_completeM]
theorem memWf_geoHandle (s : State) (g : CGeo) (h_s : Memory.wf s.mem = true) :
    Memory.wf (State.geoHandle s g).2.mem = true := by
  grind -ring -linarith -lia -order [State.geoHandle]
theorem memWf_geoHandles (l : List CCmd) {acc : List Nat × State} (h : Memory.wf acc.2.mem = true) :
    Memory.wf (l.foldl (fun (acc : List Nat × State) m =>
      let (h, s) := acc.2.geoHandle m.geo
      (acc.1 ++ [m.pack h], s)) acc).2.mem = true := by
  induction l generalizing acc with
  | nil => exact h
  | cons m l ih => exact ih (memWf_geoHandle acc.2 m.geo h)
theorem memWf_engsImage (s : State) (c : Nat) (h_s : Memory.wf s.mem = true) : Memory.wf (State.engsImage s c).2.mem = true :=
  memWf_geoHandles _ (memWf_geoHandle s _ h_s)
theorem memWf_emptyEngines (s : State) (c : Nat) (h_s : Memory.wf s.mem = true) :
    Memory.wf (State.emptyEngines s c).mem = true := by
  refine memWf_kickCluster _ _ (memWf_updCore _ _ _ (memWf_updWisp _ _ _ ?_))
  exact memWf_foldl (fun t i h => memWf_writeConsumed _ _ _ h) _ h_s
theorem memWf_ctxReach (s : State) (c b : Nat) (k : AKind) (a0 : List (Nat × Nat)) (h_s : Memory.wf s.mem = true) :
    AccMemWf (State.ctxReach s c b k a0) := by
  induction a0 generalizing s with
  | nil => exact h_s
  | cons e l ih => exact memWf_Acc_bind (memWf_xlatRun _ _ _ _ _ _ _ h_s) fun _ t h => ih t h
theorem memWf_ctxOp (w : BitVec 32) (d a b : BitVec 5) (k : AKind) {s : State} {go : Nat → Nat → State → Res}
    (hgo : ∀ m p t, Memory.wf t.mem = true → ResMemWf (go m p t)) (h_s : Memory.wf s.mem = true) :
    ResMemWf (ctxOp w d a b k s go) := by
  refine memWf_supOnly _ (resMemWf_ite (memWf_trap _ _ h_s) (resMemWf_ite (memWf_trap _ _ h_s) ?_)) h_s
  have reached := memWf_ctxReach s s.cur (s.rg a).toNat k (ctxSpans (s.rg b).toNat) h_s
  split
  · next h => exact memWf_block _ (memWf_of_eq_wait reached h)
  · next h => exact resMemWf_ite (memWf_setG _ _ _ (memWf_of_eq_trap reached h)) (memWf_trap _ _ (memWf_of_eq_trap reached h))
  · next h => exact hgo _ _ _ (memWf_of_eq_ok reached h)
theorem memWf_ctxImage (s : State) (c m : Nat) (h_s : Memory.wf s.mem = true) :
    Memory.wf (State.ctxImage s c m).2.mem = true := by
  unfold State.ctxImage
  by_cases hm : m / 2 % 2 = 1
  · simpa only [if_pos hm] using memWf_engsImage s c h_s
  · simpa only [if_neg hm] using h_s
theorem memWf_execCtxsv (d a b : BitVec 5) (s : State) (h_s : Memory.wf s.mem = true) :
    ResMemWf (execCtxsv d a b s) := by
  refine memWf_ctxOp _ _ _ _ _ (fun m p t h => ?_) h_s
  refine resMemWf_ite (memWf_setG _ _ _ h) (resMemWf_ite (memWf_setG _ _ _ h) ?_)
  have rested : ∀ u ∈ (if m / 2 % 2 = 1 then t.restEngines t.cur else some t), Memory.wf u.mem = true := by
    split
    · exact memWf_restEngines t _ h
    · simpa using h
  split
  · exact memWf_block _ h
  next u hu =>
    replace h := rested u hu
    split
    · exact memWf_trap _ _ h
    · have stored := memWf_storeAll _ t.cur ((u.ctxImage t.cur m).1.map (fun e => (p + e.1, e.2.1, e.2.2))) (memWf_ctxImage u
        t.cur m h)
      dsimp only
      split
      · next hs => exact memWf_block _ (memWf_of_eq_wait stored hs)
      · next hs => exact memWf_trap _ _ (memWf_of_eq_trap stored hs)
      · next v hs =>
        have emptied : Memory.wf (if m / 2 % 2 = 1 then v.emptyEngines t.cur else v : State).mem = true := by
          split
          · exact memWf_emptyEngines _ _ (memWf_of_eq_ok stored hs)
          · exact memWf_of_eq_ok stored hs
        have released := memWf_releaseNow _ t.cur 255 2 (memWf_updMe _ (fun x => { x with saved := x.saved ||| BitVec.ofNat 4 m
            }) emptied)
        exact resMemWf_ite (memWf_updMe _ _ released) (memWf_setG _ _ _ released)
theorem memWf_rebind (s : State) (c i w unsent : Nat) (h_s : Memory.wf s.mem = true) :
    AccMemWf (State.rebind s c i w unsent) := by
  simp only [State.rebind]
  split
  · exact h_s
  have fails (t : State) (b : Binding) (f : Option (BitVec 512)) (h : Memory.wf t.mem = true) :
      AccMemWf (.ok () ((t.updBind c i (fun _ => b)).streamFault c i 2 f)) := memWf_streamFault _ _ _ _ _ (memWf_updBind _ _ _
          _ h)
  split
  · next h => exact memWf_of_eq_wait (memWf_xlat s _ _ _ _ _ h_s) h
  · next h => exact fails _ _ _ (memWf_of_eq_trap (memWf_xlat s _ _ _ _ _ h_s) h)
  · next x t ht =>
    refine memWf_Acc_bind (memWf_flushLine _ _ _ (memWf_of_eq_ok (memWf_xlat s _ _ _ _ _ h_s) ht)) fun _ u hu => ?_
    have asked := memWf_sendRemote u .read x.pa 64 0 hu
    generalize u.sendRemote .read x.pa 64 0 = u at asked ⊢
    split
    · exact fails _ _ _ asked
    have back (f : Wisp → Wisp) := memWf_updWisp u (u.wispKey c) f asked
    refine accMemWf_ite (memWf_ite (memWf_postOnce _ _ (memWf_updBind _ _ _ _ (back _))) (memWf_updBind _ _ _ _ (back _))) ?_
    split
    · next h => exact memWf_of_eq_wait (memWf_readPeers _ _ _ _ _ (back _)) h
    · next h => exact fails _ _ _ (memWf_of_eq_trap (memWf_readPeers _ _ _ _ _ (back _)) h)
    · next h =>
      have read := memWf_of_eq_ok (memWf_readPeers _ _ _ _ _ (back _)) h
      split
      · next h => exact memWf_of_eq_wait (memWf_xlat _ _ _ _ _ _ read) h
      · next h => exact fails _ _ _ (memWf_of_eq_trap (memWf_xlat _ _ _ _ _ _ read) h)
      · next h =>
        have found := memWf_of_eq_ok (memWf_xlat _ _ _ _ _ _ read) h
        refine accMemWf_ite (memWf_updBind _ _ _ _ found) ?_
        exact memWf_updBind _ _ _ _ (memWf_attach _ _ _ _ _ (memWf_updBind _ _ _ _ found))
theorem memWf_rebindAll (s : State) (c binds unsent : Nat) (a0 : Nat) (h_s : Memory.wf s.mem = true) :
    AccMemWf (State.rebindAll s c binds unsent a0) := by
  induction a0 generalizing s with
  | zero => exact h_s
  | succ n ih => exact memWf_Acc_bind (ih s h_s) fun _ t h => memWf_rebind _ _ _ _ _ h
theorem memWf_loadEngines (s : State) (c graph run mqs cqs : Nat) (h_s : Memory.wf s.mem = true) :
    Memory.wf (State.loadEngines s c graph run mqs cqs).mem = true := by
  grind -ring -linarith -lia -order [State.loadEngines, memWf_updCore]
theorem memWf_ctxRead (s : State) (c a n : Nat) (want : Bool) (h_s : Memory.wf s.mem = true) :
    AccMemWf (State.ctxRead s c a n want) := by
  grind -ring -linarith -lia -order [State.ctxRead, AccMemWf, memWf_loadRun]
theorem memWf_ctxLoad (s : State) (c p m h : Nat) (h_s : Memory.wf s.mem = true) :
    AccMemWf (State.ctxLoad s c p m h) := by
  unfold State.ctxLoad
  extract_lets regs engs typd bnks
  refine memWf_Acc_bind (memWf_ctxRead s c _ _ _ h_s) fun _ _ h => ?_
  iterate 15 refine memWf_Acc_bind (memWf_ctxRead _ c _ _ _ h) fun _ _ h => ?_
  grind -ring -linarith -lia -order [memWf_updCore, memWf_Acc_bind, AccMemWf, memWf_loadEngines, memWf_rebindAll, memWf_kickM,
      memWf_kickC, memWf_pin,
      memWf_updCluster]
theorem memWf_execCtxld (d a b : BitVec 5) (s : State) (h_s : Memory.wf s.mem = true) :
    ResMemWf (execCtxld d a b s) := by
  grind -ring -linarith -lia -order [execCtxld, AccMemWf, ResMemWf, memWf_Acc_bind, memWf_block, memWf_acquire, memWf_trap,
      memWf_finishG, memWf_setG,
      memWf_ctxOp, memWf_ctxRead, memWf_ctxLoad]
theorem memWf_execEret (s : State) (h_s : Memory.wf s.mem = true) :
    ResMemWf (execEret s) := by
  grind -ring -linarith -lia -order [execEret, ResMemWf, memWf_eret, memWf_supOnly]
theorem memWf_resumePosted (s : State) (k : Nat) (h_s : Memory.wf s.mem = true) :
    Memory.wf (State.resumePosted s k).2.mem = true := by
  unfold State.resumePosted
  dsimp only
  split
  · exact memWf_updWisp _ _ _ h_s
  split
  · split
    · exact memWf_wakeSuspended _ _ h_s
    · exact h_s
  split
  · split
    · exact memWf_wakeWaiter _ _ h_s
    · exact h_s
  · exact h_s
theorem memWf_execIpost (d a : BitVec 5) (s : State) (h_s : Memory.wf s.mem = true) :
    ResMemWf (execIpost d a s) := by
  grind -ring -linarith -lia -order [execIpost, AccMemWf, ResMemWf, memWf_Acc_bind, memWf_xlat, memWf_trap, memWf_finishG,
      memWf_supOnly,
      memWf_resumePosted]
theorem memWf_wfiWake (s : State) (c : Nat) (h_s : Memory.wf s.mem = true) :
    Memory.wf (State.wfiWake s c).mem = true := by
  grind -ring -linarith -lia -order [State.wfiWake, memWf_updCore, memWf_wakeCore]
theorem memWf_execWfi (d a : BitVec 5) (s : State) (h_s : Memory.wf s.mem = true) :
    ResMemWf (execWfi d a s) := by
  grind -ring -linarith -lia -order [execWfi, ResMemWf, memWf_updMe, memWf_supOnly, memWf_setG]
theorem memWf_execHaltc (d a : BitVec 5) (s : State) (h_s : Memory.wf s.mem = true) :
    ResMemWf (execHaltc d a s) := by
  grind -ring -linarith -lia -order [execHaltc, ResMemWf, memWf_updCore, memWf_updWisp, memWf_leaveCaches, memWf_recordCore,
      memWf_takeSeat, memWf_killNow,
      memWf_trap, memWf_supOnly, memWf_setG]
theorem memWf_writeLaunchRecord (s : State) (l : Launch) (id status : Nat) (h_s : Memory.wf s.mem = true) :
    Memory.wf (State.writeLaunchRecord s l id status).mem = true := by
  grind -ring -linarith -lia -order [State.writeLaunchRecord, memWf_unitWrite]
theorem memWf_queueDone (s : State) (fn q : Nat) (h_s : Memory.wf s.mem = true) :
    Memory.wf (State.queueDone s fn q).mem = true := by
  grind -ring -linarith -lia -order [State.queueDone, memWf_updQueue, memWf_emit]
theorem memWf_acceptLaunch (s : State) (l : Launch) (h_s : Memory.wf s.mem = true) :
    Memory.wf (State.acceptLaunch s l).2.mem = true := by
  grind -ring -linarith -lia -order [State.acceptLaunch, memWf_post]
theorem memWf_rejectLaunch (s : State) (l : Launch) (code : Nat) (h_s : Memory.wf s.mem = true) :
    Memory.wf (State.rejectLaunch s l code).2.mem = true := by
  grind -ring -linarith -lia -order [State.rejectLaunch, memWf_writeLaunchRecord]
theorem memWf_execLaunch (d a : BitVec 5) (s : State) (h_s : Memory.wf s.mem = true) :
    ResMemWf (execLaunch d a s) := by
  grind -ring -linarith -lia -order [execLaunch, AccMemWf, ResMemWf, memWf_Acc_bind, memWf_xlat, memWf_trap, memWf_finishG,
      memWf_acceptLaunch,
      memWf_rejectLaunch]
theorem memWf_idleDeficits (s : State) (p : Nat) (h_s : Memory.wf s.mem = true) :
    Memory.wf (State.idleDeficits s p).mem = true := by
  grind -ring -linarith -lia -order [State.idleDeficits]
theorem memWf_credit (s : State) (p f : Nat) (h_s : Memory.wf s.mem = true) :
    Memory.wf (State.credit s p f).mem = true := by
  grind -ring -linarith -lia -order [State.credit, memWf_updVdev]
theorem memWf_passTurn (a0 : Nat) (a1 : State) (a2 : Nat) (a3 : Nat) (h_a1 : Memory.wf a1.mem = true) :
    Memory.wf (State.passTurn a0 a1 a2 a3).mem = true := by
  induction a0 generalizing a1 a3 with
  | zero => exact h_a1
  | succ n ih =>
    unfold State.passTurn
    split
    · exact h_a1
    · grind -ring -linarith -lia -order [memWf_credit]
theorem memWf_execLaunchSelection (part : Nat) (s : State) (h_s : Memory.wf s.mem = true) :
    ResMemWf (execLaunchSelection part s) := by
  unfold execLaunchSelection
  refine resMemWf_ite h_s ?_
  extract_lets s1 s2
  have h1 : Memory.wf s1.mem = true := memWf_idleDeficits _ _ h_s
  have h2 : Memory.wf s2.mem = true := memWf_ite (memWf_passTurn _ _ _ _ h1) h1
  clear_value s2
  split
  · exact h2
  · split
    · exact h2
    · have h3 (f q : Nat) (u : Queue → Queue) : Memory.wf (s2.updQueue f q u).mem = true := memWf_updQueue _ _ _ _ h2
      refine resMemWf_ite (memWf_acceptLaunch _ _ (h3 ..)) ?_
      split
      next w t h =>
        exact memWf_post _ _ (memWf_queueDone _ _ _ (memWf_updQueue _ _ _ _ (memWf_of_eq_snd h (memWf_rejectLaunch _ _ _ (h3
            ..)))))
theorem memWf_sendTo (s : State) (d n : Nat) (h_s : Memory.wf s.mem = true) :
    Memory.wf (State.sendTo s d n).mem = true := by
  grind -ring -linarith -lia -order [State.sendTo, memWf_updDie, memWf_report]
theorem memWf_execWispPlacement (launch : Nat) (s : State) (h_s : Memory.wf s.mem = true) :
    ResMemWf (execWispPlacement launch s) := by
  unfold execWispPlacement
  refine resMemWf_ite h_s ?_
  split
  · exact h_s
  · exact memWf_post _ _ (memWf_updLaunch _ _ _ (memWf_sendTo _ _ _ (memWf_foldl (fun t _ h => memWf_updWisp t _ _ h) _ h_s)))
theorem memWf_bornReady (s : State) (k : Nat) (h_s : Memory.wf s.mem = true) :
    Memory.wf (State.bornReady s k).mem = true := by
  grind -ring -linarith -lia -order [State.bornReady, memWf_updWisp, memWf_markReady, memWf_killParked]
theorem memWf_execWispRecordArrival (launch index die : Nat) (s : State) (h_s : Memory.wf s.mem = true) :
    ResMemWf (execWispRecordArrival launch index die s) := by
  have born (l : List Nat) (t : State) (h : Memory.wf t.mem = true) : Memory.wf (l.foldl (fun s k => s.bornReady k) t).mem =
      true :=
    memWf_foldl (fun t k h => memWf_bornReady t k h) l h
  unfold execWispRecordArrival
  extract_lets l n ks free v news next s1 s2 s3
  have hn (t : State) (h : Memory.wf t.mem = true) : Memory.wf (next t).mem = true :=
    memWf_ite (memWf_post _ _ h) (memWf_post _ _ h)
  have h1 : Memory.wf s1.mem = true := memWf_foldl (fun t k h => memWf_updWisp t k _ h) _ h_s
  have h2 : Memory.wf s2.mem = true := by
    refine memWf_foldl (fun t k h => ?_) _ h_s
    exact h
  refine resMemWf_ite h_s (resMemWf_ite (hn _ (born _ _ h1)) (resMemWf_ite (hn _ (born _ _ h2)) ?_))
  exact memWf_postOnce _ _ (memWf_updLaunch _ _ _ h_s)
theorem memWf_execExpansionResume (launch : Nat) (s : State) (h_s : Memory.wf s.mem = true) :
    ResMemWf (execExpansionResume launch s) := by
  grind -ring -linarith -lia -order [execExpansionResume, ResMemWf, memWf_updLaunch, memWf_post]
theorem memWf_execFreeResourceReport (die : Nat) (s : State) (h_s : Memory.wf s.mem = true) :
    ResMemWf (execFreeResourceReport die s) := by
  grind -ring -linarith -lia -order [execFreeResourceReport, ResMemWf, memWf_updDie, memWf_post]
theorem memWf_execReportArrival (die idle free : Nat) (occ : List (Nat × Nat)) (s : State) (h_s : Memory.wf s.mem = true) :
    ResMemWf (execReportArrival die idle free occ s) := by
  exact memWf_foldl (fun t e h => memWf_postOnce t _ h) _ (memWf_updDie s die _ h_s)
theorem memWf_drainTo (s : State) (ks : List Nat) (d : Nat) (h_s : Memory.wf s.mem = true) :
    Memory.wf (State.drainTo s ks d).mem = true := by
  unfold State.drainTo
  refine memWf_offer _ _ (memWf_foldl (fun t k h => ?_) _ (memWf_sendTo _ _ _ h_s))
  exact memWf_writeRecord _ _ (memWf_updWisp _ _ _ h)
theorem memWf_execOverflowDrain (vdev : Nat) (s : State) (h_s : Memory.wf s.mem = true) :
    ResMemWf (execOverflowDrain vdev s) := by
  unfold execOverflowDrain
  extract_lets done back
  have hd (t : State) (h : Memory.wf t.mem = true) : Memory.wf (done t).mem = true := by
    have hp {β : Type} (l : List β) (e : β → Event) (t : State) (h : Memory.wf t.mem = true) :
        Memory.wf (l.foldl (fun s x => s.postOnce (e x)) t).mem = true := memWf_foldl (fun t x h => memWf_postOnce t _ h) l h
    have h1 := hp (t.launches.filter (fun e => e.2.paused)) (fun e => .expansionResume e.1) t h
    exact memWf_ite (hp _ _ _ h1) (memWf_postOnce _ _ (hp _ _ _ h1))
  clear_value done back
  cases back with
  | some p => exact hd _ (memWf_drainTo _ _ _ h_s)
  | none =>
    split
    · exact hd _ (memWf_drainTo _ _ _ h_s)
    · split
      · exact h_s
      · split
        · exact h_s
        · exact resMemWf_ite (hd _ (memWf_drainTo _ _ _ h_s)) h_s
theorem memWf_execHeldWispDepart (core : Nat) (s : State) (h_s : Memory.wf s.mem = true) :
    ResMemWf (execHeldWispDepart core s) := by
  grind -ring -linarith -lia -order [execHeldWispDepart, ResMemWf, memWf_leaveHeld]
theorem memWf_cleanFor (s : State) (c f : Nat) (h_s : Memory.wf s.mem = true) :
    Memory.wf (State.cleanFor s c f).mem = true := by
  grind -ring -linarith -lia -order [State.cleanFor, memWf_updCore, memWf_updCluster]
theorem memWf_takeWisp (s : State) (c k : Nat) (h_s : Memory.wf s.mem = true) :
    Memory.wf (State.takeWisp s c k).mem = true := by
  grind -ring -linarith -lia -order [State.takeWisp, memWf_updCore, memWf_updWisp, memWf_acquireZ, memWf_acquire,
      memWf_codeAcquire, memWf_setAsn,
      memWf_cleanFor]
theorem memWf_startOn (s : State) (c k : Nat) (h_s : Memory.wf s.mem = true) :
    Memory.wf (State.startOn s c k).mem = true := by
  grind -ring -linarith -lia -order [State.startOn, memWf_takeWisp]
theorem memWf_reload (s : State) (c frame : Nat) (a0 : List Nat) (a1 : Nat) (h_s : Memory.wf s.mem = true) :
    AccMemWf (State.reload s c frame a0 a1) := by
  induction a0 generalizing s a1 with
  | nil => exact h_s
  | cons r l ih => exact memWf_Acc_bind (memWf_loadRun _ _ _ _ _ _ h_s) fun v t h => ih _ _ (memWf_updCore _ _ _ h)
theorem memWf_restore (s : State) (c frame : Nat) (vsaved : Bool) (h_s : Memory.wf s.mem = true) :
    AccMemWf (State.restore s c frame vsaved) := by
  grind -ring -linarith -lia -order [State.restore, AccMemWf, memWf_updCore, memWf_Acc_bind, memWf_loadRun, memWf_reload]
theorem memWf_resumeOn (s : State) (c k : Nat) (h_s : Memory.wf s.mem = true) :
    ∀ t ∈ (State.resumeOn s c k), Memory.wf t.mem = true := by
  grind -ring -linarith -lia -order [State.resumeOn, AccMemWf, memWf_updCore, memWf_acquire, memWf_takeTrap, memWf_trap,
      memWf_takeWisp, memWf_restore]
theorem memWf_pickedUp (s : State) (d f : Nat) (h_s : Memory.wf s.mem = true) :
    Memory.wf (State.pickedUp s d f).mem = true := by
  grind -ring -linarith -lia -order [State.pickedUp, memWf_freed]
theorem memWf_execWispPickup (core : Nat) (s : State) (h_s : Memory.wf s.mem = true) :
    ResMemWf (execWispPickup core s) := by
  grind -ring -linarith -lia -order [execWispPickup, ResMemWf, memWf_postOnce, memWf_startOn, memWf_pickedUp]
theorem memWf_execWispResume (core : Nat) (s : State) (h_s : Memory.wf s.mem = true) :
    ResMemWf (execWispResume core s) := by
  grind -ring -linarith -lia -order [execWispResume, ResMemWf, memWf_post, memWf_postOnce, memWf_resumeOn, memWf_pickedUp]
theorem memWf_execPriorityAging (launch index : Nat) (s : State) (h_s : Memory.wf s.mem = true) :
    ResMemWf (execPriorityAging launch index s) := by
  grind -ring -linarith -lia -order [execPriorityAging, ResMemWf, memWf_updWisp, memWf_offer]
theorem memWf_execClusterReservation (die : Nat) (s : State) (h_s : Memory.wf s.mem = true) :
    ResMemWf (execClusterReservation die s) := by
  grind -ring -linarith -lia -order [execClusterReservation, ResMemWf, memWf_updDie, memWf_postOnce]
theorem memWf_groupOn (s : State) (a0 : List (Nat × Nat)) (h_s : Memory.wf s.mem = true) :
    ∀ t ∈ (State.groupOn s a0), Memory.wf t.mem = true := by
  induction a0 generalizing s with
  | nil => exact fun t ht => Option.mem_some.mp ht ▸ h_s
  | cons e l ih =>
    intro t ht
    obtain ⟨u, hu, ht⟩ := Option.bind_eq_some_iff.mp ht
    refine ih _ ?_ t ht
    split at hu
    · exact memWf_resumeOn _ _ _ h_s u hu
    · exact Option.some.inj hu ▸ memWf_startOn _ _ _ h_s
theorem memWf_execGroupStart (cluster : Nat) (s : State) (h_s : Memory.wf s.mem = true) :
    ResMemWf (execGroupStart cluster s) := by
  grind -ring -linarith -lia -order [execGroupStart, ResMemWf, memWf_updDie, memWf_post, memWf_freed, memWf_groupOn]
theorem memWf_execQtailWrite (fn q : Nat) (v : BitVec 64) (s : State) (h_s : Memory.wf s.mem = true) :
    ResMemWf (execQtailWrite fn q v s) := by
  grind -ring -linarith -lia -order [execQtailWrite, ResMemWf, memWf_updQueue, memWf_postOnce]
theorem memWf_execQueueConfigWrite (fn q off : Nat) (v : BitVec 64) (s : State) (h_s : Memory.wf s.mem = true) :
    ResMemWf (execQueueConfigWrite fn q off v s) := by
  unfold execQueueConfigWrite
  extract_lets w
  split
  · exact memWf_updQueue _ _ _ _ h_s
  · split
    · exact memWf_postOnce _ _ (memWf_updQueue _ _ _ _ h_s)
    · exact memWf_updQueue _ _ _ _ h_s
  · exact memWf_updQueue _ _ _ _ h_s
  · exact memWf_updQueue _ _ _ _ h_s
  · exact h_s
theorem memWf_withdrawUnplaced (s : State) (l : Launch) (h_s : Memory.wf s.mem = true) :
    Memory.wf (State.withdrawUnplaced s l).mem = true := by
  have key (w : Nat → Word) (ks : List Nat) : Memory.wf (ks.foldl (fun s ix => s.withdraw (w ix)) s).mem = true :=
    memWf_foldl (fun t ix h => memWf_withdraw t _ h) _ h_s
  exact key _ _
theorem memWf_unharvest (s : State) (l : Launch) (h_s : Memory.wf s.mem = true) :
    Memory.wf (State.unharvest s l).mem = true := by
  grind -ring -linarith -lia -order [State.unharvest]
theorem memWf_discardLaunch (s : State) (id code : Nat) (h_s : Memory.wf s.mem = true) :
    Memory.wf (State.discardLaunch s id code).mem = true := by
  unfold State.discardLaunch
  extract_lets l s1 s2 s3 s4 r s5 s6
  have h1 : Memory.wf s1.mem = true := memWf_updLaunch _ _ _ (memWf_unharvest _ _ h_s)
  clear_value s1
  have h2 : Memory.wf s2.mem = true := memWf_foldl (fun t e h => memWf_killNow t _ _ h) _ h1
  clear_value s2
  have h3 : Memory.wf s3.mem = true := memWf_updLaunch _ _ _ (memWf_withdrawUnplaced _ _ h2)
  clear_value s3
  have h4 : Memory.wf s4.mem = true := memWf_joinFreePending _ _ h3
  clear_value s4
  have hr : Memory.wf r.mem = true := memWf_logAdd _ _ _ _ _ h4
  clear_value r
  have h5 : Memory.wf s5.mem = true := by
    unfold s5
    split
    · exact hr
    · exact h4
  clear_value s5
  have h6 : Memory.wf s6.mem = true := memWf_post _ _ h5
  clear_value s6
  exact memWf_ite (memWf_post _ _ h6) h6
theorem memWf_mboxDone (s : State) (fn result : Nat) (res : List (Nat × Nat × Nat)) (h_s : Memory.wf s.mem = true) :
    Memory.wf (State.mboxDone s fn result res).mem = true := by
  grind -ring -linarith -lia -order [State.mboxDone, memWf_updMbox, memWf_emit]
theorem memWf_zeroSpan (s : State) (pa n : Nat) (h_s : Memory.wf s.mem = true) :
    Memory.wf (State.zeroSpan s pa n).mem = true :=
  memWf_wakeWaiters _ _ _ (memWf_filter _ h_s)
theorem memWf_zeroPart (s : State) (p : Nat) (h_s : Memory.wf s.mem = true) :
    Memory.wf (State.zeroPart s p).mem = true :=
  memWf_filter _ h_s
theorem memWf_coldBootNow (s : State) (h_s : Memory.wf s.mem = true) :
    Memory.wf (State.coldBootNow s).mem = true :=
  memWf_foldl (fun t _ h => memWf_logAdd t _ _ _ _ h) _ (memWf_filter _ h_s)
theorem memWf_killLaunches (s : State) (ids : List Nat) (h_s : Memory.wf s.mem = true) :
    Memory.wf (State.killLaunches s ids).mem = true :=
  memWf_foldl (fun t _ h => memWf_discardLaunch t _ _ h) _ h_s
theorem memWf_stopQueue (s : State) (f q : Nat) (h_s : Memory.wf s.mem = true) :
    Memory.wf (State.stopQueue s f q).mem = true := by
  grind -ring -linarith -lia -order [State.stopQueue, memWf_updQueue]
theorem memWf_queueReset (s : State) (f q : Nat) (h_s : Memory.wf s.mem = true) :
    Memory.wf (State.queueReset s f q).mem = true := by
  grind -ring -linarith -lia -order [State.queueReset, memWf_killLaunches, memWf_stopQueue]
theorem memWf_setTdisp (s : State) (f : Nat) (t : Tdisp) (h_s : Memory.wf s.mem = true) :
    Memory.wf (State.setTdisp s f t).mem = true := by
  grind -ring -linarith -lia -order [State.setTdisp]
theorem memWf_tdispError (s : State) (f : Nat) (h_s : Memory.wf s.mem = true) :
    Memory.wf (State.tdispError s f).mem = true := by
  grind -ring -linarith -lia -order [State.tdispError, memWf_setTdisp]
theorem memWf_drainDevice (s : State) (f : Nat) (h_s : Memory.wf s.mem = true) :
    Memory.wf (State.drainDevice s f).mem = true := by
  grind -ring -linarith -lia -order [State.drainDevice]
theorem memWf_contextReset (s : State) (f : Nat) (h_s : Memory.wf s.mem = true) :
    Memory.wf (State.contextReset s f).mem = true := by
  unfold State.contextReset
  extract_lets v s1 s2 s3 s4
  have h1 : Memory.wf s1.mem = true := memWf_tdispError _ _ h_s
  have h2 : Memory.wf s2.mem = true := memWf_foldl (fun t _ h => memWf_stopQueue t _ _ h) _ h1
  have h3 : Memory.wf s3.mem = true := memWf_drainDevice _ _ (memWf_killLaunches _ _ h2)
  have h4 : Memory.wf s4.mem = true := memWf_ite (memWf_zeroSpan _ _ _ (memWf_zeroSpan _ _ _ h3)) h3
  exact memWf_foldl (fun t _ h => memWf_joinEvent t _ h) _ h4
theorem memWf_engineReset (s : State) (f : Nat) (h_s : Memory.wf s.mem = true) :
    Memory.wf (State.engineReset s f).mem = true :=
  memWf_foldl (fun t c h => memWf_updCluster _ _ _ (memWf_updCore _ _ _ (memWf_dropEngines t c h))) _
    (memWf_contextReset _ _ h_s)
theorem memWf_partitionReset (s : State) (p : Nat) (h_s : Memory.wf s.mem = true) :
    Memory.wf (State.partitionReset s p).mem = true := by
  unfold State.partitionReset
  extract_lets s1 s2
  have h1 : Memory.wf s1.mem = true := memWf_foldl (fun t _ h => memWf_engineReset t _ h) _ h_s
  have h2 : Memory.wf s2.mem = true := by
    refine memWf_foldl (fun t d h => ?_) _ h1
    refine memWf_updDie _ _ _ (memWf_foldl (fun t k h => memWf_updCluster t _ _ h) _ (memWf_foldl (fun t c h => ?_) _ h))
    exact memWf_updCore _ _ _ (memWf_vacate _ _ (memWf_ite (memWf_leaveHeld _ _ _ h) h))
  exact h2
theorem memWf_rungActs (s : State) (r : ResetReq) (h_s : Memory.wf s.mem = true) :
    Memory.wf (State.rungActs s r).mem = true := by
  grind -ring -linarith -lia -order [State.rungActs, memWf_coldBootNow, memWf_queueReset, memWf_contextReset,
      memWf_engineReset, memWf_partitionReset]
theorem memWf_destroyNow (s : State) (f : Nat) (h_s : Memory.wf s.mem = true) :
    Memory.wf (State.destroyNow s f).mem = true := by
  unfold State.destroyNow
  extract_lets v s1
  have h1 : Memory.wf s1.mem = true := by
    unfold s1
    split
    · exact memWf_foldl (fun t _ h => memWf_genBump t _ _ h) _ h_s
    · exact h_s
  exact h1
theorem memWf_freeMessage (s : State) (h_s : Memory.wf s.mem = true) :
    Memory.wf (State.freeMessage s).2.mem = true := by
  grind -ring -linarith -lia -order [State.freeMessage]
theorem memWf_finishReset (s : State) (r : ResetReq) (h_s : Memory.wf s.mem = true) :
    Memory.wf (State.finishReset s r).mem = true := by
  unfold State.finishReset
  extract_lets s1 s2 s3 s4
  have h2 : Memory.wf s2.mem = true := memWf_logAdd _ _ _ _ _ h_s
  have h3 : Memory.wf s3.mem = true := by
    refine memWf_ite (memWf_setTdisp _ _ _ ?_) h2
    split
    · exact memWf_zeroPart _ _ h2
    · exact h2
  have h4 : Memory.wf s4.mem = true := memWf_ite (memWf_destroyNow _ _ h3) h3
  refine memWf_foldl (fun t fn h => ?_) _ h4
  exact memWf_ite (memWf_mboxDone _ _ _ _ h) (memWf_ite (memWf_mboxDone _ _ _ _ (memWf_freeMessage _ h)) (memWf_mboxDone _ _ _
      _ h))
theorem memWf_checkResets (s : State) (h_s : Memory.wf s.mem = true) :
    Memory.wf (State.checkResets s).mem = true :=
  memWf_foldl (fun t r h => memWf_ite (memWf_finishReset t r h) h) _ h_s
theorem memWf_startReset (s : State) (r : ResetReq) (h_s : Memory.wf s.mem = true) :
    Memory.wf (State.startReset s r).mem = true := by
  grind -ring -linarith -lia -order [State.startReset, memWf_logAdd, memWf_coldBootNow, memWf_rungActs, memWf_checkResets]
theorem memWf_execResetEscalation (rung target queue : Nat) (s : State) (h_s : Memory.wf s.mem = true) :
    ResMemWf (execResetEscalation rung target queue s) := by
  grind -ring -linarith -lia -order [execResetEscalation, ResMemWf, memWf_rungActs, memWf_checkResets, memWf_startReset]
theorem memWf_execColdBoot (s : State) (h_s : Memory.wf s.mem = true) :
    ResMemWf (execColdBoot s) := by
  grind -ring -linarith -lia -order [execColdBoot, ResMemWf, memWf_coldBootNow]
theorem memWf_execPowerDown (s : State) (h_s : Memory.wf s.mem = true) :
    ResMemWf (execPowerDown s) := by
  grind -ring -linarith -lia -order [execPowerDown, ResMemWf]
theorem memWf_execFunctionLevelReset (fn : Nat) (s : State) (h_s : Memory.wf s.mem = true) :
    ResMemWf (execFunctionLevelReset fn s) := by
  unfold execFunctionLevelReset
  exact resMemWf_ite (memWf_ite (memWf_startReset _ _ h_s) h_s) (memWf_foldl (fun t p h => memWf_startReset t _ h) _ h_s)
theorem memWf_execOvertempShutdown (die : Nat) (s : State) (h_s : Memory.wf s.mem = true) :
    ResMemWf (execOvertempShutdown die s) := by
  grind -ring -linarith -lia -order [execOvertempShutdown, ResMemWf, memWf_logAdd, memWf_coldBootNow]
theorem memWf_wakeEngines (s : State) (c : Nat) (h_s : Memory.wf s.mem = true) :
    Memory.wf (State.wakeEngines s c).mem = true := by
  unfold State.wakeEngines
  extract_lets s1 s2
  have h1 : Memory.wf s1.mem = true := memWf_kickC _ _ (memWf_kickM _ _ h_s)
  have h2 : Memory.wf s2.mem = true := memWf_ite (memWf_postOnce _ _ (memWf_postOnce _ _ h1)) h1
  exact memWf_foldl (fun t i h => memWf_ite (memWf_postOnce t _ h) (memWf_askMove t _ _ h)) _ h2
theorem memWf_endHalt (s : State) (c : Nat) (killed evicted : Bool) (h_s : Memory.wf s.mem = true) :
    Memory.wf (State.endHalt s c killed evicted).mem = true := by
  grind -ring -linarith -lia -order [State.endHalt, memWf_updCore, memWf_wakeEngines]
theorem memWf_execDebugHaltRelease (core : Nat) (s : State) (h_s : Memory.wf s.mem = true) :
    ResMemWf (execDebugHaltRelease core s) := by
  grind -ring -linarith -lia -order [execDebugHaltRelease, ResMemWf, memWf_endHalt]
theorem memWf_signalKill (s : State) (k code : Nat) (h_s : Memory.wf s.mem = true) :
    Memory.wf (State.signalKill s k code).mem = true := by
  grind -ring -linarith -lia -order [State.signalKill, memWf_updCore, memWf_killLeave, memWf_killParked, memWf_wfiWake]
theorem memWf_execKillSignal (launch index : Nat) (s : State) (h_s : Memory.wf s.mem = true) :
    ResMemWf (execKillSignal launch index s) := by
  grind -ring -linarith -lia -order [execKillSignal, ResMemWf, memWf_signalKill]
theorem memWf_execKgraceExpiry (core : Nat) (s : State) (h_s : Memory.wf s.mem = true) :
    ResMemWf (execKgraceExpiry core s) := by
  grind -ring -linarith -lia -order [execKgraceExpiry, ResMemWf, memWf_killLeave, memWf_endHalt]
theorem memWf_setForce (s : State) (c : Nat) (h_s : Memory.wf s.mem = true) :
    Memory.wf (State.setForce s c).mem = true := by
  grind -ring -linarith -lia -order [State.setForce, memWf_updCore, memWf_wfiWake, memWf_endHalt]
theorem memWf_postPreempt (s : State) (c : Nat) (kind : PreemptKind) (deadline : Nat) (h_s : Memory.wf s.mem = true) :
    Memory.wf (State.postPreempt s c kind deadline).mem = true := by
  grind -ring -linarith -lia -order [State.postPreempt, memWf_updCore, memWf_wfiWake, memWf_setForce]
theorem memWf_execPreemptPosting (core : Nat) (kind : PreemptKind) (deadline : Nat) (s : State) (h_s : Memory.wf s.mem = true) :
    ResMemWf (execPreemptPosting core kind deadline s) := by
  unfold execPreemptPosting
  exact resMemWf_ite h_s (memWf_foldl (fun t c h => memWf_postPreempt t c _ _ h) _ h_s)
theorem memWf_execForceSet (core : Nat) (s : State) (h_s : Memory.wf s.mem = true) :
    ResMemWf (execForceSet core s) := by
  grind -ring -linarith -lia -order [execForceSet, ResMemWf, memWf_setForce]
theorem memWf_abandonWait (s : State) (c : Nat) (h_s : Memory.wf s.mem = true) :
    Memory.wf (State.abandonWait s c).mem = true := by
  grind -ring -linarith -lia -order [State.abandonWait, memWf_updWisp]
theorem memWf_execForcedPreemptionTrap (core : Nat) (s : State) (h_s : Memory.wf s.mem = true) :
    ResMemWf (execForcedPreemptionTrap core s) := by
  grind -ring -linarith -lia -order [execForcedPreemptionTrap, ResMemWf, memWf_preemptTrap, memWf_endHalt, memWf_abandonWait]
theorem memWf_execQuantumEnd (part : Nat) (s : State) (h_s : Memory.wf s.mem = true) :
    ResMemWf (execQuantumEnd part s) := by
  have offers (t : State) (l : List Nat) (h : Memory.wf t.mem = true) : Memory.wf (l.foldl (fun s d => s.offer d) t).mem = true
      :=
    memWf_foldl (fun t d h => memWf_offer t d h) l h
  unfold execQuantumEnd
  extract_lets s1
  have h1 : Memory.wf s1.mem = true := memWf_idleDeficits _ _ h_s
  clear_value s1
  split
  · exact offers _ _ (memWf_postOnce _ _ (memWf_passTurn _ _ _ _ h1))
  · refine resMemWf_ite h1 (resMemWf_ite ?_ (memWf_ite (memWf_credit _ _ _ h1) h1))
    refine offers _ _ (memWf_postOnce _ _ (memWf_passTurn _ _ _ _ (memWf_updVdev _ _ _ (memWf_foldl (fun t e h => ?_) _ h1))))
    exact memWf_postPreempt t _ _ _ h
theorem memWf_applyLayout (s : State) (l : List (Nat × Part)) (h_s : Memory.wf s.mem = true) :
    Memory.wf (State.applyLayout s l).mem = true := by
  unfold State.applyLayout
  refine memWf_foldl (fun t d h => memWf_ite ?_ ?_) _ (memWf_filter _ h_s)
  · exact memWf_foldl (fun t c h => memWf_updCore t c _ h) _ h
  · refine memWf_foldl (fun t c h => memWf_updCore t c _ h) _ (memWf_foldl (fun t k h => memWf_updCluster t k _ h) _ ?_)
    exact memWf_updDie _ _ _ h
theorem memWf_endDeadline (s : State) (d : Deadline) (h_s : Memory.wf s.mem = true) :
    Memory.wf (State.endDeadline s d).mem = true := by
  unfold State.endDeadline
  refine memWf_foldl (fun t e h => ?_) _ h_s
  exact memWf_ite (memWf_mboxDone t _ _ _ h) (memWf_mboxDone t _ _ _ h)
theorem memWf_checkVacancy (s : State) (h_s : Memory.wf s.mem = true) :
    Memory.wf (State.checkVacancy s).mem = true := by
  unfold State.checkVacancy
  extract_lets vacated held mine t
  have ht : Memory.wf t.mem = true := memWf_foldl (fun t d h => memWf_endDeadline t d h) _ h_s
  clear_value t
  split
  · exact ht
  · refine memWf_ite (memWf_mboxDone _ _ _ _ (memWf_applyLayout _ _ ?_)) ht
    exact memWf_foldl (fun t d h => memWf_endDeadline t d h) (s.deadlines.filter mine) ht
theorem memWf_execWispEndCount (launch index : Nat) (s : State) (h_s : Memory.wf s.mem = true) :
    ResMemWf (execWispEndCount launch index s) := by
  grind -ring -linarith -lia -order [execWispEndCount, ResMemWf, memWf_updWisp, memWf_updLaunch, memWf_post,
      memWf_writeCompletion, memWf_checkResets,
      memWf_checkVacancy]
theorem memWf_countChild (s : State) (id : Nat) (h_s : Memory.wf s.mem = true) :
    Memory.wf (State.countChild s id).mem = true := by
  grind -ring -linarith -lia -order [State.countChild, memWf_updLaunch]
theorem memWf_execLaunchCompletion (launch : Nat) (s : State) (h_s : Memory.wf s.mem = true) :
    ResMemWf (execLaunchCompletion launch s) := by
  grind -ring -linarith -lia -order [execLaunchCompletion, ResMemWf, memWf_post, memWf_writeLaunchRecord, memWf_queueDone,
      memWf_checkResets,
      memWf_checkVacancy, memWf_countChild]
theorem memWf_decideLaunch (s : State) (d : Deadline) (id : Nat) (t0 : Nat) (noRun : Bool) (h_s : Memory.wf s.mem = true) :
    Memory.wf (State.decideLaunch s d id t0 noRun).mem = true := by
  unfold State.decideLaunch
  extract_lets l f cores a first bytes bump s1 s2
  have hb (i : Nat) (x y : Bool) : Memory.wf (bump s i x y).mem = true := h_s
  have h1 : Memory.wf s1.mem = true := memWf_updLaunch _ _ _ (hb ..)
  have h2 : Memory.wf s2.mem = true := memWf_foldl (fun t d h => memWf_pruneResv t d h) _ h1
  refine memWf_ite (memWf_updLaunch _ _ _ (hb ..)) (memWf_ite ?_ (memWf_discardLaunch _ _ _ (hb ..)))
  exact memWf_foldl (fun t c h => memWf_postPreempt t c _ _ h) _ h2
theorem memWf_decideAll (s : State) (isPart : Bool) (target t0 : Nat) (which : Decision) (noRun : Bool) (h_s : Memory.wf s.mem
    = true) :
    Memory.wf (State.decideAll s isPart target t0 which noRun).mem = true := by
  unfold State.decideAll
  split
  · exact h_s
  · refine memWf_foldl (fun t id h => ?_) _ h_s
    split
    · exact memWf_decideLaunch _ _ _ _ _ h
    · exact h
theorem memWf_forceDeadline (s : State) (d : Deadline) (h_s : Memory.wf s.mem = true) :
    Memory.wf (State.forceDeadline s d).mem = true := by
  grind -ring -linarith -lia -order [State.forceDeadline, memWf_decideAll]
theorem memWf_startDeadline (s : State) (d : Deadline) (h_s : Memory.wf s.mem = true) :
    Memory.wf (State.startDeadline s d).mem = true := by
  grind -ring -linarith -lia -order [State.startDeadline, memWf_checkVacancy, memWf_forceDeadline]
theorem memWf_execDeadlineRecheck (isPart : Bool) (target : Nat) (s : State) (h_s : Memory.wf s.mem = true) :
    ResMemWf (execDeadlineRecheck isPart target s) := by
  unfold execDeadlineRecheck
  split
  · exact h_s
  · exact resMemWf_ite h_s (memWf_checkVacancy _ (memWf_decideAll _ _ _ _ _ _ h_s))
theorem memWf_loseCheckpoint (s : State) (id : Nat) (h_s : Memory.wf s.mem = true) :
    Memory.wf (State.loseCheckpoint s id).mem = true := by
  grind -ring -linarith -lia -order [State.loseCheckpoint, memWf_discardLaunch, memWf_checkVacancy]
theorem memWf_execCheckpointVacateTimeout (launch : Nat) (s : State) (h_s : Memory.wf s.mem = true) :
    ResMemWf (execCheckpointVacateTimeout launch s) := by
  grind -ring -linarith -lia -order [execCheckpointVacateTimeout, ResMemWf, memWf_loseCheckpoint]
theorem memWf_putImage (s : State) (id : Nat) (h_s : Memory.wf s.mem = true) :
    Memory.wf (State.putImage s id).mem = true := by
  unfold State.putImage
  extract_lets l v ws s1 s2
  have h2 : Memory.wf s2.mem = true := memWf_foldl (fun t d h => memWf_freed t d _ h) _ (s := s1) h_s
  exact memWf_checkVacancy _ (memWf_checkResets _ (memWf_post _ _ h2))
theorem memWf_execCheckpointEngineCopy (launch : Nat) (s : State) (h_s : Memory.wf s.mem = true) :
    ResMemWf (execCheckpointEngineCopy launch s) := by
  grind -ring -linarith -lia -order [execCheckpointEngineCopy, ResMemWf, memWf_updLaunch, memWf_admission,
      memWf_loseCheckpoint, memWf_putImage]
theorem memWf_execWfiTimeReached (core : Nat) (s : State) (h_s : Memory.wf s.mem = true) :
    ResMemWf (execWfiTimeReached core s) := by
  grind -ring -linarith -lia -order [execWfiTimeReached, ResMemWf, memWf_wfiWake]
theorem memWf_execResumeFromCarr (launch index : Nat) (s : State) (h_s : Memory.wf s.mem = true) :
    ResMemWf (execResumeFromCarr launch index s) := by
  grind -ring -linarith -lia -order [execResumeFromCarr, ResMemWf, memWf_resumePosted]
theorem memWf_onCommand (fn opc : Nat) {s : State} {k : Mbox → State} (h_s : Memory.wf s.mem = true)
    (hk : ∀ m, Memory.wf (k m).mem = true) : ResMemWf (onCommand fn opc s k) := by
  unfold onCommand
  exact resMemWf_ite (hk _) h_s
theorem memWf_answer (s : State) (fn code : Nat) (h_s : Memory.wf s.mem = true) :
    Memory.wf (State.answer s fn code).mem = true := by
  grind -ring -linarith -lia -order [State.answer, memWf_mboxDone]
theorem memWf_writeBytesN (a0 : Nat) (a1 : State) (a2 : Nat) (a3 : List Byte) (h_a1 : Memory.wf a1.mem = true) :
    Memory.wf (State.writeBytesN a0 a1 a2 a3).mem = true := by
  induction a0 generalizing a1 a2 a3 with
  | zero => exact h_a1
  | succ k ih =>
    unfold State.writeBytesN
    exact memWf_ite h_a1 (ih _ _ _ (memWf_homeWrite _ _ _ _ _ _ h_a1))
theorem memWf_writeBytes (s : State) (pa : Nat) (l : List Byte) (h_s : Memory.wf s.mem = true) :
    Memory.wf (State.writeBytes s pa l).mem = true := by
  grind -ring -linarith -lia -order [State.writeBytes, memWf_writeBytesN]
theorem memWf_execQueryEnum (fn : Nat) (s : State) (h_s : Memory.wf s.mem = true) :
    ResMemWf (execQueryEnum fn s) := by
  grind -ring -linarith -lia -order [execQueryEnum, ResMemWf, memWf_mboxDone, memWf_onCommand, memWf_answer, memWf_writeBytes]
theorem memWf_execCreateVdev (fn : Nat) (s : State) (h_s : Memory.wf s.mem = true) :
    ResMemWf (execCreateVdev fn s) := by
  grind -ring -linarith -lia -order [execCreateVdev, ResMemWf, memWf_updVdev, memWf_mboxDone, memWf_zeroSpan, memWf_onCommand,
      memWf_answer]
theorem memWf_execDestroyVdev (fn : Nat) (s : State) (h_s : Memory.wf s.mem = true) :
    ResMemWf (execDestroyVdev fn s) := by
  grind -ring -linarith -lia -order [execDestroyVdev, ResMemWf, memWf_destroyNow, memWf_startReset, memWf_onCommand,
      memWf_answer]
theorem memWf_touch (s : State) (f : Nat) (h_s : Memory.wf s.mem = true) :
    Memory.wf (State.touch s f).mem = true := by
  grind -ring -linarith -lia -order [State.touch, memWf_startReset]
theorem memWf_setShare (s : State) (f w : Nat) (h_s : Memory.wf s.mem = true) :
    Memory.wf (State.setShare s f w).mem = true := by
  grind -ring -linarith -lia -order [State.setShare, memWf_updVdev]
theorem memWf_execBind (fn : Nat) (s : State) (h_s : Memory.wf s.mem = true) :
    ResMemWf (execBind fn s) := by
  grind -ring -linarith -lia -order [execBind, ResMemWf, memWf_updVdev, memWf_post, memWf_onCommand, memWf_answer, memWf_touch,
      memWf_setShare]
theorem memWf_execSetWeight (fn : Nat) (s : State) (h_s : Memory.wf s.mem = true) :
    ResMemWf (execSetWeight fn s) := by
  grind -ring -linarith -lia -order [execSetWeight, ResMemWf, memWf_onCommand, memWf_answer, memWf_touch, memWf_setShare]
theorem memWf_execPostDeadline (fn : Nat) (s : State) (h_s : Memory.wf s.mem = true) :
    ResMemWf (execPostDeadline fn s) := by
  grind -ring -linarith -lia -order [execPostDeadline, ResMemWf, memWf_startDeadline, memWf_onCommand, memWf_answer]
theorem memWf_execCheckpoint (fn : Nat) (s : State) (h_s : Memory.wf s.mem = true) :
    ResMemWf (execCheckpoint fn s) := by
  grind -ring -linarith -lia -order [execCheckpoint, ResMemWf, memWf_startDeadline, memWf_onCommand, memWf_answer]
theorem memWf_execPartitionMode (fn : Nat) (s : State) (h_s : Memory.wf s.mem = true) :
    ResMemWf (execPartitionMode fn s) := by
  refine memWf_onCommand _ _ h_s fun m => ?_
  extract_lets n a t ds l ps fs s1 s2
  have h1 : Memory.wf s1.mem = true := memWf_foldl (fun t f h => memWf_touch t f h) _ h_s
  have h2 : Memory.wf s2.mem = true := memWf_foldl (fun u p h => memWf_forceDeadline _ _ h) _ h1
  refine memWf_ite (memWf_answer _ _ _ h_s) (memWf_ite (memWf_answer _ _ _ h_s) (memWf_ite (memWf_answer _ _ _ h_s)
    (memWf_ite (memWf_answer _ _ _ h_s) ?_)))
  exact memWf_checkVacancy _ h2
theorem memWf_execReset (fn : Nat) (s : State) (h_s : Memory.wf s.mem = true) :
    ResMemWf (execReset fn s) := by
  grind -ring -linarith -lia -order [execReset, ResMemWf, memWf_startReset, memWf_onCommand, memWf_answer]
theorem memWf_resumeWait (s : State) (k : Nat) (h_s : Memory.wf s.mem = true) :
    Memory.wf (State.resumeWait s k).mem = true := by
  grind -ring -linarith -lia -order [State.resumeWait, memWf_markReady, memWf_wakeParked, memWf_enqueue, memWf_wakeBarrier]
theorem memWf_restoreGroup (s : State) (l : Launch) (ws : List Wisp) (h_s : Memory.wf s.mem = true) :
    Memory.wf (State.restoreGroup s l ws).mem = true := by
  unfold State.restoreGroup
  extract_lets n ds need s1
  have h1 : Memory.wf s1.mem = true := by
    unfold s1
    split
    · exact memWf_foldl (fun t w h => memWf_updWisp t _ _ h) _ (memWf_sendTo _ _ _ h_s)
    · refine memWf_foldl (fun t w h => ?_) _ h_s
      exact h
  exact memWf_foldl (fun t w h => memWf_resumeWait _ _ (memWf_writeRecord t _ h)) _ h1
theorem memWf_restoreImage (s : State) (f : Nat) (i : Image) (h_s : Memory.wf s.mem = true) :
    Memory.wf (State.restoreImage s f i).mem = true := by
  unfold State.restoreImage
  extract_lets p r l s1 s2 s3 ended living s4 groupOf groups s5 s6
  have h1 : Memory.wf s1.mem = true := memWf_foldl (fun t g h => memWf_writeBytes t _ _ h) _ h_s
  have h3 : Memory.wf s3.mem = true := memWf_foldl (fun t a h => memWf_homePoison t _ _ h) _ h1
  have h4 : Memory.wf s4.mem = true := by
    refine memWf_foldl (fun t w h => ?_) _ h3
    have hw := memWf_updWisp t w.key (fun _ => w) h
    exact memWf_ite hw (memWf_post _ _ hw)
  have h5 : Memory.wf s5.mem = true := memWf_foldl (fun t g h => memWf_restoreGroup t _ _ h) _ h4
  have h6 : Memory.wf s6.mem = true := memWf_ite (memWf_post _ _ h5) h5
  exact memWf_ite (memWf_post _ _ h6) h6
theorem memWf_execRestore (fn : Nat) (s : State) (h_s : Memory.wf s.mem = true) :
    ResMemWf (execRestore fn s) := by
  refine memWf_onCommand _ _ h_s fun m => ?_
  extract_lets f v is room dies t
  have ha (c : Nat) := memWf_answer s fn c h_s
  have ht : Memory.wf t.mem = true := memWf_foldl (fun t i h => memWf_restoreImage t _ i h) _ h_s
  exact memWf_ite (ha _) (memWf_ite (ha _) (memWf_ite (ha _) (memWf_ite (ha _) (memWf_ite (ha _)
    (memWf_ite (ha _) (memWf_answer _ _ _ ht))))))
theorem memWf_execLogRead (fn : Nat) (s : State) (h_s : Memory.wf s.mem = true) :
    ResMemWf (execLogRead fn s) := by
  grind -ring -linarith -lia -order [execLogRead, ResMemWf, memWf_mboxDone, memWf_onCommand, memWf_answer, memWf_writeBytes]
theorem memWf_execResync (fn : Nat) (s : State) (h_s : Memory.wf s.mem = true) :
    ResMemWf (execResync fn s) := by
  grind -ring -linarith -lia -order [execResync, ResMemWf, memWf_onCommand, memWf_answer, memWf_writeBytes]
theorem memWf_trapAll (s : State) (cores : List Nat) (t : Nat → Trap) (h_s : Memory.wf s.mem = true) :
    Memory.wf (State.trapAll s cores t).mem = true :=
  memWf_foldl (fun u c h => memWf_takeTrap u c _ h) _ h_s
theorem memWf_collective (w : BitVec 32) {s : State} {go : List Nat → State → Res} (h_s : Memory.wf s.mem = true)
    (hgo : ∀ cs t, Memory.wf t.mem = true → ResMemWf (go cs t)) : ResMemWf (collective w s go) := by
  unfold collective
  split
  · exact hgo _ _ h_s
  · split
    · exact memWf_trap _ _ (memWf_updMe _ _ h_s)
    · extract_lets s1 cores word
      have h1 : Memory.wf s1.mem = true := memWf_updMe _ _ h_s
      exact resMemWf_ite (resMemWf_ite (hgo _ _ h1) (memWf_trapAll _ _ _ h1)) (memWf_stall _ h1)
theorem memWf_execGang (d : BitVec 5) (s : State) (h_s : Memory.wf s.mem = true) :
    ResMemWf (execGang d s) := by
  unfold execGang
  extract_lets c n w s1 cores word
  have h1 : Memory.wf s1.mem = true := memWf_updMe _ _ h_s
  refine resMemWf_ite (memWf_trap _ _ h_s) (resMemWf_ite (memWf_setG _ _ _ h_s) (resMemWf_ite (resMemWf_ite ?_ (memWf_trapAll _
      _ _ h1))
    (memWf_stall _ h1)))
  exact memWf_stepAll _ _ (memWf_foldl (fun t c h => memWf_updCore t c _ h) _ h1)
theorem memWf_execDisband (s : State) (h_s : Memory.wf s.mem = true) :
    ResMemWf (execDisband s) := by
  unfold execDisband
  refine resMemWf_ite (memWf_nextPc _ h_s) (memWf_collective _ h_s fun cs t h => ?_)
  exact memWf_stepAll _ _ (memWf_foldl (fun u c h => memWf_updCore u c _ h) _ h)
theorem memWf_execGangCollectivePairing (core : Nat) (s : State) (h_s : Memory.wf s.mem = true) :
    ResMemWf (execGangCollectivePairing core s) := by
  grind -ring -linarith -lia -order [execGangCollectivePairing, ResMemWf]
theorem memWf_spdmAnswer (s : State) (fn : Nat) (req : SpdmReq) (h_s : Memory.wf s.mem = true) :
    Memory.wf (State.spdmAnswer s fn req).2.mem = true := by
  grind -ring -linarith -lia -order [State.spdmAnswer, memWf_finish, memWf_freeMessage]
theorem memWf_execAttest (fn : Nat) (req : SpdmReq) (s : State) (h_s : Memory.wf s.mem = true) :
    ResMemWf (execAttest fn req s) := by
  grind -ring -linarith -lia -order [execAttest, ResMemWf, memWf_mboxDone, memWf_onCommand, memWf_spdmAnswer]
theorem memWf_spdmStep (fn : Nat) (req : SpdmReq) (s : State) (h_s : Memory.wf s.mem = true) :
    ResMemWf (spdmStep fn req s) := by
  grind -ring -linarith -lia -order [spdmStep, ResMemWf, memWf_emit, memWf_spdmAnswer]
theorem memWf_execGetVersion (fn : Nat) (s : State) (h_s : Memory.wf s.mem = true) :
    ResMemWf (execGetVersion fn s) := by
  grind -ring -linarith -lia -order [execGetVersion, ResMemWf, memWf_spdmStep]
theorem memWf_execGetCapabilities (fn : Nat) (s : State) (h_s : Memory.wf s.mem = true) :
    ResMemWf (execGetCapabilities fn s) := by
  grind -ring -linarith -lia -order [execGetCapabilities, ResMemWf, memWf_spdmStep]
theorem memWf_execNegotiateAlgorithms (fn : Nat) (s : State) (h_s : Memory.wf s.mem = true) :
    ResMemWf (execNegotiateAlgorithms fn s) := by
  grind -ring -linarith -lia -order [execNegotiateAlgorithms, ResMemWf, memWf_spdmStep]
theorem memWf_execGetDigests (fn : Nat) (s : State) (h_s : Memory.wf s.mem = true) :
    ResMemWf (execGetDigests fn s) := by
  grind -ring -linarith -lia -order [execGetDigests, ResMemWf, memWf_spdmStep]
theorem memWf_execGetCertificate (fn : Nat) (s : State) (h_s : Memory.wf s.mem = true) :
    ResMemWf (execGetCertificate fn s) := by
  grind -ring -linarith -lia -order [execGetCertificate, ResMemWf, memWf_spdmStep]
theorem memWf_execChallenge (fn : Nat) (s : State) (h_s : Memory.wf s.mem = true) :
    ResMemWf (execChallenge fn s) := by
  grind -ring -linarith -lia -order [execChallenge, ResMemWf, memWf_spdmStep]
theorem memWf_execGetMeasurements (fn : Nat) (s : State) (h_s : Memory.wf s.mem = true) :
    ResMemWf (execGetMeasurements fn s) := by
  grind -ring -linarith -lia -order [execGetMeasurements, ResMemWf, memWf_spdmStep]
theorem memWf_execKeyExchange (fn : Nat) (s : State) (h_s : Memory.wf s.mem = true) :
    ResMemWf (execKeyExchange fn s) := by
  grind -ring -linarith -lia -order [execKeyExchange, ResMemWf, memWf_spdmStep]
theorem memWf_execFinish (fn : Nat) (s : State) (h_s : Memory.wf s.mem = true) :
    ResMemWf (execFinish fn s) := by
  grind -ring -linarith -lia -order [execFinish, ResMemWf, memWf_finish, memWf_spdmStep]
theorem memWf_execIdeKm (fn port stream : Nat) (key : BitVec 256) (s : State) (h_s : Memory.wf s.mem = true) :
    ResMemWf (execIdeKm fn port stream key s) := by
  grind -ring -linarith -lia -order [execIdeKm, ResMemWf]
theorem memWf_execIdeIntegrityFailure (fn port stream : Nat) (s : State) (h_s : Memory.wf s.mem = true) :
    ResMemWf (execIdeIntegrityFailure fn port stream s) := by
  grind -ring -linarith -lia -order [execIdeIntegrityFailure, ResMemWf, memWf_logAdd, memWf_touch]
theorem memWf_lockIface (s : State) (f : Nat) (h_s : Memory.wf s.mem = true) :
    Memory.wf (State.lockIface s f).mem = true := by
  grind -ring -linarith -lia -order [State.lockIface, memWf_setTdisp]
theorem memWf_startIface (s : State) (f : Nat) (h_s : Memory.wf s.mem = true) :
    Memory.wf (State.startIface s f).mem = true := by
  grind -ring -linarith -lia -order [State.startIface, memWf_setTdisp]
theorem memWf_stopIface (s : State) (f : Nat) (fns : List Nat) (h_s : Memory.wf s.mem = true) :
    Memory.wf (State.stopIface s f fns).mem = true := by
  grind -ring -linarith -lia -order [State.stopIface, memWf_startReset]
theorem memWf_execLockInterfaceRequest (fn : Nat) (s : State) (h_s : Memory.wf s.mem = true) :
    ResMemWf (execLockInterfaceRequest fn s) := by
  grind -ring -linarith -lia -order [execLockInterfaceRequest, ResMemWf, memWf_lockIface]
theorem memWf_execStartInterfaceRequest (fn : Nat) (s : State) (h_s : Memory.wf s.mem = true) :
    ResMemWf (execStartInterfaceRequest fn s) := by
  grind -ring -linarith -lia -order [execStartInterfaceRequest, ResMemWf, memWf_startIface]
theorem memWf_execStopInterfaceRequest (fn : Nat) (s : State) (h_s : Memory.wf s.mem = true) :
    ResMemWf (execStopInterfaceRequest fn s) := by
  grind -ring -linarith -lia -order [execStopInterfaceRequest, ResMemWf, memWf_stopIface]
theorem memWf_execTdispOp (fn : Nat) (req : TdispReq) (s : State) (h_s : Memory.wf s.mem = true) :
    ResMemWf (execTdispOp fn req s) := by
  grind -ring -linarith -lia -order [execTdispOp, ResMemWf, memWf_mboxDone, memWf_freeMessage, memWf_onCommand,
      memWf_lockIface, memWf_startIface,
      memWf_stopIface]
theorem memWf_execAddi (d a : BitVec 5) (imm : BitVec 16) (s : State) (h_s : Memory.wf s.mem = true) :
    ResMemWf (execAddi d a imm s) := by
  grind -ring -linarith -lia -order [execAddi, ResMemWf, memWf_setG]
theorem memWf_execAndi (d a : BitVec 5) (imm : BitVec 16) (s : State) (h_s : Memory.wf s.mem = true) :
    ResMemWf (execAndi d a imm s) := by
  grind -ring -linarith -lia -order [execAndi, ResMemWf, memWf_setG]
theorem memWf_execOri (d a : BitVec 5) (imm : BitVec 16) (s : State) (h_s : Memory.wf s.mem = true) :
    ResMemWf (execOri d a imm s) := by
  grind -ring -linarith -lia -order [execOri, ResMemWf, memWf_setG]
theorem memWf_execXori (d a : BitVec 5) (imm : BitVec 16) (s : State) (h_s : Memory.wf s.mem = true) :
    ResMemWf (execXori d a imm s) := by
  grind -ring -linarith -lia -order [execXori, ResMemWf, memWf_setG]
theorem memWf_execSlti (d a : BitVec 5) (imm : BitVec 16) (s : State) (h_s : Memory.wf s.mem = true) :
    ResMemWf (execSlti d a imm s) := by
  grind -ring -linarith -lia -order [execSlti, ResMemWf, memWf_setG]
theorem memWf_execSltiu (d a : BitVec 5) (imm : BitVec 16) (s : State) (h_s : Memory.wf s.mem = true) :
    ResMemWf (execSltiu d a imm s) := by
  grind -ring -linarith -lia -order [execSltiu, ResMemWf, memWf_setG]
theorem memWf_execSlli (d a : BitVec 5) (amt : BitVec 6) (s : State) (h_s : Memory.wf s.mem = true) :
    ResMemWf (execSlli d a amt s) := by
  grind -ring -linarith -lia -order [execSlli, ResMemWf, memWf_setG]
theorem memWf_execSrli (d a : BitVec 5) (amt : BitVec 6) (s : State) (h_s : Memory.wf s.mem = true) :
    ResMemWf (execSrli d a amt s) := by
  grind -ring -linarith -lia -order [execSrli, ResMemWf, memWf_setG]
theorem memWf_execSrai (d a : BitVec 5) (amt : BitVec 6) (s : State) (h_s : Memory.wf s.mem = true) :
    ResMemWf (execSrai d a amt s) := by
  grind -ring -linarith -lia -order [execSrai, ResMemWf, memWf_setG]
theorem memWf_execRori (d a : BitVec 5) (amt : BitVec 6) (s : State) (h_s : Memory.wf s.mem = true) :
    ResMemWf (execRori d a amt s) := by
  grind -ring -linarith -lia -order [execRori, ResMemWf, memWf_setG]
theorem memWf_execMovz (d : BitVec 5) (hw : BitVec 2) (v : BitVec 16) (s : State) (h_s : Memory.wf s.mem = true) :
    ResMemWf (execMovz d hw v s) := by
  grind -ring -linarith -lia -order [execMovz, ResMemWf, memWf_setG]
theorem memWf_execMovk (d : BitVec 5) (hw : BitVec 2) (v : BitVec 16) (s : State) (h_s : Memory.wf s.mem = true) :
    ResMemWf (execMovk d hw v s) := by
  grind -ring -linarith -lia -order [execMovk, ResMemWf, memWf_setG]
theorem memWf_execLapc (d : BitVec 5) (imm : BitVec 21) (s : State) (h_s : Memory.wf s.mem = true) :
    ResMemWf (execLapc d imm s) := by
  grind -ring -linarith -lia -order [execLapc, ResMemWf, memWf_setG]
theorem memWf_execAdd (d a b : BitVec 5) (s : State) (h_s : Memory.wf s.mem = true) :
    ResMemWf (execAdd d a b s) := by
  grind -ring -linarith -lia -order [execAdd, ResMemWf, memWf_setG]
theorem memWf_execSub (d a b : BitVec 5) (s : State) (h_s : Memory.wf s.mem = true) :
    ResMemWf (execSub d a b s) := by
  grind -ring -linarith -lia -order [execSub, ResMemWf, memWf_setG]
theorem memWf_execAnd (d a b : BitVec 5) (s : State) (h_s : Memory.wf s.mem = true) :
    ResMemWf (execAnd d a b s) := by
  grind -ring -linarith -lia -order [execAnd, ResMemWf, memWf_setG]
theorem memWf_execOr (d a b : BitVec 5) (s : State) (h_s : Memory.wf s.mem = true) :
    ResMemWf (execOr d a b s) := by
  grind -ring -linarith -lia -order [execOr, ResMemWf, memWf_setG]
theorem memWf_execXor (d a b : BitVec 5) (s : State) (h_s : Memory.wf s.mem = true) :
    ResMemWf (execXor d a b s) := by
  grind -ring -linarith -lia -order [execXor, ResMemWf, memWf_setG]
theorem memWf_execAndn (d a b : BitVec 5) (s : State) (h_s : Memory.wf s.mem = true) :
    ResMemWf (execAndn d a b s) := by
  grind -ring -linarith -lia -order [execAndn, ResMemWf, memWf_setG]
theorem memWf_execOrn (d a b : BitVec 5) (s : State) (h_s : Memory.wf s.mem = true) :
    ResMemWf (execOrn d a b s) := by
  grind -ring -linarith -lia -order [execOrn, ResMemWf, memWf_setG]
theorem memWf_execSll (d a b : BitVec 5) (s : State) (h_s : Memory.wf s.mem = true) :
    ResMemWf (execSll d a b s) := by
  grind -ring -linarith -lia -order [execSll, ResMemWf, memWf_setG]
theorem memWf_execSrl (d a b : BitVec 5) (s : State) (h_s : Memory.wf s.mem = true) :
    ResMemWf (execSrl d a b s) := by
  grind -ring -linarith -lia -order [execSrl, ResMemWf, memWf_setG]
theorem memWf_execSra (d a b : BitVec 5) (s : State) (h_s : Memory.wf s.mem = true) :
    ResMemWf (execSra d a b s) := by
  grind -ring -linarith -lia -order [execSra, ResMemWf, memWf_setG]
theorem memWf_execRol (d a b : BitVec 5) (s : State) (h_s : Memory.wf s.mem = true) :
    ResMemWf (execRol d a b s) := by
  grind -ring -linarith -lia -order [execRol, ResMemWf, memWf_setG]
theorem memWf_execRor (d a b : BitVec 5) (s : State) (h_s : Memory.wf s.mem = true) :
    ResMemWf (execRor d a b s) := by
  grind -ring -linarith -lia -order [execRor, ResMemWf, memWf_setG]
theorem memWf_execSlt (d a b : BitVec 5) (s : State) (h_s : Memory.wf s.mem = true) :
    ResMemWf (execSlt d a b s) := by
  grind -ring -linarith -lia -order [execSlt, ResMemWf, memWf_setG]
theorem memWf_execSltu (d a b : BitVec 5) (s : State) (h_s : Memory.wf s.mem = true) :
    ResMemWf (execSltu d a b s) := by
  grind -ring -linarith -lia -order [execSltu, ResMemWf, memWf_setG]
theorem memWf_execMin (d a b : BitVec 5) (s : State) (h_s : Memory.wf s.mem = true) :
    ResMemWf (execMin d a b s) := by
  grind -ring -linarith -lia -order [execMin, ResMemWf, memWf_setG]
theorem memWf_execMax (d a b : BitVec 5) (s : State) (h_s : Memory.wf s.mem = true) :
    ResMemWf (execMax d a b s) := by
  grind -ring -linarith -lia -order [execMax, ResMemWf, memWf_setG]
theorem memWf_execMinu (d a b : BitVec 5) (s : State) (h_s : Memory.wf s.mem = true) :
    ResMemWf (execMinu d a b s) := by
  grind -ring -linarith -lia -order [execMinu, ResMemWf, memWf_setG]
theorem memWf_execMaxu (d a b : BitVec 5) (s : State) (h_s : Memory.wf s.mem = true) :
    ResMemWf (execMaxu d a b s) := by
  grind -ring -linarith -lia -order [execMaxu, ResMemWf, memWf_setG]
theorem memWf_execAddw (d a b : BitVec 5) (s : State) (h_s : Memory.wf s.mem = true) :
    ResMemWf (execAddw d a b s) := by
  grind -ring -linarith -lia -order [execAddw, ResMemWf, memWf_setG]
theorem memWf_execSubw (d a b : BitVec 5) (s : State) (h_s : Memory.wf s.mem = true) :
    ResMemWf (execSubw d a b s) := by
  grind -ring -linarith -lia -order [execSubw, ResMemWf, memWf_setG]
theorem memWf_execClz (d a : BitVec 5) (s : State) (h_s : Memory.wf s.mem = true) :
    ResMemWf (execClz d a s) := by
  grind -ring -linarith -lia -order [execClz, ResMemWf, memWf_setG]
theorem memWf_execCtz (d a : BitVec 5) (s : State) (h_s : Memory.wf s.mem = true) :
    ResMemWf (execCtz d a s) := by
  grind -ring -linarith -lia -order [execCtz, ResMemWf, memWf_setG]
theorem memWf_execPopc (d a : BitVec 5) (s : State) (h_s : Memory.wf s.mem = true) :
    ResMemWf (execPopc d a s) := by
  grind -ring -linarith -lia -order [execPopc, ResMemWf, memWf_setG]
theorem memWf_execBrev (d a : BitVec 5) (s : State) (h_s : Memory.wf s.mem = true) :
    ResMemWf (execBrev d a s) := by
  grind -ring -linarith -lia -order [execBrev, ResMemWf, memWf_setG]
theorem memWf_execBswap (d a : BitVec 5) (s : State) (h_s : Memory.wf s.mem = true) :
    ResMemWf (execBswap d a s) := by
  grind -ring -linarith -lia -order [execBswap, ResMemWf, memWf_setG]
theorem memWf_execSext (d a x : BitVec 5) (s : State) (h_s : Memory.wf s.mem = true) :
    ResMemWf (execSext d a x s) := by
  grind -ring -linarith -lia -order [execSext, ResMemWf, memWf_setG]
theorem memWf_execZext (d a x : BitVec 5) (s : State) (h_s : Memory.wf s.mem = true) :
    ResMemWf (execZext d a x s) := by
  grind -ring -linarith -lia -order [execZext, ResMemWf, memWf_setG]
theorem memWf_execBfxv (d a b : BitVec 5) (s : State) (h_s : Memory.wf s.mem = true) :
    ResMemWf (execBfxv d a b s) := by
  grind -ring -linarith -lia -order [execBfxv, ResMemWf, memWf_setG]
theorem memWf_execBfxzv (d a b : BitVec 5) (s : State) (h_s : Memory.wf s.mem = true) :
    ResMemWf (execBfxzv d a b s) := by
  grind -ring -linarith -lia -order [execBfxzv, ResMemWf, memWf_setG]
theorem memWf_execBfiv (d a b : BitVec 5) (s : State) (h_s : Memory.wf s.mem = true) :
    ResMemWf (execBfiv d a b s) := by
  grind -ring -linarith -lia -order [execBfiv, ResMemWf, memWf_setG]
theorem memWf_execSelnz (d a b : BitVec 5) (s : State) (h_s : Memory.wf s.mem = true) :
    ResMemWf (execSelnz d a b s) := by
  grind -ring -linarith -lia -order [execSelnz, ResMemWf, memWf_setG]
theorem memWf_execSelz (d a b : BitVec 5) (s : State) (h_s : Memory.wf s.mem = true) :
    ResMemWf (execSelz d a b s) := by
  grind -ring -linarith -lia -order [execSelz, ResMemWf, memWf_setG]
theorem memWf_homeWords (s : State) (c : Nat) (a0 : Nat) (a1 : Nat) (h_s : Memory.wf s.mem = true) :
    AccMemWf (State.homeWords s c a0 a1) := by
  induction a1 generalizing s a0 with
  | zero => exact h_s
  | succ n ih =>
    refine memWf_Acc_bind (memWf_xlat _ _ _ _ _ _ h_s) fun p t h => ?_
    have hr := memWf_engineRead t c p 4 2 h
    generalize t.engineRead c p 4 2 = r at hr
    exact accMemWf_ite hr (memWf_Acc_bind (ih _ _ hr) fun _ _ h => h)
theorem memWf_execJinit (d a : BitVec 5) (s : State) (h_s : Memory.wf s.mem = true) :
    ResMemWf (execJinit d a s) := by
  grind -ring -linarith -lia -order [execJinit, AccMemWf, ResMemWf, memWf_wg, memWf_Acc_bind, memWf_settle, memWf_release,
      memWf_xlat, memWf_joinEvent,
      memWf_trap, memWf_finish, memWf_homeWords]
theorem memWf_arriveEnd (d : BitVec 5) (v : Word) (s : State) (h_s : Memory.wf s.mem = true) :
    ResMemWf (arriveEnd d v s) := by
  grind -ring -linarith -lia -order [arriveEnd, ResMemWf, memWf_updMe, memWf_setG]
theorem memWf_contribution (s : State) (c : Nat) (a : Word) (alen : Nat) (h_s : Memory.wf s.mem = true) :
    AccMemWf (State.contribution s c a alen) := by
  grind -ring -linarith -lia -order [State.contribution, AccMemWf, memWf_Acc_bind, memWf_xlat, memWf_trap]
theorem memWf_execJarrive (d a : BitVec 5) (s : State) (h_s : Memory.wf s.mem = true) :
    ResMemWf (execJarrive d a s) := by
  unfold execJarrive
  extract_lets c ctx id ix
  refine resMemWf_ite (memWf_trap _ _ h_s) ?_
  split
  · exact memWf_setG _ _ _ h_s
  · next j _ =>
    split
    · next h => exact memWf_trap _ _ (memWf_of_eq_trap (memWf_contribution _ _ _ _ h_s) h)
    · next h => exact memWf_block _ (memWf_of_eq_wait (memWf_contribution _ _ _ _ h_s) h)
    · next h => exact memWf_setG _ _ _ (memWf_of_eq_ok (memWf_contribution _ _ _ _ h_s) h)
    · next t h =>
      have ht := memWf_of_eq_ok (memWf_contribution _ _ _ _ h_s) h
      split
      · next h => exact memWf_trap _ _ (memWf_of_eq_trap (memWf_release _ _ _ _ ht) h)
      · next h => exact memWf_block _ (memWf_of_eq_wait (memWf_release _ _ _ _ ht) h)
      · next u h =>
        have hu := memWf_of_eq_ok (memWf_release _ _ _ _ ht) h
        refine resMemWf_ite (memWf_setG _ _ _ (memWf_ite (memWf_joinEvent _ _ hu) hu)) ?_
        split
        · next h => exact memWf_trap _ _ (memWf_of_eq_trap (memWf_homeWords _ _ _ _ hu) h)
        · next h => exact memWf_block _ (memWf_of_eq_wait (memWf_homeWords _ _ _ _ hu) h)
        · next h => exact memWf_arriveEnd _ _ _ (memWf_joinEvent _ _ (memWf_of_eq_ok (memWf_homeWords _ _ _ _ hu) h))
theorem memWf_execJleave (d : BitVec 5) (s : State) (h_s : Memory.wf s.mem = true) :
    ResMemWf (execJleave d s) := by
  grind -ring -linarith -lia -order [execJleave, ResMemWf, memWf_joinEvent, memWf_leave, memWf_trap, memWf_setG]
theorem memWf_execJwait (d a : BitVec 5) (s : State) (h_s : Memory.wf s.mem = true) :
    ResMemWf (execJwait d a s) := by
  grind -ring -linarith -lia -order [execJwait, AccMemWf, ResMemWf, memWf_Acc_bind, memWf_acquire, memWf_wakeJoin, memWf_trap,
      memWf_finishAt,
      memWf_killPoint, memWf_suspendAt, memWf_setG]
theorem memWf_execJkpt (s : State) (h_s : Memory.wf s.mem = true) :
    ResMemWf (execJkpt s) := by
  grind -ring -linarith -lia -order [execJkpt, ResMemWf, memWf_nextPc, memWf_killPoint]
theorem memWf_execJstat (d a b : BitVec 5) (s : State) (h_s : Memory.wf s.mem = true) :
    ResMemWf (execJstat d a b s) := by
  grind -ring -linarith -lia -order [execJstat, ResMemWf, memWf_updJoin, memWf_freeJoin, memWf_trap, memWf_setG]
theorem memWf_execJoinDeadline (site slot : Nat) (s : State) (h_s : Memory.wf s.mem = true) :
    ResMemWf (execJoinDeadline site slot s) := by
  grind -ring -linarith -lia -order [execJoinDeadline, ResMemWf, memWf_settle, memWf_joinEvent]
theorem memWf_execLb (t base : BitVec 5) (off : BitVec 16) (s : State) (h_s : Memory.wf s.mem = true) :
    ResMemWf (execLb t base off s) := by
  grind -ring -linarith -lia -order [execLb, ResMemWf, memWf_loadG]
theorem memWf_execLbz (t base : BitVec 5) (off : BitVec 16) (s : State) (h_s : Memory.wf s.mem = true) :
    ResMemWf (execLbz t base off s) := by
  grind -ring -linarith -lia -order [execLbz, ResMemWf, memWf_loadG]
theorem memWf_execLh (t base : BitVec 5) (off : BitVec 16) (s : State) (h_s : Memory.wf s.mem = true) :
    ResMemWf (execLh t base off s) := by
  grind -ring -linarith -lia -order [execLh, ResMemWf, memWf_loadG]
theorem memWf_execLhz (t base : BitVec 5) (off : BitVec 16) (s : State) (h_s : Memory.wf s.mem = true) :
    ResMemWf (execLhz t base off s) := by
  grind -ring -linarith -lia -order [execLhz, ResMemWf, memWf_loadG]
theorem memWf_execLw (t base : BitVec 5) (off : BitVec 16) (s : State) (h_s : Memory.wf s.mem = true) :
    ResMemWf (execLw t base off s) := by
  grind -ring -linarith -lia -order [execLw, ResMemWf, memWf_loadG]
theorem memWf_execLwz (t base : BitVec 5) (off : BitVec 16) (s : State) (h_s : Memory.wf s.mem = true) :
    ResMemWf (execLwz t base off s) := by
  grind -ring -linarith -lia -order [execLwz, ResMemWf, memWf_loadG]
theorem memWf_execLd (t base : BitVec 5) (off : BitVec 16) (s : State) (h_s : Memory.wf s.mem = true) :
    ResMemWf (execLd t base off s) := by
  grind -ring -linarith -lia -order [execLd, ResMemWf, memWf_loadG]
theorem memWf_execSb (t base : BitVec 5) (off : BitVec 16) (s : State) (h_s : Memory.wf s.mem = true) :
    ResMemWf (execSb t base off s) := by
  grind -ring -linarith -lia -order [execSb, ResMemWf, memWf_storeG]
theorem memWf_execSh (t base : BitVec 5) (off : BitVec 16) (s : State) (h_s : Memory.wf s.mem = true) :
    ResMemWf (execSh t base off s) := by
  grind -ring -linarith -lia -order [execSh, ResMemWf, memWf_storeG]
theorem memWf_execSw (t base : BitVec 5) (off : BitVec 16) (s : State) (h_s : Memory.wf s.mem = true) :
    ResMemWf (execSw t base off s) := by
  grind -ring -linarith -lia -order [execSw, ResMemWf, memWf_storeG]
theorem memWf_execSd (t base : BitVec 5) (off : BitVec 16) (s : State) (h_s : Memory.wf s.mem = true) :
    ResMemWf (execSd t base off s) := by
  grind -ring -linarith -lia -order [execSd, ResMemWf, memWf_storeG]
theorem memWf_execMul (d a b : BitVec 5) (s : State) (h_s : Memory.wf s.mem = true) :
    ResMemWf (execMul d a b s) := by
  grind -ring -linarith -lia -order [execMul, ResMemWf, memWf_setG]
theorem memWf_execMulh (d a b : BitVec 5) (s : State) (h_s : Memory.wf s.mem = true) :
    ResMemWf (execMulh d a b s) := by
  grind -ring -linarith -lia -order [execMulh, ResMemWf, memWf_setG]
theorem memWf_execMulhu (d a b : BitVec 5) (s : State) (h_s : Memory.wf s.mem = true) :
    ResMemWf (execMulhu d a b s) := by
  grind -ring -linarith -lia -order [execMulhu, ResMemWf, memWf_setG]
theorem memWf_execMulhsu (d a b : BitVec 5) (s : State) (h_s : Memory.wf s.mem = true) :
    ResMemWf (execMulhsu d a b s) := by
  grind -ring -linarith -lia -order [execMulhsu, ResMemWf, memWf_setG]
theorem memWf_execMulw (d a b : BitVec 5) (s : State) (h_s : Memory.wf s.mem = true) :
    ResMemWf (execMulw d a b s) := by
  grind -ring -linarith -lia -order [execMulw, ResMemWf, memWf_setG]
theorem memWf_execDiv (d a b : BitVec 5) (s : State) (h_s : Memory.wf s.mem = true) :
    ResMemWf (execDiv d a b s) := by
  grind -ring -linarith -lia -order [execDiv, ResMemWf, memWf_setG]
theorem memWf_execDivu (d a b : BitVec 5) (s : State) (h_s : Memory.wf s.mem = true) :
    ResMemWf (execDivu d a b s) := by
  grind -ring -linarith -lia -order [execDivu, ResMemWf, memWf_setG]
theorem memWf_execRem (d a b : BitVec 5) (s : State) (h_s : Memory.wf s.mem = true) :
    ResMemWf (execRem d a b s) := by
  grind -ring -linarith -lia -order [execRem, ResMemWf, memWf_setG]
theorem memWf_execRemu (d a b : BitVec 5) (s : State) (h_s : Memory.wf s.mem = true) :
    ResMemWf (execRemu d a b s) := by
  grind -ring -linarith -lia -order [execRemu, ResMemWf, memWf_setG]
theorem memWf_execDivw (d a b : BitVec 5) (s : State) (h_s : Memory.wf s.mem = true) :
    ResMemWf (execDivw d a b s) := by
  grind -ring -linarith -lia -order [execDivw, ResMemWf, memWf_setG]
theorem memWf_windowWrite (s : State) (c off : Nat) (v : Word) (h_s : Memory.wf s.mem = true) :
    Memory.wf (State.windowWrite s c off v).mem = true := by
  grind -ring -linarith -lia -order [State.windowWrite, memWf_updCore, memWf_post]
theorem memWf_queueCommand (s : State) (fn : Nat) (e : Event) (h_s : Memory.wf s.mem = true) :
    Memory.wf (State.queueCommand s fn e).mem = true := by
  grind -ring -linarith -lia -order [State.queueCommand]
theorem memWf_startCommand (s : State) (fn v : Nat) (h_s : Memory.wf s.mem = true) :
    Memory.wf (State.startCommand s fn v).mem = true := by
  grind -ring -linarith -lia -order [State.startCommand, memWf_updMbox, memWf_answer, memWf_queueCommand]
theorem memWf_execRegisterWrite (fn bar off : Nat) (v : BitVec 64) (s : State) (h_s : Memory.wf s.mem = true) :
    ResMemWf (execRegisterWrite fn bar off v s) := by
  grind -ring -linarith -lia -order [execRegisterWrite, ResMemWf, memWf_updMbox, memWf_post, memWf_windowWrite,
      memWf_startCommand]
theorem memWf_execFirmwareImageWrite (off : Nat) (v : BitVec 64) (s : State) (h_s : Memory.wf s.mem = true) :
    ResMemWf (execFirmwareImageWrite off v s) := by
  grind -ring -linarith -lia -order [execFirmwareImageWrite, ResMemWf]
theorem memWf_hostPut (a0 : Nat) (a1 : State) (a2 : Nat) (a3 : Nat) (a4 : List Byte) (h_a1 : Memory.wf a1.mem = true) :
    Memory.wf (State.hostPut a0 a1 a2 a3 a4).mem = true := by
  induction a0 generalizing a1 a3 a4 with
  | zero => exact h_a1
  | succ k ih =>
    unfold State.hostPut
    exact memWf_ite h_a1 (ih _ _ _ (memWf_ite h_a1 (memWf_homeWrite _ _ _ _ _ _ h_a1)))
theorem memWf_execHostWrite (port pa : Nat) (bytes : List (BitVec 8)) (s : State) (h_s : Memory.wf s.mem = true) :
    ResMemWf (execHostWrite port pa bytes s) := by
  grind -ring -linarith -lia -order [execHostWrite, ResMemWf, memWf_hostPut]
theorem memWf_execHostRead (port pa n : Nat) (s : State) (h_s : Memory.wf s.mem = true) :
    ResMemWf (execHostRead port pa n s) := by
  grind -ring -linarith -lia -order [execHostRead, ResMemWf, memWf_emit]
theorem memWf_execPeerTransaction (src : Nat) (op : PeerOp) (pa n : Nat) (v : BitVec 64) (s : State) (h_s : Memory.wf s.mem =
    true) :
    ResMemWf (execPeerTransaction src op pa n v s) := by
  grind -ring -linarith -lia -order [execPeerTransaction, ResMemWf, memWf_emit, memWf_homeWrite]
theorem memWf_execPodRelayForward (src : Nat) (op : PeerOp) (pa n : Nat) (v : BitVec 64) (s : State) (h_s : Memory.wf s.mem =
    true) :
    ResMemWf (execPodRelayForward src op pa n v s) := by
  grind -ring -linarith -lia -order [execPodRelayForward, ResMemWf, memWf_emit]
theorem memWf_execUalinkReplyTimeout (core : Nat) (dva : BitVec 64) (s : State) (h_s : Memory.wf s.mem = true) :
    ResMemWf (execUalinkReplyTimeout core dva s) := by
  grind -ring -linarith -lia -order [execUalinkReplyTimeout, AccMemWf, ResMemWf, memWf_xlat, memWf_fetch]
theorem memWf_execForeignFlitDrop (part unit : Nat) (s : State) (h_s : Memory.wf s.mem = true) :
    ResMemWf (execForeignFlitDrop part unit s) := by
  grind -ring -linarith -lia -order [execForeignFlitDrop, ResMemWf, memWf_logAdd]
theorem memWf_execLinkOutOfService (x y dir : Nat) (s : State) (h_s : Memory.wf s.mem = true) :
    ResMemWf (execLinkOutOfService x y dir s) := by
  grind -ring -linarith -lia -order [execLinkOutOfService, ResMemWf, memWf_logAdd]
theorem memWf_hurtCache (s : State) (kind unit pa : Nat) (h_s : Memory.wf s.mem = true) :
    Memory.wf (State.hurtCache s kind unit pa).mem = true := by
  unfold State.hurtCache
  extract_lets line
  split
  · exact memWf_ite h_s (memWf_setL1 _ _ _ _ h_s)
  · exact memWf_setCluLine _ _ _ _ h_s
  · exact memWf_setDieLine _ _ _ _ h_s
  · exact memWf_updCluster _ _ _ h_s
theorem memWf_execEccError (pa : Nat) (correctable : Bool) (s : State) (h_s : Memory.wf s.mem = true) :
    ResMemWf (execEccError pa correctable s) := by
  grind -ring -linarith -lia -order [execEccError, ResMemWf, memWf_updCore, memWf_updCluster, memWf_logAdd, memWf_hurtCache]
theorem memWf_execScrub (s : State) (h_s : Memory.wf s.mem = true) :
    ResMemWf (execScrub s) := by
  grind -ring -linarith -lia -order [execScrub, ResMemWf]
theorem memWf_execBackingRewrite (pa : Nat) (s : State) (h_s : Memory.wf s.mem = true) :
    ResMemWf (execBackingRewrite pa s) := by
  unfold execBackingRewrite
  extract_lets line
  split
  · exact h_s
  · refine resMemWf_ite h_s (memWf_foldl (fun t c h => ?_) _ (memWf_homeWrite _ _ _ _ _ _ h_s))
    exact memWf_wfiWake _ _ (memWf_updCore _ _ _ h)
theorem memWf_setClock (s : State) (die step : Nat) (h_s : Memory.wf s.mem = true) :
    Memory.wf (State.setClock s die step).mem = true := by
  unfold State.setClock
  refine memWf_foldl (fun t c h => ?_) _ h_s
  exact memWf_post _ _ (memWf_updCore _ _ _ h)
theorem memWf_execThermalThrottle (die : Nat) (s : State) (h_s : Memory.wf s.mem = true) :
    ResMemWf (execThermalThrottle die s) := by
  grind -ring -linarith -lia -order [execThermalThrottle, ResMemWf, memWf_updDie, memWf_setClock]
theorem memWf_execClockRestore (die : Nat) (s : State) (h_s : Memory.wf s.mem = true) :
    ResMemWf (execClockRestore die s) := by
  grind -ring -linarith -lia -order [execClockRestore, ResMemWf, memWf_setClock]
theorem memWf_execAcq (a : BitVec 5) (scope : BitVec 2) (s : State) (h_s : Memory.wf s.mem = true) :
    ResMemWf (execAcq a scope s) := by
  grind -ring -linarith -lia -order [execAcq, ResMemWf, memWf_nextPc, memWf_acquire, memWf_trap]
theorem memWf_execRel (a : BitVec 5) (scope : BitVec 2) (s : State) (h_s : Memory.wf s.mem = true) :
    ResMemWf (execRel a scope s) := by
  grind -ring -linarith -lia -order [execRel, ResMemWf, memWf_release, memWf_trap, memWf_finish]
theorem memWf_execFence (scope : BitVec 2) (s : State) (h_s : Memory.wf s.mem = true) :
    ResMemWf (execFence scope s) := by
  grind -ring -linarith -lia -order [execFence, ResMemWf, memWf_nextPc, memWf_block, memWf_performSent]
theorem memWf_sendOwnreqs (s : State) (c : Nat) (r : OwnRange) (h_s : Memory.wf s.mem = true) :
    Memory.wf (State.sendOwnreqs s c r).mem = true := by
  refine memWf_foldl (fun t e h => ?_) _ h_s
  exact memWf_ite (memWf_sendDirty _ _ _ _ _ h) (memWf_request _ _ _ h)
theorem memWf_execOwn (d a b : BitVec 5) (s : State) (h_s : Memory.wf s.mem = true) :
    ResMemWf (execOwn d a b s) := by
  grind -ring -linarith -lia -order [execOwn, AccMemWf, ResMemWf, memWf_updCore, memWf_wg, memWf_Acc_bind, memWf_xlat,
      memWf_trap, memWf_finish,
      memWf_sendOwnreqs]
theorem memWf_execDisown (d a : BitVec 5) (s : State) (h_s : Memory.wf s.mem = true) :
    ResMemWf (execDisown d a s) := by
  grind -ring -linarith -lia -order [execDisown, ResMemWf, memWf_block, memWf_beginDisown, memWf_endDisown, memWf_trap,
      memWf_setG]
theorem memWf_execIfence (a : BitVec 5) (scope : BitVec 2) (s : State) (h_s : Memory.wf s.mem = true) :
    ResMemWf (execIfence a scope s) := by
  grind -ring -linarith -lia -order [execIfence, AccMemWf, ResMemWf, memWf_Acc_bind, memWf_release, memWf_dropCode, memWf_trap,
      memWf_finish]
theorem memWf_setVGroup (s : State) (cores : List Nat) (r : Nat) (g : List VReg) (h_s : Memory.wf s.mem = true) :
    Memory.wf (State.setVGroup s cores r g).mem = true :=
  memWf_foldl (fun t e h => memWf_updCore t _ _ h) _ h_s
theorem memWf_vPut (s : State) (p : Span) (r : Nat) (l : List (Nat × Nat)) (h_s : Memory.wf s.mem = true) :
    Memory.wf (State.vPut s p r l).mem = true := by
  grind -ring -linarith -lia -order [State.vPut, memWf_setVGroup]
theorem memWf_kPut (s : State) (p : Span) (r : Nat) (l : List (Nat × Bool)) (h_s : Memory.wf s.mem = true) :
    Memory.wf (State.kPut s p r l).mem = true := by
  unfold State.kPut
  exact memWf_foldl (fun t e h => memWf_updCore t _ _ h) _ h_s
theorem memWf_gAll (s : State) (p : Span) (d : BitVec 5) (v : Word) (h_s : Memory.wf s.mem = true) :
    Memory.wf (State.gAll s p d v).mem = true :=
  memWf_foldl (fun t c h => memWf_updCore t c _ h) _ h_s
theorem memWf_raiseAll (s : State) (p : Span) (f : Flags) (h_s : Memory.wf s.mem = true) :
    Memory.wf (State.raiseAll s p f).mem = true :=
  memWf_foldl (fun t c h => memWf_raise t c f h) _ h_s
theorem memWf_uAll (s : State) (p : Span) (f : UReg → UReg) (h_s : Memory.wf s.mem = true) :
    Memory.wf (State.uAll s p f).mem = true :=
  memWf_foldl (fun t c h => memWf_updCore t c _ h) _ h_s
theorem memWf_elemBody (p : Span) (d : Nat) (msk : BitVec 4) (val : State → Nat → Nat × Flags) (hi : Nat) (s : State) (h_s :
    Memory.wf s.mem = true) :
    Memory.wf (elemBody p d msk val hi s).s.mem = true := by
  grind -ring -linarith -lia -order [elemBody, memWf_vPut, memWf_raiseAll]
theorem memWf_peekAll (s : State) (c n : Nat) (l : List (Nat × Nat)) (h_s : Memory.wf s.mem = true) :
    Memory.wf (State.peekAll s c n l).s.mem = true := by
  have key (l : List (Nat × Nat)) (q : Pops) (h : Memory.wf q.s.mem = true) : Memory.wf (l.foldl (fun (q : Pops) e =>
      let (vals, why, s) := q.s.popPeek c e.2 n
      let got := q.got ++ [(e.1, e.2, vals)]
      if vals.length < q.k then ⟨vals.length, why, e.2, got, s⟩ else { q with got := got, s := s }) q).s.mem = true := by
    induction l generalizing q with
    | nil => exact h
    | cons e l ih =>
      have hp := memWf_popPeek q.s c e.2 n h
      refine ih _ ?_
      dsimp only
      split <;> exact hp
  exact key l _ h_s
theorem memWf_Pops_place (q : Pops) (p : Span) (k : Nat) (h_q : Memory.wf q.s.mem = true) : Memory.wf (q.place p k).mem = true
    :=
  memWf_foldl (fun t e h => memWf_vPut t _ _ _ h) _ h_q
theorem memWf_Pops_commit (q : Pops) (s : State) (c k : Nat) (h_s : Memory.wf s.mem = true) :
    Memory.wf (Pops.commit q s c k).mem = true :=
  memWf_foldl (fun t e h => memWf_popCommit t c _ k h) _ h_s
theorem memWf_memberTrap (s : State) (p : Span) (core : Nat) (t : Trap) (h_s : Memory.wf s.mem = true) :
    Memory.wf (State.memberTrap s p core t).mem = true := by
  grind -ring -linarith -lia -order [State.memberTrap, memWf_trapAll]
theorem memWf_setDix (s : State) (p : Span) (x : Option (BitVec 48)) (h_s : Memory.wf s.mem = true) :
    Memory.wf (State.setDix s p x).mem = true := by
  unfold State.setDix
  split
  · exact memWf_uAll _ _ _ h_s
  · exact h_s
theorem memWf_setVstart (s : State) (p : Span) (j : Nat) (h_s : Memory.wf s.mem = true) :
    Memory.wf (State.setVstart s p j).mem = true := by
  grind -ring -linarith -lia -order [State.setVstart, memWf_uAll]
theorem memWf_popFault (s : State) (c i : Nat) (t : Trap) (h_s : Memory.wf s.mem = true) :
    Memory.wf (State.popFault s c i t).mem = true := by
  grind -ring -linarith -lia -order [State.popFault, memWf_updCore, memWf_countFault, memWf_dropBad, memWf_kickCluster,
      memWf_kickC, memWf_trap]
theorem memWf_vRun (p : Span) (srcs : List Nat) (dst : Option Nat) (split whole : Bool) {body : Nat → State → VOut} {s : State}
    (hb : ∀ n t, Memory.wf t.mem = true → Memory.wf (body n t).s.mem = true) (h_s : Memory.wf s.mem = true) :
    ResMemWf (vRun p srcs dst split whole body s) := by
  have placed (q : Pops) (hq : Memory.wf q.s.mem = true) (p : Span) (k : Nat) := memWf_Pops_place q p k hq
  have marked (c i : Nat) (t : State) (h : Memory.wf t.mem = true) : Memory.wf (t.stallMark c i).stall.mem = true :=
    memWf_stall _ (memWf_stallMark _ _ _ _ h)
  unfold vRun
  extract_lets c x bound p' n q dstB both faulty took out undo k2
  have hq : Memory.wf q.s.mem = true := memWf_peekAll _ _ _ _ h_s
  have hu (t : State) (h : Memory.wf t.mem = true) : Memory.wf (undo t).mem = true :=
    memWf_foldl (fun t e h => memWf_updCore t _ _ h) _ h
  have ht : Memory.wf took.mem = true := memWf_updMe _ _ (memWf_Pops_commit q _ c q.k (placed q hq _ _))
  have ho : Memory.wf out.s.mem = true := hb _ _ (placed q hq _ _)
  clear_value took out undo bound k2 both faulty dstB q
  have ended (t : State) (h : Memory.wf t.mem = true) (l : List Nat) (cs : List Nat) :
      Memory.wf ((l.foldl (fun s i => s.stallClear c i) t).stepAll cs).mem = true :=
    memWf_stepAll _ _ (memWf_foldl (fun u i h => memWf_stallClear u c i h) l h)
  split
  · split
    · exact memWf_popFault _ _ _ _ ht
    · split
      · exact memWf_trap _ _ ht
      · exact marked _ _ _ (memWf_ite hq ht)
  · split
    · exact memWf_block _ (hu _ ho)
    · exact memWf_memberTrap _ _ _ _ (memWf_setDix _ _ _ (hu _ ho))
    · split
      next t sp hm =>
      have hsp : Memory.wf sp.mem = true := by
        cases dstB with
        | none => exact memWf_of_eq_snd hm ho
        | some e => exact memWf_of_eq_snd hm (memWf_pushMany _ _ _ _ _ ho)
      refine resMemWf_ite ?_ ?_
      · refine resMemWf_ite ?_ (memWf_stallOr _ _ _ (memWf_updMe _ _ hsp))
        split
        · exact memWf_trap _ _ (memWf_Pops_commit _ _ _ _ (memWf_updMe _ _ hsp))
        · exact marked _ _ _ hq
      · extract_lets o s1 s2 s3 s4 s5
        have hone : Memory.wf s1.mem = true := by
          refine memWf_ite hsp ?_
          have hbody := hb (p.lo + t) _ (placed q hq p t)
          cases dstB with
          | none => exact hbody
          | some e => exact memWf_pushMany _ _ _ _ _ hbody
        have htwo : Memory.wf s2.mem = true := memWf_Pops_commit _ _ _ _ hone
        have hthree : Memory.wf s3.mem = true := memWf_ite (memWf_uAll _ _ _ htwo) htwo
        have hfour : Memory.wf s4.mem = true := memWf_uAll _ _ _ (memWf_setDix _ _ _ hthree)
        have hfive : Memory.wf s5.mem = true := memWf_setVstart _ _ _ htwo
        clear_value s1 s2 s3 s4 s5
        refine resMemWf_ite (ended _ hfour _ _) (resMemWf_ite (memWf_stallOr _ _ _ hfive) ?_)
        split
        · exact memWf_memberTrap _ _ _ _ (memWf_setDix _ _ _ hfive)
        · exact memWf_block _ hfive
        · split
          · exact memWf_popFault _ _ _ _ hfive
          · exact memWf_stallOr _ _ _ hfive
theorem memWf_vLocal (w : BitVec 32) (srcs : List Nat) (dst : Option Nat) (split bad : Bool) {body : Span → Nat → State → VOut}
    {s : State}
    (hb : ∀ p n t, Memory.wf t.mem = true → Memory.wf (body p n t).s.mem = true) (h_s : Memory.wf s.mem = true) :
    ResMemWf (vLocal w srcs dst split bad body s) := by
  unfold vLocal
  exact resMemWf_ite (memWf_trap _ _ h_s) (memWf_vRun _ _ _ _ _ (hb _) h_s)
theorem memWf_vAll (w : BitVec 32) (srcs : List Nat) (dst : Option Nat) (split : Bool) (bad : Core → Bool)
    {body : Span → Nat → State → VOut} {s : State} (whole : Bool)
    (hb : ∀ p n t, Memory.wf t.mem = true → Memory.wf (body p n t).s.mem = true) (h_s : Memory.wf s.mem = true) :
    ResMemWf (vAll w srcs dst split bad body s whole) := by
  unfold vAll
  refine resMemWf_ite (memWf_trap _ _ h_s) (memWf_collective _ h_s fun cores t h => ?_)
  exact resMemWf_ite (memWf_trapAll _ _ _ h) (memWf_vRun _ _ _ _ _ (hb _) h)
theorem memWf_vflt (fn : Nat) (d a : BitVec 5) (b : VSrc) (srcB readsD useRm noF64 : Bool) (msk : BitVec 4) (ca cb : Bool) (op
    : FOp) (s : State) (h_s : Memory.wf s.mem = true) :
    ResMemWf (vflt fn d a b srcB readsD useRm noF64 msk ca cb op s) := by
  grind -ring -linarith -lia -order [vflt, ResMemWf, memWf_elemBody, memWf_vLocal]
theorem memWf_execVfaddVv (d a b : BitVec 5) (msk : BitVec 4) (ca cb : Bool) (s : State) (h_s : Memory.wf s.mem = true) :
    ResMemWf (execVfaddVv d a b msk ca cb s) := by
  grind -ring -linarith -lia -order [execVfaddVv, ResMemWf, memWf_vflt]
theorem memWf_execVfaddVs (d a b : BitVec 5) (msk : BitVec 4) (ca : Bool) (s : State) (h_s : Memory.wf s.mem = true) :
    ResMemWf (execVfaddVs d a b msk ca s) := by
  grind -ring -linarith -lia -order [execVfaddVs, ResMemWf, memWf_vflt]
theorem memWf_execVfsubVv (d a b : BitVec 5) (msk : BitVec 4) (ca cb : Bool) (s : State) (h_s : Memory.wf s.mem = true) :
    ResMemWf (execVfsubVv d a b msk ca cb s) := by
  grind -ring -linarith -lia -order [execVfsubVv, ResMemWf, memWf_vflt]
theorem memWf_execVfsubVs (d a b : BitVec 5) (msk : BitVec 4) (ca : Bool) (s : State) (h_s : Memory.wf s.mem = true) :
    ResMemWf (execVfsubVs d a b msk ca s) := by
  grind -ring -linarith -lia -order [execVfsubVs, ResMemWf, memWf_vflt]
theorem memWf_execVfmulVv (d a b : BitVec 5) (msk : BitVec 4) (ca cb : Bool) (s : State) (h_s : Memory.wf s.mem = true) :
    ResMemWf (execVfmulVv d a b msk ca cb s) := by
  grind -ring -linarith -lia -order [execVfmulVv, ResMemWf, memWf_vflt]
theorem memWf_execVfmulVs (d a b : BitVec 5) (msk : BitVec 4) (ca : Bool) (s : State) (h_s : Memory.wf s.mem = true) :
    ResMemWf (execVfmulVs d a b msk ca s) := by
  grind -ring -linarith -lia -order [execVfmulVs, ResMemWf, memWf_vflt]
theorem memWf_execVfdivVv (d a b : BitVec 5) (msk : BitVec 4) (ca cb : Bool) (s : State) (h_s : Memory.wf s.mem = true) :
    ResMemWf (execVfdivVv d a b msk ca cb s) := by
  grind -ring -linarith -lia -order [execVfdivVv, ResMemWf, memWf_vflt]
theorem memWf_execVfdivVs (d a b : BitVec 5) (msk : BitVec 4) (ca : Bool) (s : State) (h_s : Memory.wf s.mem = true) :
    ResMemWf (execVfdivVs d a b msk ca s) := by
  grind -ring -linarith -lia -order [execVfdivVs, ResMemWf, memWf_vflt]
theorem memWf_execVfmaVv (d a b : BitVec 5) (msk : BitVec 4) (ca cb : Bool) (s : State) (h_s : Memory.wf s.mem = true) :
    ResMemWf (execVfmaVv d a b msk ca cb s) := by
  grind -ring -linarith -lia -order [execVfmaVv, ResMemWf, memWf_vflt]
theorem memWf_execVfmaVs (d a b : BitVec 5) (msk : BitVec 4) (ca : Bool) (s : State) (h_s : Memory.wf s.mem = true) :
    ResMemWf (execVfmaVs d a b msk ca s) := by
  grind -ring -linarith -lia -order [execVfmaVs, ResMemWf, memWf_vflt]
theorem memWf_execVfmsVv (d a b : BitVec 5) (msk : BitVec 4) (ca cb : Bool) (s : State) (h_s : Memory.wf s.mem = true) :
    ResMemWf (execVfmsVv d a b msk ca cb s) := by
  grind -ring -linarith -lia -order [execVfmsVv, ResMemWf, memWf_vflt]
theorem memWf_execVfmsVs (d a b : BitVec 5) (msk : BitVec 4) (ca : Bool) (s : State) (h_s : Memory.wf s.mem = true) :
    ResMemWf (execVfmsVs d a b msk ca s) := by
  grind -ring -linarith -lia -order [execVfmsVs, ResMemWf, memWf_vflt]
theorem memWf_execVfnmaVv (d a b : BitVec 5) (msk : BitVec 4) (ca cb : Bool) (s : State) (h_s : Memory.wf s.mem = true) :
    ResMemWf (execVfnmaVv d a b msk ca cb s) := by
  grind -ring -linarith -lia -order [execVfnmaVv, ResMemWf, memWf_vflt]
theorem memWf_execVfnmaVs (d a b : BitVec 5) (msk : BitVec 4) (ca : Bool) (s : State) (h_s : Memory.wf s.mem = true) :
    ResMemWf (execVfnmaVs d a b msk ca s) := by
  grind -ring -linarith -lia -order [execVfnmaVs, ResMemWf, memWf_vflt]
theorem memWf_execVfminVv (d a b : BitVec 5) (msk : BitVec 4) (ca cb : Bool) (s : State) (h_s : Memory.wf s.mem = true) :
    ResMemWf (execVfminVv d a b msk ca cb s) := by
  grind -ring -linarith -lia -order [execVfminVv, ResMemWf, memWf_vflt]
theorem memWf_execVfminVs (d a b : BitVec 5) (msk : BitVec 4) (ca : Bool) (s : State) (h_s : Memory.wf s.mem = true) :
    ResMemWf (execVfminVs d a b msk ca s) := by
  grind -ring -linarith -lia -order [execVfminVs, ResMemWf, memWf_vflt]
theorem memWf_execVfmaxVv (d a b : BitVec 5) (msk : BitVec 4) (ca cb : Bool) (s : State) (h_s : Memory.wf s.mem = true) :
    ResMemWf (execVfmaxVv d a b msk ca cb s) := by
  grind -ring -linarith -lia -order [execVfmaxVv, ResMemWf, memWf_vflt]
theorem memWf_execVfmaxVs (d a b : BitVec 5) (msk : BitVec 4) (ca : Bool) (s : State) (h_s : Memory.wf s.mem = true) :
    ResMemWf (execVfmaxVs d a b msk ca s) := by
  grind -ring -linarith -lia -order [execVfmaxVs, ResMemWf, memWf_vflt]
theorem memWf_execVfsqrtVv (d a : BitVec 5) (msk : BitVec 4) (ca : Bool) (s : State) (h_s : Memory.wf s.mem = true) :
    ResMemWf (execVfsqrtVv d a msk ca s) := by
  grind -ring -linarith -lia -order [execVfsqrtVv, ResMemWf, memWf_vflt]
theorem memWf_execVfsqrtVs (d a : BitVec 5) (msk : BitVec 4) (ca : Bool) (s : State) (h_s : Memory.wf s.mem = true) :
    ResMemWf (execVfsqrtVs d a msk ca s) := by
  grind -ring -linarith -lia -order [execVfsqrtVs, ResMemWf, memWf_vflt]
theorem memWf_execVfrcpVv (d a : BitVec 5) (msk : BitVec 4) (ca : Bool) (s : State) (h_s : Memory.wf s.mem = true) :
    ResMemWf (execVfrcpVv d a msk ca s) := by
  grind -ring -linarith -lia -order [execVfrcpVv, ResMemWf, memWf_vflt]
theorem memWf_execVfrcpVs (d a : BitVec 5) (msk : BitVec 4) (ca : Bool) (s : State) (h_s : Memory.wf s.mem = true) :
    ResMemWf (execVfrcpVs d a msk ca s) := by
  grind -ring -linarith -lia -order [execVfrcpVs, ResMemWf, memWf_vflt]
theorem memWf_execVfrsqVv (d a : BitVec 5) (msk : BitVec 4) (ca : Bool) (s : State) (h_s : Memory.wf s.mem = true) :
    ResMemWf (execVfrsqVv d a msk ca s) := by
  grind -ring -linarith -lia -order [execVfrsqVv, ResMemWf, memWf_vflt]
theorem memWf_execVfrsqVs (d a : BitVec 5) (msk : BitVec 4) (ca : Bool) (s : State) (h_s : Memory.wf s.mem = true) :
    ResMemWf (execVfrsqVs d a msk ca s) := by
  grind -ring -linarith -lia -order [execVfrsqVs, ResMemWf, memWf_vflt]
theorem memWf_execVfexp2Vv (d a : BitVec 5) (msk : BitVec 4) (ca : Bool) (s : State) (h_s : Memory.wf s.mem = true) :
    ResMemWf (execVfexp2Vv d a msk ca s) := by
  grind -ring -linarith -lia -order [execVfexp2Vv, ResMemWf, memWf_vflt]
theorem memWf_execVfexp2Vs (d a : BitVec 5) (msk : BitVec 4) (ca : Bool) (s : State) (h_s : Memory.wf s.mem = true) :
    ResMemWf (execVfexp2Vs d a msk ca s) := by
  grind -ring -linarith -lia -order [execVfexp2Vs, ResMemWf, memWf_vflt]
theorem memWf_execVflog2Vv (d a : BitVec 5) (msk : BitVec 4) (ca : Bool) (s : State) (h_s : Memory.wf s.mem = true) :
    ResMemWf (execVflog2Vv d a msk ca s) := by
  grind -ring -linarith -lia -order [execVflog2Vv, ResMemWf, memWf_vflt]
theorem memWf_execVflog2Vs (d a : BitVec 5) (msk : BitVec 4) (ca : Bool) (s : State) (h_s : Memory.wf s.mem = true) :
    ResMemWf (execVflog2Vs d a msk ca s) := by
  grind -ring -linarith -lia -order [execVflog2Vs, ResMemWf, memWf_vflt]
theorem memWf_execVftanhVv (d a : BitVec 5) (msk : BitVec 4) (ca : Bool) (s : State) (h_s : Memory.wf s.mem = true) :
    ResMemWf (execVftanhVv d a msk ca s) := by
  grind -ring -linarith -lia -order [execVftanhVv, ResMemWf, memWf_vflt]
theorem memWf_execVftanhVs (d a : BitVec 5) (msk : BitVec 4) (ca : Bool) (s : State) (h_s : Memory.wf s.mem = true) :
    ResMemWf (execVftanhVs d a msk ca s) := by
  grind -ring -linarith -lia -order [execVftanhVs, ResMemWf, memWf_vflt]
theorem memWf_execVfabsVv (d a : BitVec 5) (msk : BitVec 4) (ca : Bool) (s : State) (h_s : Memory.wf s.mem = true) :
    ResMemWf (execVfabsVv d a msk ca s) := by
  grind -ring -linarith -lia -order [execVfabsVv, ResMemWf, memWf_vflt]
theorem memWf_execVfabsVs (d a : BitVec 5) (msk : BitVec 4) (ca : Bool) (s : State) (h_s : Memory.wf s.mem = true) :
    ResMemWf (execVfabsVs d a msk ca s) := by
  grind -ring -linarith -lia -order [execVfabsVs, ResMemWf, memWf_vflt]
theorem memWf_execVfnegVv (d a : BitVec 5) (msk : BitVec 4) (ca : Bool) (s : State) (h_s : Memory.wf s.mem = true) :
    ResMemWf (execVfnegVv d a msk ca s) := by
  grind -ring -linarith -lia -order [execVfnegVv, ResMemWf, memWf_vflt]
theorem memWf_execVfnegVs (d a : BitVec 5) (msk : BitVec 4) (ca : Bool) (s : State) (h_s : Memory.wf s.mem = true) :
    ResMemWf (execVfnegVs d a msk ca s) := by
  grind -ring -linarith -lia -order [execVfnegVs, ResMemWf, memWf_vflt]
theorem memWf_execVfsgnjVv (d a b : BitVec 5) (msk : BitVec 4) (ca cb : Bool) (s : State) (h_s : Memory.wf s.mem = true) :
    ResMemWf (execVfsgnjVv d a b msk ca cb s) := by
  grind -ring -linarith -lia -order [execVfsgnjVv, ResMemWf, memWf_vflt]
theorem memWf_execVfsgnjVs (d a b : BitVec 5) (msk : BitVec 4) (ca : Bool) (s : State) (h_s : Memory.wf s.mem = true) :
    ResMemWf (execVfsgnjVs d a b msk ca s) := by
  grind -ring -linarith -lia -order [execVfsgnjVs, ResMemWf, memWf_vflt]
theorem memWf_execVfclassVv (d a : BitVec 5) (msk : BitVec 4) (ca : Bool) (s : State) (h_s : Memory.wf s.mem = true) :
    ResMemWf (execVfclassVv d a msk ca s) := by
  grind -ring -linarith -lia -order [execVfclassVv, ResMemWf, memWf_vflt]
theorem memWf_execVfclassVs (d a : BitVec 5) (msk : BitVec 4) (ca : Bool) (s : State) (h_s : Memory.wf s.mem = true) :
    ResMemWf (execVfclassVs d a msk ca s) := by
  grind -ring -linarith -lia -order [execVfclassVs, ResMemWf, memWf_vflt]
theorem memWf_vint (fn : Nat) (d a : BitVec 5) (b : VSrc) (msk : BitVec 4) (ca cb : Bool) (readsD : Bool) (op : Nat → Nat → Nat
    → Nat → Nat × Flags) (s : State) (h_s : Memory.wf s.mem = true) :
    ResMemWf (vint fn d a b msk ca cb readsD op s) := by
  grind -ring -linarith -lia -order [vint, ResMemWf, memWf_elemBody, memWf_vLocal]
theorem memWf_execVaddVv (d a b : BitVec 5) (msk : BitVec 4) (ca cb : Bool) (s : State) (h_s : Memory.wf s.mem = true) :
    ResMemWf (execVaddVv d a b msk ca cb s) := by
  grind -ring -linarith -lia -order [execVaddVv, ResMemWf, memWf_vint]
theorem memWf_execVaddVs (d a b : BitVec 5) (msk : BitVec 4) (ca : Bool) (s : State) (h_s : Memory.wf s.mem = true) :
    ResMemWf (execVaddVs d a b msk ca s) := by
  grind -ring -linarith -lia -order [execVaddVs, ResMemWf, memWf_vint]
theorem memWf_execVsubVv (d a b : BitVec 5) (msk : BitVec 4) (ca cb : Bool) (s : State) (h_s : Memory.wf s.mem = true) :
    ResMemWf (execVsubVv d a b msk ca cb s) := by
  grind -ring -linarith -lia -order [execVsubVv, ResMemWf, memWf_vint]
theorem memWf_execVsubVs (d a b : BitVec 5) (msk : BitVec 4) (ca : Bool) (s : State) (h_s : Memory.wf s.mem = true) :
    ResMemWf (execVsubVs d a b msk ca s) := by
  grind -ring -linarith -lia -order [execVsubVs, ResMemWf, memWf_vint]
theorem memWf_execVrsubVv (d a b : BitVec 5) (msk : BitVec 4) (ca cb : Bool) (s : State) (h_s : Memory.wf s.mem = true) :
    ResMemWf (execVrsubVv d a b msk ca cb s) := by
  grind -ring -linarith -lia -order [execVrsubVv, ResMemWf, memWf_vint]
theorem memWf_execVrsubVs (d a b : BitVec 5) (msk : BitVec 4) (ca : Bool) (s : State) (h_s : Memory.wf s.mem = true) :
    ResMemWf (execVrsubVs d a b msk ca s) := by
  grind -ring -linarith -lia -order [execVrsubVs, ResMemWf, memWf_vint]
theorem memWf_execVmulVv (d a b : BitVec 5) (msk : BitVec 4) (ca cb : Bool) (s : State) (h_s : Memory.wf s.mem = true) :
    ResMemWf (execVmulVv d a b msk ca cb s) := by
  grind -ring -linarith -lia -order [execVmulVv, ResMemWf, memWf_vint]
theorem memWf_execVmulVs (d a b : BitVec 5) (msk : BitVec 4) (ca : Bool) (s : State) (h_s : Memory.wf s.mem = true) :
    ResMemWf (execVmulVs d a b msk ca s) := by
  grind -ring -linarith -lia -order [execVmulVs, ResMemWf, memWf_vint]
theorem memWf_execVmulhVv (d a b : BitVec 5) (msk : BitVec 4) (ca cb : Bool) (s : State) (h_s : Memory.wf s.mem = true) :
    ResMemWf (execVmulhVv d a b msk ca cb s) := by
  grind -ring -linarith -lia -order [execVmulhVv, ResMemWf, memWf_vint]
theorem memWf_execVmulhVs (d a b : BitVec 5) (msk : BitVec 4) (ca : Bool) (s : State) (h_s : Memory.wf s.mem = true) :
    ResMemWf (execVmulhVs d a b msk ca s) := by
  grind -ring -linarith -lia -order [execVmulhVs, ResMemWf, memWf_vint]
theorem memWf_execVmulhuVv (d a b : BitVec 5) (msk : BitVec 4) (ca cb : Bool) (s : State) (h_s : Memory.wf s.mem = true) :
    ResMemWf (execVmulhuVv d a b msk ca cb s) := by
  grind -ring -linarith -lia -order [execVmulhuVv, ResMemWf, memWf_vint]
theorem memWf_execVmulhuVs (d a b : BitVec 5) (msk : BitVec 4) (ca : Bool) (s : State) (h_s : Memory.wf s.mem = true) :
    ResMemWf (execVmulhuVs d a b msk ca s) := by
  grind -ring -linarith -lia -order [execVmulhuVs, ResMemWf, memWf_vint]
theorem memWf_execVminVv (d a b : BitVec 5) (msk : BitVec 4) (ca cb : Bool) (s : State) (h_s : Memory.wf s.mem = true) :
    ResMemWf (execVminVv d a b msk ca cb s) := by
  grind -ring -linarith -lia -order [execVminVv, ResMemWf, memWf_vint]
theorem memWf_execVminVs (d a b : BitVec 5) (msk : BitVec 4) (ca : Bool) (s : State) (h_s : Memory.wf s.mem = true) :
    ResMemWf (execVminVs d a b msk ca s) := by
  grind -ring -linarith -lia -order [execVminVs, ResMemWf, memWf_vint]
theorem memWf_execVmaxVv (d a b : BitVec 5) (msk : BitVec 4) (ca cb : Bool) (s : State) (h_s : Memory.wf s.mem = true) :
    ResMemWf (execVmaxVv d a b msk ca cb s) := by
  grind -ring -linarith -lia -order [execVmaxVv, ResMemWf, memWf_vint]
theorem memWf_execVmaxVs (d a b : BitVec 5) (msk : BitVec 4) (ca : Bool) (s : State) (h_s : Memory.wf s.mem = true) :
    ResMemWf (execVmaxVs d a b msk ca s) := by
  grind -ring -linarith -lia -order [execVmaxVs, ResMemWf, memWf_vint]
theorem memWf_execVminuVv (d a b : BitVec 5) (msk : BitVec 4) (ca cb : Bool) (s : State) (h_s : Memory.wf s.mem = true) :
    ResMemWf (execVminuVv d a b msk ca cb s) := by
  grind -ring -linarith -lia -order [execVminuVv, ResMemWf, memWf_vint]
theorem memWf_execVminuVs (d a b : BitVec 5) (msk : BitVec 4) (ca : Bool) (s : State) (h_s : Memory.wf s.mem = true) :
    ResMemWf (execVminuVs d a b msk ca s) := by
  grind -ring -linarith -lia -order [execVminuVs, ResMemWf, memWf_vint]
theorem memWf_execVmaxuVv (d a b : BitVec 5) (msk : BitVec 4) (ca cb : Bool) (s : State) (h_s : Memory.wf s.mem = true) :
    ResMemWf (execVmaxuVv d a b msk ca cb s) := by
  grind -ring -linarith -lia -order [execVmaxuVv, ResMemWf, memWf_vint]
theorem memWf_execVmaxuVs (d a b : BitVec 5) (msk : BitVec 4) (ca : Bool) (s : State) (h_s : Memory.wf s.mem = true) :
    ResMemWf (execVmaxuVs d a b msk ca s) := by
  grind -ring -linarith -lia -order [execVmaxuVs, ResMemWf, memWf_vint]
theorem memWf_execVandVv (d a b : BitVec 5) (msk : BitVec 4) (ca cb : Bool) (s : State) (h_s : Memory.wf s.mem = true) :
    ResMemWf (execVandVv d a b msk ca cb s) := by
  grind -ring -linarith -lia -order [execVandVv, ResMemWf, memWf_vint]
theorem memWf_execVandVs (d a b : BitVec 5) (msk : BitVec 4) (ca : Bool) (s : State) (h_s : Memory.wf s.mem = true) :
    ResMemWf (execVandVs d a b msk ca s) := by
  grind -ring -linarith -lia -order [execVandVs, ResMemWf, memWf_vint]
theorem memWf_execVorVv (d a b : BitVec 5) (msk : BitVec 4) (ca cb : Bool) (s : State) (h_s : Memory.wf s.mem = true) :
    ResMemWf (execVorVv d a b msk ca cb s) := by
  grind -ring -linarith -lia -order [execVorVv, ResMemWf, memWf_vint]
theorem memWf_execVorVs (d a b : BitVec 5) (msk : BitVec 4) (ca : Bool) (s : State) (h_s : Memory.wf s.mem = true) :
    ResMemWf (execVorVs d a b msk ca s) := by
  grind -ring -linarith -lia -order [execVorVs, ResMemWf, memWf_vint]
theorem memWf_execVxorVv (d a b : BitVec 5) (msk : BitVec 4) (ca cb : Bool) (s : State) (h_s : Memory.wf s.mem = true) :
    ResMemWf (execVxorVv d a b msk ca cb s) := by
  grind -ring -linarith -lia -order [execVxorVv, ResMemWf, memWf_vint]
theorem memWf_execVxorVs (d a b : BitVec 5) (msk : BitVec 4) (ca : Bool) (s : State) (h_s : Memory.wf s.mem = true) :
    ResMemWf (execVxorVs d a b msk ca s) := by
  grind -ring -linarith -lia -order [execVxorVs, ResMemWf, memWf_vint]
theorem memWf_execVsllVv (d a b : BitVec 5) (msk : BitVec 4) (ca cb : Bool) (s : State) (h_s : Memory.wf s.mem = true) :
    ResMemWf (execVsllVv d a b msk ca cb s) := by
  grind -ring -linarith -lia -order [execVsllVv, ResMemWf, memWf_vint]
theorem memWf_execVsllVs (d a b : BitVec 5) (msk : BitVec 4) (ca : Bool) (s : State) (h_s : Memory.wf s.mem = true) :
    ResMemWf (execVsllVs d a b msk ca s) := by
  grind -ring -linarith -lia -order [execVsllVs, ResMemWf, memWf_vint]
theorem memWf_execVsrlVv (d a b : BitVec 5) (msk : BitVec 4) (ca cb : Bool) (s : State) (h_s : Memory.wf s.mem = true) :
    ResMemWf (execVsrlVv d a b msk ca cb s) := by
  grind -ring -linarith -lia -order [execVsrlVv, ResMemWf, memWf_vint]
theorem memWf_execVsrlVs (d a b : BitVec 5) (msk : BitVec 4) (ca : Bool) (s : State) (h_s : Memory.wf s.mem = true) :
    ResMemWf (execVsrlVs d a b msk ca s) := by
  grind -ring -linarith -lia -order [execVsrlVs, ResMemWf, memWf_vint]
theorem memWf_execVsraVv (d a b : BitVec 5) (msk : BitVec 4) (ca cb : Bool) (s : State) (h_s : Memory.wf s.mem = true) :
    ResMemWf (execVsraVv d a b msk ca cb s) := by
  grind -ring -linarith -lia -order [execVsraVv, ResMemWf, memWf_vint]
theorem memWf_execVsraVs (d a b : BitVec 5) (msk : BitVec 4) (ca : Bool) (s : State) (h_s : Memory.wf s.mem = true) :
    ResMemWf (execVsraVs d a b msk ca s) := by
  grind -ring -linarith -lia -order [execVsraVs, ResMemWf, memWf_vint]
theorem memWf_execVaddsatVv (d a b : BitVec 5) (msk : BitVec 4) (ca cb : Bool) (s : State) (h_s : Memory.wf s.mem = true) :
    ResMemWf (execVaddsatVv d a b msk ca cb s) := by
  grind -ring -linarith -lia -order [execVaddsatVv, ResMemWf, memWf_vint]
theorem memWf_execVaddsatVs (d a b : BitVec 5) (msk : BitVec 4) (ca : Bool) (s : State) (h_s : Memory.wf s.mem = true) :
    ResMemWf (execVaddsatVs d a b msk ca s) := by
  grind -ring -linarith -lia -order [execVaddsatVs, ResMemWf, memWf_vint]
theorem memWf_execVsubsatVv (d a b : BitVec 5) (msk : BitVec 4) (ca cb : Bool) (s : State) (h_s : Memory.wf s.mem = true) :
    ResMemWf (execVsubsatVv d a b msk ca cb s) := by
  grind -ring -linarith -lia -order [execVsubsatVv, ResMemWf, memWf_vint]
theorem memWf_execVsubsatVs (d a b : BitVec 5) (msk : BitVec 4) (ca : Bool) (s : State) (h_s : Memory.wf s.mem = true) :
    ResMemWf (execVsubsatVs d a b msk ca s) := by
  grind -ring -linarith -lia -order [execVsubsatVs, ResMemWf, memWf_vint]
theorem memWf_execVaddsatuVv (d a b : BitVec 5) (msk : BitVec 4) (ca cb : Bool) (s : State) (h_s : Memory.wf s.mem = true) :
    ResMemWf (execVaddsatuVv d a b msk ca cb s) := by
  grind -ring -linarith -lia -order [execVaddsatuVv, ResMemWf, memWf_vint]
theorem memWf_execVaddsatuVs (d a b : BitVec 5) (msk : BitVec 4) (ca : Bool) (s : State) (h_s : Memory.wf s.mem = true) :
    ResMemWf (execVaddsatuVs d a b msk ca s) := by
  grind -ring -linarith -lia -order [execVaddsatuVs, ResMemWf, memWf_vint]
theorem memWf_execVsubsatuVv (d a b : BitVec 5) (msk : BitVec 4) (ca cb : Bool) (s : State) (h_s : Memory.wf s.mem = true) :
    ResMemWf (execVsubsatuVv d a b msk ca cb s) := by
  grind -ring -linarith -lia -order [execVsubsatuVv, ResMemWf, memWf_vint]
theorem memWf_execVsubsatuVs (d a b : BitVec 5) (msk : BitVec 4) (ca : Bool) (s : State) (h_s : Memory.wf s.mem = true) :
    ResMemWf (execVsubsatuVs d a b msk ca s) := by
  grind -ring -linarith -lia -order [execVsubsatuVs, ResMemWf, memWf_vint]
theorem memWf_execVabsdVv (d a b : BitVec 5) (msk : BitVec 4) (ca cb : Bool) (s : State) (h_s : Memory.wf s.mem = true) :
    ResMemWf (execVabsdVv d a b msk ca cb s) := by
  grind -ring -linarith -lia -order [execVabsdVv, ResMemWf, memWf_vint]
theorem memWf_execVabsdVs (d a b : BitVec 5) (msk : BitVec 4) (ca : Bool) (s : State) (h_s : Memory.wf s.mem = true) :
    ResMemWf (execVabsdVs d a b msk ca s) := by
  grind -ring -linarith -lia -order [execVabsdVs, ResMemWf, memWf_vint]
theorem memWf_execVmaccVv (d a b : BitVec 5) (msk : BitVec 4) (ca cb : Bool) (s : State) (h_s : Memory.wf s.mem = true) :
    ResMemWf (execVmaccVv d a b msk ca cb s) := by
  grind -ring -linarith -lia -order [execVmaccVv, ResMemWf, memWf_vint]
theorem memWf_execVmaccVs (d a b : BitVec 5) (msk : BitVec 4) (ca : Bool) (s : State) (h_s : Memory.wf s.mem = true) :
    ResMemWf (execVmaccVs d a b msk ca s) := by
  grind -ring -linarith -lia -order [execVmaccVs, ResMemWf, memWf_vint]
theorem memWf_execVdivVv (d a b : BitVec 5) (msk : BitVec 4) (ca cb : Bool) (s : State) (h_s : Memory.wf s.mem = true) :
    ResMemWf (execVdivVv d a b msk ca cb s) := by
  grind -ring -linarith -lia -order [execVdivVv, ResMemWf, memWf_vint]
theorem memWf_execVdivVs (d a b : BitVec 5) (msk : BitVec 4) (ca : Bool) (s : State) (h_s : Memory.wf s.mem = true) :
    ResMemWf (execVdivVs d a b msk ca s) := by
  grind -ring -linarith -lia -order [execVdivVs, ResMemWf, memWf_vint]
theorem memWf_execVremVv (d a b : BitVec 5) (msk : BitVec 4) (ca cb : Bool) (s : State) (h_s : Memory.wf s.mem = true) :
    ResMemWf (execVremVv d a b msk ca cb s) := by
  grind -ring -linarith -lia -order [execVremVv, ResMemWf, memWf_vint]
theorem memWf_execVremVs (d a b : BitVec 5) (msk : BitVec 4) (ca : Bool) (s : State) (h_s : Memory.wf s.mem = true) :
    ResMemWf (execVremVs d a b msk ca s) := by
  grind -ring -linarith -lia -order [execVremVs, ResMemWf, memWf_vint]
/-- However a step over several cores ends, it leaves memory in canonical form. -/
def EachMemWf : EachEnd → Prop
  | .ok t => Memory.wf t.mem = true
  | .trap _ _ t => Memory.wf t.mem = true
  | .wait t => Memory.wf t.mem = true
theorem memWf_each {f : State → Nat → Acc Unit} (hf : ∀ t c, Memory.wf t.mem = true → AccMemWf (f t c)) (l : List Nat) {s :
    State}
    (h_s : Memory.wf s.mem = true) : EachMemWf (State.each f l s) := by
  induction l generalizing s with
  | nil => exact h_s
  | cons c l ih =>
    have h := hf s c h_s
    unfold State.each
    generalize f s c = r at h
    cases r with
    | ok a t => exact ih h
    | trap t u => exact h
    | wait t => exact h
theorem memWf_yieldFails (s : State) (cores : List Nat) (c : Nat) (t : Trap) (h_s : Memory.wf s.mem = true) :
    Memory.wf (State.yieldFails s cores c t).mem = true := by
  grind -ring -linarith -lia -order [State.yieldFails, memWf_takeTrap, memWf_stepAll]
theorem memWf_yieldWait (s : State) (cores : List Nat) (h_s : Memory.wf s.mem = true) :
    Memory.wf (State.yieldWait s cores).mem = true :=
  memWf_foldl (fun t c h => memWf_updCore t c _ h) _ h_s
theorem memWf_yieldNow (s : State) (cores : List Nat) (h_s : Memory.wf s.mem = true) :
    ResMemWf (State.yieldNow s cores) := by
  unfold State.yieldNow
  split
  · exact memWf_report _ _ _ _ (memWf_stepAll _ _ h_s)
  · have hb := memWf_each (f := State.leaveBinds) (fun t c h => memWf_leaveBinds t c h) cores h_s
    generalize State.each _ cores s = r at hb
    cases r with
    | trap c t u => exact memWf_yieldFails _ _ _ _ hb
    | wait u => exact memWf_yieldWait _ _ hb
    | ok u =>
      have hs := memWf_each (f := fun s c => s.spill c true) (fun t c h => memWf_spill t c true h) cores hb
      dsimp only
      generalize State.each _ cores u = r at hs
      cases r with
      | trap c t u => exact memWf_yieldFails _ _ _ _ hs
      | wait u => exact memWf_yieldWait _ _ hs
      | ok u => exact memWf_foldl (fun t c h => memWf_leave t c _ _ _ _ _ h) _ hs
theorem memWf_yieldCheck (s : State) (cores : List Nat) (h_s : Memory.wf s.mem = true) :
    ResMemWf (State.yieldCheck s cores) := by
  unfold State.yieldCheck
  have hs := memWf_stepAll _ cores h_s
  refine resMemWf_ite (memWf_foldl (fun t c h => memWf_killLeave t c _ h) _ hs) (resMemWf_ite (memWf_yieldNow _ _ h_s) hs)
theorem memWf_setVl (w : BitVec 32) (d : BitVec 5) (vt : BitVec 8) (y : Bool) (vl : Core → Nat → Nat) (s : State) (h_s :
    Memory.wf s.mem = true) :
    ResMemWf (setVl w d vt y vl s) := by
  unfold setVl
  refine resMemWf_ite (memWf_trap _ _ h_s) (memWf_collective _ h_s fun cores t h => ?_)
  extract_lets vlmax n u
  have hset : Memory.wf u.mem = true := memWf_foldl (fun u c h => memWf_updCore u c _ h) _ h
  exact resMemWf_ite (memWf_yieldCheck _ _ hset) (memWf_stepAll _ _ hset)
theorem memWf_execSetvl (d a : BitVec 5) (vtype : BitVec 8) (y : Bool) (s : State) (h_s : Memory.wf s.mem = true) :
    ResMemWf (execSetvl d a vtype y s) := by
  grind -ring -linarith -lia -order [execSetvl, ResMemWf, memWf_setVl]
theorem memWf_execSetvlMax (d : BitVec 5) (vtype : BitVec 8) (y : Bool) (s : State) (h_s : Memory.wf s.mem = true) :
    ResMemWf (execSetvlMax d vtype y s) := by
  grind -ring -linarith -lia -order [execSetvlMax, ResMemWf, memWf_setVl]
theorem memWf_execSetvlType (d : BitVec 5) (vtype : BitVec 8) (y : Bool) (s : State) (h_s : Memory.wf s.mem = true) :
    ResMemWf (execSetvlType d vtype y s) := by
  grind -ring -linarith -lia -order [execSetvlType, ResMemWf, memWf_setVl]
theorem memWf_execSetd (a b : BitVec 5) (dim : BitVec 2) (s : State) (h_s : Memory.wf s.mem = true) :
    ResMemWf (execSetd a b dim s) := by
  grind -ring -linarith -lia -order [execSetd, ResMemWf, memWf_updMe, memWf_nextPc, memWf_trap]
theorem memWf_cmpBody (p : Span) (u : UReg) (d : BitVec 4) (a : BitVec 5) (b : VSrc) (msk : BitVec 4) (op : CmpOp) (hi : Nat)
    (s : State) (h_s : Memory.wf s.mem = true) :
    Memory.wf (cmpBody p u d a b msk op hi s).s.mem = true := by
  grind -ring -linarith -lia -order [cmpBody, memWf_kPut, memWf_raiseAll]
theorem memWf_vcmp (fn : Nat) (d : BitVec 4) (a : BitVec 5) (b : VSrc) (msk : BitVec 4) (ca cb isFloat : Bool) (op : CmpOp) (s
    : State) (h_s : Memory.wf s.mem = true) :
    ResMemWf (vcmp fn d a b msk ca cb isFloat op s) := by
  unfold vcmp
  refine memWf_vLocal _ _ _ _ _ (fun p n t h => ?_) h_s
  exact memWf_cmpBody _ _ _ _ _ _ _ _ _ h
theorem memWf_execVcmpeqVv (d : BitVec 4) (a b : BitVec 5) (msk : BitVec 4) (ca cb : Bool) (s : State) (h_s : Memory.wf s.mem =
    true) :
    ResMemWf (execVcmpeqVv d a b msk ca cb s) := by
  grind -ring -linarith -lia -order [execVcmpeqVv, ResMemWf, memWf_vcmp]
theorem memWf_execVcmpeqVs (d : BitVec 4) (a b : BitVec 5) (msk : BitVec 4) (ca : Bool) (s : State) (h_s : Memory.wf s.mem =
    true) :
    ResMemWf (execVcmpeqVs d a b msk ca s) := by
  grind -ring -linarith -lia -order [execVcmpeqVs, ResMemWf, memWf_vcmp]
theorem memWf_execVcmpneVv (d : BitVec 4) (a b : BitVec 5) (msk : BitVec 4) (ca cb : Bool) (s : State) (h_s : Memory.wf s.mem =
    true) :
    ResMemWf (execVcmpneVv d a b msk ca cb s) := by
  grind -ring -linarith -lia -order [execVcmpneVv, ResMemWf, memWf_vcmp]
theorem memWf_execVcmpneVs (d : BitVec 4) (a b : BitVec 5) (msk : BitVec 4) (ca : Bool) (s : State) (h_s : Memory.wf s.mem =
    true) :
    ResMemWf (execVcmpneVs d a b msk ca s) := by
  grind -ring -linarith -lia -order [execVcmpneVs, ResMemWf, memWf_vcmp]
theorem memWf_execVcmpltVv (d : BitVec 4) (a b : BitVec 5) (msk : BitVec 4) (ca cb : Bool) (s : State) (h_s : Memory.wf s.mem =
    true) :
    ResMemWf (execVcmpltVv d a b msk ca cb s) := by
  grind -ring -linarith -lia -order [execVcmpltVv, ResMemWf, memWf_vcmp]
theorem memWf_execVcmpltVs (d : BitVec 4) (a b : BitVec 5) (msk : BitVec 4) (ca : Bool) (s : State) (h_s : Memory.wf s.mem =
    true) :
    ResMemWf (execVcmpltVs d a b msk ca s) := by
  grind -ring -linarith -lia -order [execVcmpltVs, ResMemWf, memWf_vcmp]
theorem memWf_execVcmpgeVv (d : BitVec 4) (a b : BitVec 5) (msk : BitVec 4) (ca cb : Bool) (s : State) (h_s : Memory.wf s.mem =
    true) :
    ResMemWf (execVcmpgeVv d a b msk ca cb s) := by
  grind -ring -linarith -lia -order [execVcmpgeVv, ResMemWf, memWf_vcmp]
theorem memWf_execVcmpgeVs (d : BitVec 4) (a b : BitVec 5) (msk : BitVec 4) (ca : Bool) (s : State) (h_s : Memory.wf s.mem =
    true) :
    ResMemWf (execVcmpgeVs d a b msk ca s) := by
  grind -ring -linarith -lia -order [execVcmpgeVs, ResMemWf, memWf_vcmp]
theorem memWf_execVcmpltuVv (d : BitVec 4) (a b : BitVec 5) (msk : BitVec 4) (ca cb : Bool) (s : State) (h_s : Memory.wf s.mem
    = true) :
    ResMemWf (execVcmpltuVv d a b msk ca cb s) := by
  grind -ring -linarith -lia -order [execVcmpltuVv, ResMemWf, memWf_vcmp]
theorem memWf_execVcmpltuVs (d : BitVec 4) (a b : BitVec 5) (msk : BitVec 4) (ca : Bool) (s : State) (h_s : Memory.wf s.mem =
    true) :
    ResMemWf (execVcmpltuVs d a b msk ca s) := by
  grind -ring -linarith -lia -order [execVcmpltuVs, ResMemWf, memWf_vcmp]
theorem memWf_execVcmpgeuVv (d : BitVec 4) (a b : BitVec 5) (msk : BitVec 4) (ca cb : Bool) (s : State) (h_s : Memory.wf s.mem
    = true) :
    ResMemWf (execVcmpgeuVv d a b msk ca cb s) := by
  grind -ring -linarith -lia -order [execVcmpgeuVv, ResMemWf, memWf_vcmp]
theorem memWf_execVcmpgeuVs (d : BitVec 4) (a b : BitVec 5) (msk : BitVec 4) (ca : Bool) (s : State) (h_s : Memory.wf s.mem =
    true) :
    ResMemWf (execVcmpgeuVs d a b msk ca s) := by
  grind -ring -linarith -lia -order [execVcmpgeuVs, ResMemWf, memWf_vcmp]
theorem memWf_execVcmpfeqVv (d : BitVec 4) (a b : BitVec 5) (msk : BitVec 4) (ca cb : Bool) (s : State) (h_s : Memory.wf s.mem
    = true) :
    ResMemWf (execVcmpfeqVv d a b msk ca cb s) := by
  grind -ring -linarith -lia -order [execVcmpfeqVv, ResMemWf, memWf_vcmp]
theorem memWf_execVcmpfeqVs (d : BitVec 4) (a b : BitVec 5) (msk : BitVec 4) (ca : Bool) (s : State) (h_s : Memory.wf s.mem =
    true) :
    ResMemWf (execVcmpfeqVs d a b msk ca s) := by
  grind -ring -linarith -lia -order [execVcmpfeqVs, ResMemWf, memWf_vcmp]
theorem memWf_execVcmpfltVv (d : BitVec 4) (a b : BitVec 5) (msk : BitVec 4) (ca cb : Bool) (s : State) (h_s : Memory.wf s.mem
    = true) :
    ResMemWf (execVcmpfltVv d a b msk ca cb s) := by
  grind -ring -linarith -lia -order [execVcmpfltVv, ResMemWf, memWf_vcmp]
theorem memWf_execVcmpfltVs (d : BitVec 4) (a b : BitVec 5) (msk : BitVec 4) (ca : Bool) (s : State) (h_s : Memory.wf s.mem =
    true) :
    ResMemWf (execVcmpfltVs d a b msk ca s) := by
  grind -ring -linarith -lia -order [execVcmpfltVs, ResMemWf, memWf_vcmp]
theorem memWf_execVcmpfleVv (d : BitVec 4) (a b : BitVec 5) (msk : BitVec 4) (ca cb : Bool) (s : State) (h_s : Memory.wf s.mem
    = true) :
    ResMemWf (execVcmpfleVv d a b msk ca cb s) := by
  grind -ring -linarith -lia -order [execVcmpfleVv, ResMemWf, memWf_vcmp]
theorem memWf_execVcmpfleVs (d : BitVec 4) (a b : BitVec 5) (msk : BitVec 4) (ca : Bool) (s : State) (h_s : Memory.wf s.mem =
    true) :
    ResMemWf (execVcmpfleVs d a b msk ca s) := by
  grind -ring -linarith -lia -order [execVcmpfleVs, ResMemWf, memWf_vcmp]
theorem memWf_execVcmpfunoVv (d : BitVec 4) (a b : BitVec 5) (msk : BitVec 4) (ca cb : Bool) (s : State) (h_s : Memory.wf s.mem
    = true) :
    ResMemWf (execVcmpfunoVv d a b msk ca cb s) := by
  grind -ring -linarith -lia -order [execVcmpfunoVv, ResMemWf, memWf_vcmp]
theorem memWf_execVcmpfunoVs (d : BitVec 4) (a b : BitVec 5) (msk : BitVec 4) (ca : Bool) (s : State) (h_s : Memory.wf s.mem =
    true) :
    ResMemWf (execVcmpfunoVs d a b msk ca s) := by
  grind -ring -linarith -lia -order [execVcmpfunoVs, ResMemWf, memWf_vcmp]
theorem memWf_maskBody (p : Span) (d a b : BitVec 5) (f : (Nat → Bool) → (Nat → Bool) → Nat → Bool) (hi : Nat) (s : State) (h_s
    : Memory.wf s.mem = true) :
    Memory.wf (maskBody p d a b f hi s).s.mem = true := by
  grind -ring -linarith -lia -order [maskBody, memWf_kPut]
theorem memWf_kOp (d a b : BitVec 5) (f : (Nat → Bool) → (Nat → Bool) → Nat → Bool) (s : State) (h_s : Memory.wf s.mem = true) :
    ResMemWf (kOp d a b f s) := by
  grind -ring -linarith -lia -order [kOp, ResMemWf, memWf_vLocal, memWf_maskBody]
theorem memWf_execKand (d a b : BitVec 5) (_ca _cb : Bool) (s : State) (h_s : Memory.wf s.mem = true) :
    ResMemWf (execKand d a b _ca _cb s) := by
  grind -ring -linarith -lia -order [execKand, ResMemWf, memWf_kOp]
theorem memWf_execKor (d a b : BitVec 5) (_ca _cb : Bool) (s : State) (h_s : Memory.wf s.mem = true) :
    ResMemWf (execKor d a b _ca _cb s) := by
  grind -ring -linarith -lia -order [execKor, ResMemWf, memWf_kOp]
theorem memWf_execKxor (d a b : BitVec 5) (_ca _cb : Bool) (s : State) (h_s : Memory.wf s.mem = true) :
    ResMemWf (execKxor d a b _ca _cb s) := by
  grind -ring -linarith -lia -order [execKxor, ResMemWf, memWf_kOp]
theorem memWf_execKandn (d a b : BitVec 5) (_ca _cb : Bool) (s : State) (h_s : Memory.wf s.mem = true) :
    ResMemWf (execKandn d a b _ca _cb s) := by
  grind -ring -linarith -lia -order [execKandn, ResMemWf, memWf_kOp]
theorem memWf_execKnot (d a : BitVec 5) (_ca : Bool) (s : State) (h_s : Memory.wf s.mem = true) :
    ResMemWf (execKnot d a _ca s) := by
  grind -ring -linarith -lia -order [execKnot, ResMemWf, memWf_kOp]
theorem memWf_execKmov (d a : BitVec 5) (_ca : Bool) (s : State) (h_s : Memory.wf s.mem = true) :
    ResMemWf (execKmov d a _ca s) := by
  grind -ring -linarith -lia -order [execKmov, ResMemWf, memWf_kOp]
theorem memWf_execKprefix (d a : BitVec 5) (_ca : Bool) (s : State) (h_s : Memory.wf s.mem = true) :
    ResMemWf (execKprefix d a _ca s) := by
  grind -ring -linarith -lia -order [execKprefix, ResMemWf, memWf_kOp]
theorem memWf_execKsbf (d a : BitVec 5) (_ca : Bool) (s : State) (h_s : Memory.wf s.mem = true) :
    ResMemWf (execKsbf d a _ca s) := by
  grind -ring -linarith -lia -order [execKsbf, ResMemWf, memWf_kOp]
theorem memWf_kLocal (f : Core → Core) (s : State) (h_s : Memory.wf s.mem = true) :
    ResMemWf (kLocal f s) := by
  grind -ring -linarith -lia -order [kLocal, ResMemWf, memWf_updMe, memWf_nextPc]
theorem memWf_execKpop (d a : BitVec 5) (_ca : Bool) (s : State) (h_s : Memory.wf s.mem = true) :
    ResMemWf (execKpop d a _ca s) := by
  grind -ring -linarith -lia -order [execKpop, ResMemWf, memWf_kLocal]
theorem memWf_execKfromg (d a b : BitVec 5) (s : State) (h_s : Memory.wf s.mem = true) :
    ResMemWf (execKfromg d a b s) := by
  grind -ring -linarith -lia -order [execKfromg, ResMemWf, memWf_kLocal]
theorem memWf_execKtog (d a b : BitVec 5) (_ca : Bool) (s : State) (h_s : Memory.wf s.mem = true) :
    ResMemWf (execKtog d a b _ca s) := by
  grind -ring -linarith -lia -order [execKtog, ResMemWf, memWf_kLocal]
theorem memWf_kCount (w : BitVec 32) (d a : BitVec 5) (f : List Nat → Word) (s : State) (h_s : Memory.wf s.mem = true) :
    ResMemWf (kCount w d a f s) := by
  grind -ring -linarith -lia -order [kCount, ResMemWf, memWf_gAll, memWf_vAll]
theorem memWf_execKpopvl (d a : BitVec 5) (ca : Bool) (s : State) (h_s : Memory.wf s.mem = true) :
    ResMemWf (execKpopvl d a ca s) := by
  grind -ring -linarith -lia -order [execKpopvl, ResMemWf, memWf_kCount]
theorem memWf_execKfirst (d a : BitVec 5) (ca : Bool) (s : State) (h_s : Memory.wf s.mem = true) :
    ResMemWf (execKfirst d a ca s) := by
  grind -ring -linarith -lia -order [execKfirst, ResMemWf, memWf_kCount]
theorem memWf_execViota (d : BitVec 5) (msk : BitVec 4) (start : BitVec 9) (incr : BitVec 8) (s : State) (h_s : Memory.wf s.mem
    = true) :
    ResMemWf (execViota d msk start incr s) := by
  grind -ring -linarith -lia -order [execViota, ResMemWf, memWf_elemBody, memWf_vLocal]
theorem memWf_cvtBody (p : Span) (u : UReg) (dst : Fmt) (d a part : BitVec 5) (msk : BitVec 4) (hi : Nat) (s : State) (h_s :
    Memory.wf s.mem = true) :
    Memory.wf (cvtBody p u dst d a part msk hi s).s.mem = true := by
  refine memWf_raiseAll _ _ _ (memWf_foldl (fun t e h => ?_) _ h_s)
  exact memWf_foldl (fun t c h => memWf_updCore t c _ h) _ h
theorem memWf_execVcvt (d a part : BitVec 5) (msk : BitVec 4) (ca : Bool) (fmt : BitVec 5) (s : State) (h_s : Memory.wf s.mem =
    true) :
    ResMemWf (execVcvt d a part msk ca fmt s) := by
  grind -ring -linarith -lia -order [execVcvt, ResMemWf, memWf_vLocal, memWf_cvtBody]
theorem memWf_elemRead (s : State) (c a n : Nat) (h_s : Memory.wf s.mem = true) :
    AccMemWf (State.elemRead s c a n) := by
  grind -ring -linarith -lia -order [State.elemRead, AccMemWf, memWf_Acc_bind, memWf_xlat, memWf_loadAt, memWf_trap]
theorem memWf_elemWrite (s : State) (c a n v : Nat) (h_s : Memory.wf s.mem = true) :
    AccMemWf (State.elemWrite s c a n v) := by
  grind -ring -linarith -lia -order [State.elemWrite, AccMemWf, memWf_Acc_bind, memWf_xlat, memWf_storeAt, memWf_trap]
theorem memWf_elemsLoad {get : State → Nat → Acc Nat} (hg : ∀ t j, Memory.wf t.mem = true → AccMemWf (get t j)) (l : List Nat)
    {s : State} (r : List (Nat × Nat)) (h_s : Memory.wf s.mem = true) : Memory.wf (loadRun get l s r).2.2.mem = true := by
  induction l generalizing s r with
  | nil => exact h_s
  | cons j l ih =>
    have h := hg s j h_s
    unfold loadRun
    generalize get s j = x at h
    cases x with
    | ok v t => exact ih _ h
    | trap t u => exact h
    | wait t => exact h
theorem memWf_elemsStore {put : State → Nat → Acc Unit} (hp : ∀ t j, Memory.wf t.mem = true → AccMemWf (put t j)) (l : List Nat)
    {s : State} (h_s : Memory.wf s.mem = true) : Memory.wf (storeRun put l s).2.mem = true := by
  induction l generalizing s with
  | nil => exact h_s
  | cons j l ih =>
    have h := hp s j h_s
    unfold storeRun
    generalize put s j = x at h
    cases x with
    | ok v t => exact ih h
    | trap t u => exact h
    | wait t => exact h
theorem memWf_runOut (p : Span) (hi : Nat) (dix : Option (Nat → BitVec 48)) (e : RunEnd) (s : State) (h_s : Memory.wf s.mem =
    true) :
    Memory.wf (runOut p hi dix e s).s.mem = true := by
  cases e <;> exact h_s
theorem memWf_loadBody (p : Span) (t : BitVec 5) (msk : BitVec 4) (ff : Bool) (va : State → VAddr) (hi : Nat) (s : State) (h_s
    : Memory.wf s.mem = true) :
    Memory.wf (loadBody p t msk ff va hi s).s.mem = true := by
  unfold loadBody
  extract_lets m act l
  have hl := memWf_elemsLoad (get := fun s j => s.elemRead (p.core j) (m.addr j) (p.ew / 8)) (fun t j h => memWf_elemRead t _ _
      _ h) l [] h_s
  generalize loadRun _ l s [] = r at hl
  obtain ⟨r, e, u⟩ := r
  have hd := memWf_vPut u p t.toNat r hl
  grind -ring -linarith -lia -order [memWf_runOut]
theorem memWf_storeBody (p : Span) (t : BitVec 5) (msk : BitVec 4) (va : State → VAddr) (hi : Nat) (s : State) (h_s : Memory.wf
    s.mem = true) :
    Memory.wf (storeBody p t msk va hi s).s.mem = true := by
  unfold storeBody
  extract_lets m act x l
  have hl := memWf_elemsStore (put := fun s j => s.elemWrite (p.core j) (m.addr j) (p.ew / 8) (x j)) (fun t j h =>
      memWf_elemWrite t _ _ _ _ h) l h_s
  generalize storeRun _ l s = r at hl
  exact memWf_runOut _ _ _ _ _ hl
theorem memWf_vload (w : BitVec 32) (t : BitVec 5) (msk : BitVec 4) (ff : Bool) (srcs : List Nat) (va : Span → State → VAddr)
    (s : State) (h_s : Memory.wf s.mem = true) :
    ResMemWf (vload w t msk ff srcs va s) := by
  grind -ring -linarith -lia -order [vload, ResMemWf, memWf_vAll, memWf_loadBody]
theorem memWf_vstore (w : BitVec 32) (t : BitVec 5) (msk : BitVec 4) (srcs : List Nat) (va : Span → State → VAddr) (s : State)
    (h_s : Memory.wf s.mem = true) :
    ResMemWf (vstore w t msk srcs va s) := by
  grind -ring -linarith -lia -order [vstore, ResMemWf, memWf_vAll, memWf_storeBody]
theorem memWf_execVld (t b : BitVec 5) (msk : BitVec 4) (ff : Bool) (s : State) (h_s : Memory.wf s.mem = true) :
    ResMemWf (execVld t b msk ff s) := by
  grind -ring -linarith -lia -order [execVld, ResMemWf, memWf_vload]
theorem memWf_execVlds (t b x : BitVec 5) (msk : BitVec 4) (ff : Bool) (s : State) (h_s : Memory.wf s.mem = true) :
    ResMemWf (execVlds t b x msk ff s) := by
  grind -ring -linarith -lia -order [execVlds, ResMemWf, memWf_vload]
theorem memWf_execVldx (t b x : BitVec 5) (msk : BitVec 4) (ff c : Bool) (s : State) (h_s : Memory.wf s.mem = true) :
    ResMemWf (execVldx t b x msk ff c s) := by
  grind -ring -linarith -lia -order [execVldx, ResMemWf, memWf_vload]
theorem memWf_execVldn (t b : BitVec 5) (msk : BitVec 4) (ff : Bool) (s : State) (h_s : Memory.wf s.mem = true) :
    ResMemWf (execVldn t b msk ff s) := by
  grind -ring -linarith -lia -order [execVldn, ResMemWf, memWf_vload]
theorem memWf_execVst (t b : BitVec 5) (msk : BitVec 4) (c : Bool) (s : State) (h_s : Memory.wf s.mem = true) :
    ResMemWf (execVst t b msk c s) := by
  grind -ring -linarith -lia -order [execVst, ResMemWf, memWf_vstore]
theorem memWf_execVsts (t b x : BitVec 5) (msk : BitVec 4) (c : Bool) (s : State) (h_s : Memory.wf s.mem = true) :
    ResMemWf (execVsts t b x msk c s) := by
  grind -ring -linarith -lia -order [execVsts, ResMemWf, memWf_vstore]
theorem memWf_execVstx (t b x : BitVec 5) (msk : BitVec 4) (c : Bool) (s : State) (h_s : Memory.wf s.mem = true) :
    ResMemWf (execVstx t b x msk c s) := by
  grind -ring -linarith -lia -order [execVstx, ResMemWf, memWf_vstore]
theorem memWf_execVstn (t b : BitVec 5) (msk : BitVec 4) (c : Bool) (s : State) (h_s : Memory.wf s.mem = true) :
    ResMemWf (execVstn t b msk c s) := by
  grind -ring -linarith -lia -order [execVstn, ResMemWf, memWf_vstore]
theorem memWf_bcastBody (p : Span) (t b : BitVec 5) (msk : BitVec 4) (hi : Nat) (s : State) (h_s : Memory.wf s.mem = true) :
    Memory.wf (bcastBody p t b msk hi s).s.mem = true := by
  unfold bcastBody
  extract_lets l
  clear_value l
  cases l with
  | nil => exact h_s
  | cons j l =>
    have hr := memWf_elemRead s (p.core j) (s.base p b) (p.ew / 8) h_s
    dsimp only
    generalize s.elemRead _ _ _ = r at hr
    cases r with
    | ok v u => exact memWf_vPut _ _ _ _ hr
    | trap tr u => exact hr
    | wait u => exact hr
theorem memWf_execVldb (t b : BitVec 5) (msk : BitVec 4) (s : State) (h_s : Memory.wf s.mem = true) :
    ResMemWf (execVldb t b msk s) := by
  grind -ring -linarith -lia -order [execVldb, ResMemWf, memWf_vAll, memWf_bcastBody]
theorem memWf_byteOut (p : Span) (hi : Nat) (e : RunEnd) (s : State) (h_s : Memory.wf s.mem = true) :
    Memory.wf (byteOut p hi e s).s.mem = true := by
  cases e <;> exact h_s
theorem memWf_execVldk (t b : BitVec 5) (s : State) (h_s : Memory.wf s.mem = true) :
    ResMemWf (execVldk t b s) := by
  grind -ring -linarith -lia -order [execVldk, ResMemWf, memWf_loadRun, memWf_kPut, memWf_vAll, memWf_elemRead,
      memWf_elemsLoad, memWf_byteOut]
theorem memWf_execVstk (t b : BitVec 5) (s : State) (h_s : Memory.wf s.mem = true) :
    ResMemWf (execVstk t b s) := by
  grind -ring -linarith -lia -order [execVstk, ResMemWf, memWf_storeRun, memWf_vAll, memWf_elemWrite, memWf_elemsStore,
      memWf_byteOut]
theorem memWf_typedRead (s : State) (c t space n l : Nat) (h_s : Memory.wf s.mem = true) :
    AccMemWf (State.typedRead s c t space n l) := by
  grind -ring -linarith -lia -order [State.typedRead, AccMemWf, memWf_trap, memWf_pin]
theorem memWf_typedWrite (s : State) (c t space n l v : Nat) (h_s : Memory.wf s.mem = true) :
    AccMemWf (State.typedWrite s c t space n l v) := by
  grind -ring -linarith -lia -order [State.typedWrite, AccMemWf, memWf_typedPut, memWf_trap, memWf_pin]
theorem memWf_execVldt (t b x : BitVec 5) (msk : BitVec 4) (s : State) (h_s : Memory.wf s.mem = true) :
    ResMemWf (execVldt t b x msk s) := by
  grind -ring -linarith -lia -order [execVldt, ResMemWf, memWf_loadRun, memWf_vPut, memWf_vLocal, memWf_elemsLoad,
      memWf_runOut, memWf_typedRead]
theorem memWf_execVstt (t b x : BitVec 5) (msk : BitVec 4) (c : Bool) (s : State) (h_s : Memory.wf s.mem = true) :
    ResMemWf (execVstt t b x msk c s) := by
  grind -ring -linarith -lia -order [execVstt, ResMemWf, memWf_storeRun, memWf_vLocal, memWf_elemsStore, memWf_runOut,
      memWf_typedWrite]
theorem memWf_permBody (d a : BitVec 5) (b : VSrc) (msk : BitVec 4) (f : Span → (Nat → Nat) → (Nat → Nat) → Nat → Nat → Option
    Nat) (p : Span) (hi : Nat) (s : State) (h_s : Memory.wf s.mem = true) :
    Memory.wf (permBody d a b msk f p hi s).s.mem = true := by
  unfold permBody
  exact memWf_vPut _ _ _ _ h_s
theorem memWf_vperm (fn : Nat) (d a : BitVec 5) (b : VSrc) (msk : BitVec 4) (ca cb : Bool) (f : Span → (Nat → Nat) → (Nat →
    Nat) → Nat → Nat → Option Nat) (s : State) (h_s : Memory.wf s.mem = true) :
    ResMemWf (vperm fn d a b msk ca cb f s) := by
  grind -ring -linarith -lia -order [vperm, ResMemWf, memWf_vAll, memWf_permBody]
theorem memWf_execVmerge (d a b : BitVec 5) (msk : BitVec 4) (ca cb : Bool) (s : State) (h_s : Memory.wf s.mem = true) :
    ResMemWf (execVmerge d a b msk ca cb s) := by
  grind -ring -linarith -lia -order [execVmerge, ResMemWf, memWf_elemBody, memWf_vLocal]
theorem memWf_execVmov (d a : BitVec 5) (msk : BitVec 4) (ca : Bool) (s : State) (h_s : Memory.wf s.mem = true) :
    ResMemWf (execVmov d a msk ca s) := by
  grind -ring -linarith -lia -order [execVmov, ResMemWf, memWf_elemBody, memWf_vLocal]
theorem memWf_execVslideup (d a b : BitVec 5) (msk : BitVec 4) (ca : Bool) (s : State) (h_s : Memory.wf s.mem = true) :
    ResMemWf (execVslideup d a b msk ca s) := by
  grind -ring -linarith -lia -order [execVslideup, ResMemWf, memWf_vperm]
theorem memWf_execVslidedn (d a b : BitVec 5) (msk : BitVec 4) (ca : Bool) (s : State) (h_s : Memory.wf s.mem = true) :
    ResMemWf (execVslidedn d a b msk ca s) := by
  grind -ring -linarith -lia -order [execVslidedn, ResMemWf, memWf_vperm]
theorem memWf_execVpermx (d a b : BitVec 5) (msk : BitVec 4) (ca cb : Bool) (s : State) (h_s : Memory.wf s.mem = true) :
    ResMemWf (execVpermx d a b msk ca cb s) := by
  grind -ring -linarith -lia -order [execVpermx, ResMemWf, memWf_vperm]
theorem memWf_execVbcast (d a b : BitVec 5) (msk : BitVec 4) (ca : Bool) (s : State) (h_s : Memory.wf s.mem = true) :
    ResMemWf (execVbcast d a b msk ca s) := by
  grind -ring -linarith -lia -order [execVbcast, ResMemWf, memWf_vperm]
theorem memWf_execVzip (d a b : BitVec 5) (msk : BitVec 4) (ca cb : Bool) (s : State) (h_s : Memory.wf s.mem = true) :
    ResMemWf (execVzip d a b msk ca cb s) := by
  grind -ring -linarith -lia -order [execVzip, ResMemWf, memWf_vperm]
theorem memWf_execVunzip (d a b : BitVec 5) (msk : BitVec 4) (ca cb : Bool) (s : State) (h_s : Memory.wf s.mem = true) :
    ResMemWf (execVunzip d a b msk ca cb s) := by
  grind -ring -linarith -lia -order [execVunzip, ResMemWf, memWf_vperm]
theorem memWf_execVcompress (d a : BitVec 5) (msk : BitVec 4) (ca : Bool) (s : State) (h_s : Memory.wf s.mem = true) :
    ResMemWf (execVcompress d a msk ca s) := by
  grind -ring -linarith -lia -order [execVcompress, ResMemWf, memWf_vPut, memWf_vAll]
theorem memWf_execVexpand (d a : BitVec 5) (msk : BitVec 4) (ca : Bool) (s : State) (h_s : Memory.wf s.mem = true) :
    ResMemWf (execVexpand d a msk ca s) := by
  grind -ring -linarith -lia -order [execVexpand, ResMemWf, memWf_vPut, memWf_vAll]
theorem memWf_execVins (d a b : BitVec 5) (s : State) (h_s : Memory.wf s.mem = true) :
    ResMemWf (execVins d a b s) := by
  grind -ring -linarith -lia -order [execVins, ResMemWf, memWf_vPut, memWf_vAll]
theorem memWf_execVext (d a b : BitVec 5) (ca : Bool) (s : State) (h_s : Memory.wf s.mem = true) :
    ResMemWf (execVext d a b ca s) := by
  grind -ring -linarith -lia -order [execVext, ResMemWf, memWf_gAll, memWf_vAll]
theorem memWf_vred (fn : Nat) (d a b : BitVec 5) (msk : BitVec 4) (ca cb : Bool) (bad : Core → Bool) (f : UReg → Span → (Nat →
    Bool) → (Nat → Nat) → Nat → Nat × Flags) (s : State) (h_s : Memory.wf s.mem = true) :
    ResMemWf (vred fn d a b msk ca cb bad f s) := by
  grind -ring -linarith -lia -order [vred, ResMemWf, memWf_vPut, memWf_raiseAll, memWf_vAll]
theorem memWf_execVredsum (d a b : BitVec 5) (msk : BitVec 4) (ca cb : Bool) (s : State) (h_s : Memory.wf s.mem = true) :
    ResMemWf (execVredsum d a b msk ca cb s) := by
  grind -ring -linarith -lia -order [execVredsum, ResMemWf, memWf_vred]
theorem memWf_execVredmax (d a b : BitVec 5) (msk : BitVec 4) (ca cb : Bool) (s : State) (h_s : Memory.wf s.mem = true) :
    ResMemWf (execVredmax d a b msk ca cb s) := by
  grind -ring -linarith -lia -order [execVredmax, ResMemWf, memWf_vred]
theorem memWf_execVredmin (d a b : BitVec 5) (msk : BitVec 4) (ca cb : Bool) (s : State) (h_s : Memory.wf s.mem = true) :
    ResMemWf (execVredmin d a b msk ca cb s) := by
  grind -ring -linarith -lia -order [execVredmin, ResMemWf, memWf_vred]
theorem memWf_redBits (fn : Nat) (d a b : BitVec 5) (msk : BitVec 4) (ca cb : Bool) (op : Nat → Nat → Nat) (s : State) (h_s :
    Memory.wf s.mem = true) :
    ResMemWf (redBits fn d a b msk ca cb op s) := by
  grind -ring -linarith -lia -order [redBits, ResMemWf, memWf_vPut, memWf_vAll]
theorem memWf_execVredand (d a b : BitVec 5) (msk : BitVec 4) (ca cb : Bool) (s : State) (h_s : Memory.wf s.mem = true) :
    ResMemWf (execVredand d a b msk ca cb s) := by
  grind -ring -linarith -lia -order [execVredand, ResMemWf, memWf_redBits]
theorem memWf_execVredor (d a b : BitVec 5) (msk : BitVec 4) (ca cb : Bool) (s : State) (h_s : Memory.wf s.mem = true) :
    ResMemWf (execVredor d a b msk ca cb s) := by
  grind -ring -linarith -lia -order [execVredor, ResMemWf, memWf_redBits]
theorem memWf_execVredxor (d a b : BitVec 5) (msk : BitVec 4) (ca cb : Bool) (s : State) (h_s : Memory.wf s.mem = true) :
    ResMemWf (execVredxor d a b msk ca cb s) := by
  grind -ring -linarith -lia -order [execVredxor, ResMemWf, memWf_redBits]
theorem memWf_vscanWith (fn : Nat) (d a b : BitVec 5) (msk : BitVec 4) (ca cb : Bool) (srcs : List Nat) (sum : Bool) (op : UReg
    → ROp) (starts : Span → State → Nat → Bool) (start : UReg → Span → State → Nat) (s : State) (h_s : Memory.wf s.mem = true) :
    ResMemWf (vscanWith fn d a b msk ca cb srcs sum op starts start s) := by
  grind -ring -linarith -lia -order [vscanWith, ResMemWf, memWf_vPut, memWf_raiseAll, memWf_vAll]
theorem memWf_execVscan (d a b : BitVec 5) (msk : BitVec 4) (ca cb : Bool) (s : State) (h_s : Memory.wf s.mem = true) :
    ResMemWf (execVscan d a b msk ca cb s) := by
  grind -ring -linarith -lia -order [execVscan, ResMemWf, memWf_vscanWith]
theorem memWf_execVscanmax (d a b : BitVec 5) (msk : BitVec 4) (ca cb : Bool) (s : State) (h_s : Memory.wf s.mem = true) :
    ResMemWf (execVscanmax d a b msk ca cb s) := by
  grind -ring -linarith -lia -order [execVscanmax, ResMemWf, memWf_vscanWith]
theorem memWf_execVsegscan (d a b : BitVec 5) (msk : BitVec 4) (ca : Bool) (s : State) (h_s : Memory.wf s.mem = true) :
    ResMemWf (execVsegscan d a b msk ca s) := by
  grind -ring -linarith -lia -order [execVsegscan, ResMemWf, memWf_vscanWith]
theorem memWf_vseg (fn : Nat) (d a b : BitVec 5) (msk : BitVec 4) (ca sum : Bool) (op : UReg → ROp) (s : State) (h_s :
    Memory.wf s.mem = true) :
    ResMemWf (vseg fn d a b msk ca sum op s) := by
  grind -ring -linarith -lia -order [vseg, ResMemWf, memWf_vPut, memWf_raiseAll, memWf_vAll]
theorem memWf_execVsegred (d a b : BitVec 5) (msk : BitVec 4) (ca : Bool) (s : State) (h_s : Memory.wf s.mem = true) :
    ResMemWf (execVsegred d a b msk ca s) := by
  grind -ring -linarith -lia -order [execVsegred, ResMemWf, memWf_vseg]
theorem memWf_execVsegmax (d a b : BitVec 5) (msk : BitVec 4) (ca : Bool) (s : State) (h_s : Memory.wf s.mem = true) :
    ResMemWf (execVsegmax d a b msk ca s) := by
  grind -ring -linarith -lia -order [execVsegmax, ResMemWf, memWf_vseg]
theorem memWf_exec (i : Instr) (s : State) (h_s : Memory.wf s.mem = true) :
    ResMemWf (exec i s) := by
  cases i with
  | add d a b => exact memWf_execAdd d a b s h_s
  | sub d a b => exact memWf_execSub d a b s h_s
  | and d a b => exact memWf_execAnd d a b s h_s
  | or d a b => exact memWf_execOr d a b s h_s
  | xor d a b => exact memWf_execXor d a b s h_s
  | andn d a b => exact memWf_execAndn d a b s h_s
  | orn d a b => exact memWf_execOrn d a b s h_s
  | sll d a b => exact memWf_execSll d a b s h_s
  | srl d a b => exact memWf_execSrl d a b s h_s
  | sra d a b => exact memWf_execSra d a b s h_s
  | rol d a b => exact memWf_execRol d a b s h_s
  | ror d a b => exact memWf_execRor d a b s h_s
  | slt d a b => exact memWf_execSlt d a b s h_s
  | sltu d a b => exact memWf_execSltu d a b s h_s
  | min d a b => exact memWf_execMin d a b s h_s
  | max d a b => exact memWf_execMax d a b s h_s
  | minu d a b => exact memWf_execMinu d a b s h_s
  | maxu d a b => exact memWf_execMaxu d a b s h_s
  | addw d a b => exact memWf_execAddw d a b s h_s
  | subw d a b => exact memWf_execSubw d a b s h_s
  | clz d a => exact memWf_execClz d a s h_s
  | ctz d a => exact memWf_execCtz d a s h_s
  | popc d a => exact memWf_execPopc d a s h_s
  | brev d a => exact memWf_execBrev d a s h_s
  | bswap d a => exact memWf_execBswap d a s h_s
  | sext d a x => exact memWf_execSext d a x s h_s
  | zext d a x => exact memWf_execZext d a x s h_s
  | bfxv d a b => exact memWf_execBfxv d a b s h_s
  | bfxzv d a b => exact memWf_execBfxzv d a b s h_s
  | bfiv d a b => exact memWf_execBfiv d a b s h_s
  | selnz d a b => exact memWf_execSelnz d a b s h_s
  | selz d a b => exact memWf_execSelz d a b s h_s
  | mul d a b => exact memWf_execMul d a b s h_s
  | mulh d a b => exact memWf_execMulh d a b s h_s
  | mulhu d a b => exact memWf_execMulhu d a b s h_s
  | mulhsu d a b => exact memWf_execMulhsu d a b s h_s
  | mulw d a b => exact memWf_execMulw d a b s h_s
  | div d a b => exact memWf_execDiv d a b s h_s
  | divu d a b => exact memWf_execDivu d a b s h_s
  | rem d a b => exact memWf_execRem d a b s h_s
  | remu d a b => exact memWf_execRemu d a b s h_s
  | divw d a b => exact memWf_execDivw d a b s h_s
  | bfx d a pos wm1 => exact memWf_execBfx d a pos wm1 s h_s
  | bfxz d a pos wm1 => exact memWf_execBfxz d a pos wm1 s h_s
  | bfi d a pos wm1 => exact memWf_execBfi d a pos wm1 s h_s
  | addi d a imm => exact memWf_execAddi d a imm s h_s
  | andi d a imm => exact memWf_execAndi d a imm s h_s
  | ori d a imm => exact memWf_execOri d a imm s h_s
  | xori d a imm => exact memWf_execXori d a imm s h_s
  | slti d a imm => exact memWf_execSlti d a imm s h_s
  | sltiu d a imm => exact memWf_execSltiu d a imm s h_s
  | slli d a amt => exact memWf_execSlli d a amt s h_s
  | srli d a amt => exact memWf_execSrli d a amt s h_s
  | srai d a amt => exact memWf_execSrai d a amt s h_s
  | rori d a amt => exact memWf_execRori d a amt s h_s
  | movz d hw v => exact memWf_execMovz d hw v s h_s
  | movk d hw v => exact memWf_execMovk d hw v s h_s
  | lapc d imm => exact memWf_execLapc d imm s h_s
  | bfs sel off => exact memWf_execBfs sel off s h_s
  | bfc sel off => exact memWf_execBfc sel off s h_s
  | beq a b off => exact memWf_execBeq a b off s h_s
  | bne a b off => exact memWf_execBne a b off s h_s
  | blt a b off => exact memWf_execBlt a b off s h_s
  | bge a b off => exact memWf_execBge a b off s h_s
  | bltu a b off => exact memWf_execBltu a b off s h_s
  | bgeu a b off => exact memWf_execBgeu a b off s h_s
  | j off => exact memWf_execJ off s h_s
  | jal off => exact memWf_execJal off s h_s
  | jr a => exact memWf_execJr a s h_s
  | jalr d a => exact memWf_execJalr d a s h_s
  | lb t base off => exact memWf_execLb t base off s h_s
  | lbz t base off => exact memWf_execLbz t base off s h_s
  | lh t base off => exact memWf_execLh t base off s h_s
  | lhz t base off => exact memWf_execLhz t base off s h_s
  | lw t base off => exact memWf_execLw t base off s h_s
  | lwz t base off => exact memWf_execLwz t base off s h_s
  | ld t base off => exact memWf_execLd t base off s h_s
  | sb t base off => exact memWf_execSb t base off s h_s
  | sh t base off => exact memWf_execSh t base off s h_s
  | sw t base off => exact memWf_execSw t base off s h_s
  | sd t base off => exact memWf_execSd t base off s h_s
  | amoadd d a b scope order width => exact memWf_execAmoadd d a b scope order width s h_s
  | amoand d a b scope order width => exact memWf_execAmoand d a b scope order width s h_s
  | amoor d a b scope order width => exact memWf_execAmoor d a b scope order width s h_s
  | amoxor d a b scope order width => exact memWf_execAmoxor d a b scope order width s h_s
  | amomin d a b scope order width => exact memWf_execAmomin d a b scope order width s h_s
  | amomax d a b scope order width => exact memWf_execAmomax d a b scope order width s h_s
  | amominu d a b scope order width => exact memWf_execAmominu d a b scope order width s h_s
  | amomaxu d a b scope order width => exact memWf_execAmomaxu d a b scope order width s h_s
  | amoswap d a b scope order width => exact memWf_execAmoswap d a b scope order width s h_s
  | amocas d a b scope order width => exact memWf_execAmocas d a b scope order width s h_s
  | amold d a scope order width => exact memWf_execAmold d a scope order width s h_s
  | amost a b scope order width => exact memWf_execAmost a b scope order width s h_s
  | amowait d a b scope order width => exact memWf_execAmowait d a b scope order width s h_s
  | acq a scope => exact memWf_execAcq a scope s h_s
  | rel a scope => exact memWf_execRel a scope s h_s
  | fence scope => exact memWf_execFence scope s h_s
  | own d a b => exact memWf_execOwn d a b s h_s
  | disown d a => exact memWf_execDisown d a s h_s
  | ifence a scope => exact memWf_execIfence a scope s h_s
  | arrive d a scope => exact memWf_execArrive d a scope s h_s
  | waitb d a b scope => exact memWf_execWaitb d a b scope s h_s
  | vote d a b scope => exact memWf_execVote d a b scope s h_s
  | jinit d a => exact memWf_execJinit d a s h_s
  | jarrive d a => exact memWf_execJarrive d a s h_s
  | jwait d a => exact memWf_execJwait d a s h_s
  | jkpt => exact memWf_execJkpt s h_s
  | jstat d a b => exact memWf_execJstat d a b s h_s
  | jleave d => exact memWf_execJleave d s h_s
  | suspend a => exact memWf_execSuspend a s h_s
  | retire => exact memWf_execRetire s h_s
  | launch d a => exact memWf_execLaunch d a s h_s
  | qry d a => exact memWf_execQry d a s h_s
  | locq d a => exact memWf_execLocq d a s h_s
  | rdtime d => exact memWf_execRdtime d s h_s
  | rdcyc d => exact memWf_execRdcyc d s h_s
  | trap a => exact memWf_execTrap a s h_s
  | brk => exact memWf_execBreak s h_s
  | nop => exact memWf_execNop s h_s
  | engwait a => exact memWf_execEngwait a s h_s
  | engstat d => exact memWf_execEngstat d s h_s
  | gang d => exact memWf_execGang d s h_s
  | disband => exact memWf_execDisband s h_s
  | crd d creg => exact memWf_execCrd d creg s h_s
  | cwr d a creg => exact memWf_execCwr d a creg s h_s
  | cset d a creg => exact memWf_execCset d a creg s h_s
  | cclr d a creg => exact memWf_execCclr d a creg s h_s
  | setvl d a vtype y => exact memWf_execSetvl d a vtype y s h_s
  | setvlMax d vtype y => exact memWf_execSetvlMax d vtype y s h_s
  | setvlType d vtype y => exact memWf_execSetvlType d vtype y s h_s
  | setd a b dim => exact memWf_execSetd a b dim s h_s
  | vaddVv d a b msk ca cb => exact memWf_execVaddVv d a b msk ca cb s h_s
  | vaddVs d a b msk ca => exact memWf_execVaddVs d a b msk ca s h_s
  | vsubVv d a b msk ca cb => exact memWf_execVsubVv d a b msk ca cb s h_s
  | vsubVs d a b msk ca => exact memWf_execVsubVs d a b msk ca s h_s
  | vrsubVv d a b msk ca cb => exact memWf_execVrsubVv d a b msk ca cb s h_s
  | vrsubVs d a b msk ca => exact memWf_execVrsubVs d a b msk ca s h_s
  | vmulVv d a b msk ca cb => exact memWf_execVmulVv d a b msk ca cb s h_s
  | vmulVs d a b msk ca => exact memWf_execVmulVs d a b msk ca s h_s
  | vmulhVv d a b msk ca cb => exact memWf_execVmulhVv d a b msk ca cb s h_s
  | vmulhVs d a b msk ca => exact memWf_execVmulhVs d a b msk ca s h_s
  | vmulhuVv d a b msk ca cb => exact memWf_execVmulhuVv d a b msk ca cb s h_s
  | vmulhuVs d a b msk ca => exact memWf_execVmulhuVs d a b msk ca s h_s
  | vminVv d a b msk ca cb => exact memWf_execVminVv d a b msk ca cb s h_s
  | vminVs d a b msk ca => exact memWf_execVminVs d a b msk ca s h_s
  | vmaxVv d a b msk ca cb => exact memWf_execVmaxVv d a b msk ca cb s h_s
  | vmaxVs d a b msk ca => exact memWf_execVmaxVs d a b msk ca s h_s
  | vminuVv d a b msk ca cb => exact memWf_execVminuVv d a b msk ca cb s h_s
  | vminuVs d a b msk ca => exact memWf_execVminuVs d a b msk ca s h_s
  | vmaxuVv d a b msk ca cb => exact memWf_execVmaxuVv d a b msk ca cb s h_s
  | vmaxuVs d a b msk ca => exact memWf_execVmaxuVs d a b msk ca s h_s
  | vandVv d a b msk ca cb => exact memWf_execVandVv d a b msk ca cb s h_s
  | vandVs d a b msk ca => exact memWf_execVandVs d a b msk ca s h_s
  | vorVv d a b msk ca cb => exact memWf_execVorVv d a b msk ca cb s h_s
  | vorVs d a b msk ca => exact memWf_execVorVs d a b msk ca s h_s
  | vxorVv d a b msk ca cb => exact memWf_execVxorVv d a b msk ca cb s h_s
  | vxorVs d a b msk ca => exact memWf_execVxorVs d a b msk ca s h_s
  | vsllVv d a b msk ca cb => exact memWf_execVsllVv d a b msk ca cb s h_s
  | vsllVs d a b msk ca => exact memWf_execVsllVs d a b msk ca s h_s
  | vsrlVv d a b msk ca cb => exact memWf_execVsrlVv d a b msk ca cb s h_s
  | vsrlVs d a b msk ca => exact memWf_execVsrlVs d a b msk ca s h_s
  | vsraVv d a b msk ca cb => exact memWf_execVsraVv d a b msk ca cb s h_s
  | vsraVs d a b msk ca => exact memWf_execVsraVs d a b msk ca s h_s
  | vaddsatVv d a b msk ca cb => exact memWf_execVaddsatVv d a b msk ca cb s h_s
  | vaddsatVs d a b msk ca => exact memWf_execVaddsatVs d a b msk ca s h_s
  | vsubsatVv d a b msk ca cb => exact memWf_execVsubsatVv d a b msk ca cb s h_s
  | vsubsatVs d a b msk ca => exact memWf_execVsubsatVs d a b msk ca s h_s
  | vaddsatuVv d a b msk ca cb => exact memWf_execVaddsatuVv d a b msk ca cb s h_s
  | vaddsatuVs d a b msk ca => exact memWf_execVaddsatuVs d a b msk ca s h_s
  | vsubsatuVv d a b msk ca cb => exact memWf_execVsubsatuVv d a b msk ca cb s h_s
  | vsubsatuVs d a b msk ca => exact memWf_execVsubsatuVs d a b msk ca s h_s
  | vabsdVv d a b msk ca cb => exact memWf_execVabsdVv d a b msk ca cb s h_s
  | vabsdVs d a b msk ca => exact memWf_execVabsdVs d a b msk ca s h_s
  | vmaccVv d a b msk ca cb => exact memWf_execVmaccVv d a b msk ca cb s h_s
  | vmaccVs d a b msk ca => exact memWf_execVmaccVs d a b msk ca s h_s
  | vdivVv d a b msk ca cb => exact memWf_execVdivVv d a b msk ca cb s h_s
  | vdivVs d a b msk ca => exact memWf_execVdivVs d a b msk ca s h_s
  | vremVv d a b msk ca cb => exact memWf_execVremVv d a b msk ca cb s h_s
  | vremVs d a b msk ca => exact memWf_execVremVs d a b msk ca s h_s
  | vfaddVv d a b msk ca cb => exact memWf_execVfaddVv d a b msk ca cb s h_s
  | vfaddVs d a b msk ca => exact memWf_execVfaddVs d a b msk ca s h_s
  | vfsubVv d a b msk ca cb => exact memWf_execVfsubVv d a b msk ca cb s h_s
  | vfsubVs d a b msk ca => exact memWf_execVfsubVs d a b msk ca s h_s
  | vfmulVv d a b msk ca cb => exact memWf_execVfmulVv d a b msk ca cb s h_s
  | vfmulVs d a b msk ca => exact memWf_execVfmulVs d a b msk ca s h_s
  | vfdivVv d a b msk ca cb => exact memWf_execVfdivVv d a b msk ca cb s h_s
  | vfdivVs d a b msk ca => exact memWf_execVfdivVs d a b msk ca s h_s
  | vfmaVv d a b msk ca cb => exact memWf_execVfmaVv d a b msk ca cb s h_s
  | vfmaVs d a b msk ca => exact memWf_execVfmaVs d a b msk ca s h_s
  | vfmsVv d a b msk ca cb => exact memWf_execVfmsVv d a b msk ca cb s h_s
  | vfmsVs d a b msk ca => exact memWf_execVfmsVs d a b msk ca s h_s
  | vfnmaVv d a b msk ca cb => exact memWf_execVfnmaVv d a b msk ca cb s h_s
  | vfnmaVs d a b msk ca => exact memWf_execVfnmaVs d a b msk ca s h_s
  | vfminVv d a b msk ca cb => exact memWf_execVfminVv d a b msk ca cb s h_s
  | vfminVs d a b msk ca => exact memWf_execVfminVs d a b msk ca s h_s
  | vfmaxVv d a b msk ca cb => exact memWf_execVfmaxVv d a b msk ca cb s h_s
  | vfmaxVs d a b msk ca => exact memWf_execVfmaxVs d a b msk ca s h_s
  | vfsqrtVv d a msk ca => exact memWf_execVfsqrtVv d a msk ca s h_s
  | vfsqrtVs d a msk ca => exact memWf_execVfsqrtVs d a msk ca s h_s
  | vfrcpVv d a msk ca => exact memWf_execVfrcpVv d a msk ca s h_s
  | vfrcpVs d a msk ca => exact memWf_execVfrcpVs d a msk ca s h_s
  | vfrsqVv d a msk ca => exact memWf_execVfrsqVv d a msk ca s h_s
  | vfrsqVs d a msk ca => exact memWf_execVfrsqVs d a msk ca s h_s
  | vfexp2Vv d a msk ca => exact memWf_execVfexp2Vv d a msk ca s h_s
  | vfexp2Vs d a msk ca => exact memWf_execVfexp2Vs d a msk ca s h_s
  | vflog2Vv d a msk ca => exact memWf_execVflog2Vv d a msk ca s h_s
  | vflog2Vs d a msk ca => exact memWf_execVflog2Vs d a msk ca s h_s
  | vftanhVv d a msk ca => exact memWf_execVftanhVv d a msk ca s h_s
  | vftanhVs d a msk ca => exact memWf_execVftanhVs d a msk ca s h_s
  | vfabsVv d a msk ca => exact memWf_execVfabsVv d a msk ca s h_s
  | vfabsVs d a msk ca => exact memWf_execVfabsVs d a msk ca s h_s
  | vfnegVv d a msk ca => exact memWf_execVfnegVv d a msk ca s h_s
  | vfnegVs d a msk ca => exact memWf_execVfnegVs d a msk ca s h_s
  | vfsgnjVv d a b msk ca cb => exact memWf_execVfsgnjVv d a b msk ca cb s h_s
  | vfsgnjVs d a b msk ca => exact memWf_execVfsgnjVs d a b msk ca s h_s
  | vfclassVv d a msk ca => exact memWf_execVfclassVv d a msk ca s h_s
  | vfclassVs d a msk ca => exact memWf_execVfclassVs d a msk ca s h_s
  | vcmpeqVv d a b msk ca cb => exact memWf_execVcmpeqVv d a b msk ca cb s h_s
  | vcmpeqVs d a b msk ca => exact memWf_execVcmpeqVs d a b msk ca s h_s
  | vcmpneVv d a b msk ca cb => exact memWf_execVcmpneVv d a b msk ca cb s h_s
  | vcmpneVs d a b msk ca => exact memWf_execVcmpneVs d a b msk ca s h_s
  | vcmpltVv d a b msk ca cb => exact memWf_execVcmpltVv d a b msk ca cb s h_s
  | vcmpltVs d a b msk ca => exact memWf_execVcmpltVs d a b msk ca s h_s
  | vcmpgeVv d a b msk ca cb => exact memWf_execVcmpgeVv d a b msk ca cb s h_s
  | vcmpgeVs d a b msk ca => exact memWf_execVcmpgeVs d a b msk ca s h_s
  | vcmpltuVv d a b msk ca cb => exact memWf_execVcmpltuVv d a b msk ca cb s h_s
  | vcmpltuVs d a b msk ca => exact memWf_execVcmpltuVs d a b msk ca s h_s
  | vcmpgeuVv d a b msk ca cb => exact memWf_execVcmpgeuVv d a b msk ca cb s h_s
  | vcmpgeuVs d a b msk ca => exact memWf_execVcmpgeuVs d a b msk ca s h_s
  | vcmpfeqVv d a b msk ca cb => exact memWf_execVcmpfeqVv d a b msk ca cb s h_s
  | vcmpfeqVs d a b msk ca => exact memWf_execVcmpfeqVs d a b msk ca s h_s
  | vcmpfltVv d a b msk ca cb => exact memWf_execVcmpfltVv d a b msk ca cb s h_s
  | vcmpfltVs d a b msk ca => exact memWf_execVcmpfltVs d a b msk ca s h_s
  | vcmpfleVv d a b msk ca cb => exact memWf_execVcmpfleVv d a b msk ca cb s h_s
  | vcmpfleVs d a b msk ca => exact memWf_execVcmpfleVs d a b msk ca s h_s
  | vcmpfunoVv d a b msk ca cb => exact memWf_execVcmpfunoVv d a b msk ca cb s h_s
  | vcmpfunoVs d a b msk ca => exact memWf_execVcmpfunoVs d a b msk ca s h_s
  | kand d a b ca cb => exact memWf_execKand d a b ca cb s h_s
  | kor d a b ca cb => exact memWf_execKor d a b ca cb s h_s
  | kxor d a b ca cb => exact memWf_execKxor d a b ca cb s h_s
  | kandn d a b ca cb => exact memWf_execKandn d a b ca cb s h_s
  | knot d a ca => exact memWf_execKnot d a ca s h_s
  | kmov d a ca => exact memWf_execKmov d a ca s h_s
  | kpop d a ca => exact memWf_execKpop d a ca s h_s
  | kpopvl d a ca => exact memWf_execKpopvl d a ca s h_s
  | kfirst d a ca => exact memWf_execKfirst d a ca s h_s
  | kfromg d a b => exact memWf_execKfromg d a b s h_s
  | ktog d a b ca => exact memWf_execKtog d a b ca s h_s
  | kprefix d a ca => exact memWf_execKprefix d a ca s h_s
  | ksbf d a ca => exact memWf_execKsbf d a ca s h_s
  | vmerge d a b msk ca cb => exact memWf_execVmerge d a b msk ca cb s h_s
  | vslideup d a b msk ca => exact memWf_execVslideup d a b msk ca s h_s
  | vslidedn d a b msk ca => exact memWf_execVslidedn d a b msk ca s h_s
  | vpermx d a b msk ca cb => exact memWf_execVpermx d a b msk ca cb s h_s
  | vcompress d a msk ca => exact memWf_execVcompress d a msk ca s h_s
  | vexpand d a msk ca => exact memWf_execVexpand d a msk ca s h_s
  | vbcast d a b msk ca => exact memWf_execVbcast d a b msk ca s h_s
  | vins d a b => exact memWf_execVins d a b s h_s
  | vext d a b ca => exact memWf_execVext d a b ca s h_s
  | vmov d a msk ca => exact memWf_execVmov d a msk ca s h_s
  | vzip d a b msk ca cb => exact memWf_execVzip d a b msk ca cb s h_s
  | vunzip d a b msk ca cb => exact memWf_execVunzip d a b msk ca cb s h_s
  | vcvt d a p msk ca fmt => exact memWf_execVcvt d a p msk ca fmt s h_s
  | vredsum d a b msk ca cb => exact memWf_execVredsum d a b msk ca cb s h_s
  | vredmax d a b msk ca cb => exact memWf_execVredmax d a b msk ca cb s h_s
  | vredmin d a b msk ca cb => exact memWf_execVredmin d a b msk ca cb s h_s
  | vredand d a b msk ca cb => exact memWf_execVredand d a b msk ca cb s h_s
  | vredor d a b msk ca cb => exact memWf_execVredor d a b msk ca cb s h_s
  | vredxor d a b msk ca cb => exact memWf_execVredxor d a b msk ca cb s h_s
  | vscan d a b msk ca cb => exact memWf_execVscan d a b msk ca cb s h_s
  | vscanmax d a b msk ca cb => exact memWf_execVscanmax d a b msk ca cb s h_s
  | vsegred d a b msk ca => exact memWf_execVsegred d a b msk ca s h_s
  | vsegscan d a b msk ca => exact memWf_execVsegscan d a b msk ca s h_s
  | vsegmax d a b msk ca => exact memWf_execVsegmax d a b msk ca s h_s
  | viota d msk start incr => exact memWf_execViota d msk start incr s h_s
  | vld t base msk ff => exact memWf_execVld t base msk ff s h_s
  | vlds t base x msk ff => exact memWf_execVlds t base x msk ff s h_s
  | vldx t base x msk ff c => exact memWf_execVldx t base x msk ff c s h_s
  | vldn t base msk ff => exact memWf_execVldn t base msk ff s h_s
  | vldk t base => exact memWf_execVldk t base s h_s
  | vldb t base msk => exact memWf_execVldb t base msk s h_s
  | vldt t base x msk => exact memWf_execVldt t base x msk s h_s
  | vst t base msk c => exact memWf_execVst t base msk c s h_s
  | vsts t base x msk c => exact memWf_execVsts t base x msk c s h_s
  | vstx t base x msk c => exact memWf_execVstx t base x msk c s h_s
  | vstn t base msk c => exact memWf_execVstn t base msk c s h_s
  | vstk t base => exact memWf_execVstk t base s h_s
  | vstt t base x msk c => exact memWf_execVstt t base x msk c s h_s
  | mctx a => exact memWf_execMctx a s h_s
  | mgeo a => exact memWf_execMgeo a s h_s
  | mloadb a b tag => exact memWf_execMloadb a b tag s h_s
  | mswap tag => exact memWf_execMswap tag s h_s
  | mrun tag => exact memWf_execMrun tag s h_s
  | mclr tag => exact memWf_execMclr tag s h_s
  | cpcfg a => exact memWf_execCpcfg a s h_s
  | cpy d a b tag => exact memWf_execCpy d a b tag s h_s
  | cpyn d a b tag => exact memWf_execCpyn d a b tag s h_s
  | publ a tag => exact memWf_execPubl a tag s h_s
  | cpabort => exact memWf_execCpabort s h_s
  | sbind d a => exact memWf_execSbind d a s h_s
  | sunbind d => exact memWf_execSunbind d s h_s
  | ssync d => exact memWf_execSsync d s h_s
  | sstat d a => exact memWf_execSstat d a s h_s
  | gdef a b tag => exact memWf_execGdef a b tag s h_s
  | gwait tag => exact memWf_execGwait tag s h_s
  | gqry d tag => exact memWf_execGqry d tag s h_s
  | eret => exact memWf_execEret s h_s
  | rtwr a b => exact memWf_execRtwr a b s h_s
  | rtrd a b => exact memWf_execRtrd a b s h_s
  | rtinv a b => exact memWf_execRtinv a b s h_s
  | rsplit d a => exact memWf_execRsplit d a s h_s
  | rmerge d a => exact memWf_execRmerge d a s h_s
  | genbump d a => exact memWf_execGenbump d a s h_s
  | rcompact d a b => exact memWf_execRcompact d a b s h_s
  | ctxsv d a b => exact memWf_execCtxsv d a b s h_s
  | ctxld d a b => exact memWf_execCtxld d a b s h_s
  | ipost d a => exact memWf_execIpost d a s h_s
  | wfi d a => exact memWf_execWfi d a s h_s
  | haltc d a => exact memWf_execHaltc d a s h_s
  | qtailWrite fn q v => exact memWf_execQtailWrite fn q v s h_s
  | queueConfigWrite fn q off v => exact memWf_execQueueConfigWrite fn q off v s h_s
  | registerWrite fn bar off v => exact memWf_execRegisterWrite fn bar off v s h_s
  | debugHaltRelease core => exact memWf_execDebugHaltRelease core s h_s
  | queryEnum fn => exact memWf_execQueryEnum fn s h_s
  | createVdev fn => exact memWf_execCreateVdev fn s h_s
  | destroyVdev fn => exact memWf_execDestroyVdev fn s h_s
  | bind fn => exact memWf_execBind fn s h_s
  | setWeight fn => exact memWf_execSetWeight fn s h_s
  | postDeadline fn => exact memWf_execPostDeadline fn s h_s
  | partitionMode fn => exact memWf_execPartitionMode fn s h_s
  | reset fn => exact memWf_execReset fn s h_s
  | checkpoint fn => exact memWf_execCheckpoint fn s h_s
  | restore fn => exact memWf_execRestore fn s h_s
  | attest fn req => exact memWf_execAttest fn req s h_s
  | tdispOp fn req => exact memWf_execTdispOp fn req s h_s
  | resync fn => exact memWf_execResync fn s h_s
  | logRead fn => exact memWf_execLogRead fn s h_s
  | getVersion fn => exact memWf_execGetVersion fn s h_s
  | getCapabilities fn => exact memWf_execGetCapabilities fn s h_s
  | negotiateAlgorithms fn => exact memWf_execNegotiateAlgorithms fn s h_s
  | getDigests fn => exact memWf_execGetDigests fn s h_s
  | getCertificate fn => exact memWf_execGetCertificate fn s h_s
  | challenge fn => exact memWf_execChallenge fn s h_s
  | getMeasurements fn => exact memWf_execGetMeasurements fn s h_s
  | keyExchange fn => exact memWf_execKeyExchange fn s h_s
  | finish fn => exact memWf_execFinish fn s h_s
  | ideKm fn port stream key => exact memWf_execIdeKm fn port stream key s h_s
  | lockInterfaceRequest fn => exact memWf_execLockInterfaceRequest fn s h_s
  | startInterfaceRequest fn => exact memWf_execStartInterfaceRequest fn s h_s
  | stopInterfaceRequest fn => exact memWf_execStopInterfaceRequest fn s h_s
  | ideIntegrityFailure fn port stream => exact memWf_execIdeIntegrityFailure fn port stream s h_s
  | firmwareImageWrite off v => exact memWf_execFirmwareImageWrite off v s h_s
  | hostWrite port pa bytes => exact memWf_execHostWrite port pa bytes s h_s
  | hostRead port pa n => exact memWf_execHostRead port pa n s h_s
  | peerTransaction src op pa n v => exact memWf_execPeerTransaction src op pa n v s h_s
  | podRelayForward src op pa n v => exact memWf_execPodRelayForward src op pa n v s h_s
  | ualinkReplyTimeout core dva => exact memWf_execUalinkReplyTimeout core dva s h_s
  | launchSelection part => exact memWf_execLaunchSelection part s h_s
  | wispPlacement launch => exact memWf_execWispPlacement launch s h_s
  | expansionResume launch => exact memWf_execExpansionResume launch s h_s
  | wispRecordArrival launch index die => exact memWf_execWispRecordArrival launch index die s h_s
  | freeResourceReport die => exact memWf_execFreeResourceReport die s h_s
  | reportArrival die idle free occ => exact memWf_execReportArrival die idle free occ s h_s
  | overflowDrain vdev => exact memWf_execOverflowDrain vdev s h_s
  | heldWispDepart core => exact memWf_execHeldWispDepart core s h_s
  | wispPickup core => exact memWf_execWispPickup core s h_s
  | wispResume core => exact memWf_execWispResume core s h_s
  | priorityAging launch index => exact memWf_execPriorityAging launch index s h_s
  | clusterReservation die => exact memWf_execClusterReservation die s h_s
  | groupStart cluster => exact memWf_execGroupStart cluster s h_s
  | suspendWake launch index => exact memWf_execSuspendWake launch index s h_s
  | gangCollectivePairing core => exact memWf_execGangCollectivePairing core s h_s
  | fill core line => exact memWf_execFill core line s h_s
  | ownreq core line words data dirty => exact memWf_execOwnreq core line words data dirty s h_s
  | grant core line data mask => exact memWf_execGrant core line data mask s h_s
  | data core line data => exact memWf_execData core line data s h_s
  | fwd core line words => exact memWf_execFwd core line words s h_s
  | revoke core line words => exact memWf_execRevoke core line words s h_s
  | yield core line data dirty => exact memWf_execYield core line data dirty s h_s
  | evict core line data dirty => exact memWf_execEvict core line data dirty s h_s
  | disownreq core line data dirty => exact memWf_execDisownreq core line data dirty s h_s
  | ack core line => exact memWf_execAck core line s h_s
  | rangeWalk core dva => exact memWf_execRangeWalk core dva s h_s
  | generationNotice core asn => exact memWf_execGenerationNotice core asn s h_s
  | rangeInvalidation core asn base limit issuer => exact memWf_execRangeInvalidation core asn base limit issuer s h_s
  | dredgeCopyPhase => exact memWf_execDredgeCopyPhase s h_s
  | dredgeSwitchPhase => exact memWf_execDredgeSwitchPhase s h_s
  | dredgeBumpPhase => exact memWf_execDredgeBumpPhase s h_s
  | dredgeReleasePhase => exact memWf_execDredgeReleasePhase s h_s
  | pieceAdmission die => exact memWf_execPieceAdmission die s h_s
  | creditReturn die flits => exact memWf_execCreditReturn die flits s h_s
  | foreignFlitDrop part unit => exact memWf_execForeignFlitDrop part unit s h_s
  | linkOutOfService x y dir => exact memWf_execLinkOutOfService x y dir s h_s
  | timeRequest core => exact memWf_execTimeRequest core s h_s
  | timeReply core time => exact memWf_execTimeReply core time s h_s
  | copyCommandStart core => exact memWf_execCopyCommandStart core s h_s
  | copyCompletion core => exact memWf_execCopyCompletion core s h_s
  | publicationSwap core => exact memWf_execPublicationSwap core s h_s
  | matrixRowStep cluster => exact memWf_execMatrixRowStep cluster s h_s
  | mloadbExecution core => exact memWf_execMloadbExecution core s h_s
  | mswapExecution core => exact memWf_execMswapExecution core s h_s
  | mclrExecution core => exact memWf_execMclrExecution core s h_s
  | matrixCommandCompletion core => exact memWf_execMatrixCommandCompletion core s h_s
  | streamPrefetch core bix => exact memWf_execStreamPrefetch core bix s h_s
  | streamStorePerform core bix => exact memWf_execStreamStorePerform core bix s h_s
  | sendChunk core bix => exact memWf_execSendChunk core bix s h_s
  | ringProducedUpdate pa count => exact memWf_execRingProducedUpdate pa count s h_s
  | streamWaitEnd core => exact memWf_execStreamWaitEnd core s h_s
  | streamWatchdog core bix => exact memWf_execStreamWatchdog core bix s h_s
  | collectiveCombine anchor => exact memWf_execCollectiveCombine anchor s h_s
  | slotRequest anchor => exact memWf_execSlotRequest anchor s h_s
  | slotReturn anchor => exact memWf_execSlotReturn anchor s h_s
  | quorumStreamArrival core bix => exact memWf_execQuorumStreamArrival core bix s h_s
  | joinDeadline site slot => exact memWf_execJoinDeadline site slot s h_s
  | killSignal launch index => exact memWf_execKillSignal launch index s h_s
  | kgraceExpiry core => exact memWf_execKgraceExpiry core s h_s
  | preemptPosting core kind deadline => exact memWf_execPreemptPosting core kind deadline s h_s
  | forceSet core => exact memWf_execForceSet core s h_s
  | forcedPreemptionTrap core => exact memWf_execForcedPreemptionTrap core s h_s
  | quantumEnd part => exact memWf_execQuantumEnd part s h_s
  | checkpointVacateTimeout launch => exact memWf_execCheckpointVacateTimeout launch s h_s
  | deadlineRecheck isPart target => exact memWf_execDeadlineRecheck isPart target s h_s
  | checkpointEngineCopy launch => exact memWf_execCheckpointEngineCopy launch s h_s
  | wispEndCount launch index => exact memWf_execWispEndCount launch index s h_s
  | launchCompletion launch => exact memWf_execLaunchCompletion launch s h_s
  | eccError pa correctable => exact memWf_execEccError pa correctable s h_s
  | scrub => exact memWf_execScrub s h_s
  | backingRewrite pa => exact memWf_execBackingRewrite pa s h_s
  | coldBoot => exact memWf_execColdBoot s h_s
  | powerDown => exact memWf_execPowerDown s h_s
  | functionLevelReset fn => exact memWf_execFunctionLevelReset fn s h_s
  | resetEscalation rung target queue => exact memWf_execResetEscalation rung target queue s h_s
  | thermalThrottle die => exact memWf_execThermalThrottle die s h_s
  | clockRestore die => exact memWf_execClockRestore die s h_s
  | overtempShutdown die => exact memWf_execOvertempShutdown die s h_s
  | wfiTimeReached core => exact memWf_execWfiTimeReached core s h_s
  | resumeFromCarr launch index => exact memWf_execResumeFromCarr launch index s h_s
theorem memWf_settleStep {r : Res} (h : ResMemWf r) : ResMemWf (settleStep r) := by
  cases r with
  | next t => exact memWf_rotate _ (memWf_tick _ h)
  | fault _ => exact h
  | refused _ => exact h
theorem memWf_coreStep (s : State) (h_s : Memory.wf s.mem = true) :
    ResMemWf (coreStep s) := by
  unfold coreStep
  extract_lets c x
  refine resMemWf_ite h_s ?_
  split
  · exact resMemWf_ite h_s (memWf_stepHalt _ _ _ (memWf_endWait _ _ _ _ h_s))
  · refine resMemWf_ite (memWf_preemptTrap _ _ h_s) ?_
    split
    · exact memWf_takeTrap _ _ _ (memWf_updCore _ _ _ h_s)
    · have hi := memWf_issue s c h_s
      generalize s.issue c = r at hi
      cases r with
      | wait t => exact hi
      | trap r t => exact memWf_takeTrap _ _ _ hi
      | ok w t =>
        dsimp only
        split
        · exact memWf_takeTrap _ _ _ hi
        · next i _ =>
          have he := memWf_exec i t hi
          generalize exec i t = r at he
          cases r with
          | next u => exact memWf_stepHalt _ _ _ he
          | fault _ => exact he
          | refused _ => exact he
theorem memWf_eventStep (s : State) (h_s : Memory.wf s.mem = true) :
    ∀ t ∈ (eventStep s), ResMemWf t := by
  grind -ring -linarith -lia -order [eventStep, ResMemWf, memWf_exec]
theorem memWf_step (s : State) (h_s : Memory.wf s.mem = true) :
    ResMemWf (step s) := by
  grind -ring -linarith -lia -order [step, ResMemWf, memWf_exec, memWf_settleStep, memWf_coreStep, memWf_eventStep]
theorem memWf_withFetchWord (s : State) (_nbits w : Nat) (h_s : Memory.wf s.mem = true) :
    Memory.wf (State.withFetchWord s _nbits w).mem = true := by
  grind -ring -linarith -lia -order [State.withFetchWord, memWf_placeWord]

/-- Settles O59: each step is an execution of one instruction or of the schedule's, and each keeps memory canonical. -/
theorem everyStepKeepsMemoryCanonical : Obligations.EveryStepKeepsMemoryCanonical := by
  intro s t h_s hstep
  have h := memWf_step s h_s
  rwa [hstep] at h

end Sys2Proof.Machine
end

section
/-! SUPPORT. The values of INT and MULDIV (R109, R110): each function's value as its rule says it, then IntegerResults. -/

namespace Sys2Proof.Machine
set_option Elab.async false

/-! ### Sums, rotations, orders -/

theorem add_eq_ofInt (x y : Word) : x + y = BitVec.ofInt 64 (x.toInt + y.toInt) := by rw [BitVec.ofInt_add]; simp
theorem sub_eq_ofInt (x y : Word) : x - y = BitVec.ofInt 64 (x.toInt - y.toInt) := by
  apply BitVec.eq_of_toInt_eq
  rw [BitVec.toInt_sub, BitVec.toInt_ofInt]
theorem mul_eq_ofInt (x y : Word) : x * y = BitVec.ofInt 64 (x.toInt * y.toInt) := by rw [BitVec.ofInt_mul]; simp

/-- Bit i of a word stands n places further up after a left rotation by n. -/
theorem getLsbD_rotateLeft_word (x : Word) {n i : Nat} (hn : n < 64) (hi : i < 64) :
    (x.rotateLeft n).getLsbD ((i + n) % 64) = x.getLsbD i := by
  rw [BitVec.getLsbD_rotateLeft, Nat.mod_eq_of_lt hn]
  by_cases h : i + n < 64
  · rw [Nat.mod_eq_of_lt h]
    simp [h]
  · have hm : (i + n) % 64 = i + n - 64 := by omega
    have hlt : i + n - 64 < n := by omega
    have hback : 64 - n + (i + n - 64) = i := by omega
    simp [hm, hlt, hback]

theorem if_sle_eq_min (x y : Word) : (if x.sle y then x else y) = BitVec.ofInt 64 (min x.toInt y.toInt) := by
  rw [BitVec.sle_eq_decide]
  by_cases h : x.toInt ≤ y.toInt
  · simp [h]
  · simp [h, min_eq_right (le_of_not_ge h)]
theorem if_sle_eq_max (x y : Word) : (if x.sle y then y else x) = BitVec.ofInt 64 (max x.toInt y.toInt) := by
  rw [BitVec.sle_eq_decide]
  by_cases h : x.toInt ≤ y.toInt
  · simp [h]
  · simp [h, max_eq_left (le_of_not_ge h)]
theorem if_ule_eq_min (x y : Word) : (if x.ule y then x else y) = BitVec.ofNat 64 (min x.toNat y.toNat) := by
  rw [BitVec.ule_eq_decide]
  by_cases h : x.toNat ≤ y.toNat
  · simp [h]
  · simp [h, min_eq_right (le_of_not_ge h)]
theorem if_ule_eq_max (x y : Word) : (if x.ule y then y else x) = BitVec.ofNat 64 (max x.toNat y.toNat) := by
  rw [BitVec.ule_eq_decide]
  by_cases h : x.toNat ≤ y.toNat
  · simp [h]
  · simp [h, max_eq_left (le_of_not_ge h)]

/-! ### Words of 32 bits -/

/-- The low n bits of v, sign-extended, are the integer that those bits stand for. -/
theorem sextN_eq_ofInt (n : Nat) (v : Word) : sextN n v = BitVec.ofInt 64 (v.setWidth n).toInt := rfl
theorem zextN_eq_ofNat (n : Nat) (v : Word) : zextN n v = BitVec.ofNat 64 (v.toNat % 2 ^ n) := by
  apply BitVec.eq_of_toNat_eq
  simp [zextN]
theorem setWidth32_ofInt (i : Int) : (BitVec.ofInt 64 i).setWidth 32 = BitVec.ofInt 32 i := by
  apply BitVec.eq_of_toNat_eq
  rw [BitVec.toNat_setWidth, BitVec.toNat_ofInt, BitVec.toNat_ofInt]
  omega
theorem sextN32_ofInt (i : Int) : sextN 32 (BitVec.ofInt 64 i) = BitVec.ofInt 64 (BitVec.ofInt 32 i).toInt := by
  rw [sextN_eq_ofInt, setWidth32_ofInt]
/-- The high half of a product of natural numbers. -/
theorem highHalf_natCast (m n : Nat) : highHalf ((m : Int) * n) = BitVec.ofNat 64 (m * n / 2 ^ 64) := by
  rw [← BitVec.ofInt_natCast, highHalf, Int.natCast_ediv, Nat.cast_mul]
  rfl

/-! ### Counts of zeros, and bits reversed -/

theorem leadZeros_le (v : Word) (n : Nat) : leadZeros v n ≤ n := by
  induction n with
  | zero => exact le_rfl
  | succ n ih => rw [leadZeros]; split <;> omega
/-- The counted bits are 0, and the bit below them, where there is one, is 1. -/
theorem leadZeros_bits (v : Word) (n : Nat) : (∀ i, i < leadZeros v n → v.getLsbD (n - 1 - i) = false)
    ∧ (leadZeros v n < n → v.getLsbD (n - 1 - leadZeros v n) = true) := by
  induction n with
  | zero => simp [leadZeros]
  | succ n ih =>
    obtain ⟨zeros, one⟩ := ih
    rw [leadZeros]
    by_cases h : v.getLsbD n = true
    · simp [h]
    · rw [if_neg h]
      refine ⟨fun i hi => ?_, fun hlt => ?_⟩
      · cases i with
        | zero => simpa using h
        | succ i => simpa [Nat.sub_sub, Nat.add_comm] using zeros i (by omega)
      · simpa [Nat.sub_sub, Nat.add_comm] using one (by omega)
theorem trailZeros_le (v : Word) (i n : Nat) : trailZeros v i n ≤ n := by
  induction n generalizing i with
  | zero => exact le_rfl
  | succ n ih => rw [trailZeros]; split <;> grind
theorem trailZeros_bits (v : Word) (i n : Nat) : (∀ k, k < trailZeros v i n → v.getLsbD (i + k) = false)
    ∧ (trailZeros v i n < n → v.getLsbD (i + trailZeros v i n) = true) := by
  induction n generalizing i with
  | zero => simp [trailZeros]
  | succ n ih =>
    obtain ⟨zeros, one⟩ := ih (i + 1)
    rw [trailZeros]
    by_cases h : v.getLsbD i = true
    · simp [h]
    · rw [if_neg h]
      refine ⟨fun k hk => ?_, fun hlt => ?_⟩
      · cases k with
        | zero => simpa using h
        | succ k => simpa [Nat.add_assoc, Nat.add_comm 1] using zeros k (by omega)
      · simpa [Nat.add_assoc, Nat.add_comm 1] using one (by omega)
theorem popcount_eq_card (v : Word) : popcount v = ((Finset.range 64).filter (fun i => v.getLsbD i = true)).card := by
  rw [popcount, ← List.toFinset_card_of_nodup (List.nodup_range.filter _), List.toFinset_filter, List.toFinset_range]

/-- A fold of ors has the bits of what it starts from and of every word that it adds. -/
theorem getLsbD_foldl_or (l : List Nat) (f : Nat → Word) (r : Word) (j : Nat) :
    (l.foldl (fun r i => r ||| f i) r).getLsbD j = (r.getLsbD j || l.any (fun i => (f i).getLsbD j)) := by
  induction l generalizing r with
  | nil => simp
  | cons i l ih => simp [ih, Bool.or_assoc]
theorem getLsbD_bitReverse (v : Word) {i : Nat} (hi : i < 64) : (bitReverse v).getLsbD i = v.getLsbD (63 - i) := by
  have hfold : bitReverse v = (List.range 64).foldl (fun r k => r ||| if v.getLsbD k then BitVec.ofNat 64 (2 ^ (63 - k)) else
    0) 0 := by
    rw [bitReverse]
    congr 1
    funext r k
    split <;> simp
  have hbit (k : Nat) (hk : k < 64) :
      (if v.getLsbD k then BitVec.ofNat 64 (2 ^ (63 - k)) else (0 : Word)).getLsbD i = (v.getLsbD k && decide (k = 63 - i)) :=
        by
    by_cases h : v.getLsbD k = true
    · have hpos : (63 - k = i) = (k = 63 - i) := propext (by omega)
      rw [if_pos h, BitVec.getLsbD_ofNat, Nat.testBit_two_pow, h]
      simp [hi, hpos]
    · simp [h]
  rw [hfold, getLsbD_foldl_or, show (0 : Word).getLsbD i = false from BitVec.getLsbD_zero, Bool.false_or, Bool.eq_iff_iff,
    List.any_eq_true]
  constructor
  · rintro ⟨k, hk, hone⟩
    rw [hbit k (List.mem_range.mp hk), Bool.and_eq_true, decide_eq_true_eq] at hone
    exact hone.2 ▸ hone.1
  · intro h
    refine ⟨63 - i, List.mem_range.mpr (by omega), ?_⟩
    rw [hbit _ (by omega), h, decide_eq_true rfl]
    rfl
/-- Byte k of v, moved to byte 7 - k. -/
theorem getLsbD_movedByte (v : Word) {k j : Nat} (hk : k < 8) (hj : j < 64) :
    (BitVec.ofNat 64 (v.toNat / 256 ^ k % 256 * 256 ^ (7 - k))).getLsbD j = (decide (j / 8 = 7 - k) && v.getLsbD (8 * k + j %
      8)) := by
  have hp (n : Nat) : 256 ^ n = 2 ^ (8 * n) := by rw [pow_mul]; norm_num
  rw [hp, hp, BitVec.getLsbD_ofNat, Nat.testBit_mul_two_pow, show (256 : Nat) = 2 ^ 8 by norm_num, Nat.testBit_mod_two_pow,
    Nat.testBit_div_two_pow, ← BitVec.getLsbD]
  by_cases h : j / 8 = 7 - k
  · have hlow : j - 8 * (7 - k) = j % 8 := by omega
    have hle : 8 * (7 - k) ≤ j := by omega
    simp [h, hj, hle, hlow, Nat.mod_lt, Nat.add_comm]
  · have hout : ¬ (8 * (7 - k) ≤ j ∧ j - 8 * (7 - k) < 8) := by omega
    grind
theorem getLsbD_byteReverse (v : Word) {j : Nat} (hj : j < 64) : (byteReverse v).getLsbD j = v.getLsbD (8 * (7 - j / 8) + j %
    8) := by
  rw [byteReverse, getLsbD_foldl_or, show (0 : Word).getLsbD j = false from BitVec.getLsbD_zero, Bool.false_or, Bool.eq_iff_iff,
    List.any_eq_true]
  constructor
  · rintro ⟨k, hk, hone⟩
    have hk := List.mem_range.mp hk
    rw [getLsbD_movedByte v hk hj, Bool.and_eq_true, decide_eq_true_eq] at hone
    have hk7 : k = 7 - j / 8 := by omega
    exact hk7 ▸ hone.2
  · intro h
    refine ⟨7 - j / 8, List.mem_range.mpr (by omega), ?_⟩
    rw [getLsbD_movedByte v (by omega) hj, h, Bool.and_true, decide_eq_true_eq]
    omega
theorem extractLsb'_byteReverse (v : Word) {i : Nat} (hi : i < 8) :
    (byteReverse v).extractLsb' (8 * i) 8 = v.extractLsb' (8 * (7 - i)) 8 := by
  apply BitVec.eq_of_getLsbD_eq
  intro j hj
  have hdiv : (8 * i + j) / 8 = i := by omega
  have hmod : (8 * i + j) % 8 = j := by omega
  rw [BitVec.getLsbD_extractLsb', BitVec.getLsbD_extractLsb', getLsbD_byteReverse v (by omega), hdiv, hmod]

/-! ### The statement -/

/-- Settles O1: each function writes one value to gd; counts and reversals by their bits, the others by an equal integer. -/
theorem integerResults : Obligations.IntegerResults := by
  unfold Obligations.IntegerResults
  have mod64 (y : Word) : y.toNat % 64 < 64 := Nat.mod_lt _ (by decide)
  refine ⟨fun s d a b => ?int, fun s d a => ?one, fun s d a b => ?muldiv⟩
  case int =>
    refine ⟨setG_out_of_eq _ _ (add_eq_ofInt ..), setG_out_of_eq _ _ (sub_eq_ofInt ..), setG_out .., setG_out .., setG_out ..,
      setG_out .., setG_out .., setG_out_of_eq _ _ (shiftLeft_eq_ofNat ..), setG_out_of_eq _ _ (ushiftRight_eq_ofNat ..),
      setG_out_of_eq _ _ (sshiftRight_eq_ofInt ..), ⟨_, setG_out .., fun i hi => getLsbD_rotateLeft_word _ (mod64 _) hi⟩,
      ⟨_, setG_out .., fun i hi => getLsbD_rotateRight_word _ (mod64 _) hi⟩, setG_out_of_eq _ _ (ofBool_slt ..),
      setG_out_of_eq _ _ (ofBool_ult ..), setG_out_of_eq _ _ (if_sle_eq_min ..), setG_out_of_eq _ _ (if_sle_eq_max ..),
      setG_out_of_eq _ _ (if_ule_eq_min ..), setG_out_of_eq _ _ (if_ule_eq_max ..), setG_out_of_eq _ _ ?addw,
      setG_out_of_eq _ _ ?subw, setG_out_of_eq _ _ ?selnz, setG_out ..⟩
    case addw => rw [add_eq_ofInt, sextN32_ofInt]
    case subw => rw [sub_eq_ofInt, sextN32_ofInt]
    case selnz => simp only [ne_eq, ite_not]
  case one =>
    have hlead := leadZeros_bits (s.rg a) 64
    have htrail := trailZeros_bits (s.rg a) 0 64
    simp only [Nat.zero_add] at htrail
    exact ⟨⟨_, setG_out .., leadZeros_le .., hlead⟩, ⟨_, setG_out .., trailZeros_le .., htrail⟩,
      setG_out_of_eq _ _ (congrArg _ (popcount_eq_card _)), ⟨_, setG_out .., fun i hi => getLsbD_bitReverse _ hi⟩,
      ⟨_, setG_out .., fun i hi => extractLsb'_byteReverse _ hi⟩, setG_out .., setG_out .., setG_out ..,
      setG_out_of_eq _ _ (zextN_eq_ofNat ..), setG_out_of_eq _ _ (zextN_eq_ofNat ..), setG_out_of_eq _ _ (zextN_eq_ofNat ..)⟩
  case muldiv =>
    refine ⟨setG_out_of_eq _ _ (mul_eq_ofInt ..), setG_out .., setG_out_of_eq _ _ ?mulhu, setG_out .., setG_out_of_eq _ _ ?mulw,
      setG_out .., setG_out .., setG_out_of_eq _ _ ?rem, setG_out_of_eq _ _ ?remu, setG_out_of_eq _ _ ?divw⟩
    case mulhu => exact highHalf_natCast ..
    case mulw => rw [sextN_eq_ofInt, BitVec.setWidth_mul _ _ (by decide)]
    case rem => simp only [remS, Int.tmod_def]
    case remu =>
      rw [remU]
      congr 1
      rw [← BitVec.ofInt_natCast, Nat.mod_def, Nat.cast_sub (Nat.mul_div_le ..)]
      push_cast
      rfl
    case divw => simp only [divW, sextN32_ofInt]

end Sys2Proof.Machine
end

section
/-! SUPPORT. Words of the spec, flag branches (R120, R121), what a step runs and whose turn follows (R53, R338, R374), and
what reset leaves (R385). -/

namespace Sys2Proof.Machine
set_option Elab.async false

/-! ### Words and flag branches -/

/-- Settles O55: the decoder on each word of the list. -/
theorem decodeWords : Obligations.DecodeWords := by
  unfold Obligations.DecodeWords
  decide +kernel

/-- A flag branch on a flag that its selector names. -/
theorem flagBranch_some {major : Nat} {want : Bool} {sel : BitVec 10} {off : BitVec 16} {s : State} {v done : Bool}
    (h : s.flag s.cur sel.toNat = some (v, done)) :
    flagBranch major want sel off s = branchTo (v == want) off (s.sawDone s.cur (done && v)) := by
  rw [flagBranch, h]
theorem flagBranch_none {major : Nat} {want : Bool} {sel : BitVec 10} {off : BitVec 16} {s : State}
    (h : s.flag s.cur sel.toNat = none) : flagBranch major want sel off s =
      .next (s.trap (illegal (BitVec.ofNat 32 (major * 2 ^ 26 + sel.toNat * 2 ^ 16 + off.toNat)))) := by
  rw [flagBranch, h]
/-- An access leaves the PC of every core. -/
theorem MemOnly.coreAt_pc {s t : State} (h : MemOnly s t) (c : Nat) : (t.coreAt c).pc = (s.coreAt c).pc := by
  have regs := h.2.1 c
  unfold Core.SameRegs at regs
  exact (congrArg Core.pc regs :)
theorem MemOnly.pc {s t : State} (h : MemOnly s t) : t.pc = s.pc := by
  rw [State.pc, State.pc, State.me, h.cur, h.coreAt_pc, State.me]
theorem State.sawDone_pc (s : State) (seen : Bool) : (s.sawDone s.cur seen).pc = s.pc := by
  cases seen with
  | false => rfl
  | true => exact MemOnly.pc (MemOnly.acquire s s.cur 255 0)
/-- R120: selectors 0x20 to 0x26 name the bits of FSTAT. -/
theorem flag_fstat (s : State) {sel n : Nat} (hn : n < 7) (hsel : sel = 0x20 + n) :
    s.flag s.cur sel = some (s.me.u.fstat.getLsbD n, false) := by
  subst hsel
  interval_cases n <;> rfl

/-- Settles O25: the branch that flagBranch_some gives, after the acquire of a DONE flag seen. -/
theorem flagBranches : Obligations.FlagBranches := by
  unfold Obligations.FlagBranches
  intro s sel off
  refine ⟨fun v done h => ?taken, fun h => ?illegal, fun n hn hsel => flag_fstat s hn hsel⟩
  case taken =>
    have branch (major : Nat) (want : Bool) : PcOut (s.sawDone s.cur (done && v))
        (if v == want then s.pc + BitVec.ofInt 64 (off.toInt * 4) else s.pc + 4) (flagBranch major want sel off s) := by
      have out := branchTo_out (s.sawDone s.cur (done && v)) (v == want) off
      rwa [State.target_eq, State.sawDone_pc, ← flagBranch_some h] at out
    cases v with
    | false => exact ⟨branch 0x0E true, branch 0x0F false⟩
    | true => exact ⟨branch 0x0E true, branch 0x0F false⟩
  case illegal => exact ⟨flagBranch_none h, flagBranch_none h⟩

/-! ### Turns -/

theorem State.quiet_eq_false {s : State} (h : s.quiet = false) : ∃ e ∈ s.cores, e.2.stage = .run := by
  simpa [State.quiet] using h
/-- The next running core is one that runs, where any does. -/
theorem nextRunning_runs (s : State) (c : Nat) (h : s.quiet = false) :
    ∃ e ∈ s.cores, e.1 = s.nextRunning c ∧ e.2.stage = .run := by
  have hmem : s.nextRunning c ∈ (s.cores.filter (fun e => e.2.stage == .run)).map Prod.fst := by
    obtain ⟨e, he, hrun⟩ := State.quiet_eq_false h
    have hin : e.1 ∈ (s.cores.filter (fun e => e.2.stage == .run)).map Prod.fst :=
      List.mem_map_of_mem (List.mem_filter.mpr ⟨he, by simp [hrun]⟩)
    unfold State.nextRunning
    generalize (s.cores.filter (fun e => e.2.stage == .run)).map Prod.fst = run at hin
    dsimp only
    split
    · next i hi => exact List.mem_of_find?_eq_some hi
    · cases run with
      | nil => simp at hin
      | cons i l => exact List.mem_cons_self
  obtain ⟨e, he, heq⟩ := List.mem_map.mp hmem
  obtain ⟨hin, hrun⟩ := List.mem_filter.mp he
  exact ⟨e, hin, heq, by simpa using hrun⟩
theorem turnOk_rotate (s : State) : s.rotate.turnOk = true := by
  cases h : s.quiet with
  | true => exact (Bool.or_eq_true ..).mpr (.inl h)
  | false =>
    obtain ⟨e, he, hcur, hrun⟩ := nextRunning_runs s s.cur h
    refine (Bool.or_eq_true ..).mpr (.inr (List.any_eq_true.mpr ⟨e, he, ?_⟩))
    simp [State.rotate, hcur, hrun]
theorem turnOk_of_settleStep {r : Res} {t : State} (h : settleStep r = .next t) : t.turnOk = true := by
  cases r with
  | next u =>
    cases h
    exact turnOk_rotate _
  | fault _ => cases h
  | refused _ => cases h
theorem State.logAdd_cores (s : State) (kind device part detail : Nat) : (s.logAdd kind device part detail).cores = s.cores :=
    by
  rw [State.logAdd]
theorem cores_logAdds (ds : List Nat) (t : State) : (ds.foldl (fun t d => t.logAdd 0 0 0 d) t).cores = t.cores := by
  induction ds generalizing t with
  | nil => rfl
  | cons d ds ih => rw [List.foldl_cons, ih, State.logAdd_cores]
theorem cores_coldBootNow (s : State) : s.coldBootNow.cores = [] := by
  rw [State.coldBootNow, cores_logAdds]
  rfl

/-- Settles O58: a step of a part that is on ends in a rotation, and a cold boot leaves no core that issues. -/
theorem everyStepKeepsTheTurn : Obligations.EveryStepKeepsTheTurn := by
  unfold Obligations.EveryStepKeepsTheTurn
  intro s t h
  unfold step at h
  split at h
  · split at h
    · cases h
      simp [State.turnOk, State.quiet, cores_coldBootNow]
    · cases h
  · split at h
    · split at h
      · exact turnOk_of_settleStep h
      · exact turnOk_of_settleStep h
    · exact turnOk_of_settleStep h

/-! ### What a step runs -/

/-- What a store gives at a key is listed, or is the default. -/
theorem Store.mem_or_get_eq_default {α : Type} (d : α) (m : Store α) (k : Nat) : (k, Store.get d m k) ∈ m ∨ Store.get d m k =
    d := by
  induction m with
  | nil => exact .inr rfl
  | cons e m ih =>
    rw [Store.get]
    split
    · next h => exact .inl (h ▸ List.mem_cons_self)
    · exact ih.imp_left (List.mem_cons_of_mem _)
/-- The running core, if it issues, stands in the list of cores. -/
theorem State.quiet_of_me_runs {s : State} (h : s.me.stage = .run) : s.quiet = false := by
  have hmem : (s.cur, s.me) ∈ s.cores := by
    rcases Store.mem_or_get_eq_default ({} : Core) s.cores s.cur with hin | hd
    · exact hin
    · rw [State.me, State.coreAt, hd] at h
      cases h
  have hany : s.cores.any (fun e => e.2.stage == .run) = true := List.any_eq_true.mpr ⟨_, hmem, by simp [h]⟩
  rw [State.quiet, hany]
  rfl
theorem eventStep_none {s : State} (h : s.nextEvent = none) : eventStep s = none := by rw [eventStep, h]
/-- R53: a step of a core whose turn it is. -/
theorem step_eq_coreStep {s : State} (on : s.on = true) (turn : s.evTurn = false ∨ s.nextEvent = none)
    (run : s.me.stage = .run) : step s = settleStep (coreStep s) := by
  rw [step, if_neg (by simp [on])]
  rcases turn with h | h
  · rw [h, State.quiet_of_me_runs run]
    rfl
  · rw [eventStep_none h]
    split <;> rfl
/-- A step of the schedule. -/
theorem step_eq_event {s : State} {e : Event} {l : List Event} (on : s.on = true) (turn : s.evTurn = true ∨ s.quiet = true)
    (h : s.nextEvent = some (e, l)) : step s = settleStep (exec e.toInstr { s with sched := l, evCount := s.evCount + 1 }) := by
  have hturn : (s.evTurn || s.quiet) = true := by simpa using turn
  rw [step, if_neg (by simp [on]), if_pos hturn, eventStep, h]

section CoreStep
variable {s : State} (run : s.me.stage = .run)
include run

theorem coreStep_of_waitResult {v : Word} {d : Nat} {acq : Option Nat} (h : s.waitResult s.me.waitOn = some (v, d, acq)) :
    coreStep s = .next (if s.awaitsAnswer s.cur = true then s else (s.endWait v d acq).stepHalt s.cur s.me) := by
  rw [State.me] at run h
  simp only [coreStep, if_neg (not_not.mpr run), h]
  split <;> rfl
variable (wait : s.waitResult s.me.waitOn = none)
include wait
theorem coreStep_of_forced (h : s.me.forced = true) : coreStep s = .next (s.preemptTrap s.cur) := by
  rw [State.me] at run wait h
  simp only [coreStep, if_neg (not_not.mpr run), wait, if_pos h]
variable (free : s.me.forced = false)
include free
theorem coreStep_of_lost {a : Nat} (h : s.me.lost = some a) : coreStep s = .next ((s.updCore s.cur (fun y => { y with lost :=
    none })).takeTrap
    s.cur { cause := 0x0E, tval := BitVec.ofNat 64 a }) := by
  rw [State.me] at run wait free h
  simp [coreStep, run, wait, free, h]
variable (kept : s.me.lost = none)
include kept
/-- What a core that is free to issue does with the word it has. -/
theorem coreStep_of_issue : coreStep s = match s.issue s.cur with
    | .wait u => .next u
    | .trap tr u => .next (u.takeTrap s.cur tr)
    | .ok w u => match decode (BitVec.ofNat 32 w) with
      | .error _ => .next (u.takeTrap s.cur (decodeTrap (BitVec.ofNat 32 w) s.me.sup))
      | .ok i => match exec i u with
        | .next t => .next (t.stepHalt s.cur s.me)
        | r => r := by
  rw [State.me] at run wait free kept
  simp only [coreStep, if_neg (not_not.mpr run), wait, free, kept, Bool.false_eq_true, if_false]
  rfl
end CoreStep

theorem issue_of_held {s : State} (h : s.me.hold ≠ .free) :
    s.issue s.cur = .ok s.me.ir.toNat (s.updCore s.cur (fun y => { y with hold := .free })) := if_neg h
theorem issue_of_free {s : State} (h : s.me.hold = .free) : s.issue s.cur =
    ((s.updCore s.cur (fun y => { y with hold := .free })).fetch s.cur).bind fun w u =>
      .ok w (u.updCore s.cur (fun y => { y with ir := BitVec.ofNat 32 w })) := if_pos h

/-! ### The schedule's order -/

theorem dueTimer_eq_none_iff (s : State) : s.dueTimer = none ↔ s.dueTimers = [] := by
  rw [State.dueTimer, List.getElem?_eq_none_iff]
  constructor
  · intro h
    by_contra hne
    exact absurd (Nat.mod_lt (s.evCount / 2) (List.length_pos_of_ne_nil hne)) (by omega)
  · intro h
    simp [h]
theorem dueTimer_mem {s : State} {e : Event} (h : s.dueTimer = some e) : e ∈ s.dueTimers := List.mem_of_getElem? h
theorem nextEvent_sched {s : State} {e : Event} {l : List Event} (h : s.sched = e :: l) (turn : s.dueTimer = none ∨ s.evCount %
    2 = 0) :
    s.nextEvent = some (e, l) := by
  rw [State.nextEvent, h]
  cases hd : s.dueTimer with
  | none => rfl
  | some t =>
    have heven : s.evCount % 2 = 0 := turn.resolve_left (by simp [hd])
    exact congrArg some (if_pos heven)
theorem nextEvent_timer {s : State} {e : Event} (h : s.dueTimer = some e) (turn : s.sched = [] ∨ s.evCount % 2 = 1) :
    s.nextEvent = some (e, s.sched) := by
  rw [State.nextEvent, h]
  cases hs : s.sched with
  | nil => rfl
  | cons d l =>
    have hodd : s.evCount % 2 = 1 := turn.resolve_left (by simp [hs])
    exact congrArg some (if_neg (by omega))

theorem me_placeWord (s : State) (w : Nat) : (s.placeWord w).me.stage = .run ∧ (s.placeWord w).pc = s.pc := by
  simp only [State.pc, State.me, State.coreAt, State.placeWord, State.updCore, State.setCore, State.rawWrite,
    Store.get_set_same]
  exact ⟨trivial, rfl⟩
/-- Settles O57: by the equations of step, coreStep and issue, and the order of the schedule. -/
theorem stepRuns : Obligations.StepRuns := by
  unfold Obligations.StepRuns
  intro s
  refine ⟨fun on turn run => ⟨fun v d acq hw => ?waited, fun hw => ⟨fun hf => ?forced, fun hf a hl => ?lost, fun hf hl =>
    ?issues⟩⟩,
    fun e l on turn hn t ht => ?event, fun e l => nextEvent_sched, fun e => nextEvent_timer, dueTimer_eq_none_iff s,
    fun e => dueTimer_mem, fun l off hs => ?boot, fun off hs => ?dead, fun w => ?placed⟩
  case waited => rw [step_eq_coreStep on turn run, coreStep_of_waitResult run hw]; rfl
  case forced => rw [step_eq_coreStep on turn run, coreStep_of_forced run hw hf]; rfl
  case lost => rw [step_eq_coreStep on turn run, coreStep_of_lost run hw hf hl]; rfl
  case issues =>
    have hstep : step s = settleStep (coreStep s) := step_eq_coreStep on turn run
    rw [coreStep_of_issue run hw hf hl] at hstep
    refine ⟨issue_of_held, fun free => ⟨fun u hu => ?_, fun tr u hu => ?_, fun w u hu => ?_⟩, fun w u hu e he => ?_, fun w u i
      hu hi t ht => ?_⟩
    · rw [hstep, issue_of_free free, hu]; rfl
    · rw [hstep, issue_of_free free, hu]; rfl
    · rw [issue_of_free free, hu]; rfl
    · rw [hstep, hu]; simp only [he]; rfl
    · rw [hstep, hu]; simp only [hi, ht]; rfl
  case event => rw [step_eq_event on turn hn, ht]; rfl
  case boot => rw [step, if_pos (by simp [off]), hs]
  case dead =>
    rw [step, if_pos (by simp [off])]
    split
    · next l h => exact absurd (by rw [h]; rfl) hs
    · rfl
  case placed =>
    obtain ⟨run, pc⟩ := me_placeWord s (w % 2 ^ 32)
    exact ⟨rfl, rfl, run, pc⟩

/-! ### Reset -/

theorem reset_coreAt (c : Nat) : State.reset.coreAt c = {} := rfl
theorem reset_coreLive (c : Nat) : State.reset.coreLive c = true := by
  have hlive : State.reset.coreLiveMask (dieOf c) = BitVec.allOnes 64 := BitVec.not_zero
  rw [State.coreLive, hlive, BitVec.getLsbD_allOnes, decide_eq_true (Nat.mod_lt _ (by decide))]
theorem reset_liveCores_length (d : Nat) : (State.reset.liveCores d).length = 64 := by
  rw [State.liveCores, List.filter_eq_self.mpr fun c _ => reset_coreLive c, List.length_map, List.length_range]
/-- One partition covers the whole grid. -/
theorem reset_partOfXY {x y : Nat} (hx : x < 16) (hy : y < 20) : State.reset.partOfXY (x, y) = some 0 := by
  have hrows : State.reset.rows = 20 := rfl
  have hparts : State.reset.parts = [(0, some { x0 := 0, y0 := 0, w := 16, h := 20 })] := rfl
  simp [State.partOfXY, hparts, hrows, Part.holds, hx, hy]

/-- Settles O60: each part of the state as reset has it; the sites by the grid that one partition covers. -/
theorem resetState : Obligations.ResetState := by
  unfold Obligations.ResetState
  refine ⟨fun a => rfl, fun a => rfl, rfl, rfl, fun c => ⟨rfl, rfl, rfl, rfl, rfl, rfl, rfl, rfl, rfl, fun r => ?gs⟩,
    fun k => ⟨rfl, rfl, rfl⟩, fun d => ⟨rfl, rfl, rfl, ?report⟩, fun f => rfl, fun k => ⟨rfl, rfl⟩, rfl, rfl, rfl,
    fun p hp => ?nopart, fun e o he ho => ?backing, fun d hd => ⟨?die, reset_liveCores_length d⟩, rfl, rfl⟩
  case gs => simp [reset_coreAt, Core.gRead, Store.get]
  case report => rw [State.reportOf, show (State.reset.dieAt d).report = none from rfl, Option.getD_none]; rfl
  case nopart => exact if_neg hp
  case backing =>
    have hentry : (paLocal (e * 2 ^ 30 + o)) / 2 ^ 30 = e := by simp only [paLocal]; omega
    have hsite : e / 36 < 160 := by omega
    rw [State.backing, hentry, nominalSite]
    refine (if_pos hsite).trans (reset_partOfXY ?_ ?_) <;> omega
  case die => exact reset_partOfXY (by omega) (by omega)

end Sys2Proof.Machine
end

section
/-! SUPPORT. Scalar loads and stores (R122), and the control registers (R67 to R70, R125). -/

namespace Sys2Proof.Machine
set_option Elab.async false

/-! ### Loads and stores -/

theorem State.addrM_eq (s : State) (base : BitVec 5) (off : BitVec 16) : s.addrM base off = s.rg base + BitVec.ofInt 64
    off.toInt := rfl
/-- A value of n bytes, sign-extended. -/
theorem sextN_ofNat {n : Nat} (h : n ≤ 8) (v : Nat) :
    sextN (8 * n) (BitVec.ofNat 64 v) = BitVec.ofInt 64 (BitVec.ofNat (8 * n) v).toInt := by
  have hw : (BitVec.ofNat 64 v).setWidth (8 * n) = BitVec.ofNat (8 * n) v := BitVec.setWidth_ofNat_of_le (by omega) v
  rw [sextN_eq_ofInt, hw]
theorem loadG_out (s : State) (d : BitVec 5) (a : Word) {n : Nat} (h : n ≤ 8) (sg : Bool) : LoadOut s d a n sg (loadG d a n sg
    s) := by
  unfold LoadOut loadG
  split
  · rfl
  · cases s.load s.cur a.toNat n true s.me.sup with
    | ok v t => exact setG_out_of_eq t d (by rw [sextN_ofNat h])
    | trap tr t => rfl
    | wait t => rfl
theorem storeG_out (s : State) (a : Word) (n : Nat) (v : Word) : StoreOut s a n v (storeG a n v s) := by
  unfold StoreOut storeG
  split
  · rfl
  · cases s.store s.cur a.toNat n (v.toNat % 2 ^ (8 * n)) true s.me.sup with
    | ok _ t => exact nextPc_out t
    | trap tr t => rfl
    | wait t => rfl

/-- Settles O6: each is a loadG or a storeG of its width. -/
theorem scalarLoadsAndStores : Obligations.ScalarLoadsAndStores := by
  unfold Obligations.ScalarLoadsAndStores
  have load (s : State) (d : BitVec 5) (a : Word) (n : Nat) (h : n ≤ 8) (sg : Bool) := loadG_out s d a h sg
  refine ⟨fun s d base off => ?_, fun s t base off => ?_⟩
  · rw [← State.addrM_eq]
    exact ⟨load _ _ _ 1 (by decide) _, load _ _ _ 1 (by decide) _, load _ _ _ 2 (by decide) _, load _ _ _ 2 (by decide) _,
      load _ _ _ 4 (by decide) _, load _ _ _ 4 (by decide) _, load _ _ _ 8 (by decide) _⟩
  · rw [← State.addrM_eq]
    exact ⟨storeG_out .., storeG_out .., storeG_out .., storeG_out ..⟩

/-! ### Control registers -/

/-- What a CRD, CWR, CSET or CCLR sees of a DONE bit that it reads. -/
def cregSeen (n : Nat) (old : Word) : Bool := (n == 0x10 && (old.getLsbD 1 || old.getLsbD 5)) || (n == 0x11 && old != 0)

section
variable {w : BitVec 32} {d : BitVec 5} {r : BitVec 12} {new : Option (Word → Word)} {s : State}
theorem creg_privileged (hu : s.me.sup = false) (h : 0x800 ≤ r.toNat) : creg w d r new s = .next (s.trap (privileged w)) := by
  rw [creg]
  exact if_pos (by simp [hu, h])
variable (h : s.me.sup = true ∨ r.toNat < 0x800)
include h
theorem creg_allowed : creg w d r new s = match s.cregRead s.cur r.toNat with
    | none => .next (s.trap (illegal w))
    | some old => match (match new with | none => some s | some f => s.cregWrite s.cur r.toNat (f old)) with
      | none => .next (s.trap (illegal w))
      | some t => setG d old (t.sawDone s.cur (cregSeen r.toNat old)) := by
  have hnot : ¬ (!s.me.sup && decide (0x800 ≤ r.toNat)) = true := by
    rcases h with h | h
    · simp [h]
    · simp [h]
  rw [creg]
  exact if_neg hnot
end

theorem sawDone_cregSeen (t : State) (c n : Nat) (old : Word) : t.sawDone c (cregSeen n old) =
    if (n = 0x10 ∧ (old.getLsbD 1 = true ∨ old.getLsbD 5 = true)) ∨ (n = 0x11 ∧ old ≠ 0) then t.acquire c 255 0 else t := by
  rw [State.sawDone, cregSeen]
  congr 1
  simp

/-- Each of the four is creg with its own word and new value. -/
def CregForm (s : State) (d : BitVec 5) (r : BitVec 12) (i : Instr) (new : Option (Word → Word)) : Prop :=
  exec i s = creg (encode i) d r new s
theorem cregForm_crd (s : State) (d : BitVec 5) (r : BitVec 12) : CregForm s d r (.crd d r) none := by
  have hw : cregWord 0 d 0 r = encode (.crd d r) := by
    change _ = BitVec.ofNat 32 (0x9C000000 + d.toNat * 2097152 + r.toNat * 16)
    simp [cregWord]
  exact congrArg (creg · d r none s) hw
theorem cregWord_eq {fn : Nat} (d a : BitVec 5) (r : BitVec 12) :
    cregWord fn d a r = BitVec.ofNat 32 (0x9C000000 + fn + d.toNat * 2097152 + a.toNat * 65536 + r.toNat * 16) := by
  rw [cregWord]
  congr 1
  omega
theorem cregForm_cwr (s : State) (d a : BitVec 5) (r : BitVec 12) : CregForm s d r (.cwr d a r) (some (fun _ => s.rg a)) :=
  congrArg (fun w => creg w d r (some (fun _ => s.rg a)) s) (cregWord_eq d a r)
theorem cregForm_cset (s : State) (d a : BitVec 5) (r : BitVec 12) : CregForm s d r (.cset d a r) (some (fun o => o ||| s.rg
    a)) :=
  congrArg (fun w => creg w d r (some (fun o => o ||| s.rg a)) s) (cregWord_eq d a r)
theorem cregForm_cclr (s : State) (d a : BitVec 5) (r : BitVec 12) : CregForm s d r (.cclr d a r) (some (fun o => o &&& ~~~
    s.rg a)) :=
  congrArg (fun w => creg w d r (some (fun o => o &&& ~~~ s.rg a)) s) (cregWord_eq d a r)

section
variable {s : State} {d : BitVec 5} {r : BitVec 12} {i : Instr} {new : Option (Word → Word)} (form : CregForm s d r i new)
include form
theorem cregForm_privileged (hu : s.me.sup = false) (h : 0x800 ≤ r.toNat) :
    exec i s = .next (s.trap { cause := 2, tval := (encode i).setWidth 64 }) := form.trans (creg_privileged hu h)
/-- R125: the register's old value in gd, and what the write of the new one leaves. -/
theorem cregForm_allowed (h : s.me.sup = true ∨ r.toNat < 0x800) :
    match s.cregRead s.cur r.toNat with
    | none => exec i s = .next (s.trap { cause := 1, tval := (encode i).setWidth 64 })
    | some old => match new with
      | none => GOut (s.sawDone s.cur (cregSeen r.toNat old)) d old (exec i s)
      | some g => match s.cregWrite s.cur r.toNat (g old) with
        | none => exec i s = .next (s.trap { cause := 1, tval := (encode i).setWidth 64 })
        | some t => GOut (t.sawDone s.cur (cregSeen r.toNat old)) d old (exec i s) := by
  rw [form, creg_allowed h]
  cases s.cregRead s.cur r.toNat with
  | none => rfl
  | some old =>
    cases new with
    | none => exact setG_out ..
    | some g =>
      dsimp only
      cases s.cregWrite s.cur r.toNat (g old) with
      | none => rfl
      | some t => exact setG_out ..
end

/-- Settles O26: the four forms by cregForm_privileged and cregForm_allowed. -/
theorem controlRegisterAccess : Obligations.ControlRegisterAccess := by
  unfold Obligations.ControlRegisterAccess
  intro s d a r
  have both (i : Instr) (new : Option (Word → Word)) (form : CregForm s d r i new) := And.intro (cregForm_privileged form)
    (cregForm_allowed form)
  simp only [sawDone_cregSeen] at both
  simp only [List.forall_mem_cons, List.not_mem_nil, false_imp_iff, implies_true, and_true]
  exact ⟨both _ _ (cregForm_crd s d r), both _ _ (cregForm_cwr s d a r), both _ _ (cregForm_cset s d a r),
    both _ _ (cregForm_cclr s d a r)⟩

/-! ### What a write leaves in the control registers (R68, R69) -/

/-- The core with other user and supervisor control registers. -/
def Core.withRegs (x : Core) (u : UReg) (r : SReg) : Core := { x with u := u, s := r }
/-- The registers that a write of register n leaves: each field that the maps give it takes its bits of v. -/
def uregWrite (n : Nat) (v : Word) (u : UReg) : UReg :=
  { u with
    vlive := if n = 0x002 then v.setWidth 32 else u.vlive
    fctl := if n = 0x003 then v.setWidth 16 &&& 0xFF07 else u.fctl
    fstat := if n = 0x004 then v.setWidth 7 else u.fstat
    vstart := if n = 0x005 then v.setWidth 16 else u.vstart
    dix := if n = 0x006 then v.setWidth 48 else u.dix
    dn := if n = 0x008 ∨ n = 0x009 ∨ n = 0x00A then Store.set 0 u.dn (n - 8) (v.setWidth 16) else u.dn
    ds := if n = 0x00C ∨ n = 0x00D ∨ n = 0x00E then Store.set 0 u.ds (n - 0xC) v else u.ds
    kgrace := if n = 0x031 then (if v.setWidth 16 = (0 : BitVec 16) then 1 else v.setWidth 16) else u.kgrace }
def sregWrite (n : Nat) (v : Word) (gen : BitVec 16) (r : SReg) : SReg :=
  { r with
    tvec := if n = 0x800 then v &&& ~~~ 3 else r.tvec
    tcause := if n = 0x801 then v.setWidth 8 else r.tcause
    tval := if n = 0x802 then v else r.tval
    tepc := if n = 0x803 then v &&& ~~~ 3 else r.tepc
    ppriv := if n = 0x804 then v.getLsbD 0 else r.ppriv
    asn := if n = 0x810 then v.setWidth 16 else r.asn
    asgen := if n = 0x810 then gen else r.asgen
    rdir := if n = 0x812 then v &&& 0x00FFFFFFFFFFFFC0 else r.rdir
    brkhalt := if n = 0x830 then v.getLsbD 0 else r.brkhalt
    step := if n = 0x830 then v.getLsbD 1 else r.step }
/-- The registers with a writable field. -/
def cregWritable : List Nat := [0x002, 0x003, 0x004, 0x005, 0x006, 0x008, 0x009, 0x00A, 0x00C, 0x00D, 0x00E, 0x031, 0x800,
    0x801,
  0x802, 0x803, 0x804, 0x810, 0x812, 0x830]
/-- The generation of ASN v in the partition of core c. -/
def State.genOf (s : State) (c : Nat) (v : Word) : BitVec 16 :=
  Store.get 0 s.gens ((s.partOfCore c).getD 0 * 65536 + (v.setWidth 16 : BitVec 16).toNat)

/-- A write leaves the registers of uregWrite and sregWrite, and nothing else differs. -/
theorem cregWrite_eq {s t : State} {c n : Nat} {v : Word} (h : s.cregWrite c n v = some t) : n ∈ cregWritable ∧
    t = s.updCore c (fun x => x.withRegs (uregWrite n v x.u) (sregWrite n v (s.genOf c v) x.s)) := by
  unfold State.cregWrite at h
  split at h <;> cases h <;> exact ⟨by decide, rfl⟩

/-- What the control registers that a core's own fields hold read as. -/
def regValue (q : Nat) (u : UReg) (r : SReg) : Option Word :=
  match q with
  | 0x000 => some (u.vl.setWidth 64)
  | 0x001 => some (u.vtype.setWidth 64)
  | 0x002 => some (u.vlive.setWidth 64)
  | 0x003 => some (u.fctl.setWidth 64)
  | 0x004 => some (u.fstat.setWidth 64)
  | 0x005 => some (u.vstart.setWidth 64)
  | 0x006 => some (u.dix.setWidth 64)
  | 0x008 | 0x009 | 0x00A => some ((Store.get (0 : BitVec 16) u.dn (q - 8)).setWidth 64)
  | 0x00C | 0x00D | 0x00E => some (Store.get 0 u.ds (q - 0xC))
  | 0x030 => some u.joinctx
  | 0x031 => some (u.kgrace.setWidth 64)
  | 0x800 => some r.tvec
  | 0x801 => some (r.tcause.setWidth 64)
  | 0x802 => some r.tval
  | 0x803 => some r.tepc
  | 0x804 => some (BitVec.ofNat 64 (r.ppriv.toNat + r.inh.toNat * 2))
  | 0x810 => some (r.asn.setWidth 64)
  | 0x811 => some (r.asgen.setWidth 64)
  | 0x812 => some r.rdir
  | 0x820 => some ((r.deadline &&& ~~~ 3) ||| BitVec.ofNat 64 (r.pend.toNat + r.force.toNat * 2))
  | 0x830 => some (BitVec.ofNat 64 (r.brkhalt.toNat + r.step.toNat * 2))
  | _ => none

theorem estat_of_sameEng {s : State} {c : Nat} {f : Core → Core} (hf : (f (s.coreAt c)).e = (s.coreAt c).e) :
    (s.updCore c f).estat c = s.estat c := by
  have hcore : ((s.updCore c f).coreAt c).e = (s.coreAt c).e := by rw [State.coreAt_updCore_same, hf]
  have hbind (i : Nat) : (s.updCore c f).bindAt c i = s.bindAt c i := by rw [State.bindAt, hcore, State.bindAt]
  have hinst (i : Nat) : (s.updCore c f).instOf c i = s.instOf c i := by rw [State.instOf, hbind]; rfl
  have hlive : (s.updCore c f).liveBinds c = s.liveBinds c := by rw [State.liveBinds, hcore, State.liveBinds]
  have hbusy : (s.updCore c f).sbusy c = s.sbusy c := by simp only [State.sbusy, hlive, State.bindBusy, hbind, hinst]
  have hstall : (s.updCore c f).sstall c = s.sstall c := by simp only [State.sstall, Core.stalled, hcore]; rfl
  have hadm : (s.updCore c f).cadm c = s.cadm c := rfl
  simp only [State.estat, Core.sfault, Core.gpend, hcore, hbusy, hstall, hadm]

/-- A write changes what no other register reads as, but for ASGEN, which a write of ASN loads. -/
theorem regValue_write_other {n q : Nat} (v : Word) (gen : BitVec 16) (u : UReg) (r : SReg) (hq : q ≠ n)
    (hasn : ¬ (n = 0x810 ∧ q = 0x811)) : regValue q (uregWrite n v u) (sregWrite n v gen r) = regValue q u r := by
  have dn (k : Nat) (hk : q = k + 8) : Store.get 0 (uregWrite n v u).dn k = Store.get 0 u.dn k := by
    simp only [uregWrite]
    split
    · exact Store.get_set_other _ _ _ (by omega)
    · rfl
  have ds (k : Nat) (hk : q = k + 0xC) : Store.get 0 (uregWrite n v u).ds k = Store.get 0 u.ds k := by
    simp only [uregWrite]
    split
    · exact Store.get_set_other _ _ _ (by omega)
    · rfl
  unfold regValue
  split
  case h_8 => rw [dn _ rfl]
  case h_9 => rw [dn _ rfl]
  case h_10 => rw [dn _ rfl]
  case h_11 => rw [ds _ rfl]
  case h_12 => rw [ds _ rfl]
  case h_13 => rw [ds _ rfl]
  all_goals simp only [uregWrite, sregWrite, if_neg hq.symm]
  case h_22 => rw [if_neg fun h => hasn ⟨h, rfl⟩]

theorem cregRead_withRegs (s : State) (c q : Nat) (u : UReg) (r : SReg) {f : Core → Core}
    (hf : f (s.coreAt c) = (s.coreAt c).withRegs u r) :
    (s.updCore c f).cregRead c q = (regValue q u r).or (s.cregRead c q) := by
  have he : (s.updCore c f).estat c = s.estat c := estat_of_sameEng (by rw [hf]; rfl)
  unfold State.cregRead State.wispOn
  rw [he, State.coreAt_updCore_same, hf]
  unfold regValue
  split
  case h_36 => split <;> simp_all
  all_goals rfl
theorem cregRead_eq (s : State) (c q : Nat) :
    s.cregRead c q = (regValue q (s.coreAt c).u (s.coreAt c).s).or (s.cregRead c q) := by
  unfold State.cregRead regValue
  split
  case h_36 => split <;> simp_all
  all_goals rfl

/-- The low k bits of a word, as a mask. -/
theorem setWidth_setWidth_eq_and (v : Word) (k : Nat) :
    (v.setWidth k).setWidth 64 = v &&& BitVec.ofNat 64 (2 ^ k - 1) := by
  apply BitVec.eq_of_getLsbD_eq
  intro i hi
  rw [BitVec.getLsbD_setWidth, BitVec.getLsbD_setWidth, BitVec.getLsbD_and, BitVec.getLsbD_ofNat, Nat.testBit_two_pow_sub_one]
  cases v.getLsbD i <;> simp [hi]
theorem toNat_getLsbD (v : Word) (i : Nat) : (v.getLsbD i).toNat = v.toNat / 2 ^ i % 2 := Nat.toNat_testBit ..
theorem toNat_and_mask (v : Word) {k : Nat} (hk : k ≤ 64) : (v &&& BitVec.ofNat 64 (2 ^ k - 1)).toNat = v.toNat % 2 ^ k := by
  have hlt : 2 ^ k - 1 < 2 ^ 64 := lt_of_lt_of_le (Nat.sub_lt (by positivity) one_pos) (Nat.pow_le_pow_right (by decide) hk)
  rw [BitVec.toNat_and, BitVec.toNat_ofNat, Nat.mod_eq_of_lt hlt, Nat.and_two_pow_sub_one_eq_mod]
theorem twoBits_eq_and_three (v : Word) : BitVec.ofNat 64 ((v.getLsbD 0).toNat + (v.getLsbD 1).toNat * 2) = v &&& 3 := by
  have hmask : (v &&& 3).toNat = v.toNat % 2 ^ 2 := toNat_and_mask v (k := 2) (by decide)
  apply BitVec.eq_of_toNat_eq
  rw [hmask, toNat_getLsbD, toNat_getLsbD, BitVec.toNat_ofNat]
  omega
theorem bit_eq_and_one (v : Word) (b : Bool) :
    BitVec.ofNat 64 ((v.getLsbD 0).toNat + b.toNat * 2) = (v &&& 1) ||| (if b then 2 else 0) := by
  have hlow : v &&& 1 = BitVec.ofNat 64 (v.getLsbD 0).toNat := by
    have hmask : (v &&& 1).toNat = v.toNat % 2 ^ 1 := toNat_and_mask v (k := 1) (by decide)
    apply BitVec.eq_of_toNat_eq
    rw [hmask, toNat_getLsbD, BitVec.toNat_ofNat]
    omega
  rw [hlow]
  cases v.getLsbD 0 <;> cases b <;> rfl

section
variable {s : State} {n : Nat} {v : Word}
/-- The state after a write of register n. -/
def State.cregWritten (s : State) (n : Nat) (v : Word) : State :=
  s.updMe (fun x => x.withRegs (uregWrite n v x.u) (sregWrite n v (s.genOf s.cur v) x.s))
theorem cregRead_cregWritten (q : Nat) : (s.cregWritten n v).cregRead s.cur q =
    (regValue q (uregWrite n v s.me.u) (sregWrite n v (s.genOf s.cur v) s.me.s)).or (s.cregRead s.cur q) :=
  cregRead_withRegs s s.cur q _ _ rfl
theorem me_cregWritten : (s.cregWritten n v).me =
    s.me.withRegs (uregWrite n v s.me.u) (sregWrite n v (s.genOf s.cur v) s.me.s) := State.coreAt_updCore_same ..
end
/-- R68, R69: what each register reads back, where that is the bits of v under a mask. -/
theorem cregRead_back {s : State} {v : Word} : ∀ e ∈ ([(0x002, 0xFFFFFFFF), (0x003, 0xFF07), (0x004, 0x7F), (0x005, 0xFFFF),
    (0x006, 0xFFFFFFFFFFFF), (0x008, 0xFFFF), (0x009, 0xFFFF), (0x00A, 0xFFFF), (0x00C, 0xFFFFFFFFFFFFFFFF),
    (0x00D, 0xFFFFFFFFFFFFFFFF), (0x00E, 0xFFFFFFFFFFFFFFFF), (0x800, 0xFFFFFFFFFFFFFFFC), (0x801, 0xFF),
    (0x802, 0xFFFFFFFFFFFFFFFF), (0x803, 0xFFFFFFFFFFFFFFFC), (0x810, 0xFFFF), (0x812, 0xFFFFFFFFFFFFC0), (0x830, 3)] : List
      (Nat × Word)),
    (s.cregWritten e.1 v).cregRead s.cur e.1 = some (v &&& e.2) := by
  have all : v = v &&& 0xFFFFFFFFFFFFFFFF := (BitVec.and_allOnes (x := v)).symm
  have fctl : ((v.setWidth 16 &&& 0xFF07 : BitVec 16)).setWidth 64 = v &&& 0xFF07 := by
    rw [BitVec.setWidth_and, setWidth_setWidth_eq_and v 16, BitVec.and_assoc]
    rfl
  have put (m : Store (BitVec 16)) (k : Nat) : (Store.get 0 (Store.set 0 m k (v.setWidth 16)) k).setWidth 64 = v &&& 0xFFFF :=
    by
    rw [Store.get_set_same]
    exact setWidth_setWidth_eq_and v 16
  have put64 (m : Store Word) (k : Nat) : Store.get 0 (Store.set 0 m k v) k = v &&& 0xFFFFFFFFFFFFFFFF := by
    rw [Store.get_set_same]
    exact all
  have low := setWidth_setWidth_eq_and v
  simp only [List.forall_mem_cons, List.not_mem_nil, false_imp_iff, implies_true, and_true, cregRead_cregWritten]
  exact ⟨congrArg some (low 32), congrArg some fctl, congrArg some (low 7), congrArg some (low 16),
    congrArg some (low 48), congrArg some (put ..), congrArg some (put ..), congrArg some (put ..),
    congrArg some (put64 ..), congrArg some (put64 ..), congrArg some (put64 ..), rfl, congrArg some (low 8),
    congrArg some all, rfl, congrArg some (low 16), rfl, congrArg some (twoBits_eq_and_three v)⟩

/-- Settles O27: a write leaves cregWritten, which differs in the user and supervisor control registers alone. -/
theorem controlRegistersReadBack : Obligations.ControlRegistersReadBack := by
  unfold Obligations.ControlRegistersReadBack
  intro s t c n v h
  obtain ⟨hn, ht⟩ := cregWrite_eq h
  replace ht : t = s.cregWritten n v := ht
  subst ht
  have hme := me_cregWritten (s := s) (n := n) (v := v)
  refine ⟨fun e he hne => ?back, fun hne => ?kgrace, fun hne => ?ppriv, State.updMe_samePackage .., fun hc =>
    State.coreAt_updCore_other _ _ hc,
    fun q => ?g, ?pc, ?v, ?k, ?frame, fun q hq hasn => ?others, fun hne => ?asgen⟩
  case back => subst hne; exact cregRead_back e he
  case kgrace =>
    subst hne
    rw [cregRead_cregWritten]
    have low : (v.setWidth 16).setWidth 64 = v &&& 0xFFFF := setWidth_setWidth_eq_and v 16
    have zero : (v.setWidth 16 = (0 : BitVec 16)) ↔ v &&& 0xFFFF = 0 := by
      rw [← low]
      refine ⟨fun h => by rw [h]; rfl, fun h => BitVec.eq_of_toNat_eq ?_⟩
      have hval : v.toNat % 65536 % 18446744073709551616 = 0 := by simpa using congrArg BitVec.toNat h
      have zero : (0 : BitVec 16).toNat = 0 := rfl
      rw [BitVec.toNat_setWidth, zero]
      omega
    refine congrArg some ((apply_ite (BitVec.setWidth 64) ..).trans ?_)
    simp only [zero, low]
    rfl
  case ppriv =>
    subst hne
    rw [cregRead_cregWritten]
    exact congrArg some (bit_eq_and_one v s.me.s.inh)
  case g => rw [hme]; rfl
  case pc => rw [State.pc, hme]; rfl
  case v => rw [hme]; rfl
  case k => rw [hme]; rfl
  case frame => rw [hme]; rfl
  case others =>
    rw [cregRead_cregWritten, cregRead_eq s s.cur q]
    have same : regValue q (uregWrite n v s.me.u) (sregWrite n v (s.genOf s.cur v) s.me.s) = regValue q s.me.u s.me.s :=
      regValue_write_other v _ _ _ hq hasn
    rw [same, ← State.me, ← Option.or_assoc, Option.or_self]
  case asgen =>
    subst hne
    rw [cregRead_cregWritten]
    rfl

end Sys2Proof.Machine
end

section
/-! SUPPORT. The atomics of functions 0 to 11 (R292, R293). -/

namespace Sys2Proof.Machine
set_option Elab.async false

theorem toSigned_eq_toInt {n : Nat} (hn : 0 < n) (v : Nat) : toSigned n v = (BitVec.ofNat n v).toInt := by
  rw [toSigned, BitVec.toInt_eq_toNat_cond, BitVec.toNat_ofNat]
  have hpow : 2 ^ n = 2 * 2 ^ (n - 1) := by rw [← pow_succ', Nat.sub_add_cancel hn]
  split
  · rw [if_pos (by omega)]
  · rw [if_neg (by omega)]
theorem signedLess_eq {n : Nat} (hn : 0 < n) (x y : Nat) : signedLess n x y = decide ((BitVec.ofNat n x).toInt < (BitVec.ofNat
    n y).toInt) := by
  rw [signedLess, toSigned_eq_toInt hn, toSigned_eq_toInt hn]
theorem extendW_atomBytes (width : Bool) (v : Nat) :
    extendW (atomBytes width) v = if width then BitVec.ofNat 64 v else BitVec.ofInt 64 (BitVec.ofNat 32 v).toInt := by
  cases width with
  | true => rfl
  | false => exact sextN_ofNat (n := 4) (by decide) v
theorem acquires_iff (order : BitVec 2) : acquires order = true ↔ order = 1 ∨ order = 3 := by simp [acquires]

section
variable {s : State} {op : PeerOp} {v : Nat} {a : Word} {scope order : BitVec 2} {width reads : Bool} {new : Nat → Option Nat}
/-- R293: how an atomic ends, by the ends of State.atomic. -/
theorem atomOut_of_ends {out : State → Word → Res → Prop} {r : Res}
    (hok : ∀ w t, s.atomic op v a scope order width reads new = .ok w t → out t w r)
    (htrap : ∀ tr t, s.atomic op v a scope order width reads new = .trap tr t → r = .next (t.trap tr))
    (hwait : ∀ t, s.atomic op v a scope order width reads new = .wait t → r = .next t.block) :
    AtomOut s op v a scope order width reads new out r := by
  unfold AtomOut
  unfold State.atomic at hok htrap hwait
  generalize s.atomicPrelude a scope order width = p at hok htrap hwait ⊢
  cases p with
  | trap tr t => exact htrap tr t rfl
  | wait t => exact hwait t rfl
  | ok x s1 =>
    have hn : (if width then 8 else 4) = atomBytes width := rfl
    simp only [Acc.bind_ok] at hok htrap
    simp only [hn]
    split
    · next h => exact htrap _ _ (if_pos (by simpa using h))
    · next h =>
      have hpass : ¬ (reads && (s1.sendRemote op x.pa (atomBytes width) v).homePois x.pa (atomBytes width)
          || (s1.sendRemote op x.pa (atomBytes width) v).reqDown (dieOf s.cur) x.pa) = true := by simpa using h
      simp only [if_neg hpass] at hok htrap
      split
      · next hd => exact htrap _ _ (if_pos hd)
      · next hd =>
        have done := hok _ _ (if_neg hd)
        simp only [extendW_atomBytes, acquires_iff] at done
        exact done
theorem finishG_atomOut (d : BitVec 5) : AtomOut s op v a scope order width reads new (fun t w r => GOut t d w r)
    (finishG d (s.atomic op v a scope order width reads new)) :=
  atomOut_of_ends (fun w t h => by rw [h]; exact setG_out t d w) (fun tr t h => by rw [h]; rfl) (fun t h => by rw [h]; rfl)
theorem finish_atomOut : AtomOut s op v a scope order width reads new (fun t _ r => PcOut t (t.pc + 4) r)
    (finish ((s.atomic op v a scope order width reads new).bind fun _ s => .ok () s)) :=
  atomOut_of_ends (fun w t h => by rw [h]; exact nextPc_out t) (fun tr t h => by rw [h]; rfl) (fun t h => by rw [h]; rfl)
theorem atomicPrelude_misaligned (h : a.toNat % atomBytes width ≠ 0) :
    s.atomicPrelude a scope order width = .trap (misaligned a) s := if_pos h
theorem atomic_misaligned (h : a.toNat % atomBytes width ≠ 0) :
    s.atomic op v a scope order width reads new = .trap (misaligned a) s := by
  rw [State.atomic, atomicPrelude_misaligned h]
  rfl
end

theorem eight_mul_atomBytes (width : Bool) : 8 * atomBytes width = if width then 64 else 32 := by cases width <;> rfl
theorem amo_out (op : PeerOp) (f : Nat → Nat → Nat → Nat) (s : State) (d a b : BitVec 5) (scope order : BitVec 2) (width : Bool)
    {g : Nat → Nat} (hfg : ∀ x, f (if width then 64 else 32) x ((s.rg b).toNat % 2 ^ (if width then 64 else 32)) = g x) :
    AtomOut s op ((s.rg b).toNat % 2 ^ (if width then 64 else 32)) (s.rg a) scope order width true
      (fun old => some (g old % 2 ^ (if width then 64 else 32))) (fun t v r => GOut t d v r)
      (amo op f d a b scope order width s) := by
  simp only [← hfg, ← eight_mul_atomBytes]
  exact finishG_atomOut d
theorem cas_out (s : State) (d a b : BitVec 5) (scope order : BitVec 2) {width : Bool} {w : Nat} (hw : 8 * atomBytes width = w)
    :
    AtomOut s (.cas (BitVec.ofNat 64 ((s.rg d).toNat % 2 ^ w))) ((s.rg b).toNat % 2 ^ w) (s.rg a) scope order width true
      (fun old => if old = (s.rg d).toNat % 2 ^ w then some ((s.rg b).toNat % 2 ^ w) else none) (fun t v r => GOut t d v r)
      (execAmocas d a b scope order width s) := by
  subst hw
  exact finishG_atomOut d
theorem st_out (s : State) (a b : BitVec 5) (scope order : BitVec 2) {width : Bool} {w : Nat} (hw : 8 * atomBytes width = w) :
    AtomOut s .write ((s.rg b).toNat % 2 ^ w) (s.rg a) scope order width false (fun _ => some ((s.rg b).toNat % 2 ^ w))
      (fun t _ r => PcOut t (t.pc + 4) r) (execAmost a b scope order width s) := by
  subst hw
  exact finish_atomOut
theorem amo_misaligned (op : PeerOp) (f : Nat → Nat → Nat → Nat) {s : State} (d : BitVec 5) {a : BitVec 5} (b : BitVec 5)
    (scope order : BitVec 2) {width : Bool} (h : (s.rg a).toNat % atomBytes width ≠ 0) :
    amo op f d a b scope order width s = .next (s.trap (misaligned (s.rg a))) := by
  rw [amo]
  simp only [atomic_misaligned h]
  rfl

/-- Settles O11: functions 0 to 8 by amo_out, the others by the ends of State.atomic; each begins with the alignment. -/
theorem atomicResults : Obligations.AtomicResults := by
  unfold Obligations.AtomicResults
  refine ⟨fun s d a b scope order width => ?results, fun s d a b scope order width h => ?aligned⟩
  case results =>
    have hw : 0 < if width then 64 else 32 := by cases width <;> decide
    intro w p y sg out
    refine ⟨amo_out .add (fun _ x y => x + y) s d a b scope order width fun x => rfl,
      amo_out .and (fun _ x y => x &&& y) s d a b scope order width fun x => rfl,
      amo_out .or (fun _ x y => x ||| y) s d a b scope order width fun x => rfl,
      amo_out .xor (fun _ x y => x ^^^ y) s d a b scope order width fun x => rfl,
      amo_out .min (fun n x y => if signedLess n y x then y else x) s d a b scope order width fun x => ?min,
      amo_out .max (fun n x y => if signedLess n x y then y else x) s d a b scope order width fun x => ?max,
      amo_out .minu (fun _ x y => min x y) s d a b scope order width fun x => rfl,
      amo_out .maxu (fun _ x y => max x y) s d a b scope order width fun x => rfl,
      amo_out .swap (fun _ _ y => y) s d a b scope order width fun x => rfl, ?cas, finishG_atomOut d, ?st⟩
    case min => simp only [signedLess_eq hw, decide_eq_true_eq]; rfl
    case max => simp only [signedLess_eq hw, decide_eq_true_eq]; rfl
    case cas => exact cas_out s d a b scope order (eight_mul_atomBytes width)
    case st => exact st_out s a b scope order (eight_mul_atomBytes width)
  case aligned =>
    have hn : (s.rg a).toNat % atomBytes width ≠ 0 := h
    have mis (op : PeerOp) (f : Nat → Nat → Nat → Nat) := amo_misaligned op f d b scope order hn
    simp only [List.forall_mem_cons, List.not_mem_nil, false_imp_iff, implies_true, and_true]
    refine ⟨mis .add (fun _ x y => x + y), mis .and (fun _ x y => x &&& y), mis .or (fun _ x y => x ||| y),
      mis .xor (fun _ x y => x ^^^ y), mis .min (fun n x y => if signedLess n y x then y else x),
      mis .max (fun n x y => if signedLess n x y then y else x), mis .minu (fun _ x y => min x y),
      mis .maxu (fun _ x y => max x y), mis .swap (fun _ _ y => y), ?cas, ?ld, ?st, ?wait⟩
    case cas => exact congrArg (finishG d) (atomic_misaligned hn)
    case ld => exact congrArg (finishG d) (atomic_misaligned hn)
    case st => exact congrArg (fun r => finish (r.bind fun _ s => .ok () s)) (atomic_misaligned hn)
    case wait =>
      change execAmowait d a b scope order width s = _
      rw [execAmowait]
      simp only [atomicPrelude_misaligned hn]
      rfl

end Sys2Proof.Machine
end

section
/-! SUPPORT. A registered write at the home (06_scalar.md, R122; 14_sync_joins.md, R294; 16_interruption.md, R336). -/

namespace Sys2Proof.Machine
set_option Elab.async false

/-! ### What reads memory and what a write leaves where it was -/

/-- The bytes at the homes, their poison, the ranges being moved and the waiters of AMOWAIT are the same. -/
def SameHomes (s t : State) : Prop := t.mem = s.mem ∧ t.pois = s.pois ∧ t.moves = s.moves ∧ t.waiters = s.waiters

theorem SameHomes.trans {s t u : State} (h : SameHomes s t) (k : SameHomes t u) : SameHomes s u := by
  obtain ⟨hm, hp, hv, hw⟩ := h
  obtain ⟨km, kp, kv, kw⟩ := k
  exact ⟨km.trans hm, kp.trans hp, kv.trans hv, kw.trans hw⟩
theorem SameHomes.foldl {β : Type} (f : State → β → State) (hf : ∀ s b, SameHomes s (f s b)) (l : List β) (s : State) :
    SameHomes s (l.foldl f s) := by
  induction l generalizing s with
  | nil => exact ⟨rfl, rfl, rfl, rfl⟩
  | cons b l ih => exact (hf s b).trans (ih _)
theorem SameHomes.sendRemote (s : State) (op : PeerOp) (pa n v : Nat) : SameHomes s (s.sendRemote op pa n v) := by
  unfold State.sendRemote
  split <;> exact ⟨rfl, rfl, rfl, rfl⟩
theorem SameHomes.askOwner (s : State) (line o : Nat) (m : BitVec 16) (t : Option Take) (w : Option Awaiter) :
    SameHomes s (s.askOwner line o m t w) := by
  unfold State.askOwner
  extract_lets p had p2 s2
  split <;> exact ⟨rfl, rfl, rfl, rfl⟩
theorem SameHomes.foreignWrite (s : State) (who : Option Nat) (w : Option Awaiter) (pa n : Nat) :
    SameHomes s (s.foreignWrite who w pa n) :=
  SameHomes.foldl _ (fun s o => by split <;> [exact ⟨rfl, rfl, rfl, rfl⟩; exact .askOwner ..]) _ s

theorem State.fwd_of_no_moves {s : State} (h : s.moves = []) (pa : Nat) : s.fwd pa = pa := by simp [State.fwd, h]
theorem State.mirrorOf_of_no_moves {s : State} (h : s.moves = []) (pa : Nat) : s.mirrorOf pa = none := by
  simp [State.mirrorOf, h]
theorem State.homeRead_of_no_moves {s : State} (h : s.moves = []) (pa n : Nat) : s.homeRead pa n = s.rawRead pa n := by
  rw [State.homeRead, State.fwd_of_no_moves h]

/-- No waiter of AMOWAIT watches a byte of the n at pa. -/
def NoneWatches (s : State) (pa n : Nat) : Prop := ∀ q ∈ s.waiters, overlap pa n q.pa (if q.wide then 8 else 4) = false

theorem State.wakeWaiters_of_noneWatches {s : State} {pa n : Nat} (h : NoneWatches s pa n) : s.wakeWaiters pa n = s := by
  have none : s.waiters.filter (fun w => overlap pa n w.pa (if w.wide then 8 else 4)) = [] :=
    List.filter_eq_nil_iff.mpr fun q hq => by simp [h q hq]
  rw [State.wakeWaiters, none, List.foldl_nil]

/-! ### One write within a line -/

/-- With no range being moved, a registered write of n bytes at pa writes them at their home and asks their owners. -/
theorem State.homeWrite1_sameHomes {s : State} (who : Option Nat) (w : Option Awaiter) {pa n : Nat} (v : Nat)
    (hm : s.moves = []) (hw : NoneWatches s pa n) : SameHomes (s.putHome pa n v) (s.homeWrite1 who w pa n v) := by
  obtain ⟨rm, rp, rv, rw⟩ := SameHomes.sendRemote s .write pa n v
  have hm1 : (s.sendRemote .write pa n v).moves = [] := rv.trans hm
  have put : SameHomes (s.putHome pa n v) ((s.sendRemote .write pa n v).putHome pa n v) := by
    simp only [SameHomes, State.putHome, State.rawWrite, rm, rp, rv, rw, true_and, and_true]
    rfl
  have all := put.trans (.foreignWrite _ who w pa n)
  have written : (s.sendRemote .write pa n v).register who w pa n v =
      ((s.sendRemote .write pa n v).putHome pa n v).foreignWrite who w pa n := by
    rw [State.register, State.fwd_of_no_moves hm1]
    rw [State.mirrorOf_of_no_moves (all.2.2.1.trans hm)]
  rw [State.homeWrite1, State.homeUpdate, written, State.fwd_of_no_moves hm1, State.wakeWaiters_of_noneWatches]
  · exact all
  · rw [NoneWatches, all.2.2.2]
    exact hw

theorem State.byteAt_of_sameHomes {s t : State} (h : SameHomes s t) (a : Nat) : t.byteAt a = s.byteAt a := by
  rw [State.byteAt, State.byteAt, h.1]
theorem State.byteAt_putHome (s : State) (pa n v a : Nat) :
    (s.putHome pa n v).byteAt a = if pa ≤ a ∧ a < pa + n then BitVec.ofNat 8 (v / 256 ^ (a - pa)) else s.byteAt a :=
  s.byteAt_rawWrite pa n v a

theorem Store.get_foldl_clear (p : Store Bool) (l : List Nat) (b q : Nat) :
    Store.get false (l.foldl (fun p i => Store.set false p (b + i) false) p) q =
      (Store.get false p q && !decide (∃ i ∈ l, b + i = q)) := by
  induction l generalizing p with
  | nil => simp
  | cons i l ih =>
    rw [List.foldl_cons, ih, Store.get_set]
    by_cases h : q = b + i
    · simp [h]
    · have h' : ¬ b + i = q := fun e => h e.symm
      simp [h, h']

/-- A write clears the poison of the words it writes whole and sets none. -/
theorem State.pois_putHome (s : State) (pa n v q : Nat) :
    Store.get false (s.putHome pa n v).pois q =
      (Store.get false s.pois q && !decide (pa ≤ 4 * q ∧ 4 * q + 4 ≤ pa + n)) := by
  unfold State.putHome
  dsimp only [State.rawWrite]
  split
  · next h => rw [LawfulBEq.eq_of_beq h]; rfl
  · rw [Store.get_foldl_clear]
    congr 2
    rw [decide_eq_decide]
    constructor
    · rintro ⟨i, hi, rfl⟩
      have := List.mem_range.mp hi
      omega
    · rintro ⟨lo, hi⟩
      exact ⟨q - (pa + 3) / 4, List.mem_range.mpr (by omega), by omega⟩

/-! ### A write of any length, a line at a time -/

/-- What a registered write of n bytes at pa leaves at the homes. -/
def WroteHome (s t : State) (pa n v : Nat) : Prop :=
  t.moves = s.moves ∧ t.waiters = s.waiters
  ∧ (∀ a, t.byteAt a = if pa ≤ a ∧ a < pa + n then BitVec.ofNat 8 (v / 256 ^ (a - pa)) else s.byteAt a)
  ∧ (∀ q, Store.get false t.pois q = (Store.get false s.pois q && !decide (pa ≤ 4 * q ∧ 4 * q + 4 ≤ pa + n)))

theorem State.homeWrite1_wrote {s : State} (who : Option Nat) (w : Option Awaiter) {pa n : Nat} (v : Nat)
    (hm : s.moves = []) (hw : NoneWatches s pa n) : WroteHome s (s.homeWrite1 who w pa n v) pa n v := by
  obtain ⟨km, kp, kv, kw⟩ := State.homeWrite1_sameHomes who w v hm hw
  refine ⟨kv, kw, fun a => ?_, fun q => ?_⟩
  · rw [← State.byteAt_putHome, State.byteAt, km]; rfl
  · rw [kp, State.pois_putHome]

/-- Two writes, one after the other, are the write of both when no word lies across where they meet. -/
theorem WroteHome.append {s t u : State} {pa m n v : Nat} (h : WroteHome s t pa m v)
    (k : WroteHome t u (pa + m) n (v / 2 ^ (8 * m))) (meet : (pa + m) % 4 = 0 ∨ n = 0) : WroteHome s u pa (m + n) v := by
  obtain ⟨hm, hw, hb, hp⟩ := h
  obtain ⟨km, kw, kb, kp⟩ := k
  refine ⟨km.trans hm, kw.trans hw, fun a => ?_, fun q => ?_⟩
  · rw [kb, hb]
    by_cases ha : pa + m ≤ a ∧ a < pa + m + n
    · have shift : 256 ^ (a - pa) = 2 ^ (8 * m) * 256 ^ (a - (pa + m)) := by
        rw [show a - pa = m + (a - (pa + m)) by omega, pow_add, pow_mul]; rfl
      rw [if_pos ha, if_pos (by omega), shift, Nat.div_div_eq_div_mul]
    · rw [if_neg ha]
      by_cases hb' : pa ≤ a ∧ a < pa + m
      · rw [if_pos hb', if_pos (by omega)]
      · rw [if_neg hb', if_neg (by omega)]
  · rw [kp, hp, Bool.and_assoc, ← Bool.not_or, ← Bool.decide_or]
    congr 2
    rw [decide_eq_decide]
    omega

theorem NoneWatches.mono {s t : State} {pa n pa' n' : Nat} (h : NoneWatches s pa n) (hw : t.waiters = s.waiters)
    (lo : pa ≤ pa') (hi : pa' + n' ≤ pa + n) : NoneWatches t pa' n' := by
  intro q hq
  rw [hw] at hq
  have hqo := h q hq
  simp only [overlap, decide_eq_false_iff_not] at hqo ⊢
  omega

theorem State.homeWriteN_wrote (k : Nat) {s : State} (who : Option Nat) (w : Option Awaiter) {pa n : Nat} (v : Nat)
    (hm : s.moves = []) (hw : NoneWatches s pa n) (hk : n = 0 ∨ pa % 64 + n ≤ 64 * k) :
    WroteHome s (State.homeWriteN k s who w pa n v) pa n v := by
  induction k generalizing s pa n v with
  | zero =>
    have hn : n = 0 := by omega
    subst hn
    exact ⟨rfl, rfl, fun a => by rw [if_neg (by omega)]; rfl, fun q => by
      rw [decide_eq_false (by omega), Bool.not_false, Bool.and_true]; rfl⟩
  | succ k ih =>
    unfold State.homeWriteN
    extract_lets m
    by_cases hn : n = 0
    · rw [if_pos hn]
      subst hn
      exact ⟨rfl, rfl, fun a => by rw [if_neg (by omega)], fun q => by
        rw [decide_eq_false (by omega), Bool.not_false, Bool.and_true]⟩
    · rw [if_neg hn]
      have first := State.homeWrite1_wrote who w v hm (hw.mono rfl (Nat.le_refl pa) (n' := m) (by omega))
      have rest := ih (s := s.homeWrite1 who w pa m v) (pa := pa + m) (n := n - m) (v / 2 ^ (8 * m))
        (first.1.trans hm) (hw.mono first.2.1 (by omega) (by omega)) (by omega)
      have whole := first.append rest (by omega)
      rwa [show m + (n - m) = n by omega] at whole

theorem State.homeWrite_wrote {s : State} (who : Option Nat) (w : Option Awaiter) {pa n : Nat} (v : Nat)
    (hm : s.moves = []) (hw : NoneWatches s pa n) : WroteHome s (s.homeWrite who w pa n v) pa n v :=
  State.homeWriteN_wrote _ who w v hm hw (by omega)

/-! ### Reading back -/

/-- Bytes that are those of v read as v. -/
theorem State.rawRead_of_bytes (s : State) (pa n v : Nat)
    (h : ∀ i < n, s.byteAt (pa + i) = BitVec.ofNat 8 (v / 256 ^ i)) : s.rawRead pa n = v % 2 ^ (8 * n) := by
  induction n generalizing pa v with
  | zero => simp [State.rawRead, Nat.mod_one]
  | succ n ih =>
    have low : s.byteAt pa = BitVec.ofNat 8 v := by simpa using h 0 (Nat.succ_pos n)
    have high : s.rawRead (pa + 1) n = v / 256 % 2 ^ (8 * n) := ih _ _ fun i hi => by
      rw [Nat.add_assoc, Nat.add_comm 1 i, h (i + 1) (by omega), Nat.pow_succ', Nat.div_div_eq_div_mul]
    rw [State.rawRead, low, high, BitVec.toNat_ofNat, show 8 * (n + 1) = 8 + 8 * n by ring, pow_add, Nat.mod_mul]; rfl

/-- Settles O10: the bytes of the write, a line at a time (WroteHome). -/
theorem homeWriteReadsBack : Obligations.HomeWriteReadsBack := by
  unfold Obligations.HomeWriteReadsBack
  intro s who w pa n v hm hw t
  obtain ⟨tm, tw, tb, tp⟩ : WroteHome s t pa n v := State.homeWrite_wrote who w v hm hw
  refine ⟨tb, ?_, fun q lo hi => ?_⟩
  · rw [State.homeRead_of_no_moves (tm.trans hm)]
    exact State.rawRead_of_bytes _ _ _ _ fun i hi => by rw [tb, if_pos (by omega), Nat.add_sub_cancel_left]
  · rw [tp, decide_eq_true ⟨lo, hi⟩, Bool.not_true, Bool.and_false]

end Sys2Proof.Machine
end

section
/-! SUPPORT. The frame of accesses (05_ranges.md, 13_memory_model.md) fails for a store over the core's own tentative words:
it reads the line and then brings it in again. Where every word of the line is poisoned at its home the first read keeps
nothing, but in an L1 whose listing is not canonical it lists the line once more; the cache is then full, and the second
fill makes a line leave. -/

namespace Sys2Proof.Machine
open Sys2Proof.Tests
set_option Elab.async false

theorem Acc.eq_ok_of_fine {α : Type} (d : α) {x : Acc α} (h : fine x = true) : x = .ok (value d x) (left x) := by
  cases x with
  | ok => rfl
  | trap => cases h
  | wait => cases h

/-- A full L1 all of whose lines that may leave are one line: that line leaves, whichever is drawn. -/
theorem State.evictOne_of_one_line {s : State} {c n line : Nat} {e : Line} (hn : 0 < n) (hst : e.st = .v)
    (hl : (s.coreAt c).l1.filter (fun e => e.2.st == .v || e.2.st == .o) = List.replicate n (line, e))
    (full : ¬ (s.coreAt c).l1.length < 1024) :
    s.evictOne c = (State.writeOut { s with draw := s.draw + 1 } c line 0 e e.dirty).setL1 c line {} := by
  have drawn : (List.replicate n (line, e))[Config.victim s.draw c % n]? = some (line, e) := by
    rw [List.getElem?_replicate, if_pos (Nat.mod_lt _ hn)]
  unfold State.evictOne
  dsimp only
  rw [if_neg full, hl, List.length_replicate, drawn]
  dsimp only
  rw [hst]

/-- The line that the store wants: no word valid, every word dirty. -/
def dirtyLine : Line := { rid := 1, dirty := BitVec.allOnes 16, data := BitVec.allOnes 512 }
/-- Core 0 lists the line of DVA 0x20000 in all but one of the 1,023 entries of its L1, behind a line of a higher address;
the line is poisoned at its home, where another core owns one of its words, and core 0's wisp has a tentative word in it. -/
def crowded : State :=
  { regs [] (fun x => { x with l1 := (4096, { st := .io }) :: List.replicate 1022 (2048, dirtyLine) }) with
    tents := [⟨1, 0, 2 ^ 18, 0, 1, 0x20000, 9, false, false⟩]
    pois := (List.range 16).map (fun i => (0x8000 + i, true))
    reg := [(2048, { owners := [(0, 2)] })] }
/-- Its translation of a store to 0x20000, and the state after it. -/
def crowdedXl : Xl := value noXl (crowded.xlat 0 0x20000 .write true false)
def crowdedXlated : State := left (crowded.xlat 0 0x20000 .write true false)
/-- The state after the store has read the words that it writes in. -/
def crowdedRead : State := left (crowdedXlated.readRaw 0 { crowdedXl with pa := 0x20000 } 8)
/-- The state after a line has left. -/
def crowdedLeft : State :=
  (State.writeOut { crowdedRead with draw := crowdedRead.draw + 1 } 0 2048 0 dirtyLine dirtyLine.dirty).setL1 0 2048 {}

theorem crowdedRead_evictOne : crowdedRead.evictOne 0 = crowdedLeft :=
  State.evictOne_of_one_line (n := 1023) (by decide) rfl (by decide +kernel) (by decide +kernel)

/-- The L1 access of core c to a line of which no word is valid, where no line is in hand and none is owned: what memory
is after it. -/
theorem State.l1Get_of_invalid {u w : State} {c line : Nat} (b : LineTag) (st : Bool) (hst : (u.l1Line c line).st = .v)
    (hvalid : (u.l1Line c line).valid = 0) (hrange : (u.coreAt c).ownRangeWords line = 0) (hleft : u.evictOne c = w) :
    ∃ l t, u.l1Get c line b st = .ok l t ∧ t.mem = ((w.bankOrder c line).fillClu c line b).2.mem := by
  subst hleft
  unfold State.l1Get
  dsimp only
  rw [hst, hvalid, hrange, if_neg (by cases st <;> decide), if_neg (by decide), if_neg (by decide), if_pos rfl]
  rcases (u.evictOne c).bankOrder c line |>.fillClu c line b with ⟨k, t⟩
  exact ⟨_, t.setL1 c line _, rfl, rfl⟩

/-- A store over the core's own tentative words, no word of whose line the L1 has after it has read the words. -/
theorem State.storeAt_of_ownTents {s u w : State} {c dva n v : Nat} {t t' : Xl} {old : Nat × BitVec 16}
    (ht : t' = { t with pa := (wordRun t.pa n).1 })
    (hca : t'.ca = true) (htag : (if t.dev then none else s.tentTag c t.rid) = none) (hown : s.ownTents c t.pa n = true)
    (hread : s.readRaw c t' (wordRun t.pa n).2 = .ok old u)
    (hpois : u.seenPois c (t.pa / 64) old.2 &&& (wordsTouched t.pa n &&& ~~~ (wordsCovered t.pa n)) = 0)
    (hst : (u.l1Line c (t'.pa / 64)).st = .v) (hvalid : (u.l1Line c (t'.pa / 64)).valid = 0)
    (hrange : (u.coreAt c).ownRangeWords (t'.pa / 64) = 0) (hleft : u.evictOne c = w) :
    ∃ r, s.storeAt c dva t n v = .ok () r ∧
      r.mem = ((w.bankOrder c (t'.pa / 64)).fillClu c (t'.pa / 64) (u.lineTag c t')).2.mem := by
  obtain ⟨l, r, get, mem⟩ := State.l1Get_of_invalid (u.lineTag c t') true hst hvalid hrange hleft
  have plain (k v' : Nat) : u.storePlain c dva t' k v' =
      .ok () (r.setL1 c (t'.pa / 64) (l.store (r.l1Line c (t'.pa / 64)) t'.pa k v')) := by
    rw [State.storePlain, if_pos hca, get, Acc.bind]
  unfold State.storeAt
  dsimp only
  rw [htag]
  dsimp only
  rw [hown, ← ht, hread, Acc.bind, hpois, if_neg (by decide), if_neg (by decide), plain, Acc.bind]
  exact ⟨_, rfl, mem⟩

/-- Refutes O7: the store of crowdedXl completes, and a line that has left the L1 stands at its home. -/
theorem not_accessesChangeMemoryStateOnly : ¬ Obligations.AccessesChangeMemoryStateOnly := by
  unfold Obligations.AccessesChangeMemoryStateOnly
  intro h
  obtain ⟨-, -, -, -, -, -, cached, -⟩ := h crowded 0 0x20000 8 5 0 0 .write true false
  have hx : crowded.xlat 0 0x20000 .write true false = .ok crowdedXl crowdedXlated :=
    Acc.eq_ok_of_fine noXl (by decide +kernel)
  have hread : crowdedXlated.readRaw 0 { crowdedXl with pa := 0x20000 } 8 =
      .ok (value (0, 0) (crowdedXlated.readRaw 0 { crowdedXl with pa := 0x20000 } 8)) crowdedRead :=
    Acc.eq_ok_of_fine (0, 0) (by decide +kernel)
  obtain ⟨r, hstore, mem⟩ := State.storeAt_of_ownTents (s := crowdedXlated) (u := crowdedRead) (c := 0) (dva := 0x20000) (n := 8)
    (v := 5) (t := crowdedXl) (t' := { crowdedXl with pa := 0x20000 }) (by decide +kernel) (by decide +kernel)
    (by decide +kernel) (by decide +kernel) (by rw [show (wordRun crowdedXl.pa 8).2 = 8 by decide +kernel]; exact hread)
    (by decide +kernel) (by decide +kernel) (by decide +kernel) (by decide +kernel) crowdedRead_evictOne
  have kept := cached _ _ _ hx (by decide +kernel) hstore (by decide +kernel) 0x2003F
  rw [State.byteAt, mem] at kept
  exact absurd kept (by decide +kernel)

end Sys2Proof.Machine
end

section
/-! SUPPORT. What the operations of the memory system leave of the caches and of the messages under way: the rules that the
statements on releases, acquires and ownership (13_memory_model.md) go by. -/

namespace Sys2Proof.Machine
set_option Elab.async false

/-- What stays from s to t: no core's L1 has changed and no core has sent or taken a request; from n = 1 on the registrations
of the lines are the same too, from 2 on the cluster caches, from 3 on the die caches. -/
structure Keeps (n : Nat) (s t : State) : Prop where
  l1 : ∀ c, (t.coreAt c).l1 = (s.coreAt c).l1
  requests : ∀ c, t.requests c = s.requests c
  reg : 1 ≤ n → t.reg = s.reg
  clusters : 2 ≤ n → t.clusters = s.clusters
  dies : 3 ≤ n → t.dies = s.dies

namespace Keeps
variable {n : Nat} {s t u : State}

theorem refl (s : State) : Keeps n s s := ⟨fun _ => rfl, fun _ => rfl, fun _ => rfl, fun _ => rfl, fun _ => rfl⟩
theorem trans (h : Keeps n s t) (k : Keeps n t u) : Keeps n s u :=
  ⟨fun c => (k.l1 c).trans (h.l1 c), fun c => (k.requests c).trans (h.requests c), fun w => (k.reg w).trans (h.reg w),
    fun w => (k.clusters w).trans (h.clusters w), fun w => (k.dies w).trans (h.dies w)⟩
theorem mono {m : Nat} (h : Keeps n s t) (hm : m ≤ n) : Keeps m s t :=
  ⟨h.l1, h.requests, fun w => h.reg (w.trans hm), fun w => h.clusters (w.trans hm), fun w => h.dies (w.trans hm)⟩
theorem foldl {β : Type} (f : State → β → State) (hf : ∀ s b, Keeps n s (f s b)) (l : List β) (s : State) :
    Keeps n s (l.foldl f s) := by
  induction l generalizing s with
  | nil => exact refl s
  | cons b l ih => exact (hf s b).trans (ih _)
theorem ite {c : Prop} [Decidable c] {a b : State} (ha : c → Keeps n s a) (hb : ¬ c → Keeps n s b) :
    Keeps n s (if c then a else b) := by
  split
  · exact ha ‹_›
  · exact hb ‹_›
theorem l1Line (h : Keeps n s t) (c line : Nat) : t.l1Line c line = s.l1Line c line := by
  rw [State.l1Line, State.l1Line, h.l1]
theorem regAt (h : Keeps n s t) (hn : 1 ≤ n) (line : Nat) : t.regAt line = s.regAt line := by
  rw [State.regAt, State.regAt, h.reg hn]
theorem clusterAt (h : Keeps n s t) (hn : 2 ≤ n) (k : Nat) : t.clusterAt k = s.clusterAt k := by
  rw [State.clusterAt, State.clusterAt, h.clusters hn]
theorem dieAt (h : Keeps n s t) (hn : 3 ≤ n) (d : Nat) : t.dieAt d = s.dieAt d := by
  rw [State.dieAt, State.dieAt, h.dies hn]

/-! ### Steps that touch no cache -/

/-- A change of fields that are none of these. -/
theorem of_fields (hc : t.cores = s.cores) (hs : t.sched = s.sched) (hr : t.reg = s.reg) (hk : t.clusters = s.clusters)
    (hd : t.dies = s.dies) : Keeps n s t :=
  ⟨fun _ => by rw [State.coreAt, State.coreAt, hc], fun _ => by rw [State.requests, State.requests, hs], fun _ => hr, fun _ => hk,
    fun _ => hd⟩
theorem post (s : State) {e : Event} (he : e.asRequest = none) : Keeps n s (s.post e) := by
  refine ⟨fun _ => rfl, fun c => ?_, fun _ => rfl, fun _ => rfl, fun _ => rfl⟩
  simp [State.requests, State.post, List.filter_append, he]
theorem postOnce (s : State) {e : Event} (he : e.asRequest = none) : Keeps n s (s.postOnce e) := by
  unfold State.postOnce
  split
  · exact refl s
  · exact post s he
theorem updCore (s : State) (c : Nat) (f : Core → Core) (hf : ∀ x, (f x).l1 = x.l1) : Keeps n s (s.updCore c f) := by
  refine ⟨fun e => ?_, fun _ => rfl, fun _ => rfl, fun _ => rfl, fun _ => rfl⟩
  rw [State.coreAt_updCore]
  split
  · next h => rw [h, hf]
  · rfl
theorem emit (s : State) (o : Out) : Keeps n s (s.emit o) := of_fields rfl rfl rfl rfl rfl
theorem sendRemote (s : State) (op : PeerOp) (pa k v : Nat) : Keeps n s (s.sendRemote op pa k v) := by
  unfold State.sendRemote
  exact ite (fun _ => refl s) fun _ => emit ..
theorem updWisp (s : State) (k : Nat) (f : Wisp → Wisp) : Keeps n s (s.updWisp k f) := of_fields rfl rfl rfl rfl rfl
theorem rawWrite (s : State) (pa k v : Nat) : Keeps n s (s.rawWrite pa k v) := of_fields rfl rfl rfl rfl rfl
theorem dirtyMap (s : State) (l : Store Bool) : Keeps n s { s with dirtyMap := l } := of_fields rfl rfl rfl rfl rfl
theorem putHome (s : State) (pa k v : Nat) : Keeps n s (s.putHome pa k v) := of_fields rfl rfl rfl rfl rfl
theorem homePoison (s : State) (line : Nat) (m : BitVec 16) : Keeps n s (s.homePoison line m) := of_fields rfl rfl rfl rfl rfl
theorem pending (s : State) (l : Store Pending) : Keeps n s { s with pending := l } := of_fields rfl rfl rfl rfl rfl

theorem writeRecord (s : State) (k : Nat) : Keeps n s (s.writeRecord k) := by
  unfold State.writeRecord
  dsimp only
  split
  · exact refl s
  · exact (rawWrite ..).trans (dirtyMap ..)
theorem offer (s : State) (d : Nat) : Keeps n s (s.offer d) := by
  unfold State.offer
  extract_lets s1 s2
  have h1 : Keeps n s s1 := foldl _ (fun s k => postOnce s rfl) _ s
  have h2 : Keeps n s1 s2 := ite (fun _ => postOnce s1 rfl) fun _ => refl s1
  refine h1.trans (h2.trans ?_)
  split
  · exact postOnce _ (by split <;> rfl)
  · exact refl _
theorem markReady (s : State) (k : Nat) : Keeps n s (s.markReady k) := by
  unfold State.markReady
  extract_lets w x s1 s2
  have h1 : Keeps n s s1 := of_fields rfl rfl rfl rfl rfl
  refine h1.trans ((writeRecord s1 k).trans ?_)
  split
  · exact offer _ _
  · exact ite (fun _ => post _ rfl) fun _ => refl _
theorem wakeWaiter (s : State) (w : Waiter) : Keeps n s (s.wakeWaiter w) := by
  unfold State.wakeWaiter
  dsimp only
  have h : Keeps n s { s with waiters := s.waiters.erase w } := of_fields rfl rfl rfl rfl rfl
  refine h.trans ?_
  split
  · split
    · exact updCore _ _ (fun x => { x with waitOn := _, stage := if x.stage == .wait then .run else x.stage }) fun _ => rfl
    · exact refl _
  · split
    · exact (updWisp ..).trans (markReady ..)
    · exact refl _
theorem wakeWaiters (s : State) (pa k : Nat) : Keeps n s (s.wakeWaiters pa k) :=
  foldl _ (fun s w => ite (fun _ => refl s) fun _ => wakeWaiter s w) _ s
theorem loseWords (s : State) (d v line : Nat) : Keeps n s (s.loseWords d v line) :=
  foldl _ (fun s c => updCore s c (fun x => { x with lost := some (64 * line) }) fun _ => rfl) _ s

/-! ### Writes at the home -/

theorem askOwner (s : State) (line o : Nat) (m : BitVec 16) (t : Option Take) (w : Option Awaiter) :
    Keeps n s (s.askOwner line o m t w) := by
  unfold State.askOwner
  extract_lets p had p2 s2
  have h : Keeps n s s2 := of_fields rfl rfl rfl rfl rfl
  exact ite (fun _ => h) fun _ => h.trans (post s2 (by cases t <;> rfl))
theorem foreignWrite (s : State) (who : Option Nat) (w : Option Awaiter) (pa k : Nat) : Keeps n s (s.foreignWrite who w pa k) :=
  foldl _ (fun s _ => ite (fun _ => refl s) fun _ => askOwner ..) _ s
theorem register (s : State) (who : Option Nat) (w : Option Awaiter) (pa k v : Nat) :
    Keeps n s (s.register who w pa k v) := by
  unfold State.register
  dsimp only
  split
  · exact ((putHome ..).trans (foreignWrite ..)).trans ((putHome ..).trans (foreignWrite ..))
  · exact (putHome ..).trans (foreignWrite ..)
theorem homeWrite1 (s : State) (who : Option Nat) (w : Option Awaiter) (pa k v : Nat) :
    Keeps n s (s.homeWrite1 who w pa k v) := (sendRemote ..).trans ((register ..).trans (wakeWaiters ..))
theorem homeWriteN (fuel : Nat) (s : State) (who : Option Nat) (w : Option Awaiter) (pa k v : Nat) :
    Keeps n s (State.homeWriteN fuel s who w pa k v) := by
  induction fuel generalizing s pa k v with
  | zero => exact refl s
  | succ fuel ih =>
    unfold State.homeWriteN
    exact ite (fun _ => refl s) fun _ => (homeWrite1 ..).trans (ih ..)
theorem homeWrite (s : State) (who : Option Nat) (w : Option Awaiter) (pa k v : Nat) : Keeps n s (s.homeWrite who w pa k v) :=
  homeWriteN ..
theorem homeWriteWords (s : State) (who : Option Nat) (w : Option Awaiter) (line : Nat) (data : BitVec 512) (m p : BitVec 16) :
    Keeps n s (s.homeWriteWords who w line data m p) := by
  unfold State.homeWriteWords
  extract_lets words s1
  have h1 : Keeps n s s1 := foldl _ (fun s i => (sendRemote ..).trans (register ..)) _ s
  exact h1.trans ((homePoison ..).trans (foldl _ (fun s i => wakeWaiters ..) _ _))

/-! ### The tiers -/

theorem updDie (s : State) (d : Nat) (f : Die → Die) : Keeps 2 s (s.updDie d f) :=
  ⟨fun _ => rfl, fun _ => rfl, fun _ => rfl, fun _ => rfl, fun h => absurd h (by decide)⟩
theorem updCluster (s : State) (k : Nat) (f : Cluster → Cluster) : Keeps 1 s (s.updCluster k f) :=
  ⟨fun _ => rfl, fun _ => rfl, fun _ => rfl, fun h => absurd h (by decide), fun h => absurd h (by decide)⟩
theorem updReg (s : State) (line : Nat) (f : Reg → Reg) : Keeps 0 s (s.updReg line f) :=
  ⟨fun _ => rfl, fun _ => rfl, fun h => absurd h (by decide), fun h => absurd h (by decide), fun h => absurd h (by decide)⟩
theorem draw (s : State) (k : Nat) : Keeps n s { s with draw := k } := of_fields rfl rfl rfl rfl rfl

theorem dieRoom (s : State) (d v : Nat) : Keeps 2 s (s.dieRoom d v) := by
  unfold State.dieRoom
  dsimp only
  refine ite (fun _ => refl s) fun _ => ?_
  split
  · exact refl s
  · rename_i old l _
    have h := (updDie s d (fun x => { x with cache := Store.set {} x.cache old {} })).trans (draw (n := 2) _ (s.draw + 1))
    exact ite (fun _ => h) fun _ => ite (fun _ => h.trans (loseWords ..)) fun _ => h.trans (homeWriteWords ..)
theorem setDieLine (s : State) (d line : Nat) (l : Line) : Keeps 2 s (s.setDieLine d line l) := by
  unfold State.setDieLine
  exact (ite (fun _ => dieRoom ..) fun _ => refl s).trans (updDie ..)
theorem cluRoom (s : State) (k : Nat) : Keeps 1 s (s.cluRoom k) := by
  unfold State.cluRoom
  dsimp only
  refine ite (fun _ => refl s) fun _ => ?_
  split
  · exact refl s
  · rename_i old l _
    have h := (updCluster s k (fun x => { x with cache := Store.set {} x.cache old {} })).trans (draw (n := 1) _ (s.draw + 1))
    exact ite (fun _ => h) fun _ => h.trans ((setDieLine ..).mono (by decide))
theorem setCluLine (s : State) (k line : Nat) (l : Line) : Keeps 1 s (s.setCluLine k line l) := by
  unfold State.setCluLine
  exact (ite (fun _ => cluRoom ..) fun _ => refl s).trans (updCluster ..)
theorem fillDie (s : State) (c line : Nat) (b : LineTag) : Keeps 2 s (s.fillDie c line b).2 := by
  unfold State.fillDie
  dsimp only
  split
  · exact refl s
  · exact (sendRemote ..).trans (setDieLine ..)
theorem fillClu (s : State) (c line : Nat) (b : LineTag) : Keeps 1 s (s.fillClu c line b).2 := by
  unfold State.fillClu
  dsimp only
  split
  · exact refl s
  · exact ((fillDie ..).mono (by decide)).trans (setCluLine ..)
theorem passTiers (s : State) (c line : Nat) (data : BitVec 512) (m p : BitVec 16) (b : Bool) :
    Keeps 1 s (s.passTiers c line data m p b) := by
  unfold State.passTiers
  extract_lets d s1 k
  have h1 : Keeps 1 s s1 := ite (fun _ => refl s) fun _ => (setDieLine ..).mono (by decide)
  exact ite (fun _ => h1) fun _ => h1.trans (setCluLine ..)

/-! ### Messages at the home -/

theorem sendLine (s : State) (c line : Nat) (p : BitVec 16) {e : Event} (he : e.asRequest = none) :
    Keeps n s (s.sendLine c line p e) := (updCore s c (fun x => { x with fillPois := Store.set 0 x.fillPois line p }) fun _ => rfl).trans (post _ he)
theorem answerFill (s : State) (c line : Nat) : Keeps 0 s (s.answerFill c line) := by
  unfold State.answerFill
  refine ite (fun _ => sendLine _ _ _ _ rfl) fun _ => ?_
  dsimp only
  have h (p : BitVec 16) : Keeps 0 s ((s.sendRemote .read (64 * line) 64 0).passTiers c line (s.fillData c line).1
      (BitVec.allOnes 16) p false) := (sendRemote ..).trans ((passTiers ..).mono (by decide))
  exact ite (fun _ => (h _).trans (sendLine _ _ _ _ rfl)) fun _ => (h _).trans ((updReg ..).trans (sendLine _ _ _ _ rfl))
theorem flushOwned (s : State) (c line : Nat) (m : BitVec 16) : Keeps 1 s (s.flushOwned c line m) := by
  unfold State.flushOwned
  extract_lets d k s1 s2 d2 s3
  have h1 : Keeps 1 s s1 := ite (fun _ => refl s) fun _ => ((setDieLine ..).mono (by decide)).trans (homeWriteWords ..)
  exact ite (fun _ => h1) fun _ =>
    h1.trans ((setCluLine ..).trans (((setDieLine ..).mono (by decide)).trans (homeWriteWords ..)))
theorem arriveWords (s : State) (c line : Nat) (data : BitVec 512) (m : BitVec 16) :
    Keeps 1 s (s.arriveWords c line data m) := by
  unfold State.arriveWords
  refine ite (fun _ => refl s) fun _ => ?_
  extract_lets p s1 s2
  have h1 : Keeps 1 s s1 := updCore s c (fun x => { x with sentPois := Store.set 0 x.sentPois line 0 }) fun _ => rfl
  exact ite (fun _ => h1.trans (updCore _ _ (fun x => { x with lost := some (64 * line) }) fun _ => rfl)) fun _ => h1.trans ((homeWriteWords ..).trans (passTiers ..))
theorem mergeAnswer (s : State) (c line : Nat) (data : BitVec 512) (m : BitVec 16) :
    Keeps 1 s (s.mergeAnswer c line data m) := arriveWords ..
theorem onOwnreq (s : State) (c line : Nat) (w : BitVec 16) (data : BitVec 512) (dirty : BitVec 16) :
    Keeps 0 s (s.onOwnreq c line w data dirty) := by
  unfold State.onOwnreq
  extract_lets awaits s0 s1 r held taken s2 s3
  have h0 : Keeps 0 s s0 := (mergeAnswer ..).mono (by decide)
  have h1 : Keeps 0 s s1 := ((flushOwned ..).trans (mergeAnswer ..)).mono (by decide)
  have h3 : Keeps 0 s s3 := h1.trans ((updReg ..).trans (foldl _ (fun s o => askOwner ..) _ _))
  exact ite (fun _ => ite (fun _ => h0.trans (answerFill ..)) fun _ => h0) fun _ =>
    ite (fun _ => h3.trans (answerFill ..)) fun _ => h3
theorem endOwner (s : State) (c line : Nat) : Keeps 0 s (s.endOwner c line) := by
  unfold State.endOwner
  extract_lets p s1 s2 s3 cores
  have h1 : Keeps 0 s s1 := of_fields rfl rfl rfl rfl rfl
  have h3 : Keeps 0 s s3 := h1.trans ((updReg ..).trans (foldl _ (fun s t => updReg ..) _ _))
  exact h3.trans (foldl _ (fun s t => ite (fun _ => answerFill ..) fun _ => refl _) _ _)
theorem onFill (s : State) (c line : Nat) : Keeps 0 s (s.onFill c line) := by
  unfold State.onFill
  exact ite (fun _ => pending ..) fun _ => answerFill ..
theorem deregister (s : State) (c line : Nat) (m : BitVec 16) : Keeps 0 s (s.deregister c line m) :=
  (updReg ..).trans (pending ..)
theorem copyLeft (s : State) (c line : Nat) (data : BitVec 512) (dirty m : BitVec 16) :
    Keeps 0 s (s.copyLeft c line data dirty m) := by
  unfold State.copyLeft
  extract_lets had s1
  have h1 : Keeps 0 s s1 := (mergeAnswer ..).mono (by decide)
  exact ite (fun _ => h1.trans (endOwner ..)) fun _ => h1.trans ((deregister ..).trans (updReg ..))
theorem atHome (s : State) (e : Event) : Keeps 0 s (s.atHome e) := by
  unfold State.atHome
  cases e with
  | fill c line => exact onFill ..
  | ownreq c line w data dirty => exact onOwnreq ..
  | yield c line data dirty => exact ((mergeAnswer ..).mono (by decide)).trans (endOwner ..)
  | evict c line data dirty => exact (copyLeft ..).trans (post _ rfl)
  | disownreq c line data dirty => exact (copyLeft ..).trans (post _ rfl)
  | _ => exact refl s
end Keeps

/-! ### A core's requests are performed -/

theorem State.l1_perform (s : State) (p : Nat → Nat → Bool) (c : Nat) : ((s.perform p).coreAt c).l1 = (s.coreAt c).l1 := by
  unfold State.perform
  generalize s.sched.filter _ = l
  induction l generalizing s with
  | nil => rfl
  | cons e l ih =>
    rw [List.foldl_cons, ih, (Keeps.atHome _ e).l1]
    rfl

/-- Whether e is a request of core c. -/
def isRequestOf (c : Nat) (e : Event) : Bool := match e.asRequest with | some (c', _) => c' == c | none => false
theorem State.requests_eq (s : State) (c : Nat) : s.requests c = s.sched.filter (isRequestOf c) := rfl

/-- When the requests of core c are those of a list of messages, none is left after the list is performed. -/
theorem State.requests_foldl_atHome (c : Nat) (l : List Event) (s : State) (e : Event)
    (h : (s.requests c).count e = (l.filter (isRequestOf c)).count e) :
    ((l.foldl (fun s e => ({ s with sched := s.sched.erase e } : State).atHome e) s).requests c).count e = 0 := by
  induction l generalizing s with
  | nil => simpa using h
  | cons a l ih =>
    refine ih _ ?_
    rw [(Keeps.atHome _ a).requests]
    have erased : State.requests { s with sched := s.sched.erase a } c = (s.requests c).erase a := by
      simp only [State.requests_eq, List.erase_filter]
    rw [erased, List.count_erase, h, List.filter_cons]
    by_cases ha : a = e
    · subst ha
      by_cases hq : isRequestOf c a = true
      · simp [hq]
      · have zero : List.count a (l.filter (isRequestOf c)) = 0 :=
          List.count_eq_zero.mpr fun hm => hq (List.mem_filter.mp hm).2
        simp [hq, zero]
    · by_cases hq : isRequestOf c a = true <;> simp [hq, ha]

/-- No request of core c is under way once what it has sent has been performed. -/
theorem State.requests_performSent (s : State) (c : Nat) : (s.performSent c).requests c = [] := by
  refine List.eq_nil_iff_forall_not_mem.mpr fun e he => ?_
  have none := State.requests_foldl_atHome c (s.sched.filter fun e => match e.toHome with | some (c', _) => c' == c | none => false)
    s e (by
      rw [State.requests_eq, List.filter_filter]
      congr 2
      funext a
      cases a <;> simp [isRequestOf, Event.toHome, Event.asRequest])
  exact List.count_eq_zero.mp none he

/-! ### Write-backs by a core whose requests have been performed -/

namespace Keeps
theorem bankOrder {n : Nat} {s : State} {c : Nat} (h : s.requests c = []) (line : Nat) : Keeps n s (s.bankOrder c line) := by
  rw [State.bankOrder, h]
  exact refl s
theorem writeBack {n : Nat} {s : State} {c : Nat} (h : s.requests c = []) (who : Option Nat) (line : Nat) (data : BitVec 512)
    (m p : BitVec 16) : Keeps n s (s.writeBack c who line data m p) := by
  unfold State.writeBack
  refine ite (fun _ => refl s) fun _ => ?_
  have h1 (b : Prop) [Decidable b] : Keeps n s (if b then s.bankOrder c line else
      (s.bankOrder c line).homeWriteWords who (some (.core c)) line data m p) :=
    ite (fun _ => bankOrder h line) fun _ => (bankOrder h line).trans (homeWriteWords ..)
  exact ite (fun _ => (h1 _).trans (updCore _ _ (fun x => { x with lost := some (64 * line) }) fun _ => rfl)) fun _ => h1 _
theorem writeOut {s : State} {c : Nat} (h : s.requests c = []) (line sc : Nat) (l : Line) (m : BitVec 16) :
    Keeps 1 s (s.writeOut c line sc l m) := by
  unfold State.writeOut
  extract_lets k d r mine toHome sc' clu die home s1 rest s2
  have hclu (s : State) (m : BitVec 16) : Keeps 1 s (clu s m) := setCluLine ..
  have hhome {s : State} (h : s.requests c = []) (m : BitVec 16) : Keeps 1 s (home s m) := by
    have h1 : Keeps 1 s (die (clu s m) m) := (hclu s m).trans ((setDieLine ..).mono (by decide))
    exact h1.trans (writeBack ((h1.requests c).trans h) ..)
  have h1 : Keeps 1 s s1 := ite (fun _ => refl s) fun _ => hhome h _
  exact ite (fun _ => hhome h m) fun _ => ite (fun _ => h1) fun _ =>
    ite (fun _ => h1.trans ((hclu ..).trans ((setDieLine ..).mono (by decide)))) fun _ => h1.trans (setCluLine ..)
end Keeps

end Sys2Proof.Machine
end

section
/-! SUPPORT. An acquire (13_memory_model.md, R267): the lines it drops, and what it leaves of the others. -/

namespace Sys2Proof.Machine
set_option Elab.async false

/-! ### Folds over the lines of a cache -/

theorem Store.mem_put {α : Type} {m : Store α} {k : Nat} {v : α} {x : Nat × α} (h : x ∈ Store.put m k v) :
    x = (k, v) ∨ x ∈ m := by
  induction m with
  | nil => exact .inl (List.mem_singleton.mp h)
  | cons e m ih =>
    unfold Store.put at h
    split at h
    · exact (List.mem_cons.mp h).imp_right id
    · split at h
      · exact (List.mem_cons.mp h).imp_right (List.mem_cons_of_mem _)
      · rcases List.mem_cons.mp h with rfl | h
        · exact .inr List.mem_cons_self
        · exact (ih h).imp_right (List.mem_cons_of_mem _)
theorem Store.mem_set {α : Type} [DecidableEq α] {d : α} {m : Store α} {k : Nat} {v : α} {x : Nat × α}
    (h : x ∈ Store.set d m k v) : x = (k, v) ∨ x ∈ m := by
  unfold Store.set at h
  split at h
  · exact .inr (List.mem_filter.mp h).1
  · exact Store.mem_put h
theorem Store.mem_set_default {α : Type} [DecidableEq α] {d : α} {m : Store α} {k : Nat} {x : Nat × α}
    (h : x ∈ Store.set d m k d) : x ∈ m ∧ x.1 ≠ k := by
  unfold Store.set at h
  rw [if_pos rfl] at h
  simpa using List.mem_filter.mp h

/-- A fold over the entries of a cache that takes away each entry that is of a kind, and adds none of that kind, leaves none.
The cache is what view gives; Inv holds from the first state on. -/
theorem foldl_drops {f : State → Nat × Line → State} {view : State → Store Line} {bad : Line → Prop} {Inv : State → Prop}
    (hinv : ∀ s e, Inv s → Inv (f s e))
    (hstep : ∀ s e, Inv s → ∀ x ∈ view (f s e), bad x.2 → x ∈ view s ∧ (bad e.2 → x.1 ≠ e.1))
    (l : List (Nat × Line)) {s : State} (hs : Inv s) (hl : ∀ x ∈ view s, bad x.2 → x ∈ l) :
    ∀ x ∈ view (l.foldl f s), ¬ bad x.2 := by
  induction l generalizing s with
  | nil => exact fun x hx hb => List.not_mem_nil (hl x hx hb)
  | cons e l ih =>
    refine ih (hinv s e hs) fun x hx hb => ?_
    obtain ⟨hxs, hne⟩ := hstep s e hs x hx hb
    rcases List.mem_cons.mp (hl x hxs hb) with rfl | hxl
    · exact absurd rfl (hne hb)
    · exact hxl
theorem foldl_inv {β : Type} {f : State → β → State} {Inv : State → Prop} (hinv : ∀ s e, Inv s → Inv (f s e)) (l : List β)
    {s : State} (hs : Inv s) : Inv (l.foldl f s) := by
  induction l generalizing s with
  | nil => exact hs
  | cons e l ih => exact ih (hinv s e hs)

theorem Store.le_key_of_wfFrom {α : Type} [DecidableEq α] {d : α} {lo : Nat} {m : Store α} (wf : Store.wfFrom d lo m = true)
    {x : Nat × α} (hx : x ∈ m) : lo ≤ x.1 := by
  induction m generalizing lo with
  | nil => cases hx
  | cons e m ih =>
    obtain ⟨k, v⟩ := e
    simp only [Store.wfFrom, Bool.and_eq_true, decide_eq_true_eq] at wf
    obtain ⟨⟨hk, -⟩, wf⟩ := wf
    rcases List.mem_cons.mp hx with rfl | hx
    · exact hk
    · have := ih wf hx
      omega

section
variable {f : State → Nat × Line → State} {view : State → Store Line} {Inv : State → Prop} {k : Nat}
  (hinv : ∀ s e, Inv s → Inv (f s e))
  (hother : ∀ s e, Inv s → e.1 ≠ k → Store.get {} (view (f s e)) k = Store.get {} (view s) k)
include hinv hother
/-- A fold over entries elsewhere leaves what stands at k. -/
theorem foldl_get_other (l : Store Line) {s : State} (hs : Inv s) (hl : ∀ x ∈ l, x.1 ≠ k) :
    Store.get {} (view (l.foldl f s)) k = Store.get {} (view s) k := by
  induction l generalizing s with
  | nil => rfl
  | cons e l ih =>
    rw [List.foldl_cons, ih (hinv s e hs) fun x hx => hl x (List.mem_cons_of_mem _ hx), hother s e hs (hl e List.mem_cons_self)]
/-- A fold over the entries of a canonical cache that changes, for each entry, what stands at its place to g of it. -/
theorem foldl_get {g : Line → Line}
    (hsame : ∀ s e, Inv s → e.1 = k → Store.get {} (view s) k = e.2 → Store.get {} (view (f s e)) k = g e.2) (l : Store Line)
    {lo : Nat} {s : State} (hs : Inv s) (wf : Store.wfFrom {} lo l = true) (listed : Store.get {} l k ≠ {})
    (start : Store.get {} (view s) k = Store.get {} l k) :
    Store.get {} (view (l.foldl f s)) k = g (Store.get {} l k) := by
  induction l generalizing s lo with
  | nil => exact absurd rfl listed
  | cons e l ih =>
    obtain ⟨i, x⟩ := e
    simp only [Store.wfFrom, Bool.and_eq_true] at wf
    obtain ⟨-, wf⟩ := wf
    by_cases h : k = i
    · subst h
      have here : Store.get {} ((k, x) :: l) k = x := if_pos rfl
      rw [here, List.foldl_cons, foldl_get_other hinv hother l (hinv s (k, x) hs) fun y hy e => ?_, hsame s (k, x) hs rfl (start.trans here)]
      have := Store.le_key_of_wfFrom wf hy
      omega
    · have there : Store.get {} ((i, x) :: l) k = Store.get {} l k := if_neg h
      rw [there] at listed start ⊢
      exact ih (hinv s (i, x) hs) wf listed ((hother s (i, x) hs fun e => h e.symm).trans start)
end

/-! ### The steps of an acquire -/

/-- Region r names line l. -/
def Named (r : Nat) (l : Line) : Prop := if r = 255 then l.rid ≠ 0 else l.rid = r
theorem ridHit_iff (r : Nat) (l : Line) : ridHit r false l = true ↔ Named r l := by
  unfold ridHit Named
  split <;> simp
theorem not_named_default {r : Nat} (h : 1 ≤ r) : ¬ Named r {} := by
  unfold Named
  split
  · simp
  · show ¬ 0 = r
    omega

theorem State.l1_setL1 (s : State) (c line : Nat) (l : Line) :
    ((s.setL1 c line l).coreAt c).l1 = Store.set {} (s.coreAt c).l1 line l := by
  rw [State.setL1, State.coreAt_updCore_same]
theorem Keeps.setL1_requests (s : State) (c line : Nat) (l : Line) (d : Nat) : (s.setL1 c line l).requests d = s.requests d := rfl
/-- A line that leaves its cluster cache makes none leave for want of room. -/
theorem State.setCluLine_default (s : State) (k line : Nat) :
    s.setCluLine k line {} = s.updCluster k (fun x => { x with cache := Store.set {} x.cache line {} }) := by
  rw [State.setCluLine, if_neg (fun h => h.2 rfl)]
theorem State.setDieLine_default (s : State) (d line : Nat) :
    s.setDieLine d line {} = s.updDie d (fun x => { x with cache := Store.set {} x.cache line {} }) := by
  rw [State.setDieLine, if_neg (fun h => h.2 rfl)]

/-- What acquireL1 does with one entry of the L1. -/
def acquireL1Step (c r : Nat) (s : State) (e : Nat × Line) : State :=
  if ridHit r false e.2 then
    match e.2.st with
    | .v => (s.writeOut c e.1 0 e.2 e.2.dirty).setL1 c e.1 {}
    | .o =>
      let mine := (s.regAt e.1).words c
      let s := if e.2.dirty &&& ~~~ mine = 0 then s else s.writeOut c e.1 0 e.2 (e.2.dirty &&& ~~~ mine)
      s.setL1 c e.1 { e.2 with valid := e.2.valid &&& mine, dirty := e.2.dirty &&& mine, pois := e.2.pois &&& mine }
    | .ov => s.setL1 c e.1 { e.2 with st := .oi }
    | .io | .oi => s
  else s
theorem acquireL1_eq (s : State) (c r : Nat) : s.acquireL1 c r false = (s.coreAt c).l1.foldl (acquireL1Step c r) s := rfl

/-- The line that stands in the L1 after its entry has been handled. -/
def acquired (r : Nat) (mine : BitVec 16) (l : Line) : Line :=
  if ridHit r false l then
    match l.st with
    | .v => {}
    | .o => { l with valid := l.valid &&& mine, dirty := l.dirty &&& mine, pois := l.pois &&& mine }
    | .ov => { l with st := .oi }
    | .io | .oi => l
  else l

theorem acquireL1Step_requests {c : Nat} (r : Nat) {s : State} (e : Nat × Line) (h : s.requests c = []) :
    (acquireL1Step c r s e).requests c = [] := by
  unfold acquireL1Step
  split
  · split
    · exact ((Keeps.writeOut h ..).requests c).trans h
    · dsimp only
      split
      · exact h
      · exact ((Keeps.writeOut h ..).requests c).trans h
    · exact h
    · exact h
    · exact h
  · exact h
theorem acquireL1Step_reg {c : Nat} (r : Nat) {s : State} (e : Nat × Line) (h : s.requests c = []) :
    (acquireL1Step c r s e).reg = s.reg := by
  unfold acquireL1Step
  split
  · split
    · exact (Keeps.writeOut h ..).reg (Nat.le_refl 1)
    · dsimp only
      split
      · rfl
      · exact (Keeps.writeOut h ..).reg (Nat.le_refl 1)
    · rfl
    · rfl
    · rfl
  · rfl
/-- The L1 after a step: as it was, or with another line at the entry's place. -/
theorem acquireL1Step_l1 {c : Nat} (r : Nat) {s : State} (e : Nat × Line) (h : s.requests c = []) :
    ((acquireL1Step c r s e).coreAt c).l1 = (s.coreAt c).l1 ∧ acquired r ((s.regAt e.1).words c) e.2 = e.2 ∧
      ¬ (Named r e.2 ∧ e.2.st = .v) ∨
    ((acquireL1Step c r s e).coreAt c).l1 = Store.set {} (s.coreAt c).l1 e.1 (acquired r ((s.regAt e.1).words c) e.2) := by
  unfold acquireL1Step acquired
  split
  · split
    · next hv => right; rw [State.l1_setL1, (Keeps.writeOut h ..).l1]
    · next hv =>
      right
      dsimp only
      rw [State.l1_setL1]
      split
      · rfl
      · rw [(Keeps.writeOut h ..).l1]
    · right; rw [State.l1_setL1]
    · next hv => exact .inl ⟨rfl, rfl, fun h => by rw [hv] at h; exact absurd h.2 (by decide)⟩
    · next hv => exact .inl ⟨rfl, rfl, fun h => by rw [hv] at h; exact absurd h.2 (by decide)⟩
  · next hn => exact .inl ⟨rfl, rfl, fun h => hn ((ridHit_iff r e.2).mpr h.1)⟩

/-! ### The L1 after an acquire -/

theorem acquired_default {r : Nat} (hr : 1 ≤ r) (m : BitVec 16) : acquired r m {} = {} :=
  if_neg fun h => not_named_default hr ((ridHit_iff r _).mp h)

/-- No V line of the region is left in the L1. -/
theorem acquireL1_drops {s : State} {c r : Nat} (hr : 1 ≤ r) (h : s.requests c = []) (line : Nat)
    (hn : Named r ((s.acquireL1 c r false).l1Line c line)) : ((s.acquireL1 c r false).l1Line c line).st ≠ .v := by
  intro hv
  have drops := foldl_drops (f := acquireL1Step c r) (view := fun s => (s.coreAt c).l1) (bad := fun l => Named r l ∧ l.st = .v)
    (Inv := fun s => s.requests c = []) (fun s e h => acquireL1Step_requests r e h) (fun s e h x hx hb => ?_) (s.coreAt c).l1 h
    (fun x hx _ => hx)
  · rcases Store.mem_or_get_eq_default ({} : Line) ((s.acquireL1 c r false).coreAt c).l1 line with hm | hd
    · exact drops _ hm ⟨hn, hv⟩
    · exact not_named_default hr (by rwa [State.l1Line, hd] at hn)
  · rcases acquireL1Step_l1 r e h with ⟨same, -, good⟩ | set
    · exact ⟨by rwa [same] at hx, fun hbe => absurd hbe good⟩
    · rw [set] at hx
      by_cases hbe : Named r e.2 ∧ e.2.st = .v
      · have gone : acquired r ((s.regAt e.1).words c) e.2 = {} := by
          rw [acquired, if_pos ((ridHit_iff r _).mpr hbe.1), hbe.2]
        rw [gone] at hx
        exact ⟨(Store.mem_set_default hx).1, fun _ => (Store.mem_set_default hx).2⟩
      · refine ⟨?_, fun h => absurd h hbe⟩
        rcases Store.mem_set hx with rfl | hx
        · exfalso
          obtain ⟨hbn, hbv⟩ := hb
          unfold acquired at hbn hbv
          split at hbv
          · next hit =>
            split at hbv
            · next hst => exact hbe ⟨(ridHit_iff r _).mp hit, hst⟩
            · next hst => exact absurd (hst.symm.trans hbv) (by decide)
            · cases hbv
            · next hst => exact absurd (hst.symm.trans hbv) (by decide)
            · next hst => exact absurd (hst.symm.trans hbv) (by decide)
          · next hit =>
            rw [if_neg hit] at hbn
            exact hit ((ridHit_iff r _).mpr hbn)
        · exact hx

/-- What a canonical L1 holds of a line of the region. -/
theorem acquireL1_line {s : State} {c r line : Nat} (hr : 1 ≤ r) (h : s.requests c = [])
    (wf : Store.wf ({} : Line) (s.coreAt c).l1 = true) (hn : Named r (s.l1Line c line)) :
    (s.acquireL1 c r false).l1Line c line = acquired r ((s.regAt line).words c) (s.l1Line c line) := by
  have listed : Store.get {} (s.coreAt c).l1 line ≠ {} := fun e => not_named_default hr (by rwa [State.l1Line, e] at hn)
  refine foldl_get (f := acquireL1Step c r) (view := fun s => (s.coreAt c).l1) (k := line)
    (Inv := fun t => t.requests c = [] ∧ t.reg = s.reg)
    (fun t e ht => ⟨acquireL1Step_requests r e ht.1, (acquireL1Step_reg r e ht.1).trans ht.2⟩) (fun t e ht hne => ?_)
    (fun t e ht he here => ?_) (s.coreAt c).l1 ⟨h, rfl⟩ wf listed rfl
  · rcases acquireL1Step_l1 r e ht.1 with ⟨same, -, -⟩ | set
    · exact congrArg (fun m => Store.get {} m line) same
    · exact (congrArg (fun m => Store.get {} m line) set).trans (Store.get_set_other _ _ _ fun e => hne e.symm)
  · have reg : t.regAt e.1 = s.regAt line := by rw [he, State.regAt, State.regAt, ht.2]
    rcases acquireL1Step_l1 r e ht.1 with ⟨same, kept, -⟩ | set
    · rw [reg] at kept
      exact (congrArg (fun m => Store.get {} m line) same).trans (here.trans kept.symm)
    · rw [reg, he] at set
      exact (congrArg (fun m => Store.get {} m line) set).trans (Store.get_set_same ..)

theorem acquireL1_requests {s : State} {c : Nat} (r : Nat) (h : s.requests c = []) :
    (s.acquireL1 c r false).requests c = [] :=
  foldl_inv (f := acquireL1Step c r) (Inv := fun s => s.requests c = []) (fun _ e h => acquireL1Step_requests r e h) _ h

/-! ### The tiers after an acquire -/

/-- The cluster cache's part of an acquire leaves the L1 as it is, and no line of the region. -/
theorem acquireClu_keeps (s : State) (c r : Nat) : Keeps 1 s (s.acquireClu c r false) := by
  unfold State.acquireClu
  refine Keeps.foldl _ (fun s e => ?_) _ s
  refine Keeps.ite (fun _ => ?_) fun _ => Keeps.refl s
  exact (Keeps.ite (fun _ => Keeps.refl s) fun _ => (Keeps.setDieLine ..).mono (by decide)).trans (Keeps.setCluLine ..)
theorem acquireClu_drops {s : State} {c r : Nat} (hr : 1 ≤ r) (line : Nat) :
    ¬ Named r ((s.acquireClu c r false).cluLine (clusterOf c) line) := by
  intro hn
  have drops : ∀ x ∈ ((s.acquireClu c r false).clusterAt (clusterOf c)).cache, ¬ Named r x.2 := by
    refine foldl_drops (view := fun s => (s.clusterAt (clusterOf c)).cache) (Inv := fun _ => True)
      (fun _ _ _ => trivial) (fun s e _ x hx hb => ?_) (s.clusterAt (clusterOf c)).cache trivial (fun x hx _ => hx)
    dsimp only at hx
    split at hx
    · next hit =>
      have h2 : Keeps 2 s (if e.2.dirty = 0 then s else s.setDieLine (dieOf c) e.1
          ((s.dieLine (dieOf c) e.1).take e.2.tag e.2.data e.2.dirty e.2.pois true)) :=
        Keeps.ite (fun _ => Keeps.refl s) fun _ => Keeps.setDieLine ..
      rw [State.setCluLine_default, State.clusterAt_updCluster, if_pos rfl, h2.clusterAt (Nat.le_refl 2)] at hx
      dsimp only at hx
      exact ⟨(Store.mem_set_default hx).1, fun _ => (Store.mem_set_default hx).2⟩
    · next hit => exact ⟨hx, fun hbe => absurd ((ridHit_iff r _).mpr hbe) hit⟩
  rcases Store.mem_or_get_eq_default ({} : Line) ((s.acquireClu c r false).clusterAt (clusterOf c)).cache line with hm | hd
  · exact drops _ hm hn
  · exact not_named_default hr (by rwa [State.cluLine, hd] at hn)

theorem acquireDie_keeps {s : State} {c : Nat} (r sc : Nat) (h : s.requests c = []) :
    Keeps 2 s (s.acquireDie c r sc false) := by
  unfold State.acquireDie
  dsimp only
  generalize (s.dieAt (dieOf c)).cache = l
  induction l generalizing s with
  | nil => exact Keeps.refl s
  | cons e l ih =>
    rw [List.foldl_cons]
    have step : Keeps 2 s (if ridHit r false e.2 && (e.2.own || decide (3 ≤ sc)) then
        (s.writeBack c none e.1 e.2.data e.2.dirty e.2.pois).setDieLine (dieOf c) e.1 {} else s) :=
      Keeps.ite (fun _ => (Keeps.writeBack h ..).trans (Keeps.setDieLine ..)) fun _ => Keeps.refl s
    exact step.trans (ih ((step.requests c).trans h))
theorem acquireDie_drops {s : State} {c r sc line : Nat} (hr : 1 ≤ r) (h : s.requests c = [])
    (hn : Named r ((s.acquireDie c r sc false).dieLine (dieOf c) line)) :
    ¬ (((s.acquireDie c r sc false).dieLine (dieOf c) line).own = true ∨ 3 ≤ sc) := by
  intro ho
  have drops : ∀ x ∈ ((s.acquireDie c r sc false).dieAt (dieOf c)).cache, ¬ (Named r x.2 ∧ (x.2.own = true ∨ 3 ≤ sc)) := by
    refine foldl_drops (view := fun s => (s.dieAt (dieOf c)).cache) (bad := fun l => Named r l ∧ (l.own = true ∨ 3 ≤ sc))
      (Inv := fun s => s.requests c = [])
      (fun s e h => ?_) (fun s e h x hx hb => ?_) (s.dieAt (dieOf c)).cache h (fun x hx _ => hx)
    · split
      · exact (((Keeps.writeBack h ..).trans (Keeps.setDieLine ..)).requests c).trans h
      · exact h
    · split at hx
      · rw [State.setDieLine_default, State.dieAt_updDie, if_pos rfl, (Keeps.writeBack h ..).dieAt (Nat.le_refl 3)] at hx
        dsimp only at hx
        exact ⟨(Store.mem_set_default hx).1, fun _ => (Store.mem_set_default hx).2⟩
      · next hit =>
        refine ⟨hx, fun hbe => absurd ?_ hit⟩
        rw [(ridHit_iff r _).mpr hbe.1, Bool.true_and, Bool.or_eq_true, decide_eq_true_eq]
        exact hbe.2
  rcases Store.mem_or_get_eq_default ({} : Line) ((s.acquireDie c r sc false).dieAt (dieOf c)).cache line with hm | hd
  · exact drops _ hm ⟨hn, ho⟩
  · exact not_named_default hr (by rwa [State.dieLine, hd] at hn)

/-- The state in which an acquire at scope sc begins on the L1, and what follows it. -/
def acquireStart (s : State) (c sc : Nat) : State :=
  (if 3 ≤ sc ∧ s.awaited .port = true then s.settle else s).performSent c
def acquireTiers (s : State) (c r sc : Nat) : State :=
  let s := if 1 ≤ sc then s.acquireClu c r false else s
  if 2 ≤ sc then s.acquireDie c r sc false else s
theorem acquire_eq (s : State) (c r sc : Nat) :
    s.acquire c r sc = acquireTiers ((acquireStart s c sc).acquireL1 c r false) c r sc := rfl
theorem acquireTiers_clu_keeps (s : State) (c r sc : Nat) : Keeps 1 s (if 1 ≤ sc then s.acquireClu c r false else s) :=
  Keeps.ite (fun _ => acquireClu_keeps ..) fun _ => Keeps.refl s
theorem acquireTiers_keeps {s : State} {c : Nat} (r sc : Nat) (h : s.requests c = []) : Keeps 1 s (acquireTiers s c r sc) := by
  have h1 := acquireTiers_clu_keeps s c r sc
  unfold acquireTiers
  dsimp only
  exact Keeps.ite (fun _ => h1.trans ((acquireDie_keeps r sc ((h1.requests c).trans h)).mono (by decide))) fun _ => h1

/-- Settles O14: the lines that each cache's part of an acquire drops (foldl_drops), and the L1's other lines (foldl_get). -/
theorem acquireDropsLines : Obligations.AcquireDropsLines := by
  unfold Obligations.AcquireDropsLines
  intro s c r hr _ named
  have start (sc : Nat) : (acquireStart s c sc).requests c = [] := State.requests_performSent _ c
  have l1 (sc line : Nat) : (s.acquire c r sc).l1Line c line = ((acquireStart s c sc).acquireL1 c r false).l1Line c line :=
    (acquireTiers_keeps r sc (acquireL1_requests r (start sc))).l1Line c line
  refine ⟨fun sc line hn => ?_, fun sc line hsc => ?_, fun sc line hsc hn => ?_, fun sc line ha wf => ?_⟩
  · rw [l1] at hn ⊢
    exact acquireL1_drops hr (start sc) line hn
  · rw [acquire_eq, acquireTiers, if_pos hsc]
    have gone := acquireClu_drops (s := (acquireStart s c sc).acquireL1 c r false) (c := c) hr line
    split
    · have h1 : ((acquireStart s c sc).acquireL1 c r false |>.acquireClu c r false).requests c = [] :=
        ((acquireClu_keeps _ c r).requests c).trans (acquireL1_requests r (start sc))
      rw [State.cluLine, (acquireDie_keeps r sc h1).clusterAt (Nat.le_refl 2)]
      exact gone
    · exact gone
  · rw [acquire_eq, acquireTiers, if_pos hsc] at hn ⊢
    have h1 : (if 1 ≤ sc then ((acquireStart s c sc).acquireL1 c r false).acquireClu c r false
        else (acquireStart s c sc).acquireL1 c r false).requests c = [] :=
      ((acquireTiers_clu_keeps _ c r sc).requests c).trans (acquireL1_requests r (start sc))
    have stays := acquireDie_drops hr h1 hn
    rw [not_or, Bool.not_eq_true] at stays
    exact ⟨by omega, stays.1⟩
  · intro l l' mine hn
    have begun : acquireStart s c sc = s.performSent c := by rw [acquireStart, if_neg (fun h => by rw [ha] at h; cases h.2)]
    have hl : l' = acquired r mine l := by
      rw [show l' = (s.acquire c r sc).l1Line c line from rfl, l1, begun]
      exact acquireL1_line hr (State.requests_performSent s c) wf hn
    rw [acquired, if_pos ((ridHit_iff r l).mpr hn)] at hl
    refine ⟨fun hst => ?_, fun hst => ?_, fun hst => ?_⟩
    · rcases hst with hst | hst <;> rw [hl, hst]
    · rw [hl, hst]
    · simp only [hst] at hl
      exact ⟨by rw [hl], by rw [hl, hst]⟩

end Sys2Proof.Machine
end

section
/-! SUPPORT. What a release leaves at the home (13_memory_model.md, R266) fails where the die cache lists a line of which no
word is valid and some are dirty: the word that leaves the L1 does not clear that bit, and the die cache's part of the release
then writes its own bytes over the word. -/

namespace Sys2Proof.Machine
open Sys2Proof.Tests
set_option Elab.async false

/-- The L1 of core 0 holds 5, dirty, in word 0 of a line; its die cache lists the line with no valid word, word 0 dirty
and 9 in it. -/
def staleTier : State :=
  { regs [] (fun x => { x with l1 := [(2048, { rid := 1, valid := 1, dirty := 1, data := 5 })] }) with
    dies := [(0, { cache := [(2048, { rid := 1, dirty := 1, data := 9 })] })] }

/-- Refutes O13: after a release of region 1 at package scope the home of the word holds 9. -/
theorem not_regionFences : ¬ Obligations.RegionFences := by
  unfold Obligations.RegionFences
  intro h
  obtain ⟨-, -, -, released⟩ := h.2 staleTier 0 1 2 2048 0 (by decide)
  obtain ⟨home, -⟩ := released (by decide +kernel) (by decide +kernel) (by decide +kernel) (by decide +kernel) (by decide +kernel)
    (by decide +kernel) (by decide +kernel) (by decide +kernel) (by decide +kernel)
  exact absurd (home (by decide) (by decide +kernel)) (by decide +kernel)

end Sys2Proof.Machine
end

section
/-! SUPPORT. OWN and DISOWN (13_memory_model.md, R285, R286). -/

namespace Sys2Proof.Machine
set_option Elab.async false

/-! ### What a DISOWN does to the L1 at once -/

namespace Keeps
theorem request (s : State) (c : Nat) (e : Event) (d : Nat) : ((s.request c e).coreAt d).l1 = (s.coreAt d).l1 := by
  unfold State.request
  split
  · next f _ => exact ((atHome { s with sched := s.sched.erase f } f).l1 d).trans rfl
  · rfl
end Keeps
theorem State.l1_sendDirty (s : State) (c line : Nat) (st : LineSt) (msg : BitVec 512 → BitVec 16 → Event) :
    ((s.sendDirty c line st msg).coreAt c).l1 =
      Store.set {} (s.coreAt c).l1 line { s.l1Line c line with st := st, dirty := 0 } := by
  rw [State.sendDirty, Keeps.request, State.coreAt_updCore_same, State.l1_setL1]

/-- What a DISOWN leaves of a line of its slot in the L1. -/
def disowned (l : Line) : Line := if l.st = .o then { l with st := .ov, dirty := 0 } else l
/-- What beginDisown does with one line of slot r. -/
def beginDisownStep (c : Nat) (r : OwnRange) (s : State) (line : Nat) : State :=
  let l := s.l1Line c line
  match l.st with
  | .o => s.sendDirty c line .ov (.disownreq c line)
  | .v | .oi => s.deregister c line (r.words line &&& ~~~ (s.coreAt c).ownRangeWords line)
  | .io | .ov => s
theorem beginDisown_eq (s : State) (c i : Nat) : s.beginDisown c i = (OwnRange.lines (Store.get {} (s.coreAt c).owned i)).foldl
    (beginDisownStep c (Store.get {} (s.coreAt c).owned i)) ((s.performSent c).updCore c fun x =>
      { x with owned := Store.set {} x.owned i { Store.get {} (s.coreAt c).owned i with leaving := true } }) := rfl
theorem l1Line_beginDisownStep (c : Nat) (r : OwnRange) (s : State) (a line : Nat) :
    (beginDisownStep c r s a).l1Line c line = if a = line then disowned (s.l1Line c line) else s.l1Line c line := by
  have kept (t : State) (h : (t.coreAt c).l1 = (s.coreAt c).l1) (hd : disowned (s.l1Line c a) = s.l1Line c a) :
      t.l1Line c line = if a = line then disowned (s.l1Line c line) else s.l1Line c line := by
    rw [State.l1Line, h]
    split
    · next e => rw [← e, hd, State.l1Line]
    · rfl
  unfold beginDisownStep
  dsimp only
  split
  · next ho =>
    rw [State.l1Line, State.l1_sendDirty, Store.get_set]
    by_cases e : line = a
    · rw [if_pos e, if_pos e.symm, e, disowned, if_pos ho]
    · rw [if_neg e, if_neg fun h => e h.symm, State.l1Line]
  · next hv => exact kept _ ((Keeps.deregister ..).l1 c) (if_neg fun h => by rw [hv] at h; cases h)
  · next hv => exact kept _ ((Keeps.deregister ..).l1 c) (if_neg fun h => by rw [hv] at h; cases h)
  · next hv => exact kept _ rfl (if_neg fun h => by rw [hv] at h; cases h)
  · next hv => exact kept _ rfl (if_neg fun h => by rw [hv] at h; cases h)
theorem disowned_disowned (l : Line) : disowned (disowned l) = disowned l := by
  unfold disowned
  by_cases h : l.st = .o
  · rw [if_pos h]; rfl
  · rw [if_neg h, if_neg h]
theorem l1Line_foldl_beginDisownStep (c : Nat) (r : OwnRange) (lines : List Nat) (s : State) (line : Nat) :
    (lines.foldl (beginDisownStep c r) s).l1Line c line =
      if line ∈ lines then disowned (s.l1Line c line) else s.l1Line c line := by
  induction lines generalizing s with
  | nil => rfl
  | cons a lines ih =>
    rw [List.foldl_cons, ih, l1Line_beginDisownStep]
    by_cases e : a = line
    · subst e
      by_cases h : a ∈ lines <;> simp [h, disowned_disowned]
    · have e' : ¬ line = a := fun h => e h.symm
      simp [e, e']
theorem l1Line_beginDisown (s : State) (c i line : Nat) :
    (s.beginDisown c i).l1Line c line =
      if line ∈ OwnRange.lines (Store.get {} (s.coreAt c).owned i) ∧ ((s.performSent c).l1Line c line).st = .o
      then { (s.performSent c).l1Line c line with st := .ov, dirty := 0 } else (s.performSent c).l1Line c line := by
  have start : ((s.performSent c).updCore c fun x =>
      { x with owned := Store.set {} x.owned i { Store.get {} (s.coreAt c).owned i with leaving := true } }).l1Line c line =
      (s.performSent c).l1Line c line := by rw [State.l1Line, State.coreAt_updCore_same, State.l1Line]
  rw [beginDisown_eq, l1Line_foldl_beginDisownStep, start, ite_and]
  rfl

/-! ### The two instructions -/

theorem encode_own (d a b : BitVec 5) : encode (.own d a b) = syncWord 3 d a b 2 := by
  change BitVec.ofNat 32 (_ + _) = BitVec.ofNat 32 _
  congr 1
  simp only [show (2 : BitVec 2).toNat = 2 from rfl]
  omega
theorem encode_disown (d a : BitVec 5) : encode (.disown d a) = syncWord 4 d a 0 2 := by
  change BitVec.ofNat 32 (_ + _) = BitVec.ofNat 32 _
  congr 1
  simp only [show (2 : BitVec 2).toNat = 2 from rfl, show (0 : BitVec 5).toNat = 0 from rfl]
  omega

/-- OWN with its limits held and both ends of its range translated. -/
theorem own_out {s s1 s2 : State} {d a b : BitVec 5} {t u : Xl} (hl : ownLegal (s.rg a) (s.rg b) = true)
    (h1 : s.xlat s.cur (s.rg a).toNat .write true s.me.sup = .ok t s1)
    (h2 : s1.xlat s.cur (((s.rg a).toNat + (ownCount (s.rg b) - 1) * ownStride (s.rg b) + 2 ^ ownWidth (s.rg b) - 1) % 2 ^ 64)
      .write true s1.me.sup = .ok u s2) :
    match s2.me.freeOwnSlot with
    | none => GOut s2 d 0x8000000000000001 (exec (.own d a b) s)
    | some i =>
      if t.base ≠ u.base then GOut s2 d 0x8000000000000002 (exec (.own d a b) s)
      else if t.ca = false ∨ t.own = false then GOut s2 d 0x8000000000000003 (exec (.own d a b) s)
      else if (s2.tentTag s.cur t.rid).isSome = true then GOut s2 d 0x8000000000000004 (exec (.own d a b) s)
      else
        let r : OwnRange := { base := t.pa, stride := ownStride (s.rg b), count := ownCount (s.rg b), width := 2 ^ ownWidth (s.rg b)
                              cells := s2.ownCells t.raw t.iov (ownStride (s.rg b)) (ownCount (s.rg b)) (2 ^ ownWidth (s.rg b)) }
        (∀ e ∈ r.cells, (s2.l1Line s.cur e.1).st = .v ∨ (s2.l1Line s.cur e.1).st = .o) →
          GOut ((s2.updCore s.cur (fun x => { x with owned := Store.set {} x.owned i r })).sendOwnreqs s.cur r) d
            (BitVec.ofNat 64 i) (exec (.own d a b) s) := by
  have run : exec (.own d a b) s = execOwn d a b s := rfl
  unfold execOwn at run
  dsimp only at run
  rw [hl, h1] at run
  simp only [Bool.not_true, Bool.false_eq_true, if_false, Acc.bind_ok, h2] at run
  have attrs : ((!t.ca || !t.own) = true) = (t.ca = false ∨ t.own = false) := by simp
  simp only [run, attrs]
  cases s2.me.freeOwnSlot with
  | none => exact setG_out s2 d (status 1)
  | some i =>
    dsimp only
    by_cases hb : t.base ≠ u.base
    · rw [if_pos hb, if_pos hb]; exact setG_out s2 d (status 2)
    rw [if_neg hb, if_neg hb]
    by_cases hc : t.ca = false ∨ t.own = false
    · rw [if_pos hc, if_pos hc]; exact setG_out s2 d (status 3)
    rw [if_neg hc, if_neg hc]
    by_cases ht : (s2.tentTag s.cur t.rid).isSome = true
    · rw [if_pos ht, if_pos ht]; exact setG_out s2 d (status 4)
    rw [if_neg ht, if_neg ht]
    intro idle
    rw [if_neg]
    · exact setG_out _ d _
    · rw [List.any_eq_true]
      rintro ⟨e, he, hst⟩
      rcases idle e he with h | h <;> rw [h] at hst <;> cases hst

/-- Settles O15: OWN by own_out, and a DISOWN's effect on the L1 line by line. -/
theorem ownAndDisown : Obligations.OwnAndDisown := by
  unfold Obligations.OwnAndDisown
  intro s d a b c base n last
  have slot : (s.rg a).toNat < 8 → ¬ (s.rg a).toNat / 8 ≠ 0 := by omega
  refine ⟨fun hl => ?_, fun hl t u s1 s2 h1 h2 => own_out hl h1 h2, fun hi hz => ?_, fun hi hz => ?_,
    fun n line => l1Line_beginDisown s c n line, fun hi => ?_⟩
  · change execOwn d a b s = _
    rw [execOwn, hl, encode_own]
    rfl
  · change GOut s d 1 (execDisown d a s)
    rw [execDisown]
    dsimp only
    rw [if_neg (slot hi), if_pos hz]
    exact setG_out s d 1
  · intro s1
    have run : exec (.disown d a) s = if s1.disownWaits c (s.rg a).toNat then .next s1.block
        else setG d 0 (s1.endDisown c (s.rg a).toNat) := by
      change execDisown d a s = _
      rw [execDisown]
      dsimp only
      rw [if_neg (slot hi), if_neg hz]
    rw [run]
    split
    · rfl
    · exact setG_out _ d 0
  · change execDisown d a s = _
    rw [execDisown, encode_disown]
    dsimp only
    rw [if_pos (by omega)]
    rfl

end Sys2Proof.Machine
end

section
/-! SUPPORT. Instructions at which a wisp suspends (02_describing_and_launching.md, R22 to R24; 14_sync_joins.md): WAITB,
JWAIT and AMOWAIT, with the arrivals at barriers. -/

namespace Sys2Proof.Machine
set_option Elab.async false

/-! ### A wisp that waits on its core, or leaves it -/

/-- Writing a wisp's record changes nothing, or memory and what the checkpoints keep of it. -/
theorem State.writeRecord_cases (s : State) (k : Nat) {P : State → Prop} (same : P s)
    (wrote : ∀ pa v d, P { s.rawWrite pa 64 v with dirtyMap := d }) : P (s.writeRecord k) := by
  unfold State.writeRecord
  dsimp only
  split
  · exact same
  · exact wrote ..
theorem State.writeRecord_cores (s : State) (k : Nat) : (s.writeRecord k).cores = s.cores :=
  s.writeRecord_cases k (P := fun t => t.cores = s.cores) rfl fun _ _ _ => rfl
theorem State.writeRecord_wisps (s : State) (k : Nat) : (s.writeRecord k).wisps = s.wisps :=
  s.writeRecord_cases k (P := fun t => t.wisps = s.wisps) rfl fun _ _ _ => rfl
theorem State.writeRecord_cur (s : State) (k : Nat) : (s.writeRecord k).cur = s.cur :=
  s.writeRecord_cases k (P := fun t => t.cur = s.cur) rfl fun _ _ _ => rfl
theorem State.coreAt_of_cores {s t : State} (h : t.cores = s.cores) (c : Nat) : t.coreAt c = s.coreAt c := by
  rw [State.coreAt, State.coreAt, h]

/-- The cores while a wisp's wait on its core begins. -/
theorem State.cores_parkOnCore (s : State) (c reason : Nat) (pc : Word) (w : WaitOn) :
    (s.parkOnCore c reason pc w).cores = (s.updCore c ({ · with waitOn := w, stage := .wait })).cores := by
  unfold State.parkOnCore
  dsimp only
  split
  · rfl
  · rw [State.writeRecord_cores]; rfl
theorem State.cur_parkOnCore (s : State) (c reason : Nat) (pc : Word) (w : WaitOn) :
    (s.parkOnCore c reason pc w).cur = s.cur := by
  unfold State.parkOnCore
  dsimp only
  split
  · rfl
  · rw [State.writeRecord_cur]; rfl
/-- A core's wait changes none of the fields that name its wisp. -/
theorem State.wispKey_updCore (s : State) (c : Nat) (f : Core → Core) (hf : ∀ x, (f x).wisp = x.wisp) :
    (s.updCore c f).wispKey c = s.wispKey c := by
  rw [State.wispKey, State.wispKey, State.wispOn, State.wispOn, State.coreAt_updCore_same, hf]
/-- The record that recordCore makes of the wisp on a core. -/
def recorded (x : Core) (reason st : Nat) (pc : Word) (yld : Bool) (w : Wisp) : Wisp :=
  { w with
    pc := pc, st := st, reason := reason
    g1 := Store.get 0 x.g 1, g2 := Store.get 0 x.g 2, g3 := Store.get 0 x.g 3
    vl := x.u.vl, vtype := x.u.vtype, join := x.u.joinctx, fstat := x.u.fstat
    vsaved := yld, yields := if yld then min (w.yields + 1) 0xFFFF else w.yields
    gangSusp := x.gang.isSome, gang := x.gang.map ({ · with issued := none })
    cycles := w.cycles + x.cycles }
theorem State.recordCore_eq (s : State) (c reason st : Nat) (pc : Word) (yld : Bool) :
    s.recordCore c reason st pc yld = s.updWisp (s.wispKey c) (recorded (s.coreAt c) reason st pc yld) := rfl
/-- The record of the running wisp when it begins to wait on its core outside its handler. -/
theorem State.wispAt_parkOnCore (s : State) (reason : Nat) (w : WaitOn) (h : s.me.s.inh = false) :
    (s.parkOnCore s.cur reason (s.pc + 4) w).wispAt (s.wispKey s.cur) =
      { recorded { s.me with waitOn := w, stage := .wait } reason 1 (s.pc + 4) false (s.wispAt (s.wispKey s.cur)) with
        cycles := (recorded { s.me with waitOn := w, stage := .wait } reason 1 (s.pc + 4) false
          (s.wispAt (s.wispKey s.cur))).cycles - s.me.cycles } := by
  have h' : ¬ (s.coreAt s.cur).s.inh = true := by rw [show s.coreAt s.cur = s.me from rfl, h]; decide
  unfold State.parkOnCore
  dsimp only
  rw [if_neg h']
  generalize hu : s.updCore s.cur _ = u
  have key : u.wispKey s.cur = s.wispKey s.cur := by rw [← hu]; exact s.wispKey_updCore _ _ fun _ => rfl
  have core : u.coreAt s.cur = { s.me with waitOn := w, stage := .wait } := by rw [← hu, State.coreAt_updCore_same]; rfl
  have wisps : u.wispAt (s.wispKey s.cur) = s.wispAt (s.wispKey s.cur) := by rw [← hu]; rfl
  have key2 : (u.recordCore s.cur reason 1 (s.pc + 4) false).wispKey s.cur = s.wispKey s.cur := key
  rw [key2, State.wispAt, State.writeRecord_wisps]
  change State.wispAt (State.updWisp _ _ _) _ = _
  rw [State.wispAt_updWisp, if_pos rfl, State.recordCore_eq, key, State.wispAt_updWisp, if_pos rfl, core, wisps]
  rfl
theorem waitsHere (s : State) (reason : Nat) (w : WaitOn) : WaitsHere s reason w (s.waitHere reason w) := by
  have hcores (c : Nat) : (s.waitHere reason w).coreAt c = (s.updCore s.cur ({ · with waitOn := w, stage := .wait })).coreAt c :=
    State.coreAt_of_cores (s.cores_parkOnCore ..) c
  have hcur : (s.waitHere reason w).cur = s.cur := s.cur_parkOnCore ..
  have hme : (s.waitHere reason w).me = { s.me with waitOn := w, stage := .wait } := by
    rw [State.me, hcur, hcores, State.coreAt_updCore_same]; rfl
  refine ⟨hcur, by rw [hme], by rw [hme], by rw [hme], fun c hc => ?_, fun hinh => ?_⟩
  · rw [hcores, State.coreAt_updCore, if_neg hc]
  · rw [State.waitHere, s.wispAt_parkOnCore reason w hinh]
    exact ⟨rfl, rfl, rfl, rfl, rfl, rfl⟩

/-- How an instruction ends at which the running wisp suspends. -/
theorem suspendOut (s : State) (reason : Nat) (w : WaitOn) (after : State → State) :
    SuspendOut s reason w after (finishAt ((s.suspendAt reason w).bind fun _ t => .ok () (after t))) := by
  unfold SuspendOut State.suspendAt
  split
  · exact ⟨_, rfl, waitsHere s reason w⟩
  · dsimp only
    cases s.leaveBinds s.cur with
    | trap t s1 => rfl
    | wait s1 => rfl
    | ok u s1 =>
      simp only [Acc.bind_ok]
      cases s1.spill s.cur false <;> rfl

theorem killPoint_of_not_due {s : State} (h : s.killDue = false) (go : Res) : killPoint s go = go := by
  unfold killPoint
  unfold State.killDue at h
  split
  · next hk =>
    rw [hk] at h
    have hinh : s.me.s.inh = true := by simpa using h
    rw [if_pos hinh]
  · rfl
theorem killPoint_of_due {s : State} {g code : Nat} (hk : s.me.kill = some (g, code)) (hi : s.me.s.inh = false)
    (go : Res) : killPoint s go = .next (s.killLeave s.cur code) := by
  rw [killPoint, hk]
  simp [hi]

end Sys2Proof.Machine
end

section
/-! SUPPORT. The instructions of barriers, joins' waits and AMOWAIT (14_sync_joins.md). -/

namespace Sys2Proof.Machine
set_option Elab.async false

/-! ### Barriers (R288 to R291) -/

theorem bits_low_half (v : Nat) : bits v 15 0 = v % 2 ^ 16 := by simp [bits]
theorem bits_high_half (v : Nat) : bits v 31 16 = v / 2 ^ 16 % 2 ^ 16 := rfl
theorem bits_low_word (v : Nat) : bits v 31 0 = v % 2 ^ 32 := by simp [bits]

/-- One arrival at a barrier, as R289 says it. -/
theorem Barrier.arrive_spec (b : Barrier) (n : Nat) (pa po : Bool) :
    let first := b.arrived = 0
    let nexp := if first then n else b.nexp
    let vand := if first then pa else b.vand && pa
    let vor := if first then po else b.vor || po
    let mism := if first then false else b.mism || decide (n ≠ b.nexp)
    b.arrive n pa po =
      if b.arrived + 1 = nexp then
        ({ b with nexp := 0, arrived := 0, vand := vand, vor := vor, mism := mism, land := vand, lor := vor, lmism := mism
                  phase := (b.phase + 1) % 2 ^ 32 }, b.phase, true)
      else ({ b with nexp := nexp, arrived := b.arrived + 1, vand := vand, vor := vor, mism := mism }, b.phase, false) := by
  unfold Barrier.arrive
  by_cases first : b.arrived = 0
  · simp [first]
  · by_cases same : n = b.nexp
    · simp [first, same]
    · simp [first, same]

theorem barScope_of_low_half (v : Nat) : barScope (v % 2 ^ 16) = v % 2 ^ 16 / 2 ^ 14 := by
  unfold barScope
  omega
theorem encode_arrive (d a : BitVec 5) (scope : BitVec 2) : encode (.arrive d a scope) = barWord 6 d a 0 scope := by
  change BitVec.ofNat 32 (_ + _) = BitVec.ofNat 32 _
  congr 1
  simp only [show (0 : BitVec 5).toNat = 0 from rfl]
  omega
theorem encode_vote (d a b : BitVec 5) (scope : BitVec 2) : encode (.vote d a b scope) = barWord 8 d a b scope := by
  change BitVec.ofNat 32 (_ + _) = BitVec.ofNat 32 _
  congr 1
  omega
theorem encode_waitb (d a b : BitVec 5) (scope : BitVec 2) : encode (.waitb d a b scope) = barWord 7 d a b scope := by
  change BitVec.ofNat 32 (_ + _) = BitVec.ofNat 32 _
  congr 1
  omega

section
variable {s t : State} (w : BitVec 32) (d a : BitVec 5) (p : Option Bool) {scope : BitVec 2}
/-- An arrival whose operands are outside their limits. -/
theorem arriveAt_illegal (h : ¬ ((s.rg a).toNat / 2 ^ 32 = 0 ∧ (s.rg a).toNat / 2 ^ 16 % 2 ^ 16 ≠ 0 ∧
    barLegal ((s.rg a).toNat % 2 ^ 16) scope = true)) : arriveAt w d a p scope s = .next (s.trap (illegal w)) := by
  unfold arriveAt
  dsimp only
  rw [bits_low_half, bits_high_half, if_pos]
  by_cases h1 : (s.rg a).toNat / 2 ^ 32 = 0
  · by_cases h2 : (s.rg a).toNat / 2 ^ 16 % 2 ^ 16 = 0
    · exact .inr (.inl h2)
    · exact .inr (.inr (Bool.not_eq_true _ ▸ fun h3 => h ⟨h1, h2, h3⟩))
  · exact .inl h1

variable (h : (s.rg a).toNat / 2 ^ 32 = 0 ∧ (s.rg a).toNat / 2 ^ 16 % 2 ^ 16 ≠ 0 ∧ barLegal ((s.rg a).toNat % 2 ^ 16) scope = true)
  (hr : s.release s.cur 255 scope.toNat = .ok () t)
include h hr
/-- An arrival after its release. -/
theorem arriveAt_released :
    let id := (s.rg a).toNat % 2 ^ 16
    let key := t.barKey s.cur id
    let u := t.barSend id key
    arriveAt w d a p scope s =
      match (if 2 ≤ id / 2 ^ 14 then some (t.barAt key) else (t.barAt key).ownedBy (t.vdevOn s.cur)) with
      | none => .next (t.trap { cause := 1, tval := BitVec.ofNat 64 id })
      | some bar =>
        let q := bar.arrive ((s.rg a).toNat / 2 ^ 16 % 2 ^ 16) (p.getD true) (p.getD false)
        let w := if q.2.2 = true then (u.setBar key q.1).wakeBarrier key else u.setBar key q.1
        if u.barReqDown s.cur id key = true then .next (u.trap poisonReply)
        else if u.barCut s.cur id key = true then .next ((w.unmute s.cur (key - 2 ^ 61)).trap poisonReply)
        else setG d (BitVec.ofNat 64 q.2.1) w := by
  obtain ⟨h1, h2, h3⟩ := h
  intro id key u
  unfold arriveAt
  dsimp only
  rw [bits_low_half, bits_high_half, if_neg (fun e => e.elim (fun e => e h1) fun e => e.elim h2 fun e => by rw [h3] at e; cases e), hr, Acc.bind_ok, barScope_of_low_half]
  cases (if 2 ≤ (s.rg a).toNat % 2 ^ 16 / 2 ^ 14 then some (t.barAt key) else (t.barAt key).ownedBy (t.vdevOn s.cur)) with
  | none => rfl
  | some bar =>
    dsimp only
    split
    · rfl
    · split <;> rfl
end

/-- Settles O16: one arrival by Barrier.arrive_spec, ARRIVE and VOTE by arriveAt_released. -/
theorem barrierArrivals : Obligations.BarrierArrivals := by
  unfold Obligations.BarrierArrivals
  refine ⟨fun b n pa po => ?_, fun s t d a b scope bar => ?_⟩
  · intro first nexp vand vor mism r
    have hr : r = _ := Barrier.arrive_spec b n pa po
    by_cases full : b.arrived + 1 = nexp
    · rw [if_pos full] at hr
      rw [hr]
      exact ⟨rfl, ⟨fun _ => full, fun _ => rfl⟩, fun _ => ⟨rfl, rfl, rfl, rfl, rfl, rfl⟩, fun h => absurd full h⟩
    · rw [if_neg full] at hr
      rw [hr]
      exact ⟨rfl, ⟨fun h => Bool.noConfusion h, fun h => absurd h full⟩, fun h => absurd h full,
        fun _ => ⟨rfl, rfl, rfl, rfl, rfl, rfl, rfl, rfl, rfl⟩⟩
  · intro v id n ok key u lost owned out
    have ends (w : BitVec 32) (p : Option Bool) (hok : ok) (hr : s.release s.cur 255 scope.toNat = .ok () t)
        (ho : owned = some bar) : out (p.getD true) (p.getD false) (arriveAt w d a p scope s) := by
      have run := arriveAt_released w d a p hok hr
      dsimp only at run
      rw [show (if 2 ≤ (s.rg a).toNat % 2 ^ 16 / 2 ^ 14 then some (t.barAt key) else (t.barAt key).ownedBy (t.vdevOn s.cur)) =
        some bar from ho] at run
      dsimp only at run
      change (if u.barReqDown s.cur id key = true then _ else _)
      by_cases down : u.barReqDown s.cur id key = true
      · rw [if_pos down]
        rw [if_pos down] at run
        exact run
      · rw [if_neg down]
        rw [if_neg down] at run
        by_cases cut : u.barCut s.cur id key = true
        · rw [if_pos cut]
          rw [if_pos cut] at run
          exact run
        · rw [if_neg cut]
          rw [if_neg cut] at run
          exact ⟨run, fun _ => by rw [run]; exact setG_out _ d _⟩
    refine ⟨fun hok hr ho => ⟨ends _ none hok hr ho, ends _ (some (s.rg b != 0)) hok hr ho⟩, fun hok hr ho => ?_, fun hok => ?_⟩
    · have unowned (w : BitVec 32) (p : Option Bool) :
          arriveAt w d a p scope s = .next (t.trap { cause := 1, tval := BitVec.ofNat 64 id }) := by
        have run := arriveAt_released w d a p hok hr
        dsimp only at run
        rw [show (if 2 ≤ (s.rg a).toNat % 2 ^ 16 / 2 ^ 14 then some (t.barAt key) else (t.barAt key).ownedBy (t.vdevOn s.cur)) =
          none from ho] at run
        exact run
      simp only [List.forall_mem_cons, List.not_mem_nil, false_imp_iff, implies_true, and_true]
      exact ⟨unowned .., unowned ..⟩
    · rw [encode_arrive, encode_vote]
      exact ⟨arriveAt_illegal _ d a none hok, arriveAt_illegal _ d a (some (s.rg b != 0)) hok⟩

/-- Settles O17: WAITB by the order of its checks, and its suspension by suspendOut. -/
theorem waitForBarrier : Obligations.WaitForBarrier := by
  unfold Obligations.WaitForBarrier
  intro s d a b scope id q key u bar
  have run : exec (.waitb d a b scope) s = execWaitb d a b scope s := rfl
  unfold execWaitb at run
  dsimp only at run
  rw [bits_low_half, bits_low_word] at run
  refine ⟨fun hl => ?_, fun hl hk hc => ?_, fun hl hk hc hp => ?_, fun hl hk hc hp => ?_, fun hl g code hk hi => ?_⟩
  · rw [run, hl, encode_waitb]
    rfl
  all_goals rw [hl, Bool.not_true, if_neg Bool.false_ne_true] at run
  · rw [killPoint_of_not_due hk, if_pos hc] at run
    exact run
  · rw [killPoint_of_not_due hk, if_neg (by rw [hc]; decide), if_pos hp] at run
    rw [run]
    exact setG_out _ d _
  · rw [killPoint_of_not_due hk, if_neg (by rw [hc]; decide), if_neg (by rw [hp]; decide)] at run
    rw [run]
    exact suspendOut u 3 _ fun t => if phaseDone (t.barAt key).phase q = true then t.wakeBarrier key else t
  · rw [run]
    exact killPoint_of_due hk hi _

end Sys2Proof.Machine
end

section
/-! SUPPORT. AMOWAIT (14_sync_joins.md, R294), and the waits and the status of joins (R299, R304, R306). -/

namespace Sys2Proof.Machine
set_option Elab.async false

/-! ### AMOWAIT -/

theorem State.enqueue_eq (s : State) (w : Waiter) : s.enqueue w =
    let u : State := { s with waiters := s.waiters ++ [w] }
    if u.watched w.pa w.wide = w.y then u else u.wakeWaiter w := by
  unfold State.enqueue
  dsimp only
  simp only [beq_iff_eq]

/-- The value that AMOWAIT compares with. -/
theorem amowait_operand (v : Word) (width : Bool) : extendW (atomBytes width) (v.toNat % 2 ^ (8 * atomBytes width)) =
    if width then v else BitVec.ofInt 64 (v.setWidth 32).toInt := by
  rw [extendW_atomBytes, eight_mul_atomBytes]
  cases width with
  | true => rw [if_pos rfl, if_pos rfl, if_pos rfl, Nat.mod_eq_of_lt v.isLt, BitVec.ofNat_toNat, BitVec.setWidth_eq]
  | false =>
    rw [if_neg Bool.false_ne_true, if_neg Bool.false_ne_true, if_neg Bool.false_ne_true]
    congr 1
    rw [show BitVec.ofNat 32 (v.toNat % 2 ^ 32) = v.setWidth 32 from BitVec.eq_of_toNat_eq (by simp)]

theorem Acc.FromMem.flushLine (s : State) (c line : Nat) : (s.flushLine c line).FromMem s := by
  unfold State.flushLine
  extract_lets l fwd own s1 s2 s3 k d s4 s5
  have h2 : MemOnly s s2 := (MemOnly.bankOrder s c line).trans (MemOnly.trans (.writeBack ..) (.setL1 ..))
  have h3 : MemOnly s s3 := by
    show MemOnly s (if _ then _ else s2)
    split <;> [exact h2.trans (.copyLeft ..); exact h2]
  have h5 : MemOnly s s5 := h3.trans (MemOnly.trans (.writeBack ..) (.writeBack ..))
  split
  · exact .refl s
  · exact h5.trans (MemOnly.trans (.setCluLine ..) (.setDieLine ..))
theorem Acc.FromMem.atomicPrelude (s : State) (a : Word) (scope order : BitVec 2) (width : Bool) :
    (s.atomicPrelude a scope order width).FromMem s := by
  unfold State.atomicPrelude
  dsimp only
  split
  · exact MemOnly.refl s
  · refine Acc.FromMem.bind (.xlat ..) fun t u => Acc.FromMem.bind ?_ fun _ u => Acc.FromMem.bind (.flushLine ..) fun _ u =>
      MemOnly.refl u
    split
    · exact .release ..
    · exact MemOnly.refl u

/-- AMOWAIT once the line has left its core's caches. -/
theorem exec_amowait {s s0 s' : State} {d a b : BitVec 5} {scope order : BitVec 2} {width : Bool} {x : Xl} {y : Word}
    (hpre : s.atomicPrelude (s.rg a) scope order width = .ok x s0)
    (hs : s' = s0.sendRemote .read x.pa (if width then 8 else 4) 0)
    (hy : y = if width then s.rg b else BitVec.ofInt 64 ((s.rg b).setWidth 32).toInt) :
    exec (.amowait d a b scope order width) s =
      if s'.homePois x.pa (if width then 8 else 4) = true ∨ s'.cutOff s.cur x.pa = true then
        .next (s'.trap { cause := 0x0E, tval := s.rg a })
      else if s'.watched x.pa width ≠ y ∨ s'.queueFull x.pa = true then
        setG d (s'.watched x.pa width) (if order = 1 ∨ order = 3 then s'.acquire s.cur 255 scope.toNat else s')
      else killPoint s' (finishAt ((s'.suspendAt 4 (.word x.pa y width d.toNat order.toNat scope.toNat)).bind fun _ t =>
        .ok () (t.enqueue ⟨x.pa, width, y, (s'.wispOn s.cur).1, (s'.wispOn s.cur).2,
          if s'.staysPut = true then some s.cur else none⟩))) := by
  have run : exec (.amowait d a b scope order width) s = execAmowait d a b scope order width s := rfl
  unfold execAmowait at run
  dsimp only at run
  rw [hpre, amowait_operand, ← hy] at run
  dsimp only at run
  rw [show s0.sendRemote .read x.pa (atomBytes width) 0 = s' from hs.symm, show atomBytes width = if width then 8 else 4 from rfl]
    at run
  simpa only [Bool.or_eq_true, decide_eq_true_eq, acquires_iff, finishG_ok] using run

/-- Settles O12: AMOWAIT by the order of its checks, and its suspension by suspendOut. -/
theorem amowaitResults : Obligations.AmowaitResults := by
  unfold Obligations.AmowaitResults
  intro s s0 d a b scope order width x y s' v s3 w queued i hpre
  have mem0 : MemOnly s s0 := by
    have := Acc.FromMem.atomicPrelude s (s.rg a) scope order width
    rw [hpre] at this
    exact this
  have mem' : MemOnly s s' := mem0.trans (MemOnly.sendRemote ..)
  have mem3 : MemOnly s s3 := by
    show MemOnly s (if _ then _ else _)
    split
    · exact mem'.trans (MemOnly.acquire ..)
    · exact mem'
  have run : exec i s = _ := exec_amowait (d := d) hpre (s' := s') rfl (y := y) rfl
  refine ⟨fun bad => run.trans (if_pos bad), fun good uncut => ?_⟩
  replace run := run.trans (if_neg (by rw [good, uncut]; decide))
  refine ⟨fun now => ⟨?_, mem3.pc⟩, fun hv hq hk => ⟨mem'.pc, ?_⟩, fun hv hq hi g code hk => ?_⟩
  · rw [run.trans (if_pos now)]
    exact setG_out s3 d v
  all_goals replace run := run.trans (if_neg (not_or.mpr ⟨not_not.mpr hv, by rw [hq]; decide⟩))
  · rw [run, killPoint_of_not_due hk]
    have ends := suspendOut s' 4 (.word x.pa y width d.toNat order.toNat scope.toNat)
      (fun t => t.enqueue (w (if s'.staysPut = true then some s.cur else none)))
    have after (c : Option Nat) : (fun t : State => t.enqueue (w c)) = queued c := funext fun t => State.enqueue_eq t (w c)
    rw [after] at ends
    rw [← after] at ends ⊢
    exact ends
  · rw [run, killPoint_of_due hk hi, mem'.cur]

/-! ### JWAIT, JKPT and JSTAT -/

theorem MemOnly.wakeJoin (s : State) (id : Nat) (v : Word) : MemOnly s (s.wakeJoin id v) := by
  unfold State.wakeJoin
  extract_lets s1
  have h1 : MemOnly s s1 := MemOnly.foldl _ (fun s e => by
    split
    · split <;> [exact .wakeCore ..; exact .refl s]
    · exact .refl s) _ s
  exact h1.trans (MemOnly.foldl _ (fun s e => by
    split
    · split <;> [exact .wakeParked ..; exact .refl s]
    · exact .refl s) _ _)
theorem MemOnly.unitWrite (s : State) (n : Node) (w : Option Awaiter) (pa k v : Nat) : MemOnly s (s.unitWrite n w pa k v) := by
  unfold State.unitWrite
  split
  · exact .homePoison ..
  · exact .homeWrite1 ..
theorem MemOnly.setJout (s : State) (id c v : Nat) : MemOnly s (s.setJout id c v) :=
  MemOnly.foldl _ (fun s k => .updWisp s k _) _ s
theorem MemOnly.discardTents (s : State) (p : Tent → Bool) : MemOnly s (s.discardTents p) := ⟨rfl, fun _ => rfl, id⟩
theorem MemOnly.joins {s t : State} (h : MemOnly s t) : t.joins = s.joins := (congrArg State.joins h.1 :)
theorem State.joins_foldl {β : Type} {f : State → β → State} (hf : ∀ s b, (f s b).joins = s.joins) (l : List β) (s : State) :
    (l.foldl f s).joins = s.joins := by
  induction l generalizing s with
  | nil => rfl
  | cons b l ih => rw [List.foldl_cons, ih, hf]
theorem State.joins_settleInsts (s : State) (id : Nat) (r : Option (List Nat × BitVec 64)) :
    (s.settleInsts id r).joins = s.joins := by
  unfold State.settleInsts
  refine State.joins_foldl (fun s e => ?_) _ s
  exact rfl

/-- In t record key is settled, with its state word then, and every other is as in s. -/
def SettledWord (s : State) (key : Nat) (t : State) : Prop :=
  ∃ j : Join, t.joins = Store.set {} s.joins key j ∧ j.word = ({ j with alsoFailed := false } : Join).stateWord false false
theorem SettledWord.of_joins {s t u : State} {key : Nat} (h : u.joins = t.joins) (k : SettledWord s key t) : SettledWord s key u := by
  obtain ⟨j, k, hw⟩ := k
  exact ⟨j, h.trans k, hw⟩
theorem SettledWord.word {s t : State} {key : Nat} (h : SettledWord s key t) :
    (t.joinAt key).word = ({ t.joinAt key with alsoFailed := false } : Join).stateWord false false := by
  obtain ⟨j, h, hw⟩ := h
  rw [State.joinAt, h, Store.get_set_same]
  exact hw
theorem settledWord_settleNow (s : State) (key : Nat) (rel dl : Bool) : SettledWord s key (s.settleNow key rel dl).1 := by
  have kills (t : State) (id : Nat) (l : List Nat) : (l.foldl (fun s c =>
      (s.setJout id c 3 |>.contributors id c).foldl (fun s k => s.post (.killSignal (s.wispAt k).launch (s.wispAt k).index))
        (s.setJout id c 3)) t).joins = t.joins :=
    State.joins_foldl (fun t c => (State.joins_foldl (fun t k => (MemOnly.post t _).joins) _ _).trans
      (MemOnly.setJout t id c 3).joins) _ _
  simp only [State.settleNow]
  refine SettledWord.of_joins (State.joins_settleInsts ..) (SettledWord.of_joins (MemOnly.wakeJoin ..).joins ?_)
  split
  · refine SettledWord.of_joins (MemOnly.discardTents ..).joins (SettledWord.of_joins (MemOnly.discardTents ..).joins
      (SettledWord.of_joins (kills ..) (SettledWord.of_joins (State.joins_foldl (fun t e => (MemOnly.unitWrite ..).joins) _ _) ?_)))
    exact ⟨_, rfl, by simp only [Join.stateWord]⟩
  · refine SettledWord.of_joins (MemOnly.discardTents ..).joins
      (SettledWord.of_joins (kills ..) (SettledWord.of_joins (State.joins_foldl (fun t e => (MemOnly.unitWrite ..).joins) _ _) ?_))
    exact ⟨_, rfl, by simp only [Join.stateWord]⟩

theorem encode_jwait (d a : BitVec 5) : encode (.jwait d a) = joinWord 11 d a 0 := by
  change BitVec.ofNat 32 (_ + _) = BitVec.ofNat 32 _
  congr 1
  simp only [show (0 : BitVec 5).toNat = 0 from rfl]
  omega
theorem encode_jstat (d a b : BitVec 5) : encode (.jstat d a b) = joinWord 13 d a b := by
  change BitVec.ofNat 32 (_ + _) = BitVec.ofNat 32 _
  congr 1
  omega

/-- JWAIT on an id of 32 bits. -/
theorem exec_jwait {s : State} (d : BitVec 5) {a : BitVec 5} (hv : (s.rg a).toNat < 2 ^ 32) :
    exec (.jwait d a) s = killPoint s (
      if s.joinCut s.cur (s.rg a).toNat then .next (s.trap poisonReply)
      else match s.joinNamed (s.rg a).toNat with
      | none => setG d goneWord (s.acquire s.cur 255 2)
      | some j =>
        if j.st ≠ .opened then setG d j.word (s.acquire s.cur 255 2)
        else finishAt ((s.suspendAt 2 (.join (s.rg a).toNat d.toNat)).bind fun _ u => .ok () (match u.joinNamed (s.rg a).toNat with
            | some q => if q.st = .opened then u else u.wakeJoin (s.rg a).toNat q.word
            | none => u.wakeJoin (s.rg a).toNat goneWord))) := by
  change execJwait d a s = _
  unfold execJwait
  exact if_neg (by omega)
/-- JSTAT on an id of 32 bits, with a selector that there is. -/
theorem exec_jstat {s : State} (d : BitVec 5) {a b : BitVec 5} (hv : (s.rg a).toNat < 2 ^ 32)
    (hsel : (s.rg b).toNat ≤ 3 ∨ (s.rg b).toNat = 15) : exec (.jstat d a b) s =
      if s.joinCut s.cur (s.rg a).toNat then .next (s.trap poisonReply)
      else match s.joinNamed (s.rg a).toNat with
      | none => setG d (if (s.rg b).toNat ≤ 2 then 0 else goneWord) s
      | some j =>
        match (s.rg b).toNat with
        | 0 => setG d j.arrived s
        | 1 => setG d j.left s
        | 2 => setG d j.killed s
        | 3 => setG d (j.stateWord false false) s
        | _ =>
          if j.st = .opened then setG d (j.stateWord false false) s
          else if s.killsPending (joinSlotKey (s.rg a).toNat) then
            setG d (j.stateWord false true) (s.updJoin (joinSlotKey (s.rg a).toNat) ({ · with fpend := true }))
          else setG d (j.stateWord true false) (s.freeJoin (joinSlotKey (s.rg a).toNat)) := by
  change execJstat d a b s = _
  unfold execJstat
  exact if_neg (by omega)
theorem exec_jstat_illegal {s : State} (d : BitVec 5) {a b : BitVec 5}
    (h : 2 ^ 32 ≤ (s.rg a).toNat ∨ ¬ ((s.rg b).toNat ≤ 3 ∨ (s.rg b).toNat = 15)) :
    exec (.jstat d a b) s = .next (s.trap { cause := 1, tval := (encode (.jstat d a b)).setWidth 64 }) := by
  rw [encode_jstat]
  change execJstat d a b s = _
  unfold execJstat
  dsimp only
  rw [if_pos (h.imp (fun h => by omega) id)]
  rfl

/-- Settles O19: exec_jwait and exec_jstat in each of their cases, and the word at a settlement by SettledWord. -/
theorem joinWaitAndStatus : Obligations.JoinWaitAndStatus := by
  unfold Obligations.JoinWaitAndStatus
  intro s d a b j v sel t key cut lost
  have keep (hc : cut = false) : ¬ s.joinCut s.cur (s.rg a).toNat = true := by
    rw [show s.joinCut s.cur (s.rg a).toNat = false from hc]; decide
  refine ⟨fun hk => ?_, fun hi g code hk => ⟨?_, fun hv => ?_⟩, fun hv hc => ⟨fun hk => ?_, fun hsel => ?_⟩,
    fun hv hc hk hj => ?_, fun hv hc hk hj => ?_, fun rel dl => (settledWord_settleNow s key rel dl).word,
    fun hv hsel => exec_jstat_illegal d (.inr hsel), fun hv hc hj => ⟨fun hsel => ?_, fun hsel => ?_⟩, fun hv hc hj => ?_,
    fun hv => ⟨?_, exec_jstat_illegal d (.inl hv)⟩⟩
  · change PcOut s (s.pc + 4) (killPoint s (.next s.nextPc))
    rw [killPoint_of_not_due hk]
    exact nextPc_out s
  · exact killPoint_of_due hk hi _
  · rw [exec_jwait d hv]
    exact killPoint_of_due hk hi _
  · rw [exec_jwait d hv, killPoint_of_not_due hk]
    exact if_pos hc
  · rw [exec_jstat d hv hsel]
    exact if_pos hc
  · rw [exec_jwait d hv, killPoint_of_not_due hk, if_neg (keep hc), hj]
    exact setG_out t d goneWord
  · rw [exec_jwait d hv, killPoint_of_not_due hk, if_neg (keep hc), hj]
    by_cases ho : j.st = .opened
    · simp only [if_pos ho, if_neg (not_not.mpr ho)]
      exact suspendOut s 2 _ fun u => match u.joinNamed v with
        | some q => if q.st = .opened then u else u.wakeJoin v q.word
        | none => u.wakeJoin v goneWord
    · simp only [if_neg ho, if_pos ho]
      exact setG_out t d j.word
  · rw [exec_jstat d hv (.inl (by omega)), if_neg (keep hc), hj]
    dsimp only
    rw [if_pos hsel]
    exact setG_out s d 0
  · rw [exec_jstat d hv (by omega), if_neg (keep hc), hj]
    dsimp only
    rw [if_neg (by omega)]
    exact setG_out s d goneWord
  · have run (hsel : sel ≤ 3 ∨ sel = 15) := exec_jstat (s := s) d hv hsel
    rw [if_neg (keep hc), hj] at run
    dsimp only at run
    have last (hsel : sel = 15) := run (.inr hsel)
    rw [show (s.rg b).toNat = sel from rfl] at run last
    refine ⟨fun h => ?_, fun h => ?_, fun h => ?_, fun h => ?_, fun h ho => ?_, fun h ho hk => ?_, fun h ho hk => ?_⟩
    · rw [run (.inl (by omega)), h]; exact setG_out s d _
    · rw [run (.inl (by omega)), h]; exact setG_out s d _
    · rw [run (.inl (by omega)), h]; exact setG_out s d _
    · rw [run (.inl (by omega)), h]; exact setG_out s d _
    · rw [last h, h]
      exact (congrArg (GOut s d _) (if_pos ho)).mpr (setG_out s d _)
    · rw [last h, h]
      exact (congrArg (GOut _ d _) ((if_neg ho).trans (if_pos hk))).mpr (setG_out _ d _)
    · have at_key : (s.freeJoin key).joinAt key = { gen := nextGen (s.joinAt key).gen } := Store.get_set_same ..
      refine ⟨s.freeJoin key, ?_, by rw [at_key], by rw [at_key]; rfl⟩
      have hk' : ¬ s.killsPending (joinSlotKey (s.rg a).toNat) = true := by
        rw [show s.killsPending (joinSlotKey (s.rg a).toNat) = false from hk]; decide
      rw [last h, h]
      exact (congrArg (GOut _ d _) ((if_neg ho).trans (if_neg hk'))).mpr (setG_out _ d _)
  · rw [encode_jwait]
    change execJwait d a s = _
    unfold execJwait
    dsimp only
    rw [if_pos (by omega)]
    rfl

end Sys2Proof.Machine
end
